-- ==== Sys2Proof/Word.lean ====
section
/-! DEFINITION. The words the manual reads and writes as bits (00_scope.md R6, R7, R9). -/

namespace Sys2Proof

/-- A byte of a payload, a ring slot, a table or a flit. -/
abbrev Byte := BitVec 8

/-- A control-window register: 32 bits, accessed whole (R9). -/
abbrev Word := BitVec 32

/-- A 64-bit address of host memory (T2) or pooled memory (T3). -/
abbrev Addr := BitVec 64

end Sys2Proof
end

