-- ==== Sys2Proof/Syntax.lean ====
section
/-! DEFINITION. The commands the block takes: one constructor per row of the operation table. Operands are the fields of
the port event each row's rule describes; what a read of host memory, pooled memory or a NOR device returns comes with
the command. -/

namespace Sys2Proof

/-- Accessor id of a control-window access (R304). -/
abbrev Accessor := BitVec 7

/-- Session id (Table 0-5). -/
abbrev Session := BitVec 40

/-- Request tag (Table 0-5). -/
abbrev Tag := BitVec 24

/-- How a read the block issued came back: its bytes, or an error completion. -/
inductive ReadData where
  | ok (bytes : List Byte)
  | error
  deriving DecidableEq, Repr

/-- A tile revision: owner, place and BSEQ (Table 7-3). -/
structure TileName where
  pitch : Fin 64
  model : BitVec 12
  layer : BitVec 16
  trow : BitVec 16
  tcol : BitVec 16
  bseq : BitVec 16
  deriving DecidableEq, Repr

/-- What an uncorrectable T1 error touched (R106, R154, R269, R249): a tile copy, a text, Sieve or ensemble table (its
section type and id, and the stall that met it), a stock table's byte, a ledger entry, the Assize's working set of a model (R225). -/
inductive T1Part where
  | tile (t : TileName)
  | table (stall : Fin 64) (type id : BitVec 8)
  | stock (pitch : Fin 64) (stock : Fin 64) (offset : Word)
  | entry (pitch : Fin 64) (session : Session)
  | workingSet (pitch : Fin 64) (model : BitVec 12)
  deriving DecidableEq, Repr

/-- What a T0 error touched: a word corrected without notice (Table 11-3), or what an uncorrectable one lost (R106, R178,
R268). -/
inductive T0Part where
  | word
  | tile (t : TileName)
  | table (type id : BitVec 8)
  | activation (session : Session) (tag : Tag)
  deriving DecidableEq, Repr

/-- What asks for a warm reset: WRST_N, or a write of WCH_WRESET.KEY (R363). -/
inductive WarmSrc where
  | pin
  | key (acc : Accessor) (value : Word)
  deriving DecidableEq, Repr

/-- Width of a control-window access (R9). -/
inductive AccessSize where
  | byte | half | word
  deriving DecidableEq, Repr

/-- What a control-window write carries, at the width of the access (R9). -/
inductive WriteData where
  | byte (value : BitVec 8)
  | half (value : BitVec 16)
  | word (value : Word)
  deriving DecidableEq, Repr

inductive Instr where
  -- Toll port
  | tollQuery (pitch : Fin 64) (session : Session) (tag : Tag) (kind : BitVec 2) (model : BitVec 12) (cost : BitVec 16)
  | admissionLapse (pitch : Fin 64) (session : Session) (tag : Tag)
  | energyDrainTick
  | creditFactorRecover (entry : Fin 1024)
  | qtabEntryWrite (acc : Accessor) (entry : Fin 256) (value : Word)
  -- host port
  | doorbell (acc : Accessor) (pitch : Fin 64) (tail : Word)
  | descriptorRead (pitch : Fin 64) (data : ReadData)
  | segmentListRead (pitch : Fin 64) (session : Session) (tag : Tag) (data : ReadData)
  | tokenBufferRead (pitch : Fin 64) (session : Session) (tag : Tag) (data : ReadData)
  | payloadReadComplete (pitch : Fin 64) (session : Session) (tag : Tag) (data : ReadData)
  | intakeVerdictDecided (pitch : Fin 64) (session : Session) (tag : Tag)
  | intakeDelivery (pitch : Fin 64) (session : Session) (tag : Tag)
  | irqTimerExpiry (pitch : Fin 64)
  -- streams
  | streamOpenComplete (pitch : Fin 64) (session : Session)
  | arrivalPassComplete (pitch : Fin 64) (session : Session) (tag : Tag)
  | chainStageServe (stall : Fin 64)
  | streamResolve (pitch : Fin 64) (session : Session) (tag : Tag)
  | tokenRelease (pitch : Fin 64) (session : Session) (tag : Tag)
  | constraintAnswer (pitch : Fin 64) (session : Session) (tag : Tag)
  -- pitch control
  | vqHeadWrite (acc : Accessor) (pitch : Fin 64) (head : Word)
  | pitchEnable (acc : Accessor) (pitch : Fin 64)
  | homeCopiesWritten (pitch : Fin 64)
  | pitchDisable (acc : Accessor) (pitch : Fin 64)
  | pitchDrainComplete (pitch : Fin 64)
  | bellRing (acc : Accessor) (pitch : Fin 64)
  | bellComplete (pitch : Fin 64)
  | pitchReset (acc : Accessor) (pitch : Fin 64)
  -- ledger
  | reviveComplete (pitch : Fin 64) (session : Session) (bucket slot : ReadData)
  | poolTimeout (pool : BitVec 8)
  | prefetchRequest (acc : Accessor) (pitch : Fin 64) (value : Word)
  | prefetchStart (pitch : Fin 64)
  | prefetchHoldExpiry (pitch : Fin 64) (session : Session)
  | parkStart (pitch : Fin 64) (session : Session)
  | eviction
  | parkComplete (pitch : Fin 64) (session : Session) (bucket mirrorBucket : ReadData)
  | writeBackComplete (pitch : Fin 64) (session : Session) (bucket mirrorBucket : ReadData)
  -- tiers
  | tileDeadline (stall : Fin 64) (pitch : Fin 64) (session : Session) (tag : Tag) (layer trow tcol : BitVec 16)
  | tileArrival (stall : Fin 64) (model : BitVec 12) (layer trow tcol bseq : BitVec 16) (data : ReadData) (corrected : BitVec 32)
  | slackExhausted (pitch : Fin 64) (session : Session) (tag : Tag)
  | pretailTimeout (pitch : Fin 64) (session : Session) (tag : Tag)
  | t1UncorrError (bank : Fin 64) (part : T1Part)
  | patrolScrub (corrected : BitVec 32)
  | tileRestoreComplete (tile : TileName) (data : ReadData)
  | tableReloadComplete (stall : Fin 64) (type id : BitVec 8) (data : ReadData)
  | stockRereadComplete (pitch : Fin 64) (stock : Fin 64) (line : Word) (data : ReadData)
  -- roles
  | roleReview
  | roleLoadComplete (stall : Fin 64)
  | dozeEntry (stall : Fin 64)
  | napEntry (stall : Fin 64)
  | stallWakeComplete (stall : Fin 64)
  -- Assize
  | assizeWindowEnd (pitch : Fin 64)
  | trainStepComplete (pitch : Fin 64) (model : BitVec 12)
  | benchStepTimeout (pitch : Fin 64)
  | shadowEvalComplete (pitch : Fin 64) (model : BitVec 12)
  | calibStaged (pitch : Fin 64) (model : BitVec 12)
  | assizeKick (acc : Accessor) (pitch : Fin 64)
  | assizeFreeze (acc : Accessor) (pitch : Fin 64)
  | assizeEnable (acc : Accessor) (enable : Bool)
  | assizeExport (acc : Accessor) (pitch : Fin 64)
  | exportComplete (pitch : Fin 64)
  -- security and plain registers
  | keyRotate (acc : Accessor) (pitch : Fin 64)
  | keyverMinRaise (acc : Accessor) (pitch : Fin 64) (value : BitVec 8)
  | zeroise (acc : Accessor) (key : Word)
  | registerWrite (acc : Accessor) (addr : BitVec 24) (value : WriteData)
  | optimeRead (acc : Accessor)
  -- fabric
  | flitReceive (lane : Fin 16) (uncorr corrected : Bool) (flit : List Byte)
  | retryFlit (lane : Fin 16) (ackseq : BitVec 16)
  | hello (lane : Fin 16) (frame : List Byte)
  | heartbeat (lane : Fin 16) (frame : List Byte)
  | digest (lane : Fin 16) (frame : List Byte)
  | shardMap (lane : Fin 16) (frame : List Byte)
  | dirLoc (lane : Fin 16) (frame : List Byte)
  | ownReq (lane : Fin 16) (frame : List Byte)
  | ownGrant (lane : Fin 16) (frame : List Byte)
  | ownNack (lane : Fin 16) (frame : List Byte)
  | ownProbe (lane : Fin 16) (frame : List Byte)
  | ownState (lane : Fin 16) (frame : List Byte)
  | ownAnnounce (lane : Fin 16) (frame : List Byte)
  | peerLostFrame (lane : Fin 16) (frame : List Byte)
  | pushTap (lane : Fin 16) (frame : List Byte)
  | pushHead (lane : Fin 16) (frame : List Byte)
  | pushAck (lane : Fin 16) (frame : List Byte)
  | memCpl (lane : Fin 16) (frame : List Byte)
  | memWrAck (lane : Fin 16) (frame : List Byte)
  | heartbeatSend
  | heartbeatMiss (lane : Fin 16)
  | fecLockLoss (lane : Fin 16)
  | laneTestComplete (lane : Fin 16) (pass : Bool)
  | ownershipMove (acc : Accessor) (value : Word)
  | ownTimeout (pitch : Fin 64) (session : Session)
  | pushBufferExpiry (pitch : Fin 64) (session : Session)
  -- charter and amendments
  | startup (kat : BitVec 8) (xspi dbkDev : Bool) (loc0 loc1 : List Byte)
  | imageReadComplete (data : ReadData)
  | tollReady
  | lockSet (acc : Accessor) (value : Word)
  | lockTimeout
  | amendSubmit (acc : Accessor) (value : Word)
  | amendCancel (acc : Accessor)
  | amendReadComplete (data : ReadData)
  | amendStaged
  | amendWaitEnd
  | amendWaitTimeout
  -- Watchman, power and resets
  | counterSlotSave
  | oscTrim
  | xtalFail
  | wakeTimer
  | wakeToll
  | wakeFabric (port : Fin 4)
  | wakeTemp (deg : BitVec 8)
  | wakeDroop
  | thermalHot (sensor : BitVec 5) (deg : BitVec 8)
  | thermalCool (sensor : BitVec 5) (deg : BitVec 8)
  | thermalTrip (sensor : BitVec 5) (deg : BitVec 8)
  | supplyDroop (rail : Fin 6)
  | quadrantPllLoss (quad : Fin 4)
  | celPllLoss
  | hpClkLoss
  | hibernateEnter (acc : Accessor) (key : Word)
  | hibernateWake
  | powerOn
  | warmReset (src : WarmSrc)
  | powerFail
  | pfailRise
  -- faults
  | stallReset (acc : Accessor) (value : Word)
  | stallFault (stall : Fin 64) (unit cause : BitVec 4) (tagPitch : Fin 64)
  | repinSlicesLoaded (pitch : Fin 64) (session : Session)
  | stallTestComplete (stall : Fin 64) (step : BitVec 4)
  | t0CorrectedFault (stall : Fin 64) (part : T0Part)
  | quadrantFault (quad : Fin 4) (rail : Bool)
  | quadrantRecovered (quad : Fin 4)
  | qwaitTimeout (quad : Fin 4)
  | bankTestComplete (bank : Fin 64) (pass : Bool)
  | sharedFault (unit : BitVec 8) (syndrome : BitVec 24)
  | hpFlitErr (channel : Fin 8)
  -- Daybook
  | daybookProgramComplete
  | sectorEraseComplete
  | viewNext (acc : Accessor) (view : Fin 66)
  | viewFetchComplete (view : Fin 66)
  | viewRewind (acc : Accessor) (view : Fin 66)
  | clearOrderSubmit (acc : Accessor) (value : Word)
  | clearOrderChecked (data : ReadData)
  | clearCommit
  -- rows listed last
  | finalPayloadRead (pitch : Fin 64) (session : Session) (tag : Tag)
  | crystalStable
  | equalisationConverged (lane : Fin 16)
  | granuleZeroed
  | zeroisationComplete
  deriving DecidableEq, Repr

end Sys2Proof
end

