-- ==== Sys2Proof/Decode.lean ====
section
/-! DEFINITION. The command a word of the operation table spells. The table of this block gives no row any bits: its commands
are events at ports and pins, and none is read from a word (notes/assumptions/16.md). -/

namespace Sys2Proof

/-- No row has bits, so no word spells a command. -/
def decodeTableWord (_nbits _w : Nat) : Option Instr := none

end Sys2Proof
end

