-- ==== Sys2Proof/Config.lean ====
section
/-! DEFINITION. What the manual leaves open. Every constant here is uninterpreted: it has no body, so no proof can see a
value, and a claim holds for every one. Nothing in the model turns on what these functions answer beyond what the
rules say of the value. -/

namespace Sys2Proof.Config

/-- FREE VALUE: the n-th value the manual leaves open at a step of the machine (notes/assumptions/1.md). -/
opaque freeValue : Nat → Nat

/-- Working space of one request in a stall's T0, in bytes: R205 and R259 count it and no rule states it. -/
opaque workBytes : Nat

/-- Whether the automaton bytes of a Sieve table pass the structural check (R111): Tallyman's compiled form. -/
opaque automatonOk : List Byte → Bool

/-- The state number the automaton of a SIEVE_ID reports for a history of its table's symbols (Table 5-10): its encoding is no
interface (R111). -/
opaque automatonState : Nat → List Nat → Nat

/-- The SIEVE_ID of a pitch's intake table of kind 0 or 1; no structure of the manual carries it (R108). -/
opaque intakeSieve : Nat → Nat → Nat

/-- The place of head score `o` of an ensemble in the result block; fixed by Tallyman (R37, R146). -/
opaque headPlace : Nat → Nat → Nat

/-- The activation row an embedding gives a token: element codes and group words (R180, R193). Here and below the first operand
is the porters' firmware (R17, R183), the second the layer list. -/
opaque embed : List Byte → List Byte → Nat → List Nat × List Nat

/-- What a porter's tail makes of one output element (R173, R183): the engine's code as it stands; a value m × 2^e, which for an
integer OFMT is the q, with M_OUT and SH_OUT, that requant() takes; or a NaN. -/
inductive PorterEl where
  | keep
  | value (m e : Int) (mOut shOut : Nat)
  | nan
  deriving DecidableEq, Repr

/-- What a layer's porter routine makes of its window's rows, codes and group words of each: output elements by row. -/
opaque porterTail : List Byte → List Byte → Nat → List (List Nat × List Nat) → List (List PorterEl)

/-- The same tail on the reference pass, in F32 with no requantisation (R218). -/
opaque refTail : List Byte → List Byte → Nat → List (List (BitVec 32)) → List (List (BitVec 32))

/-- Layer that a layer list records as tap `i` (R192). -/
opaque tapLayer : List Byte → Nat → Nat

/-- The state slices a stream model's open layers compute from the taps that are not zero, and a length (R194). -/
opaque streamOpen : List Byte → List Byte → List Nat → Nat → List Byte

/-- The porter's tail of a stream layer on a token: state slices, and the engine's codes and group words, to the new slices and
the output elements (R193, R194). -/
opaque streamTail : List Byte → List Byte → Nat → List Byte → List Nat → List Nat → List Byte × List PorterEl

/-- The same tail on the reference pass (R218). -/
opaque refStreamTail : List Byte → List Byte → Nat → List Byte → List (BitVec 32) → List Byte × List (BitVec 32)

/-- The stream model's head: the score of the last layer's row, codes and group words (R193, R198). -/
opaque streamHead : List Byte → List Byte → List Nat → List Nat → BitVec 32

/-- The chain stage whose slice a layer belongs to (R193). -/
opaque layerStage : List Byte → Nat → Nat

/-- Order in which the cellar's banks are taken for the ledger region (R21). -/
opaque bankOrder : Nat → Nat

/-- The place in the turn of banks that a tile revision's first granule takes (R260). -/
opaque tileStart : List Nat → Nat

/-- Whether a session's entry lies in a bank of the ledger region. -/
opaque entryInBank : Nat → Nat → Nat → Bool

/-- Whether the Assize's working set of a pitch's model lies in a bank of the tile region (R215, R225): no rule places it. -/
opaque setInBank : Nat → Nat → Nat → Bool

/-- A pooled maximum over values one of which is a NaN: R190 states no result. -/
opaque nanMax : List (BitVec 32) → BitVec 32

/-- The port mask the fabric manager has written for a route index in native mode (R284): its frames are no part of the
manual. -/
opaque nativeRoute : Nat → Nat

/-- Base address, pool and LOG2B of the T3 park area of a pitch on another block (R246): no frame or register gives it. -/
opaque holderArea : Nat → Nat → Nat × Nat × Nat

/-- The lane among `n` usable ones for a key: R284 names the hash and not its use. -/
opaque lanePick : Nat → Nat → Nat

/-- The device-unique key DUK of the fuses, and the fleet wrapping key FWK (R312, R315): 32 bytes each. -/
opaque duk : List Byte
opaque fwk : List Byte

end Sys2Proof.Config
end

