-- ==== Sys2Proof/Machine/Bytes.lean ====
section
/-! DEFINITION. Byte strings, little-endian fields (R7), bit fields, and the check codes the manual
gives by polynomial: CRC-32C (R159) and CRC-16 (R382). -/

namespace Sys2Proof.Machine

/-- The number a byte string stores, least significant byte first (R7). -/
def leNat : List Byte → Nat
  | [] => 0
  | b :: bs => b.toNat + 256 * leNat bs

/-- `n` bytes of `v`, least significant first (R7). -/
def leBytes : Nat → Nat → List Byte
  | 0, _ => []
  | n + 1, v => BitVec.ofNat 8 v :: leBytes n (v / 256)

/-- The field of `n` bytes at byte offset `off` of a structure. -/
def getLe (b : List Byte) (off n : Nat) : Nat := leNat ((b.drop off).take n)

/-- Bits `[lo+w-1:lo]` of a number. -/
def bits (v lo w : Nat) : Nat := (v >>> lo) % 2 ^ w

/-- Bit `i` of a number. -/
def bit (v i : Nat) : Bool := v.testBit i

/-- `Bool` as a field value. -/
def b2n (b : Bool) : Nat := if b then 1 else 0

/-- Bytes `[off, off+len)` of a structure held as one bit vector, byte 0 least significant. -/
def bvLe {w : Nat} (d : BitVec w) (off n : Nat) : Nat := bits d.toNat (8 * off) (8 * n)

/-- The bytes of a bit vector of `n` bytes. -/
def bvBytes {w : Nat} (d : BitVec w) (n : Nat) : List Byte := leBytes n d.toNat

/-- Every byte of `[off, off+len)` is 0: the test of a reserved run (R8). -/
def zeroRun (b : List Byte) (off len : Nat) : Bool := getLe b off len == 0

/-- `xs` split into pieces of `n` elements. -/
def chunks {α : Type} (n : Nat) : Nat → List α → List (List α)
  | 0, _ => []
  | k + 1, xs => xs.take n :: chunks n k (xs.drop n)

/-- Eight steps of the reflected CRC-32C shift register (R159). -/
def crc32cStep : Nat → Nat → Nat
  | 0, c => c
  | k + 1, c => crc32cStep k (if c.testBit 0 then (c >>> 1) ^^^ 0x82F63B78 else c >>> 1)

/-- CRC-32C: Castagnoli polynomial, reflected, initial value and final XOR all ones (R159). -/
def crc32c (b : List Byte) : Nat :=
  (b.foldl (fun c x => crc32cStep 8 (c ^^^ x.toNat)) 0xFFFFFFFF) ^^^ 0xFFFFFFFF

/-- Eight steps of the CRC-16 register of polynomial 0x1021 (R382). -/
def crc16Step : Nat → Nat → Nat
  | 0, c => c
  | k + 1, c => crc16Step k (if c.testBit 15 then ((c <<< 1) % 65536) ^^^ 0x1021 else c <<< 1)

/-- CRC-16 with initial value 0xFFFF, no reflection and no final XOR (R382). -/
def crc16 (b : List Byte) : Nat :=
  b.foldl (fun c x => crc16Step 8 (c ^^^ (x.toNat <<< 8))) 0xFFFF

/-- The multiplier of the bucket hash (R139, R237, R286). -/
def hashMul : Nat := 0x9E3779B97F4A7C15

/-- `((key × multiplier) mod 2^64) >> (64 − n)`: the hash of R139, R237 and R286. -/
def hashTop (key n : Nat) : Nat := ((key * hashMul) % 2 ^ 64) >>> (64 - n)

/-- The 64-bit FNV-1a hash of a FIELD key (R138). -/
def fieldKey (b : List Byte) : Nat :=
  b.foldl (fun h x => ((h ^^^ x.toNat) * 0x100000001B3) % 2 ^ 64) 0xCBF29CE484222325

/-- Element `i` of a list, or a default. -/
def nth {α : Type} (xs : List α) (i : Nat) (d : α) : α := xs.getD i d

/-- Replace element `i` of a list. -/
def setNth {α : Type} (xs : List α) (i : Nat) (f : α → α) : List α := xs.modify i f

/-- The ceiling of a quotient. -/
def ceilDiv (a b : Nat) : Nat := (a + b - 1) / b

/-- The least index at which a test holds. -/
def firstIdx {α : Type} (p : α → Bool) (xs : List α) : Option Nat := xs.findIdx? p

/-- Put `x` before the first element that it need not follow. -/
def insertBy {α : Type} (le : α → α → Bool) (x : α) : List α → List α
  | [] => [x]
  | y :: ys => if le x y then x :: y :: ys else y :: insertBy le x ys

/-- A list put in order, equals in the order they stood in. -/
def sortBy {α : Type} (le : α → α → Bool) (xs : List α) : List α := xs.foldr (insertBy le) []

/-- A power of two. -/
def isPow2 (n : Nat) : Bool := n != 0 && 2 ^ n.log2 == n

end Sys2Proof.Machine
end

