-- ==== Sys2Proof/Machine/Crypto.lean ====
section
/-! DEFINITION. The standard functions the manual names (R239, R312, R314, R327, R391): SHA-384 (FIPS 180-4), HMAC-SHA-384,
the counter-mode KDF (NIST SP 800-108), AES-256 (FIPS 197), its Galois/Counter Mode (NIST SP 800-38D) and key wrap (NIST SP
800-38F), and ECDSA P-384 verification (FIPS 186-5). PRESUMED: the standards' own text (notes/assumptions/6.md). -/

namespace Sys2Proof.Machine

/-! ### SHA-384 -/

/-- The number a byte string stores, most significant byte first. -/
def beNat (b : List Byte) : Nat := b.foldl (fun a x => 256 * a + x.toNat) 0

/-- `n` bytes of `v`, most significant first. -/
def beBytes (n v : Nat) : List Byte := (leBytes n v).reverse

/-- Two byte strings added without carry. -/
def xorBytes (a b : List Byte) : List Byte := a.zipWith (· ^^^ ·) b

/-- The constants of the eighty rounds. -/
def shaRounds : List (BitVec 64) :=
  [0x428A2F98D728AE22, 0x7137449123EF65CD, 0xB5C0FBCFEC4D3B2F, 0xE9B5DBA58189DBBC, 0x3956C25BF348B538]
  ++ [0x59F111F1B605D019, 0x923F82A4AF194F9B, 0xAB1C5ED5DA6D8118, 0xD807AA98A3030242, 0x12835B0145706FBE]
  ++ [0x243185BE4EE4B28C, 0x550C7DC3D5FFB4E2, 0x72BE5D74F27B896F, 0x80DEB1FE3B1696B1, 0x9BDC06A725C71235]
  ++ [0xC19BF174CF692694, 0xE49B69C19EF14AD2, 0xEFBE4786384F25E3, 0x0FC19DC68B8CD5B5, 0x240CA1CC77AC9C65]
  ++ [0x2DE92C6F592B0275, 0x4A7484AA6EA6E483, 0x5CB0A9DCBD41FBD4, 0x76F988DA831153B5, 0x983E5152EE66DFAB]
  ++ [0xA831C66D2DB43210, 0xB00327C898FB213F, 0xBF597FC7BEEF0EE4, 0xC6E00BF33DA88FC2, 0xD5A79147930AA725]
  ++ [0x06CA6351E003826F, 0x142929670A0E6E70, 0x27B70A8546D22FFC, 0x2E1B21385C26C926, 0x4D2C6DFC5AC42AED]
  ++ [0x53380D139D95B3DF, 0x650A73548BAF63DE, 0x766A0ABB3C77B2A8, 0x81C2C92E47EDAEE6, 0x92722C851482353B]
  ++ [0xA2BFE8A14CF10364, 0xA81A664BBC423001, 0xC24B8B70D0F89791, 0xC76C51A30654BE30, 0xD192E819D6EF5218]
  ++ [0xD69906245565A910, 0xF40E35855771202A, 0x106AA07032BBD1B8, 0x19A4C116B8D2D0C8, 0x1E376C085141AB53]
  ++ [0x2748774CDF8EEB99, 0x34B0BCB5E19B48A8, 0x391C0CB3C5C95A63, 0x4ED8AA4AE3418ACB, 0x5B9CCA4F7763E373]
  ++ [0x682E6FF3D6B2B8A3, 0x748F82EE5DEFB2FC, 0x78A5636F43172F60, 0x84C87814A1F0AB72, 0x8CC702081A6439EC]
  ++ [0x90BEFFFA23631E28, 0xA4506CEBDE82BDE9, 0xBEF9A3F7B2C67915, 0xC67178F2E372532B, 0xCA273ECEEA26619C]
  ++ [0xD186B8C721C0C207, 0xEADA7DD6CDE0EB1E, 0xF57D4F7FEE6ED178, 0x06F067AA72176FBA, 0x0A637DC5A2C898A6]
  ++ [0x113F9804BEF90DAE, 0x1B710B35131C471B, 0x28DB77F523047D84, 0x32CAAB7B40C72493, 0x3C9EBE0A15C9BEBC]
  ++ [0x431D67C49C100D4C, 0x4CC5D4BECB3E42B6, 0x597F299CFC657E2A, 0x5FCB6FAB3AD6FAEC, 0x6C44198C4A475817]

/-- The initial hash value. -/
def shaInit : List (BitVec 64) :=
  [0xCBBB9D5DC1059ED8, 0x629A292A367CD507, 0x9159015A3070DD17, 0x152FECD8F70E5939]
  ++ [0x67332667FFC00B31, 0x8EB44A8768581511, 0xDB0C2E0D64F98FA7, 0x47B5481DBEFA4FA4]

/-- The eight working variables of a block. -/
structure ShaVars where
  a : BitVec 64
  b : BitVec 64
  c : BitVec 64
  d : BitVec 64
  e : BitVec 64
  f : BitVec 64
  g : BitVec 64
  h : BitVec 64
  deriving DecidableEq, Repr

def ShaVars.words (v : ShaVars) : List (BitVec 64) := [v.a, v.b, v.c, v.d, v.e, v.f, v.g, v.h]

def ShaVars.ofWords (w : List (BitVec 64)) : ShaVars :=
  ⟨w.getD 0 0, w.getD 1 0, w.getD 2 0, w.getD 3 0, w.getD 4 0, w.getD 5 0, w.getD 6 0, w.getD 7 0⟩

/-- One round: its constant and its word of the schedule. -/
def ShaVars.round (v : ShaVars) (k w : BitVec 64) : ShaVars :=
  let t1 := v.h + (v.e.rotateRight 14 ^^^ v.e.rotateRight 18 ^^^ v.e.rotateRight 41) + ((v.e &&& v.f) ^^^ (~~~v.e &&& v.g)) + k + w
  let t2 := (v.a.rotateRight 28 ^^^ v.a.rotateRight 34 ^^^ v.a.rotateRight 39)
    + ((v.a &&& v.b) ^^^ (v.a &&& v.c) ^^^ (v.b &&& v.c))
  ⟨t1 + t2, v.a, v.b, v.c, v.d + t1, v.e, v.f, v.g⟩

/-- The next sixteen words of the schedule, from the sixteen now at hand: the first has been used. -/
def shaNext (w : List (BitVec 64)) : List (BitVec 64) :=
  let x := w.getD 14 0
  let y := w.getD 1 0
  w.drop 1 ++ [(x.rotateRight 19 ^^^ x.rotateRight 61 ^^^ (x >>> 6)) + w.getD 9 0
    + (y.rotateRight 1 ^^^ y.rotateRight 8 ^^^ (y >>> 7)) + w.getD 0 0]

/-- A block of 128 bytes taken into the hash value. -/
def shaBlock (h : List (BitVec 64)) (b : List Byte) : List (BitVec 64) :=
  let w := (chunks 8 16 b).map (fun x => BitVec.ofNat 64 (beNat x))
  let r := shaRounds.foldl (fun (s : ShaVars × List (BitVec 64)) k => (s.1.round k (s.2.getD 0 0), shaNext s.2)) (.ofWords h, w)
  h.zipWith (· + ·) r.1.words

/-- A message with its padding: a 1 bit, zeros, and its length in bits in 128 bits. -/
def shaPad (b : List Byte) : List Byte :=
  b ++ [0x80#8] ++ List.replicate ((239 - b.length % 128) % 128) 0#8 ++ beBytes 16 (8 * b.length)

/-- SHA-384 of a byte string. -/
def sha384 (b : List Byte) : List Byte :=
  let m := shaPad b
  let h := (chunks 128 (m.length / 128) m).foldl shaBlock shaInit
  (h.take 6).flatMap (fun x => beBytes 8 x.toNat)

/-! ### HMAC and the key derivation -/

/-- HMAC-SHA-384. -/
def hmac (key msg : List Byte) : List Byte :=
  let k := if 128 < key.length then sha384 key else key
  let k := k ++ List.replicate (128 - k.length) 0#8
  sha384 (k.map (· ^^^ 0x5C#8) ++ sha384 (k.map (· ^^^ 0x36#8) ++ msg))

/-- The bytes of a label. -/
def labelBytes (s : String) : List Byte := s.toList.map (fun c => BitVec.ofNat 8 c.toNat)

/-- The first 256 bits of the counter-mode KDF with HMAC-SHA-384 (R312): its first block, of counter 1. -/
def kdf (key : List Byte) (label : String) (context : List Byte) : List Byte :=
  (hmac key (beBytes 4 1 ++ labelBytes label ++ [0#8] ++ context ++ beBytes 4 256)).take 32

/-! ### AES-256 -/

/-- A byte of the field GF(2^8) times x. -/
def xtime (a : Byte) : Byte := if a.getLsbD 7 then (a <<< 1) ^^^ 0x1B#8 else a <<< 1

/-- Product of two bytes in GF(2^8). -/
def gfMul (a b : Byte) : Byte :=
  ((List.range 8).foldl (fun (s : Byte × Byte) i => (if b.getLsbD i then s.1 ^^^ s.2 else s.1, xtime s.2)) (0#8, a)).1

/-- Inverse of a byte in GF(2^8), 0 for 0: its power 254, the square of its power 127. -/
def gfInv (a : Byte) : Byte :=
  let q := (List.range 6).foldl (fun p _ => gfMul (gfMul p p) a) a
  gfMul q q

/-- The substitution box and its inverse. -/
def subByte (a : Byte) : Byte :=
  let v := gfInv a
  v ^^^ v.rotateLeft 1 ^^^ v.rotateLeft 2 ^^^ v.rotateLeft 3 ^^^ v.rotateLeft 4 ^^^ 0x63#8

def invSubByte (a : Byte) : Byte := gfInv (a.rotateLeft 1 ^^^ a.rotateLeft 3 ^^^ a.rotateLeft 6 ^^^ 0x05#8)

/-- The 60 words of the key schedule of a 32-byte key. -/
def aesWords (key : List Byte) : List (List Byte) :=
  (List.range 52).foldl (fun w i =>
    let t := w.getD (i + 7) []
    let u := if i % 8 == 0 then xorBytes ((t.drop 1 ++ t.take 1).map subByte)
        [(List.range (i / 8)).foldl (fun a _ => xtime a) 0x01#8, 0#8, 0#8, 0#8]
      else if i % 8 == 4 then t.map subByte else t
    w ++ [xorBytes (w.getD i []) u]) (chunks 4 8 key)

/-- The round key of round `r`. -/
def roundKey (w : List (List Byte)) (r : Nat) : List Byte := ((w.drop (4 * r)).take 4).flatten

/-- Byte `r + 4c` of a block is row r of column c: rows turned left by `k` times their number. -/
def shiftRows (k : Nat) (b : List Byte) : List Byte :=
  (List.range 16).map (fun i => b.getD (i % 4 + 4 * ((i / 4 + k * (i % 4)) % 4)) 0#8)

/-- Columns multiplied by the polynomial of the given coefficients. -/
def mixColumns (m : List Byte) (b : List Byte) : List Byte :=
  (List.range 16).map (fun i =>
    (List.range 4).foldl (fun a j => a ^^^ gfMul (m.getD ((j + 4 - i % 4) % 4) 0#8) (b.getD (i / 4 * 4 + j) 0#8)) 0#8)

/-- AES-256 of a block. -/
def aes (key b : List Byte) : List Byte :=
  let w := aesWords key
  let b := (List.range 13).foldl (fun b r =>
    xorBytes (mixColumns [2#8, 3#8, 1#8, 1#8] (shiftRows 1 (b.map subByte))) (roundKey w (r + 1))) (xorBytes b (roundKey w 0))
  xorBytes (shiftRows 1 (b.map subByte)) (roundKey w 14)

/-- The inverse of AES-256. -/
def aesInv (key b : List Byte) : List Byte :=
  let w := aesWords key
  let b := (List.range 13).foldl (fun b r =>
    mixColumns [14#8, 11#8, 13#8, 9#8] (xorBytes ((shiftRows 3 b).map invSubByte) (roundKey w (13 - r)))) (xorBytes b (roundKey w 14))
  xorBytes ((shiftRows 3 b).map invSubByte) (roundKey w 0)

/-! ### AES-256-GCM -/

/-- Product of two blocks in GF(2^128), the first bit the most significant. -/
def ghashMul (x y : BitVec 128) : BitVec 128 :=
  ((List.range 128).foldl (fun (s : BitVec 128 × BitVec 128) i =>
    (if x.getMsbD i then s.1 ^^^ s.2 else s.1,
     if s.2.getLsbD 0 then (s.2 >>> 1) ^^^ 0xE1000000000000000000000000000000#128 else s.2 >>> 1)) (0#128, y)).1

/-- A byte string in blocks of 16 bytes, the last filled with zeros. -/
def blocks16 (b : List Byte) : List (List Byte) :=
  (chunks 16 (ceilDiv b.length 16) b).map (fun x => x ++ List.replicate (16 - x.length) 0#8)

/-- The tag of an IV of 96 bits, associated data and ciphertext. -/
def gcmTag (key iv aad ct : List Byte) : List Byte :=
  let h := BitVec.ofNat 128 (beNat (aes key (List.replicate 16 0#8)))
  let y := (blocks16 aad ++ blocks16 ct ++ [beBytes 8 (8 * aad.length) ++ beBytes 8 (8 * ct.length)]).foldl
    (fun y b => ghashMul (y ^^^ BitVec.ofNat 128 (beNat b)) h) 0#128
  xorBytes (beBytes 16 y.toNat) (aes key (iv ++ beBytes 4 1))

/-- Counter mode from counter 2 on: the same function seals and opens. -/
def gcmStream (key iv b : List Byte) : List Byte :=
  ((blocks16 b).zipIdx.flatMap (fun x => xorBytes x.1 (aes key (iv ++ beBytes 4 (x.2 + 2))))).take b.length

/-- Ciphertext and tag of a plain text. -/
def gcmSeal (key iv aad pt : List Byte) : List Byte × List Byte :=
  let ct := gcmStream key iv pt
  (ct, gcmTag key iv aad ct)

/-- The plain text of a ciphertext; none when the tag does not verify. -/
def gcmOpen (key iv aad ct tag : List Byte) : Option (List Byte) :=
  if gcmTag key iv aad ct == tag then some (gcmStream key iv ct) else none

/-! ### AES key wrap -/

/-- The key that a wrapped value of n + 1 blocks of 8 bytes holds; none when it does not unwrap. -/
def keyUnwrap (key c : List Byte) : Option (List Byte) :=
  let n := c.length / 8 - 1
  let r := (List.range (6 * n)).foldl (fun (s : List Byte × List (List Byte)) k =>
    let t := 6 * n - k
    let i := (t - 1) % n
    let b := aesInv key (xorBytes s.1 (beBytes 8 t) ++ s.2.getD i [])
    (b.take 8, s.2.set i (b.drop 8))) (c.take 8, chunks 8 n (c.drop 8))
  if r.1 == List.replicate 8 0xA6#8 then some r.2.flatten else none

/-! ### ECDSA P-384 -/

def p384P : Nat := 0xFFFFFFFFFFFFFFFFFFFFFFFFFFFFFFFFFFFFFFFFFFFFFFFFFFFFFFFFFFFFFFFEFFFFFFFF0000000000000000FFFFFFFF
def p384N : Nat := 0xFFFFFFFFFFFFFFFFFFFFFFFFFFFFFFFFFFFFFFFFFFFFFFFFC7634D81F4372DDF581A0DB248B0A77AECEC196ACCC52973
def p384B : Nat := 0xB3312FA7E23EE7E4988E056BE3F82D19181D9C6EFE8141120314088F5013875AC656398D8A2ED19D2A85C8EDD3EC2AEF
def p384Gx : Nat := 0xAA87CA22BE8B05378EB1C71EF320AD746E1D3B628BA79B9859F741E082542A385502F25DBF55296C3A545E3872760AB7
def p384Gy : Nat := 0x3617DE4A96262C6F5D9E98BF9292DC29F8F41DBD289A147CE9DA3113B5F0B8C00A60B1CE1D7E819D7A431D7C90EA0E5F

/-- A power modulo m, for an exponent of 384 bits. -/
def powMod (m b e : Nat) : Nat :=
  (List.range 384).foldl (fun r i => let r2 := r * r % m; if e.testBit (383 - i) then r2 * b % m else r2) 1

/-- A point of the curve as (X / Z^2, Y / Z^3); Z = 0 for the point at infinity. -/
structure P384 where
  x : Nat
  y : Nat
  z : Nat
  deriving DecidableEq, Repr

def subMod (a b : Nat) : Nat := (a + p384P - b % p384P) % p384P

/-- A point doubled. -/
def P384.double (q : P384) : P384 :=
  let d := q.z * q.z % p384P
  let g := q.y * q.y % p384P
  let b := q.x * g % p384P
  let a := 3 * (subMod q.x d * (q.x + d)) % p384P
  let x := subMod (a * a % p384P) (8 * b)
  ⟨x, subMod (a * subMod (4 * b % p384P) x % p384P) (8 * (g * g % p384P)), 2 * q.y * q.z % p384P⟩

/-- The sum of two points. -/
def P384.add (q r : P384) : P384 :=
  if q.z == 0 then r else if r.z == 0 then q else
  let zq := q.z * q.z % p384P
  let zr := r.z * r.z % p384P
  let u1 := q.x * zr % p384P
  let u2 := r.x * zq % p384P
  let s1 := q.y * (r.z * zr % p384P) % p384P
  let s2 := r.y * (q.z * zq % p384P) % p384P
  if u1 == u2 then (if s1 == s2 then q.double else ⟨1, 1, 0⟩) else
  let h := subMod u2 u1
  let t := subMod s2 s1
  let h2 := h * h % p384P
  let h3 := h * h2 % p384P
  let v := u1 * h2 % p384P
  let x := subMod (subMod (t * t % p384P) h3) (2 * v)
  ⟨x, subMod (t * subMod v x % p384P) (s1 * h3 % p384P), q.z * r.z % p384P * h % p384P⟩

/-- u1 times the base point and u2 times a point, summed. -/
def P384.sum2 (q : P384) (u1 u2 : Nat) : P384 :=
  let g : P384 := ⟨p384Gx, p384Gy, 1⟩
  let gq := g.add q
  (List.range 384).foldl (fun (a : P384) i =>
    let d := a.double
    match u1.testBit (383 - i), u2.testBit (383 - i) with
    | true, true => d.add gq
    | true, false => d.add g
    | false, true => d.add q
    | false, false => d) ⟨1, 1, 0⟩

/-- A signature r, s over a digest verifies under a public key X, Y; each number of 48 bytes, least significant first (R7,
R327; notes/assumptions/7.md). -/
def ecdsaOk (key sig digest : List Byte) : Bool :=
  let x := leNat (key.take 48)
  let y := leNat (key.drop 48)
  let r := leNat (sig.take 48)
  let s := leNat (sig.drop 48)
  let e := beNat digest
  let w := powMod p384N s (p384N - 2)
  let v := P384.sum2 ⟨x, y, 1⟩ (e * w % p384N) (r * w % p384N)
  let zi := powMod p384P v.z (p384P - 2)
  x < p384P && y < p384P && (y * y + 3 * x) % p384P == (x * x * x + p384B) % p384P
    && 0 < r && r < p384N && 0 < s && s < p384N && v.z != 0 && v.x * (zi * zi) % p384P % p384N == r

end Sys2Proof.Machine
end

