-- ==== Sys2Proof/Machine/Fields.lean ====
section
/-! DEFINITION. Every register field of the control window, as the register tables give it (R398; Tables 17-10,
13-7, 10-10, 11-6, 16-8, 3-5, 15-12, 16-10, 14-10, 12-11, 9-8, 2-15, 8-7, 16-9, 4-8, 5-11, 6-11, 7-6, 11-7):
address, bits, access, reset value, retention class, the values it may take (R407) and its charter default. -/

namespace Sys2Proof.Machine
/-- Access of a field (R398, Table 0-6): read only, read and write, read and write until the charter lock, write only,
cleared by writing one. -/
inductive Acc where
  | ro | rw | rwl | wo | w1c
  deriving DecidableEq, Repr

/-- Retention class of a field (Table 0-7). -/
inductive Kept where
  | p | w | t | s | n
  deriving DecidableEq, Repr

/-- One field of one register, or of a run of registers: address of copy `i` is
`base + stride * (i / inner) + istride * (i % inner)`. -/
structure FldDesc where
  base : Nat
  lo : Nat
  width : Nat
  acc : Acc
  kept : Kept
  rst : Nat := 0
  stride : Nat := 0
  count : Nat := 1
  inner : Nat := 1
  istride : Nat := 0
  /-- Reset column reads "from charter". -/
  charter : Bool := false
  /-- Charter default, where the table states one. -/
  dflt : Option Nat := none
  vmin : Nat := 0
  vmax : Nat := 2 ^ 32 - 1
  /-- Zero is allowed beside `vmin` to `vmax`. -/
  zeroOk : Bool := false
  deriving DecidableEq, Repr

/-- A field of bits `[hi:lo]` at an address. -/
def fieldAt (base hi lo : Nat) (acc : Acc) (kept : Kept) : FldDesc :=
  { base, lo, width := hi + 1 - lo, acc, kept }

def FldDesc.resets (d : FldDesc) (v : Nat) : FldDesc := { d with rst := v }
def FldDesc.times (d : FldDesc) (count stride : Nat) : FldDesc := { d with count, stride }
def FldDesc.words (d : FldDesc) (inner istride : Nat) : FldDesc := { d with inner, istride, count := d.count * inner }
def FldDesc.fromCharter (d : FldDesc) : FldDesc := { d with charter := true }
def FldDesc.dflts (d : FldDesc) (v : Nat) : FldDesc := { d with charter := true, dflt := some v }
def FldDesc.range (d : FldDesc) (vmin vmax : Nat) : FldDesc := { d with vmin, vmax }
def FldDesc.orZero (d : FldDesc) : FldDesc := { d with zeroOk := true }

/-- The register fields, in address order. -/
inductive Fld where
  | glbIdPart | glbIdRev | glbIdCellar | glbHpClkMhz | glbHpClkTailCyc | glbCapStalls | glbCapBanks | glbCapLanes 
  | glbCapPitches | glbStatusRunning | glbStatusTollReady | glbStatusDegraded | glbStatusSharedFault 
  | glbStatusSecFault | glbStatusHot | glbStatusDbkFull | glbStatusAmending | glbPitEnLoMap | glbPitEnHiMap 
  | glbSecStatusKatOk | glbSecStatusKatFail | glbSecStatusZeroised | glbDenyCount | glbDenyLastAccessor 
  | glbDenyLastWrite | glbDenyLastAddr | glbZeroiseKey | glbGuildLoMap | glbGuildHiMap | glbPitResetPitch 
  | glbPitResetGo | glbFuseKeyslotActive | glbFuseKeyslotRevoked | glbFuseKeyslotProgrammed | glbFuseKeyslotDukOk 
  | glbFuseKeyslotFwkOk | glbFuseSvnCount | glbStlAllocPitch | glbStlAllocValid | glbKeyCfgSrc | glbKeyCfgKeyver 
  | glbKeyCfgKeyverMin | glbKeyRotRotate | glbKeyStatReady | glbKeyStatRotErr | glbKeyStatMinErr 
  | glbGuildPoolsMask | glbGuildSlotPitch | glbGuildSlotValid | ldgStatusUncorr | ldgStatusPoolFail 
  | ldgResidentCount | ldgCapacityEntries | ldgCfgPoolTmo | ldgParksCount | ldgRevivesCount | ldgWbCount 
  | ldgLostCount | ldgAuthfailCount | ldgPitCfgSize | ldgPitCfgPinMax | ldgPitT2BaseLoAddr | ldgPitT2BaseHiAddr 
  | ldgPitT2CfgLog2b | ldgPitT3BaseLoAddr | ldgPitT3BaseHiAddr | ldgPitT3CfgLog2b | ldgPitT3CfgPool 
  | ldgPitMrBaseLoAddr | ldgPitMrBaseHiAddr | ldgPitMrCfgLog2b | ldgPitMrCfgPool | ldgPitPfLoSession 
  | ldgPitPfHiSession | ldgPitStatusPfOvf | ldgPitStatusDirFull | ldgPitStatusCfgErr | ldgPitResidentCount 
  | ldgPitPfHoldUsec | ldgPitPfMissCount | tierStatusT1Uncorr | tierStatusHomeLost | tierStatusRestoring 
  | tierStatusBanksOut | tierCfgPretailMax | tierCfgScrubS | tierRegionLedger | tierTileCapMib | tierTileUsedMib 
  | tierBankOutLoMap | tierBankOutHiMap | tierCorrCount | tierUncorrCount | tierRestoresCount | tierLateCount 
  | tierPitT2LoAddr | tierPitT2HiAddr | tierPitT2SizeMib | tierPitT3LoAddr | tierPitT3HiAddr | tierPitT3CfgMib 
  | tierPitT3CfgPool | tierPitMrLoAddr | tierPitMrHiAddr | tierPitMrCfgMib | tierPitMrCfgPool 
  | tierPitStatusHomeBusy | tierPitStatusCfgErr | tierPitStatusDeferred | tierPitHomeUsedMib | glbFaultCfgTransMax 
  | glbFaultCfgTransWinS | glbFaultCfgQwaitMs | glbStlOutLoMap | glbStlOutHiMap | glbFaultStatusSharedFault 
  | glbFaultStatusTesting | glbFaultStatusQuadOut | glbFaultsCount | glbRetiredCount | glbSharedSyndUnit 
  | glbSharedSyndSyndrome | tollStatusReady | tollStatusQtabFull | tollFreqMhz | tollEnergyDepthUj 
  | tollEnergyDrainMw | tollEnergyLevelNj | tollReviveMaxInflight | tollReviveInflight | tollAdmitsLive 
  | tollLateDec | tollLateInc | tollLateFmin | tollQtabLoSession | tollQtabHiSession | tollQtabHiPitch 
  | tollQtabHiWhole | tollQtabHiAuto | tollQtabHiValid | tollPitCfgIntakeDepth | tollPitCfgChainTokens 
  | tollPitCfgChainSessions | tollPitCfgOrdMax | tollPitUseIntakeUsed | tollPitUseConUsed | tollPitCfg2ConMax 
  | tollPitAdmitCount | tollPitDeferCount | tollPitRefuseCount | tollPitQuarCount | tollPitLastReason 
  | tollPitLastAns | tollMdlLoModel | tollMdlLoPitch | tollMdlLoFactor | tollMdlLoDeferred | tollMdlLoDown 
  | tollMdlLoFallback | tollMdlLoStream | tollMdlLoValid | tollMdlHiEnergyNj | wchStatusXtalFail 
  | wchStatusCntLost | wchStatusHot | wchStatusHibRefused | wchStatusDroop | wchOptimeLoTime | wchOptimeHiTime 
  | wchPcycCount | wchTimerLoTime | wchTimerHiTime | wchWakeEnEvents | wchWakeCauseEvents | wchTempCfgHot 
  | wchTempCfgCool | wchTempNowDeg | wchTempNowSensor | wchHotDrainMw | wchHibKey | wchWresetKey 
  | wchStlResetStall | wchStlResetGo | wchSleepDozeUs | wchSleepNapUs | wchDozeLoMap | wchDozeHiMap | wchNapLoMap 
  | wchNapHiMap | wchResetCauseLast | wchSlotSeqSeq | dbkStatusFull | dbkStatusNvOff | dbkStatusFlushing 
  | dbkStatusErasing | dbkStatusCrcSeen | dbkDroppedCount | dbkBasePos | dbkTopPos | dbkLiveCount | dbkBufCount 
  | dbkNslotCount | dbkDevtagBits | dbkClrAddrLoAddr | dbkClrAddrHiAddr | dbkClrCtrlGo | dbkClrStatState 
  | dbkClrStatErr | dbkVPosPos | dbkVStatSkipped | dbkVStatCrcBad | dbkVStatOpen | dbkVRewindBase | dbkVDataBytes 
  | chrStatusState | chrStatusImage | chrStatusLocked | chrErrCode | chrErrOffOffset | chrSizeBytes | chrSvnSvn 
  | chrStartMsMs | chrDigestBits | chrLockSet | chrXspiDbkDev | chrXspiDbkFail | chrXspiDummy | chrAmdAddrLoAddr 
  | chrAmdAddrHiAddr | chrAmdLenBytes | chrAmdCtrlSubmit | chrAmdCtrlApply | chrAmdCtrlCancel | chrAmdStatusState 
  | chrAmdStatusPitch | chrAmdStatusBusyErr | chrAmdErrCode | chrAmdErrDetail | chrAmdWaitMs | chrPitAmdSeq 
  | chrPitAdigBits | chrPitAepochEpoch | fabCfgMode | fabIdDevice | fabStatusMgrSeen | fabStatusVerLow 
  | fabStatusMoveFail | fabTimingHbMs | fabTimingHbMiss | fabTimingRetryMax | fabTimingOwnTmo | fabLaneUpMap 
  | fabLaneOutMap | fabMoveLoSession | fabMoveHiSession | fabMoveHiPitch | fabMoveHiTarget | fabConflictsCount 
  | fabDropCount | fabRouteIdxIndex | fabRouteDataPorts | fabLnStatusUp | fabLnStatusTraining | fabLnStatusRetired 
  | fabLnStatusVer | fabLnStatusPeer | fabLnCorrCount | fabLnUncorrCount | fabLnRetryCount | fabPortCfgPrecode 
  | fabPortCfgGuildEn | fabPortCfgGuildPitch | fabPitCfgDomainEn | fabPitCfgRemoteIntake | fabPitStatusJoined 
  | fabPitStatusMismatch | fabPitStatusAmendDiff | fabPitShardsOwned | fabPitExcCount | aszCtrlEnable 
  | aszStatusBusy | aszStatusWsUncorr | aszStatusBench | aszEnergyReserveUj | aszStepsCount | aszCommitsCount 
  | aszRejectsCount | aszSamplesCount | aszDropsCount | aszSatwinCount | aszBoundCount | aszPitCfgSampleShift 
  | aszPitCfgB1 | aszPitCfgB2 | aszPitCfgEps | aszPitCfg2WindowMs | aszPitCfg2Batch | aszPitCfg2StepsMax 
  | aszPitCfg2Holdoff | aszPitCfg3Pool | aszPitCfg3StepUj | aszPitCtrlKick | aszPitCtrlFreeze | aszPitCtrlExport 
  | aszPitExpLoAddr | aszPitExpHiAddr | aszPitExpSizeBytes | aszPitExpStatBusy | aszPitExpStatShort 
  | aszPitExpStatDone | aszSlotIdModel | aszSlotIdLayer | aszSlotIdPitch | aszSlotIdValid | aszSlotStateState 
  | aszSlotStateQsteps | aszSlotStateConst | aszSlotClipShare | aszSlotClipSpan | aszSlotSatCount | pitCtrlEnable 
  | pitStatusEnabled | pitStatusCfgErr | pitStatusSqOvf | pitStatusVqHeadErr | pitStatusBellBusy 
  | pitStatusBellOvr | pitUnadmitCount | pitSqBaseLoAddr | pitSqBaseHiAddr | pitSqSizeEntries | pitSqTailCount 
  | pitSqHeadCount | pitVqBaseLoAddr | pitVqBaseHiAddr | pitVqSizeEntries | pitVqHeadCount | pitVqTailCount 
  | pitIrqAddrLoAddr | pitIrqAddrHiAddr | pitIrqDataData | pitIrqModCount | pitIrqModUsec | pitDelayTokenDelay 
  | pitOptsGradeEmpty | pitAdmitTtlUsec | pitBellRing | pitEpochEpoch | stlRoleRole | stlRolePitch | stlRoleStage 
  | stlRoleChain | stlRoleAlloc | stlStatusDraining | stlStatusLoading | stlStatusTail | stlTailsCount 
  | stlUnencCount | stlTailMaxCycles | stlPushCount | stlPushFailCount | stlRoleChgCount | stlChainTokCount 
  | stlFaultUnit | stlFaultCause | stlFaultTesting | stlFaultRetired | stlTransCount | stlTestLastPass 
  | stlTestLastStep | stlFaultsCount | tknCfgInTable | tknCfgOutTable | tknCfgInValid | tknCfgOutValid 
  | tknStatusCutBusy | tknStatusJoinBusy | tknStatusReload | tknStatusUncorr | tknBytesInCount | tknTokensOutCount 
  | tknFallbackCount | tknSplitCount | tknJoinTokensCount | tknJoinBytesCount | sveStatusBusy | sveStatusReload 
  | sveStatusUncorr | sveCfgTables | sveCfgModes | sveByteHitsCount | sveTokenHitsCount | sveStopsCount 
  | sveBannedCount | sveForceDevCount | sveConstraintsCount | svePassesCount | grdStatusBusy | grdStatusReload 
  | grdStatusUncorr | grdCfgImages | grdCfgBindings | grdEvalsCount | grdVisitsCount | grdLookupsCount 
  | grdMissesCount | grdDefaultsCount | grdTailMaxCycles | mxeStatusBusy | mxeStatusTileErr | mxeStatusCrcErr 
  | mxeStatusUncorr | mxeCfgWfmt | mxeCfgAfmt | mxeCfgGsize | mxeTilesCount | mxeRowsCount | mxeQsatCount 
  | mxeOsatCount | mxeConstCount | mxeMisalignCount | mxeCrcCount | mxeNanCount | tierStlStatusWaiting 
  | tierStlStatusPoison | tierStlT0UsedKib | tierStlFetchCount | tierStlLateCount | tierStlWaitMaxCycles 
  | tierStlT0CorrCount
  deriving DecidableEq, Repr

/-- What the register tables state of each field. -/
def Fld.desc : Fld → FldDesc
  | .glbIdPart => fieldAt 0x0 15 0 .ro .p |>.resets 100
  | .glbIdRev => fieldAt 0x0 23 16 .ro .p |>.resets 176
  | .glbIdCellar => fieldAt 0x0 25 24 .ro .p |>.resets 2
  | .glbHpClkMhz => fieldAt 0x4 10 0 .ro .w
  | .glbHpClkTailCyc => fieldAt 0x4 31 16 .ro .w
  | .glbCapStalls => fieldAt 0x8 6 0 .ro .w |>.resets 64
  | .glbCapBanks => fieldAt 0x8 14 8 .ro .w |>.resets 64
  | .glbCapLanes => fieldAt 0x8 20 16 .ro .w |>.resets 16
  | .glbCapPitches => fieldAt 0x8 30 24 .ro .w
  | .glbStatusRunning => fieldAt 0xC 0 0 .ro .w
  | .glbStatusTollReady => fieldAt 0xC 1 1 .ro .w
  | .glbStatusDegraded => fieldAt 0xC 2 2 .ro .w
  | .glbStatusSharedFault => fieldAt 0xC 3 3 .ro .w
  | .glbStatusSecFault => fieldAt 0xC 4 4 .ro .w
  | .glbStatusHot => fieldAt 0xC 5 5 .ro .p
  | .glbStatusDbkFull => fieldAt 0xC 6 6 .ro .w
  | .glbStatusAmending => fieldAt 0xC 7 7 .ro .w
  | .glbPitEnLoMap => fieldAt 0x10 31 0 .ro .t
  | .glbPitEnHiMap => fieldAt 0x14 31 0 .ro .t
  | .glbSecStatusKatOk => fieldAt 0x2000 0 0 .ro .w
  | .glbSecStatusKatFail => fieldAt 0x2000 1 1 .ro .w
  | .glbSecStatusZeroised => fieldAt 0x2000 2 2 .ro .w
  | .glbDenyCount => fieldAt 0x2004 31 0 .ro .w
  | .glbDenyLastAccessor => fieldAt 0x2008 6 0 .ro .w
  | .glbDenyLastWrite => fieldAt 0x2008 7 7 .ro .w
  | .glbDenyLastAddr => fieldAt 0x2008 31 8 .ro .w
  | .glbZeroiseKey => fieldAt 0x200C 31 0 .wo .w
  | .glbGuildLoMap => fieldAt 0x2010 31 0 .ro .w |>.fromCharter
  | .glbGuildHiMap => fieldAt 0x2014 31 0 .ro .w |>.fromCharter
  | .glbPitResetPitch => fieldAt 0x2020 5 0 .wo .w
  | .glbPitResetGo => fieldAt 0x2020 31 31 .wo .w
  | .glbFuseKeyslotActive => fieldAt 0x2030 1 0 .ro .p
  | .glbFuseKeyslotRevoked => fieldAt 0x2030 7 4 .ro .p
  | .glbFuseKeyslotProgrammed => fieldAt 0x2030 11 8 .ro .p
  | .glbFuseKeyslotDukOk => fieldAt 0x2030 12 12 .ro .p
  | .glbFuseKeyslotFwkOk => fieldAt 0x2030 13 13 .ro .p
  | .glbFuseSvnCount => fieldAt 0x2034 15 0 .ro .p
  | .glbStlAllocPitch => fieldAt 0x2100 5 0 .ro .w |>.times 64 0x4 |>.fromCharter
  | .glbStlAllocValid => fieldAt 0x2100 31 31 .ro .w |>.times 64 0x4 |>.fromCharter
  | .glbKeyCfgSrc => fieldAt 0x2400 0 0 .ro .w |>.times 64 0x10 |>.fromCharter
  | .glbKeyCfgKeyver => fieldAt 0x2400 15 8 .ro .w |>.times 64 0x10 |>.fromCharter
  | .glbKeyCfgKeyverMin => fieldAt 0x2400 23 16 .rw .w |>.times 64 0x10 |>.fromCharter
  | .glbKeyRotRotate => fieldAt 0x2404 0 0 .wo .w |>.times 64 0x10
  | .glbKeyStatReady => fieldAt 0x2408 0 0 .ro .w |>.times 64 0x10
  | .glbKeyStatRotErr => fieldAt 0x2408 1 1 .w1c .w |>.times 64 0x10
  | .glbKeyStatMinErr => fieldAt 0x2408 2 2 .w1c .w |>.times 64 0x10
  | .glbGuildPoolsMask => fieldAt 0x2300 31 0 .ro .w |>.times 4 0x20 |>.words 8 4 |>.fromCharter
  | .glbGuildSlotPitch => fieldAt 0x2380 5 0 .ro .w |>.times 4 0x4 |>.fromCharter
  | .glbGuildSlotValid => fieldAt 0x2380 31 31 .ro .w |>.times 4 0x4 |>.fromCharter
  | .ldgStatusUncorr => fieldAt 0x4000 0 0 .w1c .w
  | .ldgStatusPoolFail => fieldAt 0x4000 1 1 .w1c .w
  | .ldgResidentCount => fieldAt 0x4004 17 0 .ro .w
  | .ldgCapacityEntries => fieldAt 0x4008 17 0 .ro .w |>.fromCharter
  | .ldgCfgPoolTmo => fieldAt 0x400C 15 0 .rwl .w |>.dflts 80 |>.range 8 65535
  | .ldgParksCount => fieldAt 0x4010 31 0 .ro .w
  | .ldgRevivesCount => fieldAt 0x4014 31 0 .ro .w
  | .ldgWbCount => fieldAt 0x4018 31 0 .ro .w
  | .ldgLostCount => fieldAt 0x401C 31 0 .ro .w
  | .ldgAuthfailCount => fieldAt 0x4020 31 0 .ro .w
  | .ldgPitCfgSize => fieldAt 0x4400 1 0 .ro .w |>.times 64 0x40 |>.dflts 2
  | .ldgPitCfgPinMax => fieldAt 0x4400 27 8 .rwl .w |>.times 64 0x40 |>.fromCharter
  | .ldgPitT2BaseLoAddr => fieldAt 0x4404 31 7 .rw .w |>.times 64 0x40
  | .ldgPitT2BaseHiAddr => fieldAt 0x4408 31 0 .rw .w |>.times 64 0x40
  | .ldgPitT2CfgLog2b => fieldAt 0x440C 4 0 .rw .w |>.times 64 0x40 |>.range 4 24 |>.orZero
  | .ldgPitT3BaseLoAddr => fieldAt 0x4410 31 7 .rw .w |>.times 64 0x40
  | .ldgPitT3BaseHiAddr => fieldAt 0x4414 31 0 .rw .w |>.times 64 0x40
  | .ldgPitT3CfgLog2b => fieldAt 0x4418 4 0 .rw .w |>.times 64 0x40 |>.range 4 24 |>.orZero
  | .ldgPitT3CfgPool => fieldAt 0x4418 15 8 .rw .w |>.times 64 0x40
  | .ldgPitMrBaseLoAddr => fieldAt 0x441C 31 7 .rw .w |>.times 64 0x40
  | .ldgPitMrBaseHiAddr => fieldAt 0x4420 31 0 .rw .w |>.times 64 0x40
  | .ldgPitMrCfgLog2b => fieldAt 0x4424 4 0 .rw .w |>.times 64 0x40 |>.range 4 24 |>.orZero
  | .ldgPitMrCfgPool => fieldAt 0x4424 15 8 .rw .w |>.times 64 0x40
  | .ldgPitPfLoSession => fieldAt 0x4428 31 0 .wo .t |>.times 64 0x40
  | .ldgPitPfHiSession => fieldAt 0x442C 7 0 .wo .t |>.times 64 0x40
  | .ldgPitStatusPfOvf => fieldAt 0x4430 0 0 .w1c .t |>.times 64 0x40
  | .ldgPitStatusDirFull => fieldAt 0x4430 1 1 .w1c .t |>.times 64 0x40
  | .ldgPitStatusCfgErr => fieldAt 0x4430 2 2 .w1c .t |>.times 64 0x40
  | .ldgPitResidentCount => fieldAt 0x4434 17 0 .ro .t |>.times 64 0x40
  | .ldgPitPfHoldUsec => fieldAt 0x4438 9 0 .rwl .w |>.times 64 0x40 |>.dflts 200 |>.range 1 1000
  | .ldgPitPfMissCount => fieldAt 0x443C 31 0 .ro .t |>.times 64 0x40
  | .tierStatusT1Uncorr => fieldAt 0x6000 0 0 .w1c .w
  | .tierStatusHomeLost => fieldAt 0x6000 1 1 .w1c .w
  | .tierStatusRestoring => fieldAt 0x6000 2 2 .ro .w
  | .tierStatusBanksOut => fieldAt 0x6000 14 8 .ro .w
  | .tierCfgPretailMax => fieldAt 0x6004 9 0 .rwl .w |>.dflts 50 |>.range 1 1000
  | .tierCfgScrubS => fieldAt 0x6004 31 16 .rwl .w |>.dflts 64 |>.range 1 65535
  | .tierRegionLedger => fieldAt 0x6008 3 0 .ro .w |>.fromCharter
  | .tierTileCapMib => fieldAt 0x600C 10 0 .ro .w |>.fromCharter
  | .tierTileUsedMib => fieldAt 0x6010 10 0 .ro .w
  | .tierBankOutLoMap => fieldAt 0x6014 31 0 .ro .w
  | .tierBankOutHiMap => fieldAt 0x6018 31 0 .ro .w
  | .tierCorrCount => fieldAt 0x6020 31 0 .ro .w
  | .tierUncorrCount => fieldAt 0x6024 31 0 .ro .w
  | .tierRestoresCount => fieldAt 0x6028 31 0 .ro .w
  | .tierLateCount => fieldAt 0x602C 31 0 .ro .w
  | .tierPitT2LoAddr => fieldAt 0x6400 31 12 .rw .w |>.times 64 0x40
  | .tierPitT2HiAddr => fieldAt 0x6404 31 0 .rw .w |>.times 64 0x40
  | .tierPitT2SizeMib => fieldAt 0x6408 13 0 .rw .w |>.times 64 0x40
  | .tierPitT3LoAddr => fieldAt 0x640C 31 12 .rw .w |>.times 64 0x40
  | .tierPitT3HiAddr => fieldAt 0x6410 31 0 .rw .w |>.times 64 0x40
  | .tierPitT3CfgMib => fieldAt 0x6414 13 0 .rw .w |>.times 64 0x40
  | .tierPitT3CfgPool => fieldAt 0x6414 23 16 .rw .w |>.times 64 0x40
  | .tierPitMrLoAddr => fieldAt 0x6418 31 12 .rw .w |>.times 64 0x40
  | .tierPitMrHiAddr => fieldAt 0x641C 31 0 .rw .w |>.times 64 0x40
  | .tierPitMrCfgMib => fieldAt 0x6420 13 0 .rw .w |>.times 64 0x40
  | .tierPitMrCfgPool => fieldAt 0x6420 23 16 .rw .w |>.times 64 0x40
  | .tierPitStatusHomeBusy => fieldAt 0x6424 0 0 .ro .t |>.times 64 0x40
  | .tierPitStatusCfgErr => fieldAt 0x6424 1 1 .w1c .t |>.times 64 0x40
  | .tierPitStatusDeferred => fieldAt 0x6424 2 2 .ro .t |>.times 64 0x40
  | .tierPitHomeUsedMib => fieldAt 0x6428 13 0 .ro .t |>.times 64 0x40
  | .glbFaultCfgTransMax => fieldAt 0x8000 3 0 .rwl .w |>.dflts 3 |>.range 1 15
  | .glbFaultCfgTransWinS => fieldAt 0x8000 15 8 .rwl .w |>.dflts 10 |>.range 1 255
  | .glbFaultCfgQwaitMs => fieldAt 0x8000 26 16 .rwl .w |>.dflts 1000 |>.range 10 1999
  | .glbStlOutLoMap => fieldAt 0x8004 31 0 .ro .w
  | .glbStlOutHiMap => fieldAt 0x8008 31 0 .ro .w
  | .glbFaultStatusSharedFault => fieldAt 0x800C 0 0 .ro .w
  | .glbFaultStatusTesting => fieldAt 0x800C 1 1 .ro .w
  | .glbFaultStatusQuadOut => fieldAt 0x800C 11 8 .ro .w
  | .glbFaultsCount => fieldAt 0x8010 31 0 .ro .w
  | .glbRetiredCount => fieldAt 0x8014 31 0 .ro .w
  | .glbSharedSyndUnit => fieldAt 0x8018 7 0 .ro .p
  | .glbSharedSyndSyndrome => fieldAt 0x8018 31 8 .ro .p
  | .tollStatusReady => fieldAt 0x10000 0 0 .ro .w
  | .tollStatusQtabFull => fieldAt 0x10000 1 1 .w1c .w
  | .tollFreqMhz => fieldAt 0x10004 11 0 .rwl .w |>.fromCharter |>.range 100 2000
  | .tollEnergyDepthUj => fieldAt 0x10010 23 0 .rwl .w |>.dflts 4000
  | .tollEnergyDrainMw => fieldAt 0x10014 18 0 .rwl .w |>.dflts 325000 |>.range 0 330000
  | .tollEnergyLevelNj => fieldAt 0x10018 31 0 .ro .w
  | .tollReviveMaxInflight => fieldAt 0x10020 9 0 .rwl .w |>.dflts 512 |>.range 1 1023
  | .tollReviveInflight => fieldAt 0x10020 25 16 .ro .w
  | .tollAdmitsLive => fieldAt 0x10024 16 0 .ro .w
  | .tollLateDec => fieldAt 0x10030 7 0 .rwl .w |>.dflts 32
  | .tollLateInc => fieldAt 0x10030 15 8 .rwl .w |>.dflts 8
  | .tollLateFmin => fieldAt 0x10030 24 16 .rwl .w |>.dflts 64 |>.range 1 256
  | .tollQtabLoSession => fieldAt 0x11000 31 0 .rw .w |>.times 256 0x8
  | .tollQtabHiSession => fieldAt 0x11004 7 0 .rw .w |>.times 256 0x8
  | .tollQtabHiPitch => fieldAt 0x11004 13 8 .rw .w |>.times 256 0x8
  | .tollQtabHiWhole => fieldAt 0x11004 16 16 .rw .w |>.times 256 0x8
  | .tollQtabHiAuto => fieldAt 0x11004 17 17 .ro .w |>.times 256 0x8
  | .tollQtabHiValid => fieldAt 0x11004 31 31 .rw .w |>.times 256 0x8
  | .tollPitCfgIntakeDepth => fieldAt 0x12000 4 0 .rwl .w |>.times 64 0x20 |>.fromCharter |>.range 1 16
  | .tollPitCfgChainTokens => fieldAt 0x12000 15 8 .rwl .w |>.times 64 0x20 |>.fromCharter |>.range 1 255
  | .tollPitCfgChainSessions => fieldAt 0x12000 27 16 .rwl .w |>.times 64 0x20 |>.fromCharter |>.range 1 4095
  | .tollPitCfgOrdMax => fieldAt 0x12000 31 28 .rwl .w |>.times 64 0x20 |>.fromCharter |>.range 1 15
  | .tollPitUseIntakeUsed => fieldAt 0x12004 10 0 .ro .t |>.times 64 0x20
  | .tollPitUseConUsed => fieldAt 0x12004 23 16 .ro .t |>.times 64 0x20
  | .tollPitCfg2ConMax => fieldAt 0x12008 7 0 .rwl .w |>.times 64 0x20 |>.dflts 32 |>.range 1 255
  | .tollPitAdmitCount => fieldAt 0x1200C 31 0 .ro .t |>.times 64 0x20
  | .tollPitDeferCount => fieldAt 0x12010 31 0 .ro .t |>.times 64 0x20
  | .tollPitRefuseCount => fieldAt 0x12014 31 0 .ro .t |>.times 64 0x20
  | .tollPitQuarCount => fieldAt 0x12018 31 0 .ro .t |>.times 64 0x20
  | .tollPitLastReason => fieldAt 0x1201C 3 0 .ro .t |>.times 64 0x20
  | .tollPitLastAns => fieldAt 0x1201C 5 4 .ro .t |>.times 64 0x20
  | .tollMdlLoModel => fieldAt 0x14000 11 0 .ro .w |>.times 1024 0x8 |>.fromCharter
  | .tollMdlLoPitch => fieldAt 0x14000 17 12 .ro .w |>.times 1024 0x8 |>.fromCharter
  | .tollMdlLoFactor => fieldAt 0x14000 26 18 .ro .w |>.resets 256 |>.times 1024 0x8
  | .tollMdlLoDeferred => fieldAt 0x14000 27 27 .ro .w |>.times 1024 0x8
  | .tollMdlLoDown => fieldAt 0x14000 28 28 .ro .w |>.times 1024 0x8
  | .tollMdlLoFallback => fieldAt 0x14000 29 29 .ro .w |>.times 1024 0x8 |>.fromCharter
  | .tollMdlLoStream => fieldAt 0x14000 30 30 .ro .w |>.times 1024 0x8 |>.fromCharter
  | .tollMdlLoValid => fieldAt 0x14000 31 31 .ro .w |>.times 1024 0x8 |>.fromCharter
  | .tollMdlHiEnergyNj => fieldAt 0x14004 23 0 .rwl .w |>.times 1024 0x8 |>.fromCharter
  | .wchStatusXtalFail => fieldAt 0x20000 0 0 .w1c .p
  | .wchStatusCntLost => fieldAt 0x20000 1 1 .ro .p
  | .wchStatusHot => fieldAt 0x20000 2 2 .ro .p
  | .wchStatusHibRefused => fieldAt 0x20000 3 3 .w1c .p
  | .wchStatusDroop => fieldAt 0x20000 4 4 .w1c .p
  | .wchOptimeLoTime => fieldAt 0x20004 31 0 .ro .p
  | .wchOptimeHiTime => fieldAt 0x20008 7 0 .ro .p
  | .wchPcycCount => fieldAt 0x2000C 23 0 .ro .p
  | .wchTimerLoTime => fieldAt 0x20010 31 0 .rw .p
  | .wchTimerHiTime => fieldAt 0x20014 7 0 .rw .p
  | .wchWakeEnEvents => fieldAt 0x20018 4 0 .rw .p |>.resets 7
  | .wchWakeCauseEvents => fieldAt 0x2001C 5 0 .w1c .p
  | .wchTempCfgHot => fieldAt 0x20020 7 0 .rwl .w |>.dflts 95 |>.range 60 110
  | .wchTempCfgCool => fieldAt 0x20020 15 8 .rwl .w |>.dflts 85 |>.range 40 100
  | .wchTempNowDeg => fieldAt 0x20024 7 0 .ro .p
  | .wchTempNowSensor => fieldAt 0x20024 12 8 .ro .p
  | .wchHotDrainMw => fieldAt 0x20028 18 0 .rwl .w |>.dflts 250000
  | .wchHibKey => fieldAt 0x20030 31 0 .wo .p
  | .wchWresetKey => fieldAt 0x20034 31 0 .wo .p
  | .wchStlResetStall => fieldAt 0x20038 5 0 .wo .p
  | .wchStlResetGo => fieldAt 0x20038 31 31 .wo .p
  | .wchSleepDozeUs => fieldAt 0x2003C 7 0 .rwl .w |>.dflts 2 |>.range 1 255
  | .wchSleepNapUs => fieldAt 0x2003C 23 8 .rwl .w |>.dflts 2000 |>.range 10 65535
  | .wchDozeLoMap => fieldAt 0x20040 31 0 .ro .w
  | .wchDozeHiMap => fieldAt 0x20044 31 0 .ro .w
  | .wchNapLoMap => fieldAt 0x20048 31 0 .ro .w
  | .wchNapHiMap => fieldAt 0x2004C 31 0 .ro .w
  | .wchResetCauseLast => fieldAt 0x20050 2 0 .ro .p
  | .wchSlotSeqSeq => fieldAt 0x20054 31 0 .ro .p
  | .dbkStatusFull => fieldAt 0x20100 0 0 .ro .w
  | .dbkStatusNvOff => fieldAt 0x20100 1 1 .ro .w
  | .dbkStatusFlushing => fieldAt 0x20100 2 2 .ro .w
  | .dbkStatusErasing => fieldAt 0x20100 3 3 .ro .w
  | .dbkStatusCrcSeen => fieldAt 0x20100 4 4 .w1c .w
  | .dbkDroppedCount => fieldAt 0x20104 31 0 .ro .p
  | .dbkBasePos => fieldAt 0x20108 16 0 .ro .w
  | .dbkTopPos => fieldAt 0x2010C 16 0 .ro .w
  | .dbkLiveCount => fieldAt 0x20110 16 0 .ro .w
  | .dbkBufCount => fieldAt 0x20114 8 0 .ro .p
  | .dbkNslotCount => fieldAt 0x20118 16 0 .ro .w
  | .dbkDevtagBits => fieldAt 0x20120 31 0 .ro .w |>.times 4 0x4
  | .dbkClrAddrLoAddr => fieldAt 0x20140 31 6 .rw .w
  | .dbkClrAddrHiAddr => fieldAt 0x20144 31 0 .rw .w
  | .dbkClrCtrlGo => fieldAt 0x20148 0 0 .wo .w
  | .dbkClrStatState => fieldAt 0x2014C 1 0 .ro .w
  | .dbkClrStatErr => fieldAt 0x2014C 15 8 .ro .w
  | .dbkVPosPos => fieldAt 0x21000 31 0 .ro .t |>.times 66 0x40
  | .dbkVStatSkipped => fieldAt 0x21004 0 0 .ro .t |>.times 66 0x40
  | .dbkVStatCrcBad => fieldAt 0x21004 1 1 .ro .t |>.times 66 0x40
  | .dbkVStatOpen => fieldAt 0x21004 2 2 .ro .t |>.times 66 0x40
  | .dbkVRewindBase => fieldAt 0x21008 16 0 .ro .t |>.times 66 0x40
  | .dbkVDataBytes => fieldAt 0x21010 31 0 .ro .t |>.times 66 0x40 |>.words 8 4
  | .chrStatusState => fieldAt 0x30000 2 0 .ro .w
  | .chrStatusImage => fieldAt 0x30000 4 4 .ro .w
  | .chrStatusLocked => fieldAt 0x30000 8 8 .ro .p
  | .chrErrCode => fieldAt 0x30004 7 0 .ro .w
  | .chrErrOffOffset => fieldAt 0x30008 31 0 .ro .w
  | .chrSizeBytes => fieldAt 0x3000C 31 0 .ro .w
  | .chrSvnSvn => fieldAt 0x30010 15 0 .ro .w
  | .chrStartMsMs => fieldAt 0x30014 15 0 .ro .w
  | .chrDigestBits => fieldAt 0x30020 31 0 .ro .w |>.times 4 0x4
  | .chrLockSet => fieldAt 0x30030 0 0 .wo .p
  | .chrXspiDbkDev => fieldAt 0x30040 0 0 .ro .w
  | .chrXspiDbkFail => fieldAt 0x30040 1 1 .ro .w
  | .chrXspiDummy => fieldAt 0x30040 15 8 .ro .w
  | .chrAmdAddrLoAddr => fieldAt 0x30100 31 6 .rw .w
  | .chrAmdAddrHiAddr => fieldAt 0x30104 31 0 .rw .w
  | .chrAmdLenBytes => fieldAt 0x30108 26 0 .rw .w |>.range 0 67108864
  | .chrAmdCtrlSubmit => fieldAt 0x3010C 0 0 .wo .w
  | .chrAmdCtrlApply => fieldAt 0x3010C 1 1 .wo .w
  | .chrAmdCtrlCancel => fieldAt 0x3010C 2 2 .wo .w
  | .chrAmdStatusState => fieldAt 0x30110 2 0 .ro .w
  | .chrAmdStatusPitch => fieldAt 0x30110 13 8 .ro .w
  | .chrAmdStatusBusyErr => fieldAt 0x30110 16 16 .w1c .w
  | .chrAmdErrCode => fieldAt 0x30114 7 0 .ro .w
  | .chrAmdErrDetail => fieldAt 0x30114 15 8 .ro .w
  | .chrAmdWaitMs => fieldAt 0x30118 9 0 .rwl .w |>.dflts 20 |>.range 1 1000
  | .chrPitAmdSeq => fieldAt 0x31000 31 0 .ro .w |>.times 64 0x10
  | .chrPitAdigBits => fieldAt 0x31004 31 0 .ro .w |>.times 64 0x10
  | .chrPitAepochEpoch => fieldAt 0x31008 31 0 .ro .w |>.times 64 0x10
  | .fabCfgMode => fieldAt 0x40000 0 0 .rwl .w |>.fromCharter
  | .fabIdDevice => fieldAt 0x40004 12 0 .rwl .w |>.fromCharter
  | .fabStatusMgrSeen => fieldAt 0x40008 0 0 .ro .w
  | .fabStatusVerLow => fieldAt 0x40008 1 1 .w1c .w
  | .fabStatusMoveFail => fieldAt 0x40008 2 2 .w1c .w
  | .fabTimingHbMs => fieldAt 0x4000C 9 0 .rwl .w |>.dflts 250 |>.range 10 1000
  | .fabTimingHbMiss => fieldAt 0x4000C 13 10 .rwl .w |>.dflts 4 |>.range 2 15
  | .fabTimingRetryMax => fieldAt 0x4000C 19 14 .rwl .w |>.dflts 8 |>.range 1 63
  | .fabTimingOwnTmo => fieldAt 0x4000C 31 20 .rwl .w |>.dflts 100 |>.range 1 4095
  | .fabLaneUpMap => fieldAt 0x40010 15 0 .ro .w
  | .fabLaneOutMap => fieldAt 0x40014 15 0 .ro .w
  | .fabMoveLoSession => fieldAt 0x40018 31 0 .wo .w
  | .fabMoveHiSession => fieldAt 0x4001C 7 0 .wo .w
  | .fabMoveHiPitch => fieldAt 0x4001C 13 8 .wo .w
  | .fabMoveHiTarget => fieldAt 0x4001C 28 16 .wo .w
  | .fabConflictsCount => fieldAt 0x40020 31 0 .ro .w
  | .fabDropCount => fieldAt 0x40024 31 0 .ro .w
  | .fabRouteIdxIndex => fieldAt 0x40028 13 0 .rw .w |>.range 0 8448
  | .fabRouteDataPorts => fieldAt 0x4002C 3 0 .rw .w
  | .fabLnStatusUp => fieldAt 0x40100 0 0 .ro .w |>.times 16 0x10
  | .fabLnStatusTraining => fieldAt 0x40100 1 1 .ro .w |>.times 16 0x10
  | .fabLnStatusRetired => fieldAt 0x40100 2 2 .ro .w |>.times 16 0x10
  | .fabLnStatusVer => fieldAt 0x40100 7 4 .ro .w |>.times 16 0x10
  | .fabLnStatusPeer => fieldAt 0x40100 28 16 .ro .w |>.times 16 0x10
  | .fabLnCorrCount => fieldAt 0x40104 31 0 .ro .w |>.times 16 0x10
  | .fabLnUncorrCount => fieldAt 0x40108 31 0 .ro .w |>.times 16 0x10
  | .fabLnRetryCount => fieldAt 0x4010C 31 0 .ro .w |>.times 16 0x10
  | .fabPortCfgPrecode => fieldAt 0x40200 3 0 .rwl .w |>.times 4 0x10 |>.fromCharter
  | .fabPortCfgGuildEn => fieldAt 0x40200 8 8 .rwl .w |>.times 4 0x10 |>.fromCharter
  | .fabPortCfgGuildPitch => fieldAt 0x40200 21 16 .rwl .w |>.times 4 0x10 |>.fromCharter
  | .fabPitCfgDomainEn => fieldAt 0x41000 0 0 .rwl .w |>.times 64 0x20 |>.fromCharter
  | .fabPitCfgRemoteIntake => fieldAt 0x41000 1 1 .rwl .w |>.times 64 0x20 |>.fromCharter
  | .fabPitStatusJoined => fieldAt 0x41004 0 0 .ro .w |>.times 64 0x20
  | .fabPitStatusMismatch => fieldAt 0x41004 1 1 .w1c .w |>.times 64 0x20
  | .fabPitStatusAmendDiff => fieldAt 0x41004 2 2 .ro .w |>.times 64 0x20
  | .fabPitShardsOwned => fieldAt 0x41008 10 0 .ro .w |>.times 64 0x20
  | .fabPitExcCount => fieldAt 0x4100C 16 0 .ro .w |>.times 64 0x20
  | .aszCtrlEnable => fieldAt 0x50000 0 0 .rw .w |>.fromCharter
  | .aszStatusBusy => fieldAt 0x50004 0 0 .ro .w
  | .aszStatusWsUncorr => fieldAt 0x50004 1 1 .w1c .w
  | .aszStatusBench => fieldAt 0x50004 12 8 .ro .w
  | .aszEnergyReserveUj => fieldAt 0x50008 23 0 .rwl .w |>.fromCharter
  | .aszStepsCount => fieldAt 0x50010 31 0 .ro .w
  | .aszCommitsCount => fieldAt 0x50014 31 0 .ro .w
  | .aszRejectsCount => fieldAt 0x50018 31 0 .ro .w
  | .aszSamplesCount => fieldAt 0x5001C 31 0 .ro .w
  | .aszDropsCount => fieldAt 0x50020 31 0 .ro .w
  | .aszSatwinCount => fieldAt 0x50024 31 0 .ro .w
  | .aszBoundCount => fieldAt 0x50028 31 0 .ro .w
  | .aszPitCfgSampleShift => fieldAt 0x51000 4 0 .rwl .w |>.times 64 0x20 |>.fromCharter |>.range 0 20
  | .aszPitCfgB1 => fieldAt 0x51000 11 8 .rwl .w |>.times 64 0x20 |>.fromCharter |>.range 1 15
  | .aszPitCfgB2 => fieldAt 0x51000 15 12 .rwl .w |>.times 64 0x20 |>.fromCharter |>.range 1 15
  | .aszPitCfgEps => fieldAt 0x51000 20 16 .rwl .w |>.times 64 0x20 |>.fromCharter |>.range 8 31
  | .aszPitCfg2WindowMs => fieldAt 0x51004 9 0 .rwl .w |>.times 64 0x20 |>.fromCharter |>.range 1 1000
  | .aszPitCfg2Batch => fieldAt 0x51004 16 10 .rwl .w |>.times 64 0x20 |>.fromCharter |>.range 1 64
  | .aszPitCfg2StepsMax => fieldAt 0x51004 27 17 .rwl .w |>.times 64 0x20 |>.fromCharter |>.range 1 2047
  | .aszPitCfg2Holdoff => fieldAt 0x51004 31 28 .rwl .w |>.times 64 0x20 |>.fromCharter |>.range 0 15
  | .aszPitCfg3Pool => fieldAt 0x51008 12 0 .rwl .w |>.times 64 0x20 |>.fromCharter |>.range 16 4096
  | .aszPitCfg3StepUj => fieldAt 0x51008 31 16 .rwl .w |>.times 64 0x20 |>.fromCharter
  | .aszPitCtrlKick => fieldAt 0x5100C 0 0 .wo .t |>.times 64 0x20
  | .aszPitCtrlFreeze => fieldAt 0x5100C 1 1 .rw .t |>.times 64 0x20
  | .aszPitCtrlExport => fieldAt 0x5100C 2 2 .wo .t |>.times 64 0x20
  | .aszPitExpLoAddr => fieldAt 0x51010 31 6 .rw .t |>.times 64 0x20
  | .aszPitExpHiAddr => fieldAt 0x51014 31 0 .rw .t |>.times 64 0x20
  | .aszPitExpSizeBytes => fieldAt 0x51018 31 0 .rw .t |>.times 64 0x20
  | .aszPitExpStatBusy => fieldAt 0x5101C 0 0 .ro .t |>.times 64 0x20
  | .aszPitExpStatShort => fieldAt 0x5101C 1 1 .w1c .t |>.times 64 0x20
  | .aszPitExpStatDone => fieldAt 0x5101C 2 2 .w1c .t |>.times 64 0x20
  | .aszSlotIdModel => fieldAt 0x54000 11 0 .ro .w |>.times 2048 0x10 |>.fromCharter
  | .aszSlotIdLayer => fieldAt 0x54000 21 12 .ro .w |>.times 2048 0x10 |>.fromCharter
  | .aszSlotIdPitch => fieldAt 0x54000 27 22 .ro .w |>.times 2048 0x10 |>.fromCharter
  | .aszSlotIdValid => fieldAt 0x54000 31 31 .ro .w |>.times 2048 0x10 |>.fromCharter
  | .aszSlotStateState => fieldAt 0x54004 2 0 .ro .t |>.times 2048 0x10
  | .aszSlotStateQsteps => fieldAt 0x54004 11 8 .ro .w |>.times 2048 0x10
  | .aszSlotStateConst => fieldAt 0x54004 31 16 .ro .w |>.times 2048 0x10
  | .aszSlotClipShare => fieldAt 0x54008 15 0 .ro .t |>.times 2048 0x10
  | .aszSlotClipSpan => fieldAt 0x54008 31 16 .ro .t |>.times 2048 0x10
  | .aszSlotSatCount => fieldAt 0x5400C 31 0 .ro .t |>.times 2048 0x10
  | .pitCtrlEnable => fieldAt 0x80000 0 0 .rw .t |>.times 64 0x2000
  | .pitStatusEnabled => fieldAt 0x80004 0 0 .ro .t |>.times 64 0x2000
  | .pitStatusCfgErr => fieldAt 0x80004 1 1 .w1c .t |>.times 64 0x2000
  | .pitStatusSqOvf => fieldAt 0x80004 2 2 .w1c .t |>.times 64 0x2000
  | .pitStatusVqHeadErr => fieldAt 0x80004 3 3 .w1c .t |>.times 64 0x2000
  | .pitStatusBellBusy => fieldAt 0x80004 4 4 .ro .t |>.times 64 0x2000
  | .pitStatusBellOvr => fieldAt 0x80004 5 5 .w1c .t |>.times 64 0x2000
  | .pitUnadmitCount => fieldAt 0x80008 31 0 .w1c .t |>.times 64 0x2000
  | .pitSqBaseLoAddr => fieldAt 0x80010 31 6 .rw .t |>.times 64 0x2000
  | .pitSqBaseHiAddr => fieldAt 0x80014 31 0 .rw .t |>.times 64 0x2000
  | .pitSqSizeEntries => fieldAt 0x80018 16 0 .rw .t |>.times 64 0x2000
  | .pitSqTailCount => fieldAt 0x8001C 31 0 .rw .t |>.times 64 0x2000
  | .pitSqHeadCount => fieldAt 0x80020 31 0 .ro .t |>.times 64 0x2000
  | .pitVqBaseLoAddr => fieldAt 0x80030 31 5 .rw .t |>.times 64 0x2000
  | .pitVqBaseHiAddr => fieldAt 0x80034 31 0 .rw .t |>.times 64 0x2000
  | .pitVqSizeEntries => fieldAt 0x80038 16 0 .rw .t |>.times 64 0x2000
  | .pitVqHeadCount => fieldAt 0x8003C 31 0 .rw .t |>.times 64 0x2000
  | .pitVqTailCount => fieldAt 0x80040 31 0 .ro .t |>.times 64 0x2000
  | .pitIrqAddrLoAddr => fieldAt 0x80050 31 2 .rw .t |>.times 64 0x2000
  | .pitIrqAddrHiAddr => fieldAt 0x80054 31 0 .rw .t |>.times 64 0x2000
  | .pitIrqDataData => fieldAt 0x80058 31 0 .rw .t |>.times 64 0x2000
  | .pitIrqModCount => fieldAt 0x8005C 7 0 .rw .t |>.resets 1 |>.times 64 0x2000
  | .pitIrqModUsec => fieldAt 0x8005C 15 8 .rw .t |>.times 64 0x2000
  | .pitDelayTokenDelay => fieldAt 0x80060 9 0 .rwl .w |>.times 64 0x2000 |>.dflts 100 |>.range 40 640
  | .pitOptsGradeEmpty => fieldAt 0x80064 0 0 .rwl .w |>.times 64 0x2000 |>.fromCharter
  | .pitAdmitTtlUsec => fieldAt 0x80068 9 0 .rwl .w |>.times 64 0x2000 |>.dflts 100 |>.range 1 1000
  | .pitBellRing => fieldAt 0x80070 0 0 .wo .t |>.times 64 0x2000
  | .pitEpochEpoch => fieldAt 0x80074 31 0 .ro .w |>.times 64 0x2000
  | .stlRoleRole => fieldAt 0x100000 1 0 .ro .s |>.times 64 0x10000
  | .stlRolePitch => fieldAt 0x100000 9 4 .ro .w |>.times 64 0x10000 |>.fromCharter
  | .stlRoleStage => fieldAt 0x100000 14 12 .ro .s |>.times 64 0x10000
  | .stlRoleChain => fieldAt 0x100000 19 16 .ro .s |>.times 64 0x10000
  | .stlRoleAlloc => fieldAt 0x100000 31 31 .ro .w |>.times 64 0x10000 |>.fromCharter
  | .stlStatusDraining => fieldAt 0x100004 0 0 .ro .s |>.times 64 0x10000
  | .stlStatusLoading => fieldAt 0x100004 1 1 .ro .s |>.times 64 0x10000
  | .stlStatusTail => fieldAt 0x100004 2 2 .ro .s |>.times 64 0x10000
  | .stlTailsCount => fieldAt 0x100010 31 0 .ro .n |>.times 64 0x10000
  | .stlUnencCount => fieldAt 0x100014 31 0 .ro .n |>.times 64 0x10000
  | .stlTailMaxCycles => fieldAt 0x100018 15 0 .ro .n |>.times 64 0x10000
  | .stlPushCount => fieldAt 0x10001C 31 0 .ro .n |>.times 64 0x10000
  | .stlPushFailCount => fieldAt 0x100020 31 0 .ro .n |>.times 64 0x10000
  | .stlRoleChgCount => fieldAt 0x100024 31 0 .ro .s |>.times 64 0x10000
  | .stlChainTokCount => fieldAt 0x100028 31 0 .ro .n |>.times 64 0x10000
  | .stlFaultUnit => fieldAt 0x100040 3 0 .ro .w |>.times 64 0x10000
  | .stlFaultCause => fieldAt 0x100040 11 8 .ro .w |>.times 64 0x10000
  | .stlFaultTesting => fieldAt 0x100040 16 16 .ro .s |>.times 64 0x10000
  | .stlFaultRetired => fieldAt 0x100040 17 17 .ro .w |>.times 64 0x10000
  | .stlTransCount => fieldAt 0x100044 3 0 .ro .w |>.times 64 0x10000
  | .stlTestLastPass => fieldAt 0x100048 0 0 .ro .w |>.times 64 0x10000
  | .stlTestLastStep => fieldAt 0x100048 11 8 .ro .w |>.times 64 0x10000
  | .stlFaultsCount => fieldAt 0x10004C 31 0 .ro .w |>.times 64 0x10000
  | .tknCfgInTable => fieldAt 0x100400 3 0 .ro .s |>.times 64 0x10000
  | .tknCfgOutTable => fieldAt 0x100400 7 4 .ro .s |>.times 64 0x10000
  | .tknCfgInValid => fieldAt 0x100400 8 8 .ro .s |>.times 64 0x10000
  | .tknCfgOutValid => fieldAt 0x100400 9 9 .ro .s |>.times 64 0x10000
  | .tknStatusCutBusy => fieldAt 0x100404 0 0 .ro .s |>.times 64 0x10000
  | .tknStatusJoinBusy => fieldAt 0x100404 1 1 .ro .s |>.times 64 0x10000
  | .tknStatusReload => fieldAt 0x100404 2 2 .ro .s |>.times 64 0x10000
  | .tknStatusUncorr => fieldAt 0x100404 8 8 .w1c .s |>.times 64 0x10000
  | .tknBytesInCount => fieldAt 0x100410 31 0 .ro .n |>.times 64 0x10000
  | .tknTokensOutCount => fieldAt 0x100414 31 0 .ro .n |>.times 64 0x10000
  | .tknFallbackCount => fieldAt 0x100418 31 0 .ro .n |>.times 64 0x10000
  | .tknSplitCount => fieldAt 0x10041C 31 0 .ro .n |>.times 64 0x10000
  | .tknJoinTokensCount => fieldAt 0x100420 31 0 .ro .n |>.times 64 0x10000
  | .tknJoinBytesCount => fieldAt 0x100424 31 0 .ro .n |>.times 64 0x10000
  | .sveStatusBusy => fieldAt 0x100500 0 0 .ro .s |>.times 64 0x10000
  | .sveStatusReload => fieldAt 0x100500 1 1 .ro .s |>.times 64 0x10000
  | .sveStatusUncorr => fieldAt 0x100500 8 8 .w1c .s |>.times 64 0x10000
  | .sveCfgTables => fieldAt 0x100504 7 0 .ro .s |>.times 64 0x10000
  | .sveCfgModes => fieldAt 0x100504 10 8 .ro .s |>.times 64 0x10000
  | .sveByteHitsCount => fieldAt 0x100510 31 0 .ro .n |>.times 64 0x10000
  | .sveTokenHitsCount => fieldAt 0x100514 31 0 .ro .n |>.times 64 0x10000
  | .sveStopsCount => fieldAt 0x100518 31 0 .ro .n |>.times 64 0x10000
  | .sveBannedCount => fieldAt 0x10051C 31 0 .ro .n |>.times 64 0x10000
  | .sveForceDevCount => fieldAt 0x100520 31 0 .ro .n |>.times 64 0x10000
  | .sveConstraintsCount => fieldAt 0x100524 31 0 .ro .n |>.times 64 0x10000
  | .svePassesCount => fieldAt 0x100528 31 0 .ro .n |>.times 64 0x10000
  | .grdStatusBusy => fieldAt 0x100600 0 0 .ro .s |>.times 64 0x10000
  | .grdStatusReload => fieldAt 0x100600 1 1 .ro .s |>.times 64 0x10000
  | .grdStatusUncorr => fieldAt 0x100600 8 8 .w1c .s |>.times 64 0x10000
  | .grdCfgImages => fieldAt 0x100604 7 0 .ro .s |>.times 64 0x10000
  | .grdCfgBindings => fieldAt 0x100604 15 8 .ro .s |>.times 64 0x10000
  | .grdEvalsCount => fieldAt 0x100610 31 0 .ro .n |>.times 64 0x10000
  | .grdVisitsCount => fieldAt 0x100614 31 0 .ro .n |>.times 64 0x10000
  | .grdLookupsCount => fieldAt 0x100618 31 0 .ro .n |>.times 64 0x10000
  | .grdMissesCount => fieldAt 0x10061C 31 0 .ro .n |>.times 64 0x10000
  | .grdDefaultsCount => fieldAt 0x100620 31 0 .ro .n |>.times 64 0x10000
  | .grdTailMaxCycles => fieldAt 0x100624 15 0 .ro .n |>.times 64 0x10000
  | .mxeStatusBusy => fieldAt 0x100700 0 0 .ro .s |>.times 64 0x10000
  | .mxeStatusTileErr => fieldAt 0x100700 1 1 .w1c .s |>.times 64 0x10000
  | .mxeStatusCrcErr => fieldAt 0x100700 2 2 .w1c .s |>.times 64 0x10000
  | .mxeStatusUncorr => fieldAt 0x100700 3 3 .w1c .s |>.times 64 0x10000
  | .mxeCfgWfmt => fieldAt 0x100704 2 0 .ro .s |>.times 64 0x10000
  | .mxeCfgAfmt => fieldAt 0x100704 5 3 .ro .s |>.times 64 0x10000
  | .mxeCfgGsize => fieldAt 0x100704 7 6 .ro .s |>.times 64 0x10000
  | .mxeTilesCount => fieldAt 0x100710 31 0 .ro .n |>.times 64 0x10000
  | .mxeRowsCount => fieldAt 0x100714 31 0 .ro .n |>.times 64 0x10000
  | .mxeQsatCount => fieldAt 0x100718 31 0 .ro .n |>.times 64 0x10000
  | .mxeOsatCount => fieldAt 0x10071C 31 0 .ro .n |>.times 64 0x10000
  | .mxeConstCount => fieldAt 0x100720 31 0 .ro .n |>.times 64 0x10000
  | .mxeMisalignCount => fieldAt 0x100724 31 0 .ro .n |>.times 64 0x10000
  | .mxeCrcCount => fieldAt 0x100728 31 0 .ro .n |>.times 64 0x10000
  | .mxeNanCount => fieldAt 0x10072C 31 0 .ro .n |>.times 64 0x10000
  | .tierStlStatusWaiting => fieldAt 0x100800 0 0 .ro .s |>.times 64 0x10000
  | .tierStlStatusPoison => fieldAt 0x100800 1 1 .w1c .s |>.times 64 0x10000
  | .tierStlT0UsedKib => fieldAt 0x100804 12 0 .ro .s |>.times 64 0x10000
  | .tierStlFetchCount => fieldAt 0x100810 31 0 .ro .n |>.times 64 0x10000
  | .tierStlLateCount => fieldAt 0x100814 31 0 .ro .n |>.times 64 0x10000
  | .tierStlWaitMaxCycles => fieldAt 0x100818 31 0 .ro .n |>.times 64 0x10000
  | .tierStlT0CorrCount => fieldAt 0x10081C 31 0 .ro .n |>.times 64 0x10000

/-- Part of the list of fields. -/
def Fld.all0 : List Fld :=
  [
   .glbIdPart, .glbIdRev, .glbIdCellar, .glbHpClkMhz, .glbHpClkTailCyc, .glbCapStalls, .glbCapBanks, .glbCapLanes,
   .glbCapPitches, .glbStatusRunning, .glbStatusTollReady, .glbStatusDegraded, .glbStatusSharedFault,
   .glbStatusSecFault, .glbStatusHot, .glbStatusDbkFull, .glbStatusAmending, .glbPitEnLoMap, .glbPitEnHiMap,
   .glbSecStatusKatOk, .glbSecStatusKatFail, .glbSecStatusZeroised, .glbDenyCount, .glbDenyLastAccessor,
   .glbDenyLastWrite, .glbDenyLastAddr, .glbZeroiseKey, .glbGuildLoMap, .glbGuildHiMap, .glbPitResetPitch,
   .glbPitResetGo, .glbFuseKeyslotActive, .glbFuseKeyslotRevoked, .glbFuseKeyslotProgrammed, .glbFuseKeyslotDukOk,
   .glbFuseKeyslotFwkOk, .glbFuseSvnCount, .glbStlAllocPitch, .glbStlAllocValid, .glbKeyCfgSrc, .glbKeyCfgKeyver,
   .glbKeyCfgKeyverMin, .glbKeyRotRotate, .glbKeyStatReady, .glbKeyStatRotErr, .glbKeyStatMinErr,
   .glbGuildPoolsMask, .glbGuildSlotPitch, .glbGuildSlotValid, .ldgStatusUncorr, .ldgStatusPoolFail,
   .ldgResidentCount, .ldgCapacityEntries, .ldgCfgPoolTmo, .ldgParksCount, .ldgRevivesCount, .ldgWbCount,
   .ldgLostCount, .ldgAuthfailCount, .ldgPitCfgSize]

/-- Part of the list of fields. -/
def Fld.all1 : List Fld :=
  [
   .ldgPitCfgPinMax, .ldgPitT2BaseLoAddr, .ldgPitT2BaseHiAddr, .ldgPitT2CfgLog2b, .ldgPitT3BaseLoAddr,
   .ldgPitT3BaseHiAddr, .ldgPitT3CfgLog2b, .ldgPitT3CfgPool, .ldgPitMrBaseLoAddr, .ldgPitMrBaseHiAddr,
   .ldgPitMrCfgLog2b, .ldgPitMrCfgPool, .ldgPitPfLoSession, .ldgPitPfHiSession, .ldgPitStatusPfOvf,
   .ldgPitStatusDirFull, .ldgPitStatusCfgErr, .ldgPitResidentCount, .ldgPitPfHoldUsec, .ldgPitPfMissCount,
   .tierStatusT1Uncorr, .tierStatusHomeLost, .tierStatusRestoring, .tierStatusBanksOut, .tierCfgPretailMax,
   .tierCfgScrubS, .tierRegionLedger, .tierTileCapMib, .tierTileUsedMib, .tierBankOutLoMap, .tierBankOutHiMap,
   .tierCorrCount, .tierUncorrCount, .tierRestoresCount, .tierLateCount, .tierPitT2LoAddr, .tierPitT2HiAddr,
   .tierPitT2SizeMib, .tierPitT3LoAddr, .tierPitT3HiAddr, .tierPitT3CfgMib, .tierPitT3CfgPool, .tierPitMrLoAddr,
   .tierPitMrHiAddr, .tierPitMrCfgMib, .tierPitMrCfgPool, .tierPitStatusHomeBusy, .tierPitStatusCfgErr,
   .tierPitStatusDeferred, .tierPitHomeUsedMib, .glbFaultCfgTransMax, .glbFaultCfgTransWinS, .glbFaultCfgQwaitMs,
   .glbStlOutLoMap, .glbStlOutHiMap, .glbFaultStatusSharedFault, .glbFaultStatusTesting, .glbFaultStatusQuadOut,
   .glbFaultsCount, .glbRetiredCount]

/-- Part of the list of fields. -/
def Fld.all2 : List Fld :=
  [
   .glbSharedSyndUnit, .glbSharedSyndSyndrome, .tollStatusReady, .tollStatusQtabFull, .tollFreqMhz,
   .tollEnergyDepthUj, .tollEnergyDrainMw, .tollEnergyLevelNj, .tollReviveMaxInflight, .tollReviveInflight,
   .tollAdmitsLive, .tollLateDec, .tollLateInc, .tollLateFmin, .tollQtabLoSession, .tollQtabHiSession,
   .tollQtabHiPitch, .tollQtabHiWhole, .tollQtabHiAuto, .tollQtabHiValid, .tollPitCfgIntakeDepth,
   .tollPitCfgChainTokens, .tollPitCfgChainSessions, .tollPitCfgOrdMax, .tollPitUseIntakeUsed, .tollPitUseConUsed,
   .tollPitCfg2ConMax, .tollPitAdmitCount, .tollPitDeferCount, .tollPitRefuseCount, .tollPitQuarCount,
   .tollPitLastReason, .tollPitLastAns, .tollMdlLoModel, .tollMdlLoPitch, .tollMdlLoFactor, .tollMdlLoDeferred,
   .tollMdlLoDown, .tollMdlLoFallback, .tollMdlLoStream, .tollMdlLoValid, .tollMdlHiEnergyNj, .wchStatusXtalFail,
   .wchStatusCntLost, .wchStatusHot, .wchStatusHibRefused, .wchStatusDroop, .wchOptimeLoTime, .wchOptimeHiTime,
   .wchPcycCount, .wchTimerLoTime, .wchTimerHiTime, .wchWakeEnEvents, .wchWakeCauseEvents, .wchTempCfgHot,
   .wchTempCfgCool, .wchTempNowDeg, .wchTempNowSensor, .wchHotDrainMw, .wchHibKey]

/-- Part of the list of fields. -/
def Fld.all3 : List Fld :=
  [
   .wchWresetKey, .wchStlResetStall, .wchStlResetGo, .wchSleepDozeUs, .wchSleepNapUs, .wchDozeLoMap,
   .wchDozeHiMap, .wchNapLoMap, .wchNapHiMap, .wchResetCauseLast, .wchSlotSeqSeq, .dbkStatusFull, .dbkStatusNvOff,
   .dbkStatusFlushing, .dbkStatusErasing, .dbkStatusCrcSeen, .dbkDroppedCount, .dbkBasePos, .dbkTopPos,
   .dbkLiveCount, .dbkBufCount, .dbkNslotCount, .dbkDevtagBits, .dbkClrAddrLoAddr, .dbkClrAddrHiAddr,
   .dbkClrCtrlGo, .dbkClrStatState, .dbkClrStatErr, .dbkVPosPos, .dbkVStatSkipped, .dbkVStatCrcBad, .dbkVStatOpen,
   .dbkVRewindBase, .dbkVDataBytes, .chrStatusState, .chrStatusImage, .chrStatusLocked, .chrErrCode,
   .chrErrOffOffset, .chrSizeBytes, .chrSvnSvn, .chrStartMsMs, .chrDigestBits, .chrLockSet, .chrXspiDbkDev,
   .chrXspiDbkFail, .chrXspiDummy, .chrAmdAddrLoAddr, .chrAmdAddrHiAddr, .chrAmdLenBytes, .chrAmdCtrlSubmit,
   .chrAmdCtrlApply, .chrAmdCtrlCancel, .chrAmdStatusState, .chrAmdStatusPitch, .chrAmdStatusBusyErr,
   .chrAmdErrCode, .chrAmdErrDetail, .chrAmdWaitMs, .chrPitAmdSeq]

/-- Part of the list of fields. -/
def Fld.all4 : List Fld :=
  [
   .chrPitAdigBits, .chrPitAepochEpoch, .fabCfgMode, .fabIdDevice, .fabStatusMgrSeen, .fabStatusVerLow,
   .fabStatusMoveFail, .fabTimingHbMs, .fabTimingHbMiss, .fabTimingRetryMax, .fabTimingOwnTmo, .fabLaneUpMap,
   .fabLaneOutMap, .fabMoveLoSession, .fabMoveHiSession, .fabMoveHiPitch, .fabMoveHiTarget, .fabConflictsCount,
   .fabDropCount, .fabRouteIdxIndex, .fabRouteDataPorts, .fabLnStatusUp, .fabLnStatusTraining,
   .fabLnStatusRetired, .fabLnStatusVer, .fabLnStatusPeer, .fabLnCorrCount, .fabLnUncorrCount, .fabLnRetryCount,
   .fabPortCfgPrecode, .fabPortCfgGuildEn, .fabPortCfgGuildPitch, .fabPitCfgDomainEn, .fabPitCfgRemoteIntake,
   .fabPitStatusJoined, .fabPitStatusMismatch, .fabPitStatusAmendDiff, .fabPitShardsOwned, .fabPitExcCount,
   .aszCtrlEnable, .aszStatusBusy, .aszStatusWsUncorr, .aszStatusBench, .aszEnergyReserveUj, .aszStepsCount,
   .aszCommitsCount, .aszRejectsCount, .aszSamplesCount, .aszDropsCount, .aszSatwinCount, .aszBoundCount,
   .aszPitCfgSampleShift, .aszPitCfgB1, .aszPitCfgB2, .aszPitCfgEps, .aszPitCfg2WindowMs, .aszPitCfg2Batch,
   .aszPitCfg2StepsMax, .aszPitCfg2Holdoff, .aszPitCfg3Pool]

/-- Part of the list of fields. -/
def Fld.all5 : List Fld :=
  [
   .aszPitCfg3StepUj, .aszPitCtrlKick, .aszPitCtrlFreeze, .aszPitCtrlExport, .aszPitExpLoAddr, .aszPitExpHiAddr,
   .aszPitExpSizeBytes, .aszPitExpStatBusy, .aszPitExpStatShort, .aszPitExpStatDone, .aszSlotIdModel,
   .aszSlotIdLayer, .aszSlotIdPitch, .aszSlotIdValid, .aszSlotStateState, .aszSlotStateQsteps, .aszSlotStateConst,
   .aszSlotClipShare, .aszSlotClipSpan, .aszSlotSatCount, .pitCtrlEnable, .pitStatusEnabled, .pitStatusCfgErr,
   .pitStatusSqOvf, .pitStatusVqHeadErr, .pitStatusBellBusy, .pitStatusBellOvr, .pitUnadmitCount,
   .pitSqBaseLoAddr, .pitSqBaseHiAddr, .pitSqSizeEntries, .pitSqTailCount, .pitSqHeadCount, .pitVqBaseLoAddr,
   .pitVqBaseHiAddr, .pitVqSizeEntries, .pitVqHeadCount, .pitVqTailCount, .pitIrqAddrLoAddr, .pitIrqAddrHiAddr,
   .pitIrqDataData, .pitIrqModCount, .pitIrqModUsec, .pitDelayTokenDelay, .pitOptsGradeEmpty, .pitAdmitTtlUsec,
   .pitBellRing, .pitEpochEpoch, .stlRoleRole, .stlRolePitch, .stlRoleStage, .stlRoleChain, .stlRoleAlloc,
   .stlStatusDraining, .stlStatusLoading, .stlStatusTail, .stlTailsCount, .stlUnencCount, .stlTailMaxCycles,
   .stlPushCount]

/-- Part of the list of fields. -/
def Fld.all6 : List Fld :=
  [
   .stlPushFailCount, .stlRoleChgCount, .stlChainTokCount, .stlFaultUnit, .stlFaultCause, .stlFaultTesting,
   .stlFaultRetired, .stlTransCount, .stlTestLastPass, .stlTestLastStep, .stlFaultsCount, .tknCfgInTable,
   .tknCfgOutTable, .tknCfgInValid, .tknCfgOutValid, .tknStatusCutBusy, .tknStatusJoinBusy, .tknStatusReload,
   .tknStatusUncorr, .tknBytesInCount, .tknTokensOutCount, .tknFallbackCount, .tknSplitCount, .tknJoinTokensCount,
   .tknJoinBytesCount, .sveStatusBusy, .sveStatusReload, .sveStatusUncorr, .sveCfgTables, .sveCfgModes,
   .sveByteHitsCount, .sveTokenHitsCount, .sveStopsCount, .sveBannedCount, .sveForceDevCount,
   .sveConstraintsCount, .svePassesCount, .grdStatusBusy, .grdStatusReload, .grdStatusUncorr, .grdCfgImages,
   .grdCfgBindings, .grdEvalsCount, .grdVisitsCount, .grdLookupsCount, .grdMissesCount, .grdDefaultsCount,
   .grdTailMaxCycles, .mxeStatusBusy, .mxeStatusTileErr, .mxeStatusCrcErr, .mxeStatusUncorr, .mxeCfgWfmt,
   .mxeCfgAfmt, .mxeCfgGsize, .mxeTilesCount, .mxeRowsCount, .mxeQsatCount, .mxeOsatCount, .mxeConstCount]

/-- Part of the list of fields. -/
def Fld.all7 : List Fld :=
  [
   .mxeMisalignCount, .mxeCrcCount, .mxeNanCount, .tierStlStatusWaiting, .tierStlStatusPoison, .tierStlT0UsedKib,
   .tierStlFetchCount, .tierStlLateCount, .tierStlWaitMaxCycles, .tierStlT0CorrCount]

/-- Every field. -/
def Fld.all : List Fld :=
  all0 ++ all1 ++ all2 ++ all3 ++ all4 ++ all5 ++ all6 ++ all7

/-- Copies of a field. -/
def FldDesc.addr (d : FldDesc) (i : Nat) : Nat := d.base + d.stride * (i / d.inner) + d.istride * (i % d.inner)

/-- The copy of a field that lies in the word at `a`, if one does. -/
def FldDesc.copyAt (d : FldDesc) (a : Nat) : Option Nat :=
  if a < d.base then none else
  let o := a - d.base
  let j := if d.stride == 0 then 0 else o / d.stride
  let w := if d.istride == 0 then 0 else (o - d.stride * j) / d.istride
  let i := j * d.inner + w
  if w < d.inner && i < d.count && d.addr i == a then some i else none

/-- Values the field may take (R407). -/
def FldDesc.allows (d : FldDesc) (v : Nat) : Bool :=
  v < 2 ^ d.width && ((d.vmin ≤ v && v ≤ d.vmax) || (d.zeroOk && v == 0))

end Sys2Proof.Machine
end

