-- ==== Sys2Proof/Machine/Num.lean ====
section
/-! DEFINITION. The arithmetic of the manual: integer rounding (R12, R13), the floating formats of
Table 7-1 and their conversions (R156, R157), exact sums and the correctly rounded functions of R141,
R145 and R146. -/

namespace Sys2Proof.Machine

/-! ## Integers (Table 0-8) -/

/-- `rne(v, s)`: v / 2^s to nearest, ties to even (R12). -/
def rneInt (v : Int) (s : Nat) : Int :=
  if s = 0 then v else
    let q := v >>> s
    let r := v - q * (2 : Int) ^ s
    let half := (2 : Int) ^ (s - 1)
    if r > half then q + 1 else if r = half ∧ q % 2 = 1 then q + 1 else q

/-- `clamp(v, lo, hi)` (Table 0-8). -/
def clampInt (v lo hi : Int) : Int := if v < lo then lo else if v > hi then hi else v

/-- `sat(v, w)` (Table 0-8). -/
def satInt (v : Int) (w : Nat) : Int := clampInt v (-((2 : Int) ^ (w - 1))) ((2 : Int) ^ (w - 1) - 1)

/-- n / d to nearest, ties to even, for natural numbers. -/
def rneDiv (n d : Nat) : Nat :=
  let q := n / d
  let r := n % d
  if 2 * r > d then q + 1 else if 2 * r = d ∧ q % 2 = 1 then q + 1 else q

/-! ## Dyadic numbers: m × 2^e, exactly -/

/-- An exact dyadic value `m × 2^e`. -/
structure Dy where
  m : Int
  e : Int
  deriving DecidableEq, Repr

/-- Dyadic zero. -/
def Dy.zero : Dy := ⟨0, 0⟩

/-- The mantissa of a dyadic at a lower exponent. -/
def Dy.at (x : Dy) (e : Int) : Int := x.m * (2 : Int) ^ (x.e - e).toNat

/-- Exact sum. -/
def Dy.add (x y : Dy) : Dy := let e := min x.e y.e; ⟨x.at e + y.at e, e⟩

/-- Exact negation. -/
def Dy.neg (x : Dy) : Dy := ⟨-x.m, x.e⟩

/-- Exact difference. -/
def Dy.sub (x y : Dy) : Dy := x.add y.neg

/-- Exact product. -/
def Dy.mul (x y : Dy) : Dy := ⟨x.m * y.m, x.e + y.e⟩

/-- Exact scaling by a power of two. -/
def Dy.scale (x : Dy) (k : Int) : Dy := ⟨x.m, x.e + k⟩

/-- x < y, exactly. -/
def Dy.lt (x y : Dy) : Bool := let e := min x.e y.e; x.at e < y.at e

/-- x ≤ y, exactly. -/
def Dy.le (x y : Dy) : Bool := !(y.lt x)

/-- An integer as a dyadic. -/
def Dy.ofInt (n : Int) : Dy := ⟨n, 0⟩

/-- The floor of a dyadic. -/
def Dy.floor (x : Dy) : Int := if 0 ≤ x.e then x.m * (2 : Int) ^ x.e.toNat else x.m >>> (-x.e).toNat

/-- A dyadic rounded to an integer, ties to even. -/
def Dy.rneToInt (x : Dy) : Int :=
  if 0 ≤ x.e then x.m * (2 : Int) ^ x.e.toNat else rneInt x.m (-x.e).toNat

/-! ## Floating formats (Table 7-1) -/

/-- A decoded floating value. -/
inductive FVal where
  | nan
  | inf (neg : Bool)
  | fin (neg : Bool) (v : Dy)
  deriving DecidableEq, Repr

/-- The layout of a binary floating format: `mb` fraction bits, `eb` exponent bits. -/
structure FFmt where
  eb : Nat
  mb : Nat
  /-- an all-ones exponent holds infinity and NaN (not in E4M3) -/
  ieee : Bool
  /-- a finite value beyond the range takes the largest finite value (R157) -/
  sat : Bool
  deriving DecidableEq, Repr

/-- E4M3 (code 4). -/
def fmtE4M3 : FFmt := ⟨4, 3, false, true⟩
/-- E5M2 (code 5). -/
def fmtE5M2 : FFmt := ⟨5, 2, true, true⟩
/-- BF16 (code 6). -/
def fmtBF16 : FFmt := ⟨8, 7, true, false⟩
/-- F32 (code 7). -/
def fmtF32 : FFmt := ⟨8, 23, true, false⟩

/-- The exponent bias. -/
def FFmt.bias (f : FFmt) : Int := (2 : Int) ^ (f.eb - 1) - 1

/-- The exponent of the quantum of the subnormal range. -/
def FFmt.qmin (f : FFmt) : Int := 1 - f.bias - f.mb

/-- The greatest finite magnitude code. -/
def FFmt.maxCode (f : FFmt) : Nat :=
  if f.ieee then (2 ^ f.eb - 1) * 2 ^ f.mb - 1 else 2 ^ (f.eb + f.mb) - 2

/-- The canonical NaN of the format (R157). -/
def FFmt.nanCode (f : FFmt) : Nat :=
  if f = fmtE4M3 then 0x7F else if f = fmtE5M2 then 0x7E else if f = fmtBF16 then 0x7FC0 else 0x7FC00000

/-- The code of infinity, sign bit excluded. -/
def FFmt.infCode (f : FFmt) : Nat := (2 ^ f.eb - 1) * 2 ^ f.mb

/-- The sign bit as a number. -/
def FFmt.signBit (f : FFmt) (neg : Bool) : Nat := if neg then 2 ^ (f.eb + f.mb) else 0

/-- Decode a code of a floating format (Table 7-1, subnormals kept). -/
def FFmt.decode (f : FFmt) (c : Nat) : FVal :=
  let neg := c.testBit (f.eb + f.mb)
  let ef := bits c f.mb f.eb
  let fr := c % 2 ^ f.mb
  if f.ieee ∧ ef = 2 ^ f.eb - 1 then (if fr = 0 then .inf neg else .nan)
  else if ¬ f.ieee ∧ ef = 2 ^ f.eb - 1 ∧ fr = 2 ^ f.mb - 1 then .nan
  else
    let m : Int := if ef = 0 then fr else fr + 2 ^ f.mb
    let e : Int := f.qmin + (if ef = 0 then 0 else ef - 1)
    .fin neg ⟨if neg then -m else m, e⟩

/-- The exponent of the leading bit of num / den, both positive. -/
def qLog2 (num den : Nat) : Int :=
  let e : Int := (num.log2 : Int) - den.log2
  let lt : Bool := if 0 ≤ e then num < den * 2 ^ e.toNat else num * 2 ^ (-e).toNat < den
  if lt then e - 1 else e

/-- The magnitude code of a positive rational rounded once to nearest, ties to even; unbounded above. -/
def FFmt.roundPos (f : FFmt) (num den : Nat) : Nat :=
  let e := qLog2 num den
  let q := max (e - f.mb) f.qmin
  let n := if 0 ≤ q then rneDiv num (den * 2 ^ q.toNat) else rneDiv (num * 2 ^ (-q).toNat) den
  (q - f.qmin).toNat * 2 ^ f.mb + n

/-- A rational with a sign rounded once to the format (R13, R157). -/
def FFmt.roundQ (f : FFmt) (neg : Bool) (num den : Nat) : Nat :=
  if num = 0 then f.signBit neg else
    let c := f.roundPos num den
    f.signBit neg + (if c > f.maxCode then (if f.sat then f.maxCode else f.infCode) else c)

/-- A dyadic rounded once to the format; `negZero` is the sign of an exact zero. -/
def FFmt.roundDy (f : FFmt) (x : Dy) (negZero : Bool := false) : Nat :=
  if x.m = 0 then f.signBit negZero
  else if 0 ≤ x.e then f.roundQ (x.m < 0) (x.m.natAbs * 2 ^ x.e.toNat) 1
  else f.roundQ (x.m < 0) x.m.natAbs (2 ^ (-x.e).toNat)

/-- Encode a decoded value (R157). -/
def FFmt.encode (f : FFmt) : FVal → Nat
  | .nan => f.nanCode
  | .inf neg => f.signBit neg + (if f.sat then f.maxCode else f.infCode)
  | .fin neg v => f.roundDy v neg

/-- An F32 value as 32 bits. -/
abbrev F32 := BitVec 32

/-- Decode an F32. -/
def f32Val (x : F32) : FVal := fmtF32.decode x.toNat

/-- Encode an F32. -/
def f32Enc (v : FVal) : F32 := BitVec.ofNat 32 (fmtF32.encode v)

/-- A dyadic rounded to F32. -/
def f32OfDy (x : Dy) (negZero : Bool := false) : F32 := BitVec.ofNat 32 (fmtF32.roundDy x negZero)

/-- An integer rounded to F32 (`rne(x, f32)`). -/
def f32OfInt (n : Int) : F32 := f32OfDy (.ofInt n)

/-- The canonical NaN. -/
def f32NaN : F32 := 0x7FC00000#32

/-- 1.0. -/
def f32One : F32 := 0x3F800000#32

/-- A NaN of any kind: the missing value of the Grader (R136). -/
def f32IsNaN (x : F32) : Bool := f32Val x == .nan

/-- The finite dyadic value, if there is one. -/
def FVal.dy? : FVal → Option Dy
  | .fin _ v => some v
  | _ => none

/-- A finite F32. -/
def f32Finite (x : F32) : Bool := (f32Val x).dy?.isSome

/-- x < y as IEEE 754 binary32 compares; false with a NaN. -/
def f32Lt (x y : F32) : Bool :=
  match f32Val x, f32Val y with
  | .nan, _ | _, .nan => false
  | .inf a, .inf b => a && !b
  | .inf a, .fin _ _ => a
  | .fin _ _, .inf b => !b
  | .fin _ u, .fin _ v => u.lt v

/-- x = y as IEEE 754 binary32 compares. -/
def f32Eq (x y : F32) : Bool :=
  match f32Val x, f32Val y with
  | .nan, _ | _, .nan => false
  | .inf a, .inf b => a == b
  | .fin _ u, .fin _ v => !(u.lt v) && !(v.lt u)
  | _, _ => false

/-- x ≥ y. -/
def f32Ge (x y : F32) : Bool := f32Lt y x || f32Eq x y

/-- Exact sum of two decoded values by IEEE 754; a zero sum is −0 only when both are −0 or both negative zeros. -/
def FVal.add : FVal → FVal → FVal
  | .nan, _ | _, .nan => .nan
  | .inf a, .inf b => if a == b then .inf a else .nan
  | .inf a, .fin _ _ => .inf a
  | .fin _ _, .inf b => .inf b
  | .fin a u, .fin b v =>
    let s := u.add v
    .fin (if s.m = 0 then a && b else decide (s.m < 0)) s

/-- Exact product by IEEE 754. -/
def FVal.mul : FVal → FVal → FVal
  | .nan, _ | _, .nan => .nan
  | .inf a, .inf b => .inf (a != b)
  | .inf a, .fin b v | .fin b v, .inf a => if v.m = 0 then .nan else .inf (a != b)
  | .fin a u, .fin b v => .fin (a != b) (u.mul v)

/-- Negation. -/
def FVal.neg : FVal → FVal
  | .nan => .nan
  | .inf a => .inf (!a)
  | .fin a v => .fin (!a) v.neg

/-- `rne(a × b + c, f32)`: one rounding (R141). -/
def f32Fma (a b c : F32) : F32 := f32Enc (((f32Val a).mul (f32Val b)).add (f32Val c))

/-- `rne(a + b, f32)`. -/
def f32Add (a b : F32) : F32 := f32Enc ((f32Val a).add (f32Val b))

/-- `rne(a × b, f32)`. -/
def f32Mul (a b : F32) : F32 := f32Enc ((f32Val a).mul (f32Val b))

/-- `rne(x / y, f32)` for dyadics with y ≠ 0. -/
def f32DivDy (x y : Dy) (neg : Bool) : F32 :=
  let d := x.e - y.e
  let n := x.m.natAbs
  let k := y.m.natAbs
  BitVec.ofNat 32 (if 0 ≤ d then fmtF32.roundQ neg (n * 2 ^ d.toNat) k else fmtF32.roundQ neg n (k * 2 ^ (-d).toNat))

/-- IEEE 754 division, rounded once. -/
def f32Div (a b : F32) : F32 :=
  match f32Val a, f32Val b with
  | .nan, _ | _, .nan => f32NaN
  | .inf _, .inf _ => f32NaN
  | .inf s, .fin t _ => f32Enc (.inf (s != t))
  | .fin s _, .inf t => f32Enc (.fin (s != t) .zero)
  | .fin s u, .fin t v =>
    if v.m = 0 then (if u.m = 0 then f32NaN else f32Enc (.inf (s != t))) else f32DivDy u v (s != t)

/-- `rne(1 / n, f32)`. -/
def f32Recip (n : Nat) : F32 := BitVec.ofNat 32 (fmtF32.roundQ false 1 n)

/-- The integer square root by bits, from bit `k` down. -/
def isqrtGo : Nat → Nat → Nat → Nat
  | 0, _, r => r
  | k + 1, n, r => let t := r + 2 ^ k; isqrtGo k n (if t * t ≤ n then t else r)

/-- The integer square root. -/
def isqrt (n : Nat) : Nat := isqrtGo (n.log2 / 2 + 1) n 0

/-- The correctly rounded square root of a dyadic ≥ 0 (R141, R219). -/
def f32SqrtDy (x : Dy) : F32 :=
  let odd : Nat := if x.e % 2 = 0 then 0 else 1
  let m := x.m.natAbs * 2 ^ (odd + 64)
  let h : Int := (x.e - odd - 64) / 2
  let q := isqrt m
  let s : Int := 2 * q + (if q * q = m then 0 else 1)
  f32OfDy ⟨s, h - 1⟩

/-- Square root; the caller has excluded a < 0. −0 keeps its sign. -/
def f32Sqrt (a : F32) : F32 :=
  match f32Val a with
  | .nan => f32NaN
  | .inf _ => a
  | .fin neg v => if v.m = 0 then f32Enc (.fin neg .zero) else f32SqrtDy v

/-! ## Correctly rounded functions

The exact value is computed in fixed point of `fxP` fraction bits and rounded once. The manual asks for the
correctly rounded result (R141, R146); the approximation error is far below any gap between a value of these
functions at a binary32 argument and a rounding boundary (notes/assumptions/5.md). -/

/-- Fraction bits of the fixed-point values. -/
def fxP : Nat := 512

/-- Fixed-point 1. -/
def fxOne : Int := (2 : Int) ^ fxP

/-- Σ z^(2k+1)/(2k+1), the series of atanh, from term `k`; `p` is the current odd power. -/
def fxAtanhGo : Nat → Nat → Int → Int → Int
  | 0, _, _, _ => 0
  | f + 1, k, p, z2 => p / (2 * k + 1) + fxAtanhGo f (k + 1) (p * z2 / fxOne) z2

/-- atanh z for |z| ≤ 1/3, in fixed point. -/
def fxAtanh (z : Int) : Int := fxAtanhGo 170 0 z (z * z / fxOne)

/-- ln 2 = 2 atanh(1/3). -/
def fxLn2 : Int := 2 * fxAtanh (fxOne / 3)

/-- ln v for a positive dyadic. -/
def fxLn (v : Dy) : Int :=
  let n := v.m.natAbs
  let k := n.log2
  -- n = 2^k (1 + f); z = (t − 1)/(t + 1) with t = n / 2^k in [1, 2)
  let num : Int := (n : Int) - (2 : Int) ^ k
  let den : Int := (n : Int) + (2 : Int) ^ k
  (v.e + k) * fxLn2 + 2 * fxAtanh (num * fxOne / den)

/-- Σ r^k/k! from term `k`. -/
def fxExpGo : Nat → Nat → Int → Int → Int
  | 0, _, _, _ => 0
  | f + 1, k, t, r => t + fxExpGo f (k + 1) (t * r / fxOne / (k + 1)) r

/-- A dyadic in fixed point (floor). -/
def Dy.fx (x : Dy) : Int := (x.scale fxP).floor

/-- e^x as a dyadic, for |x| at most some thousands. -/
def expDy (x : Dy) : Dy :=
  if x.m = 0 then .ofInt 1 else
    let f := x.fx
    let k := f / fxLn2
    ⟨fxExpGo 120 0 fxOne (f - k * fxLn2), k - fxP⟩

/-- ln(1 + a), correctly rounded; the caller has excluded a ≤ −1 (R141). -/
def f32Log1p (a : F32) : F32 :=
  match f32Val a with
  | .nan => f32NaN
  | .inf _ => a
  | .fin neg v => if v.m = 0 then f32Enc (.fin neg .zero) else f32OfDy ⟨fxLn ((Dy.ofInt 1).add v), -fxP⟩ neg

/-- e^s, correctly rounded; +∞ on overflow (R146). -/
def f32Exp (s : F32) : F32 :=
  match f32Val s with
  | .nan => f32NaN
  | .inf neg => if neg then 0#32 else f32Enc (.inf false)
  | .fin _ v =>
    if v.lt (.ofInt (-110)) then 0#32
    else if (Dy.ofInt 100).lt v then f32Enc (.inf false)
    else f32OfDy (expDy v)

/-- 1 / (1 + e^(−s)), correctly rounded (R146). -/
def f32Logistic (s : F32) : F32 :=
  match f32Val s with
  | .nan => f32NaN
  | .inf neg => if neg then 0#32 else f32One
  | .fin _ v =>
    if v.lt (.ofInt (-110)) then 0#32
    else if (Dy.ofInt 110).lt v then f32One
    else f32DivDy (.ofInt 1) ((Dy.ofInt 1).add (expDy v.neg)) false

/-- e^(x − top) with far smaller terms left at 0. -/
def expBelow (top x : Dy) : Dy :=
  let d := x.sub top
  if d.lt (.ofInt (-1000)) then .zero else expDy d

/-- The softmax outputs of a list of scores (R146). -/
def f32Softmax (ss : List F32) : List F32 :=
  let vs := ss.map f32Val
  let np := (vs.filter (· == .inf false)).length
  if np > 0 then vs.map (fun v => if v == .inf false then f32Recip np else 0#32)
  else
    let fs := vs.filterMap FVal.dy?
    match fs with
    | [] => ss.map (fun _ => f32Recip ss.length)
    | x :: xs =>
      let top := xs.foldl (fun a b => if a.lt b then b else a) x
      let tot := (fs.map (expBelow top)).foldl Dy.add .zero
      vs.map (fun v => match v with
        | .fin _ u => let e := expBelow top u; if e.m = 0 then 0#32 else f32DivDy e tot false
        | _ => 0#32)

/-! ## Conversions by format code (R156, R157) -/

/-- The range of an integer format code (Table 7-1). -/
def intRange : Nat → Option (Int × Int)
  | 0 => some (-8, 7)
  | 1 => some (0, 15)
  | 2 => some (-128, 127)
  | 3 => some (0, 255)
  | _ => none

/-- The floating layout of a format code. -/
def floatFmt : Nat → Option FFmt
  | 4 => some fmtE4M3
  | 5 => some fmtE5M2
  | 6 => some fmtBF16
  | 7 => some fmtF32
  | _ => none

/-- Bits per element of a format code (Table 7-1). -/
def fmtBits : Nat → Nat
  | 0 | 1 => 4
  | 2 | 3 | 4 | 5 => 8
  | 6 => 16
  | _ => 32

/-- The signed value of an integer-format code. -/
def intOfCode (fmt c : Nat) : Int :=
  match fmt with
  | 0 => if c % 16 ≥ 8 then (c % 16 : Int) - 16 else (c % 16 : Int)
  | 1 => (c % 16 : Int)
  | 2 => if c % 256 ≥ 128 then (c % 256 : Int) - 256 else (c % 256 : Int)
  | _ => (c % 256 : Int)

/-- A BF16 as a decoded value. -/
def bf16Val (c : Nat) : FVal := fmtBF16.decode (c % 65536)

/-- A BF16 that is finite with sign 0: a scale (R161, R165). -/
def bf16Scale (c : Nat) : Bool := c < 0x7F80

/-- A BF16 widened exactly to F32 (R136). -/
def f32OfBf16 (c : Nat) : F32 := f32Enc (bf16Val c)

end Sys2Proof.Machine
end

