-- ==== Sys2Proof/Machine/GraderEval.lean ====
section
/-! DEFINITION. Ensemble images, stock tables, the Measure stage, the trees, the link functions and the
decision rules (06_grader.md). -/

namespace Sys2Proof.Machine

/-- An entry of the input map (Table 6-2). -/
structure InputEnt where
  src : Nat
  bind : Nat
  index : Nat
  deriving DecidableEq, Repr

/-- A Measure operation (Table 6-6). -/
structure MeasureOp where
  op : Nat
  clip : Bool
  inA : Nat
  inB : Nat
  card : Nat
  p0 : Nat
  p1 : Nat
  lo : F32
  hi : F32
  deriving DecidableEq, Repr

/-- A tree node (Table 6-8). -/
structure TreeNode where
  type : Nat
  dflt : Bool
  feature : Nat
  setWordsM1 : Nat
  /-- leaf value or threshold -/
  value : F32
  setOffset : Nat
  left : Nat
  right : Nat
  deriving DecidableEq, Repr

/-- A tree table entry (R143). -/
structure TreeEnt where
  root : Nat
  out : Nat
  depth : Nat
  deriving DecidableEq, Repr

/-- A stock binding (R138); none for an unused binding. -/
structure StockBind where
  stockId : Nat
  keySrc : Nat
  keyArg : Nat
  deriving DecidableEq, Repr

/-- A decision rule (R147). -/
structure DecRule where
  test : Nat
  sel : Nat
  code : Nat
  operand : Nat
  deriving DecidableEq, Repr

/-- A verified ensemble image (R133). -/
structure Ensemble where
  id : Nat
  nout : Nat
  link : Nat
  inputs : List InputEnt
  binds : List (Option StockBind)
  measure : List MeasureOp
  edges : List F32
  trees : List TreeEnt
  nodes : List TreeNode
  cat : List Nat
  base : List F32
  rules : List DecRule
  dflt : Nat
  /-- bytes of the image, and its section's DIGEST (R328) -/
  len : Nat := 0
  digest : List Byte := []
  deriving DecidableEq, Repr

/-- A slot of a stock bucket (R137). -/
structure StockSlot where
  key : Nat
  row : Nat
  valid : Bool
  deriving DecidableEq, Repr

/-- A verified stock table (R137): buckets of 8 slots, rows widened to F32. -/
structure StockTable where
  id : Nat
  ncol : Nat
  buckets : List (List StockSlot)
  rows : List (List F32)
  /-- place of the buckets and rows in the table, and bytes of a row -/
  offBucket : Nat := 0
  offRow : Nat := 0
  stride : Nat := 0
  /-- bytes of the table, and the CRC words of its 4 KiB lines -/
  len : Nat := 0
  crcs : List Nat := []
  deriving DecidableEq, Repr

/-- Byte ranges of the table a lookup reads: its bucket, and its row (R139). -/
def StockTable.reads (t : StockTable) (key : Nat) : List (Nat × Nat) :=
  let n := t.buckets.length
  let b := if n ≤ 1 then 0 else hashTop key n.log2
  (t.offBucket + 128 * b, 128) :: (match (t.buckets.getD b []).find? (fun s => s.valid && s.key == key) with
    | some s => [(t.offRow + s.row * t.stride, t.stride)]
    | none => [])

/-- `lookup(key)` (R139): the row, or a miss. -/
def StockTable.lookup (t : StockTable) (key : Nat) : Option (List F32) :=
  let n := t.buckets.length
  let b := if n ≤ 1 then 0 else hashTop key n.log2
  ((t.buckets.getD b []).find? (fun s => s.valid && s.key == key)).bind (fun s => t.rows[s.row]?)

/-- What one request gives the Grader (Table 6-3); `none` inputs are missing (R136). -/
structure GradeIn where
  enc : List F32
  hits : List Nat
  req : List Nat
  sess : List F32
  /-- the row of each binding, `none` on a miss -/
  stock : List (Option (List F32))
  deriving DecidableEq, Repr

/-- The value of one input (R135, R136): NaN is the missing value. -/
def inputValue (g : GradeIn) (e : InputEnt) : F32 :=
  let v := match e.src with
    | 0 => g.enc.getD e.index f32NaN
    | 1 => f32OfInt (g.hits.getD e.index 0)
    | 2 => match g.stock.getD e.bind none with | none => f32NaN | some r => r.getD e.index f32NaN
    | 3 => f32OfInt (g.req.getD e.index 0)
    | _ => g.sess.getD e.index f32NaN
  if f32IsNaN v then f32NaN else v

/-- The integer value of an F32, if it is one. -/
def f32Int? (x : F32) : Option Int :=
  match f32Val x with
  | .fin _ v => if (Dy.ofInt v.floor).lt v then none else some v.floor
  | _ => none

/-- The result of a Measure operation before CLIP (Table 6-7). -/
def measureRaw (edges : List F32) (o : MeasureOp) (a b : F32) : F32 :=
  let na := f32IsNaN a
  if o.op = 7 then (if na then f32One else 0#32)
  else if na then f32NaN
  else match o.op with
    | 0 => a
    | 1 => let y := f32Fma (.ofNat 32 o.p0) a (.ofNat 32 o.p1); if f32IsNaN y then f32NaN else y
    | 2 => match f32Val a with
      | .inf neg => if neg then f32NaN else a
      | .fin _ v => if v.le (.ofInt (-1)) then f32NaN else f32Log1p a
      | .nan => f32NaN
    | 3 => match f32Val a with
      | .inf neg => if neg then f32NaN else a
      | .fin _ v => if v.m < 0 then f32NaN else f32Sqrt a
      | .nan => f32NaN
    | 4 => f32OfInt (((edges.drop o.p0).take o.card).filter (f32Ge a)).length
    | 5 => if f32IsNaN b then f32NaN else
      match f32Int? a, f32Int? b with
      | some x, some y =>
        if 0 ≤ x ∧ 0 ≤ y ∧ y ≤ o.card ∧ x * (o.card + 1) + y < 2 ^ 24 then f32Fma a (f32OfInt (o.card + 1)) b else f32NaN
      | _, _ => f32NaN
    | _ => if f32IsNaN b then f32NaN else if f32Eq b 0#32 then f32NaN else f32Div a b

/-- A Measure operation with CLIP (R141). -/
def measureFeat (edges : List F32) (ins : List F32) (o : MeasureOp) : F32 :=
  let y := measureRaw edges o (ins.getD o.inA f32NaN) (ins.getD o.inB f32NaN)
  if o.clip && !f32IsNaN y then (if f32Lt y o.lo then o.lo else if f32Lt o.hi y then o.hi else y) else y

/-- Does a node send its value right, and did it follow DEFAULT? (R144) -/
def nodeRight (cat : List Nat) (feats : List F32) (n : TreeNode) : Bool × Bool :=
  let x := feats.getD n.feature f32NaN
  if n.type = 1 then
    if f32IsNaN x then (n.dflt, true) else (!(f32Lt x n.value), false)
  else
    match f32Int? x with
    | some c =>
      if 0 ≤ c ∧ c < 64 * (n.setWordsM1 + 1) then
        ((cat.getD (n.setOffset + c.toNat / 64) 0).testBit (c.toNat % 64), false)
      else (n.dflt, true)
    | none => (n.dflt, true)

/-- What a walk of one tree gives: leaf value, nodes read, DEFAULTs followed. -/
structure Walk where
  leaf : F32
  visits : Nat
  defaults : Nat
  deriving DecidableEq, Repr

/-- `eval_tree` from node `n`, with fuel for the deepest tree (R144). -/
def walkTree (e : Ensemble) (feats : List F32) : Nat → Nat → Walk
  | 0, _ => ⟨0#32, 0, 0⟩
  | f + 1, i =>
    match e.nodes[i]? with
    | none => ⟨0#32, 0, 0⟩
    | some n =>
      if n.type = 0 then ⟨n.value, 1, 0⟩ else
        let r := nodeRight e.cat feats n
        let w := walkTree e feats f (if r.1 then n.right else n.left)
        ⟨w.leaf, w.visits + 1, w.defaults + b2n r.2⟩

/-- The exact sum of F32 terms rounded once; −0 only when every term is −0 (R145). -/
def exactSum (xs : List F32) : F32 :=
  let t := (xs.filterMap (fun x => (f32Val x).dy?)).foldl Dy.add .zero
  f32OfDy t (xs.all (fun x => x == 0x80000000#32))

/-- The link function (R146). -/
def linkOut (link : Nat) (ss : List F32) : List F32 :=
  match link with
  | 0 => ss
  | 1 => ss.map f32Logistic
  | 2 => f32Softmax ss
  | _ => ss.map f32Exp

/-- The result of grading. -/
structure Grade where
  outs : List F32
  code : Nat
  rule : Nat
  visits : Nat
  defaults : Nat
  lookups : Nat
  misses : Nat
  deriving DecidableEq, Repr

/-- Does a decision rule hold? (R147) -/
def DecRule.holds (r : DecRule) (outs : List F32) (hits : List Nat) (flags : Nat) : Bool :=
  match r.test with
  | 0 => f32Ge (outs.getD r.sel f32NaN) (.ofNat 32 r.operand)
  | 1 => hits.getD r.sel 0 ≥ r.operand
  | _ => (flags &&& r.operand) != 0

/-- The first rule that holds gives VCODE and RULE; otherwise DEFAULT and 0 (R147). -/
def decideCode (e : Ensemble) (outs : List F32) (hits : List Nat) (flags : Nat) : Nat × Nat :=
  match firstIdx (fun r => r.holds outs hits flags) e.rules with
  | some i => ((e.rules[i]?.map (·.code)).getD 0, i + 1)
  | none => (e.dflt, 0)

/-- Bindings that some input names (R139). -/
def usedBinds (e : Ensemble) : List Nat :=
  (List.range 8).filter (fun b => (e.binds.getD b none).isSome && e.inputs.any (fun i => i.src == 2 && i.bind == b))

/-- Grade a request (R135 to R147). STOCK_MISS (flag 5) is set before the rules look at the flags. -/
def Ensemble.grade (e : Ensemble) (g : GradeIn) (flags : Nat) : Grade :=
  let used := usedBinds e
  let miss := (used.filter (fun b => (g.stock.getD b none).isNone)).length
  let flags := if miss > 0 then flags ||| 32 else flags
  let ins := e.inputs.map (inputValue g)
  let feats := e.measure.map (measureFeat e.edges ins)
  let walks := e.trees.map (fun t => (t.out, walkTree e feats 34 t.root))
  let score (o : Nat) : F32 := exactSum (e.base.getD o 0#32 :: (walks.filter (·.1 == o)).map (·.2.leaf))
  let outs := linkOut e.link ((List.range e.nout).map score)
  let d := decideCode e outs g.hits flags
  { outs, code := d.1, rule := d.2, visits := (walks.map (·.2.visits)).sum, defaults := (walks.map (·.2.defaults)).sum,
    lookups := used.length, misses := miss }

end Sys2Proof.Machine
end

