-- ==== Sys2Proof/Machine/Mxe.lean ====
section
/-! DEFINITION. The matrix engine: engine tiles and their checks (R159 to R164), activation rows (R165),
the integer and floating paths (R170 to R174) and the split layout (R167 to R169). -/

namespace Sys2Proof.Machine

/-- An output-block entry of one column (R162). -/
structure OutEnt where
  mOut : Nat
  shOut : Nat
  oscale : Nat
  bias : Nat
  deriving DecidableEq, Repr

/-- An engine tile, unpacked (Table 7-3). -/
structure Tile where
  model : Nat
  layer : Nat
  trow : Nat
  tcol : Nat
  wfmt : Nat
  afmt : Nat
  gsize : Nat
  final : Bool
  kValid : Nat
  nValid : Nat
  qfrac : Nat
  ofmt : Nat
  zout : Int
  bseq : Nat
  ascale : Nat
  len : Nat
  /-- Element codes, index `k * 64 + n` (R160). -/
  data : List Nat
  /-- BF16 weight scales, index `g * 64 + n` (R161). -/
  scales : List Nat
  /-- Column sums, index `g * 64 + n`; empty when CSUM = 0. -/
  csums : List Int
  out : List OutEnt
  deriving DecidableEq, Repr

/-- Group size of a GSIZE code. -/
def groupSize (c : Nat) : Nat := 32 * 2 ^ c

/-- The integer formats (Table 7-1). -/
def isIntFmt (f : Nat) : Bool := f < 4

/-- Pairs of weight and activation format (Table 7-2). -/
def pairOk (w a : Nat) : Bool :=
  match w with
  | 0 | 2 => isIntFmt a
  | 4 | 5 => a == 4 || a == 5
  | 6 => a == 6
  | 7 => a == 7
  | _ => false

/-- A byte as two's complement. -/
def signedOf (bits' v : Nat) : Int := if v < 2 ^ (bits' - 1) then v else (v : Int) - (2 : Int) ^ bits'

/-- Element codes packed by R156. -/
def unpack (fmt : Nat) (b : List Byte) : List Nat :=
  if fmtBits fmt == 4 then b.flatMap (fun x => [x.toNat % 16, x.toNat / 16])
  else (chunks (fmtBits fmt / 8) (b.length / (fmtBits fmt / 8)) b).map leNat

/-- Lengths the header must state (Table 7-3): data, tally, output block, padded whole. -/
def tileLens (wfmt ngroup : Nat) (csum final : Bool) : Nat × Nat × Nat × Nat :=
  let d := 1024 * fmtBits wfmt
  let t := ngroup * 128 + (if csum then ngroup * 256 else 0)
  let o := if final then 1024 else 0
  (d, t, o, ceilDiv (64 + d + t + o) 256 * 256)

/-- The tile of a byte string, its fields taken as they stand. -/
def tileRead (b : List Byte) : Tile :=
  let wfmt := bits (getLe b 8 1) 0 3
  let csum := bit (getLe b 9 1) 2
  let final := bit (getLe b 9 1) 3
  let ng := getLe b 10 1
  let ofmt := bits (getLe b 14 1) 0 3
  let (d, t, o, l) := tileLens wfmt ng csum final
  let tally := (b.drop (64 + d)).take t
  let ob := (b.drop (64 + d + t)).take o
  { model := bits (getLe b 0 2) 0 12, layer := bits (getLe b 2 2) 0 10, trow := getLe b 4 2, tcol := getLe b 6 2
    wfmt, afmt := bits (getLe b 8 1) 3 3, gsize := bits (getLe b 9 1) 0 2, final
    kValid := getLe b 11 1, nValid := getLe b 12 1, qfrac := bits (getLe b 13 1) 0 6, ofmt
    zout := if ofmt == 0 || ofmt == 2 then signedOf 8 (getLe b 15 1) else getLe b 15 1
    bseq := getLe b 16 2, ascale := getLe b 18 2, len := l
    data := unpack wfmt ((b.drop 64).take d)
    scales := (chunks 2 (ng * 64) (tally.take (ng * 128))).map leNat
    csums := if csum then (chunks 4 (ng * 64) (tally.drop (ng * 128))).map (fun x => signedOf 32 (leNat x)) else []
    out := (chunks 16 (o / 16) ob).map (fun e => ⟨getLe e 0 4, bits (getLe e 4 1) 0 6, getLe e 6 2, getLe e 8 8⟩) }

/-- Rows of group `g` that are valid. -/
def Tile.groupRows (t : Tile) (g : Nat) : List Nat :=
  (List.range (groupSize t.gsize)).filterMap (fun j =>
    let k := g * groupSize t.gsize + j
    if k < t.kValid then some k else none)

/-- Groups along K. -/
def Tile.ngroup (t : Tile) : Nat := ceilDiv t.kValid (groupSize t.gsize)

/-- Place of group `g` of this tile among the row's group words: a full slice of 128 holds 128 / group size of them. -/
def Tile.wordAt (t : Tile) (g : Nat) : Nat := t.trow * (128 / groupSize t.gsize) + g

/-- Sum of the weights of a group and column (R161). -/
def Tile.weightSum (t : Tile) (g n : Nat) : Int :=
  (t.groupRows g).foldl (fun a k => a + intOfCode t.wfmt (t.data.getD (k * 64 + n) 0)) 0

/-- A finite BF16 of either sign. -/
def bf16Finite (c : Nat) : Bool := c % 32768 < 0x7F80

/-- An output entry obeys R162. -/
def outEntOk (b : List Byte) (t : Tile) (n : Nat) : Bool :=
  if t.nValid ≤ n then zeroRun b 0 16
  else getLe b 4 1 < 64 && getLe b 5 1 == 0
    && (if isIntFmt t.ofmt then getLe b 6 2 == 0 else bf16Finite (getLe b 6 2))
    && (isIntFmt t.wfmt || getLe b 12 4 == 0)

/-- The ranges of Table 7-3 and R158 to R163 that one tile shows by itself. An ASCALE of 0x0000 with an integer OFMT passes, a
weight scale of 0x0000 passes whatever the weights, and scales and column sums are held to R161 in every column, those at or
above N_VALID too: DESIGN CHOICE (notes/assumptions/121.md). -/
def tileRangesOk (b : List Byte) : Bool :=
  let t := tileRead b
  let csum := bit (getLe b 9 1) 2
  let (d, ta, o, l) := tileLens t.wfmt (getLe b 10 1) csum t.final
  bits (getLe b 0 2) 12 4 == 0 && bits (getLe b 2 2) 10 6 == 0 && bits (getLe b 8 1) 6 2 == 0
  && bits (getLe b 9 1) 4 4 == 0 && bits (getLe b 13 1) 6 2 == 0 && bits (getLe b 14 1) 3 5 == 0
  && zeroRun b 36 20
  && pairOk t.wfmt t.afmt && t.gsize < 3 && csum == isIntFmt t.afmt
  && 1 ≤ t.kValid && t.kValid ≤ 128 && 1 ≤ t.nValid && t.nValid ≤ 64
  && getLe b 10 1 == t.ngroup
  && (if t.final then (!isIntFmt t.ofmt || isIntFmt t.wfmt) else t.ofmt == 0)
  && (if t.final && isIntFmt t.ofmt then
        ((intRange t.ofmt).map (fun r => r.1 ≤ t.zout && t.zout ≤ r.2)).getD false && bf16Scale t.ascale
      else getLe b 15 1 == 0 && t.ascale == 0)
  && getLe b 20 4 == d && getLe b 24 4 == ta && getLe b 28 4 == o && getLe b 32 4 == l && b.length == l
  && t.scales.all bf16Scale
  && (List.range (t.csums.length)).all (fun i => t.csums.getD i 0 == t.weightSum (i / 64) (i % 64))
  && (List.range (o / 16)).all (fun n => outEntOk ((b.drop (64 + d + ta + 16 * n)).take 16) t n)
  && (b.drop (64 + d + ta + o)).all (· == 0#8)

/-- HCRC holds (R159). -/
def tileHcrcOk (b : List Byte) : Bool := crc32c (b.take 60) == getLe b 60 4

/-- CRC holds (R159): data, tally and output block, as long as the header states. -/
def tileCrcOk (b : List Byte) : Bool :=
  crc32c ((b.drop 64).take (getLe b 20 4 + getLe b 24 4 + getLe b 28 4)) == getLe b 56 4

/-- Outcome of the check made when a tile is written into T0 or T1 (R164). -/
inductive TileCheck where
  | good | poisoned | malformed
  deriving DecidableEq, Repr

/-- The checks of R164 on a tile that was asked for as (model, layer, trow, tcol, bseq). One that both fails its CRC or its
identity and breaks a range counts as poisoned, DESIGN CHOICE (notes/assumptions/121.md). -/
def tileCheck (b : List Byte) (model layer trow tcol bseq : Nat) : TileCheck :=
  let t := tileRead b
  let asked := t.model == model && t.layer == layer && t.trow == trow && t.tcol == tcol && t.bseq == bseq
  if !(tileHcrcOk b && tileCrcOk b && asked) then .poisoned
  else if tileRangesOk b then .good else .malformed

/-- An activation row: element codes and group words (R165). -/
structure ActRow where
  codes : List Nat
  words : List Nat
  deriving DecidableEq, Repr

/-- A group word R165 allows for a format. -/
def groupWordOk (fmt w : Nat) : Bool :=
  let sc := w % 65536
  let zp := w / 65536
  if isIntFmt fmt then
    if sc == 0 then bf16Finite zp
    else bf16Scale sc && ((intRange fmt).map (fun r => r.1 ≤ signedOf 16 zp && signedOf 16 zp ≤ r.2)).getD false
  else zp == 0 && bf16Scale sc

/-- Significand and exponent of a BF16 magnitude (R170). -/
def splitBf16 (b : Nat) : Nat × Int :=
  let ef := bits b 7 8
  let f := bits b 0 7
  if ef == 0 then (f, -126) else (f + 128, (ef : Int) - 127)

/-- Events one row leaves in the stall's counters. -/
structure MxeCount where
  qsat : Nat := 0
  osat : Nat := 0
  konst : Nat := 0
  nan : Nat := 0
  /-- finite values a floating OFMT saturated (R210) -/
  clip : Nat := 0
  deriving DecidableEq, Repr

/-- The last lines of contribution(): round right, or shift left and saturate (R171). The flag is a saturation. -/
def shiftContribution (v sh : Int) : Int × Bool :=
  if sh > 47 then (0, false)
  else if sh ≥ 0 then (rneInt v sh.toNat, false)
  else
    let x := v * (2 : Int) ^ (-sh).toNat
    (satInt x 64, satInt x 64 != x)

/-- Contribution of group `g` to column `n` of the Q-acc (R171). -/
def contribution (t : Tile) (row : ActRow) (g n : Nat) : Int × Bool :=
  let sw := t.scales.getD (g * 64 + n) 0
  if sw == 0 then (0, false) else
  let (mw, ew) := splitBf16 sw
  let word := row.words.getD (t.wordAt g) 0
  let sa := word % 65536
  let zp := word / 65536
  let cs := t.csums.getD (g * 64 + n) 0
  if sa == 0 then
    let (mc, ec) := splitBf16 (zp % 32768)
    let s := if zp < 32768 then cs else -cs
    shiftContribution (s * (mc * mw)) (14 - ec - ew - t.qfrac)
  else
    let dot := (t.groupRows g).foldl (fun a k =>
      a + intOfCode t.afmt (row.codes.getD (t.trow * 128 + k) 0) * intOfCode t.wfmt (t.data.getD (k * 64 + n) 0)) 0
    let s := dot - signedOf 16 zp * cs
    let (ma, ea) := splitBf16 sa
    shiftContribution (s * (ma * mw)) (14 - ea - ew - t.qfrac)

/-- A saturating Q-acc addition and whether it saturated (R172). -/
def qAdd (q c : Int) : Int × Bool := (satInt (q + c) 64, satInt (q + c) 64 != q + c)

/-- One group added to the Q-acc, with its counts. -/
def qStep (t : Tile) (row : ActRow) (n : Nat) (acc : Int × MxeCount) (g : Nat) : Int × MxeCount :=
  let (c, s1) := contribution t row g n
  let (q, s2) := qAdd acc.1 c
  let isConst := row.words.getD (t.wordAt g) 0 % 65536 == 0 && t.scales.getD (g * 64 + n) 0 != 0
  (q, { acc.2 with qsat := acc.2.qsat + b2n s1 + b2n s2, konst := acc.2.konst + b2n isConst })

/-- requant() (R173). -/
def requant (q : Int) (e : OutEnt) (ofmt : Nat) (zout : Int) : Int × Bool :=
  let r := rneInt (q * e.mOut) e.shOut + zout
  match intRange ofmt with
  | some (lo, hi) => (clampInt r lo hi, clampInt r lo hi != r)
  | none => (r, false)

/-- The code of an integer in a format. -/
def codeOfInt (fmt : Nat) (v : Int) : Nat := (v % (2 : Int) ^ fmtBits fmt).toNat

/-- A finite value beyond the range of a format that saturates (R157). -/
def FFmt.beyond (f : FFmt) (y : Dy) : Bool :=
  f.sat && (match (f.decode f.maxCode).dy? with
    | some m => m.lt y || y.lt m.neg
    | none => false)

/-- Column `n` of an integer tile column up to its bias: the Q-acc and its counts (R172). -/
def intAcc (tiles : List Tile) (row : ActRow) (n : Nat) : Int × MxeCount :=
  let (q, k) := tiles.foldl (fun a t => (List.range t.ngroup).foldl (qStep t row n) a) (0, {})
  match tiles.find? (·.final) with
  | none => (q, k)
  | some f =>
    let (q, s) := qAdd q (signedOf 64 (f.out.getD n ⟨0, 0, 0, 0⟩).bias)
    (q, { k with qsat := k.qsat + b2n s })

/-- Column `n` of an integer tile column: output code and counts (R172, R173). -/
def intColumn (tiles : List Tile) (row : ActRow) (n : Nat) : Nat × MxeCount :=
  let (q, k) := intAcc tiles row n
  match tiles.find? (·.final) with
  | none => (0, k)
  | some f =>
    let e := f.out.getD n ⟨0, 0, 0, 0⟩
    match floatFmt f.ofmt with
    | none =>
      let (v, c) := requant q e f.ofmt f.zout
      (codeOfInt f.ofmt v, { k with osat := k.osat + b2n c })
    | some ff =>
      match (bf16Val e.oscale).dy? with
      | some o =>
        let y := Dy.mul ⟨q, -(f.qfrac : Int)⟩ o
        (ff.roundDy y, { k with clip := k.clip + b2n (ff.beyond y) })
      | none => (ff.nanCode, k)

/-- group_fp() (R174). -/
def groupFp (t : Tile) (row : ActRow) (g n : Nat) : F32 :=
  let sw := t.scales.getD (g * 64 + n) 0
  let sa := row.words.getD (t.wordAt g) 0 % 65536
  if sw == 0 || sa == 0 then 0#32 else
  match floatFmt t.wfmt, floatFmt t.afmt with
  | some fw, some fa =>
    let d := (t.groupRows g).foldl (fun acc k =>
      acc.add ((fa.decode (row.codes.getD (t.trow * 128 + k) 0)).mul (fw.decode (t.data.getD (k * 64 + n) 0))))
      (f32Val 0#32)
    f32Enc ((d.mul (bf16Val sa)).mul (bf16Val sw))
  | _, _ => f32NaN

/-- Column `n` of a floating tile column up to its bias (R174). -/
def fpAcc (tiles : List Tile) (row : ActRow) (n : Nat) : F32 :=
  let acc := tiles.foldl (fun a t => (List.range t.ngroup).foldl (fun a g => f32Add a (groupFp t row g n)) a) 0#32
  match tiles.find? (·.final) with
  | none => acc
  | some f => f32Add acc (.ofNat 32 ((f.out.getD n ⟨0, 0, 0, 0⟩).bias % 2 ^ 32))

/-- Column `n` of a floating tile column (R174). -/
def fpColumn (tiles : List Tile) (row : ActRow) (n : Nat) : Nat × MxeCount :=
  let acc := fpAcc tiles row n
  match tiles.find? (·.final) with
  | none => (acc.toNat, {})
  | some f =>
    let e := f.out.getD n ⟨0, 0, 0, 0⟩
    match floatFmt f.ofmt with
    | none => (0, {})
    | some ff =>
      let v := (f32Val acc).mul (bf16Val e.oscale)
      let y := ff.encode v
      (y, { nan := b2n (y == ff.nanCode), clip := b2n ((v.dy?.map ff.beyond).getD false) })

def MxeCount.add (a b : MxeCount) : MxeCount := 
  ⟨a.qsat + b.qsat, a.osat + b.osat, a.konst + b.konst, a.nan + b.nan, a.clip + b.clip⟩

/-- A tile column that takes integer activations. -/
def intPath (tiles : List Tile) : Bool := (tiles.head?.map (fun t => isIntFmt t.afmt)).getD true

/-- A run of columns of one tile column. -/
def columnsRun (tiles : List Tile) (row : ActRow) (ns : List Nat) : List Nat × MxeCount :=
  ns.foldl (fun a n =>
    let r := if intPath tiles then intColumn tiles row n else fpColumn tiles row n
    (a.1 ++ [r.1], a.2.add r.2)) ([], {})

/-- Index of the first produced group of tile column `j` (R217). -/
def firstGroup (j gsize : Nat) : Nat := 64 * j / groupSize gsize

/-- Group words a producing tile column writes for its outputs (R166); `konst g` is the Assize's marker of produced group
g. A group of 128 spans two columns and has one word, that of the even one. -/
def outWords (f : Tile) (j gsize : Nat) (konst : Nat → Option Nat) : List Nat :=
  if groupSize gsize == 128 && j % 2 == 1 then [] else
  (List.range (ceilDiv f.nValid (groupSize gsize))).map (fun g =>
    match konst (firstGroup j gsize + g) with
    | some c => c * 65536
    | none => f.ascale + (f.zout % 65536).toNat * 65536)

/-- One layer on one row: its tile columns in order, each with its tiles in ascending TROW. -/
def layerRow (cols : List (List Tile)) (gsize : Nat) (konst : Nat → Option Nat) (row : ActRow) : ActRow × MxeCount :=
  (List.range cols.length).foldl (fun a j =>
    let tiles := cols.getD j []
    match tiles.find? (·.final) with
    | none => a
    | some f =>
      let r := columnsRun tiles row (List.range f.nValid)
      (⟨a.1.codes ++ r.1, a.1.words ++ outWords f j gsize konst⟩, a.2.add r.2)) (⟨[], []⟩, {})

/-! ### Split layout -/

/-- How a split payload ends (R168, R169). -/
inductive SplitDefect where
  | misalign (expected found pair : Nat)
  | tile (off : Nat)
  | limit (rows : Nat)
  deriving DecidableEq, Repr

/-- What a VECTOR model expects of a split payload: format, group code, K and rows of its first layer (R167). -/
structure SplitSpec where
  fmt : Nat
  gsize : Nat
  k : Nat
  rows : Nat
  deriving DecidableEq, Repr

/-- Slices along K. -/
def SplitSpec.slices (p : SplitSpec) : Nat := ceilDiv p.k 128

/-- Group words per row in K slice `s` (R167). -/
def SplitSpec.groups (p : SplitSpec) (s : Nat) : Nat := ceilDiv (min 128 (p.k - 128 * s)) (groupSize p.gsize)

/-- Rows of row block `r`. -/
def blockRows (rows r : Nat) : Nat := min 16 (rows - 16 * r)

/-- Body bytes of block `i`, data or scale. -/
def SplitSpec.bodyLen (p : SplitSpec) (rows i : Nat) (scale : Bool) : Nat :=
  let r := blockRows rows (i / p.slices)
  if scale then 4 * r * p.groups (i % p.slices) else r * 16 * fmtBits p.fmt

/-- Offsets of the blocks of a stream from its first byte. -/
def SplitSpec.offsets (p : SplitSpec) (rows : Nat) (scale : Bool) : Nat → List Nat
  | 0 => [0]
  | n + 1 =>
    let o := SplitSpec.offsets p rows scale n
    o ++ [o.getLastD 0 + 16 + p.bodyLen rows n scale]

/-- Defects of a block header at offset `o`, each with its payload offset. `e` is the expected SEQ. -/
def blockDefects (p : SplitSpec) (b : List Byte) (rows o i : Nat) (scale : Bool) : List Nat :=
  let c (ok : Bool) (k : Nat) : List Nat := if ok then [] else [o + k]
  c (getLe b (o + 2) 1 == b2n scale) 2 ++ c (getLe b (o + 3) 1 == 0) 3
  ++ c (getLe b (o + 4) 4 == 16 * (i / p.slices)) 4 ++ c (getLe b (o + 8) 2 == i % p.slices) 8
  ++ c (getLe b (o + 10) 1 == blockRows rows (i / p.slices)) 10
  ++ (List.range 5).flatMap (fun j => c (getLe b (o + 11 + j) 1 == 0) (11 + j))

/-- Group words of scale block `i` at `o` that R165 does not allow. -/
def wordDefects (p : SplitSpec) (b : List Byte) (rows o i : Nat) : List Nat :=
  (List.range (p.bodyLen rows i true / 4)).filterMap (fun j =>
    if groupWordOk p.fmt (getLe b (o + 16 + 4 * j) 4) then none else some (o + 16 + 4 * j))

/-- Earliest of candidate defects by payload offset (R169). -/
def earliest (xs : List (Nat × SplitDefect)) : Option SplitDefect :=
  (xs.foldl (fun a x => match a with
    | none => some x
    | some y => if x.1 < y.1 then some x else some y) none).map (·.2)

/-- The defect that decides a split payload, if it has one (R167 to R169). Bytes of a header field that lie past a short
TOTAL_LEN read as 0, DESIGN CHOICE (notes/assumptions/121.md). A mismatch of SEQ needs both blocks of its pair. -/
def splitDefect (p : SplitSpec) (b : List Byte) : Option SplitDefect :=
  let dl := getLe b 16 4
  let sl := getLe b 20 4
  let rows := getLe b 4 4
  let c (ok : Bool) (k : Nat) : List (Nat × SplitDefect) := if ok then [] else [(k, .tile k)]
  let head :=
    c (getLe b 0 1 == p.fmt) 0 ++ c (getLe b 1 1 == p.gsize) 1 ++ c (getLe b 2 1 == 0) 2 ++ c (getLe b 3 1 == 0) 3
    ++ (if rows > p.rows then [(4, .limit rows)] else c (1 ≤ rows) 4)
    ++ c (getLe b 8 4 == p.k) 8 ++ c (getLe b 14 1 == 0) 14 ++ c (getLe b 15 1 == 0) 15
    ++ (List.range 40).flatMap (fun j => c (getLe b (24 + j) 1 == 0) (24 + j))
    ++ c (b.length == 64 + dl + sl) (min b.length (64 + dl + sl))
  let n := if head.any (fun d => d.1 < 12) then 0 else ceilDiv rows 16 * p.slices
  let dOff := p.offsets rows false n
  let sOff := p.offsets rows true n
  let lens := if n == 0 then [] else c (dl == dOff.getLastD 0) 16 ++ c (sl == sOff.getLastD 0) 20
  let blocks := (List.range n).flatMap (fun i =>
    let od := 64 + dOff.getD i 0
    let os := 64 + dl + sOff.getD i 0
    let e := (getLe b 12 2 + i) % 65536
    let dSeq := getLe b od 2
    let sSeq := getLe b os 2
    let both := od + 16 + p.bodyLen rows i false ≤ b.length && os + 16 + p.bodyLen rows i true ≤ b.length
    (if !both then [] else if dSeq != e then [(od, .misalign e dSeq i)] else if sSeq != e then [(os, .misalign e sSeq i)] else [])
    ++ ((blockDefects p b rows od i false ++ blockDefects p b rows os i true ++ wordDefects p b rows os i).map
          (fun k => (k, .tile k))))
  earliest (head ++ lens ++ (blocks.filter (fun d => d.1 < b.length)))

/-- Pairs of blocks a payload's header announces: none when the header is at fault. -/
def SplitSpec.pairs (p : SplitSpec) (b : List Byte) : Nat := ceilDiv (min (getLe b 4 4) p.rows) 16 * p.slices

/-- Payload ranges of pair `i`: its data block and its scale block. -/
def SplitSpec.pairRanges (p : SplitSpec) (b : List Byte) (i : Nat) : List (Nat × Nat) :=
  let rows := getLe b 4 4
  [(64 + (p.offsets rows false i).getLastD 0, 16 + p.bodyLen rows i false),
   (64 + getLe b 16 4 + (p.offsets rows true i).getLastD 0, 16 + p.bodyLen rows i true)]

/-- Activation rows of a sound split payload. -/
def splitRows (p : SplitSpec) (b : List Byte) : List ActRow :=
  let rows := getLe b 4 4
  let n := ceilDiv rows 16 * p.slices
  let dOff := p.offsets rows false n
  let sOff := p.offsets rows true n
  (List.range rows).map (fun r =>
    let pieces := (List.range p.slices).map (fun s =>
      let i := r / 16 * p.slices + s
      let rb := 16 * fmtBits p.fmt
      let codes := unpack p.fmt ((b.drop (64 + dOff.getD i 0 + 16 + (r % 16) * rb)).take rb)
      let g := p.groups s
      let words := (List.range g).map (fun j =>
        getLe b (64 + getLe b 16 4 + sOff.getD i 0 + 16 + 4 * ((r % 16) * g + j)) 4)
      (codes, words))
    ⟨pieces.flatMap (·.1), pieces.flatMap (·.2)⟩)

end Sys2Proof.Machine
end

