-- ==== Sys2Proof/Machine/SieveMatch.lean ====
section
/-! DEFINITION. What the Sieve's tables match, defined by their entries alone (05_sieve_constraints.md R111). -/

namespace Sys2Proof.Machine

/-- An entry of a Sieve table (Table 5-3). Byte kinds hold bytes, token kinds token ids. -/
structure SieveEnt where
  syms : List Nat
  list : Nat := 0
  casefold : Bool := false
  /-- ACTION: false BLOCK, true MARK -/
  mark : Bool := false
  trig : Nat := 0
  deriving DecidableEq, Repr

/-- A verified Sieve table (R108 to R110); KIND of Table 5-1. -/
structure SieveTable where
  id : Nat
  kind : Nat
  textTable : Nat
  ents : List SieveEnt
  /-- bytes of the image, the automaton among them -/
  len : Nat := 0
  /-- its section's DIGEST (R328) -/
  digest : List Byte := []
  deriving DecidableEq, Repr

/-- ASCII case folding (R110 CASEFOLD). -/
def foldCase (x : Nat) : Nat := if 0x41 ≤ x ∧ x ≤ 0x5A then x + 32 else x

/-- Does an entry begin at the head of `xs`? -/
def SieveEnt.headMatch (e : SieveEnt) (xs : List Nat) : Bool :=
  if e.casefold then (e.syms.map foldCase).isPrefixOf (xs.map foldCase) else e.syms.isPrefixOf xs

/-- Does `hist` end with all of `pat`? -/
def endsWith (hist pat : List Nat) : Bool := pat.isSuffixOf hist

/-- Occurrences of a table's entries: (position of the last symbol, entry index) (R112). -/
def occurrences (ents : List SieveEnt) (xs : List Nat) : List (Nat × Nat) :=
  (List.range xs.length).flatMap (fun j =>
    let tl := xs.drop j
    (ents.zipIdx.filter (fun p => p.1.headMatch tl)).map (fun p => (j + p.1.syms.length - 1, p.2)))

/-- Occurrences of entries of one pattern list. -/
def occurrencesOf (ents : List SieveEnt) (list : Nat) (xs : List Nat) : List (Nat × Nat) :=
  (occurrences ents xs).filter (fun o => (ents[o.2]?.map (·.list)) == some list)

/-- The 32 list counts of one table over a sequence (R113). -/
def listCounts (ents : List SieveEnt) (xs : List Nat) : List Nat :=
  (occurrences ents xs).foldl
    (fun cs o => match ents[o.2]? with | none => cs | some e => cs.modify e.list (· + 1)) (List.replicate 32 0)

/-- The earliest occurrence of a list: ending lowest, then lowest entry index (Table 6-5). -/
def firstHit (ents : List SieveEnt) (list : Nat) (xs : List Nat) : Option Nat :=
  ((occurrencesOf ents list xs).foldl
    (fun (b : Option (Nat × Nat)) o => match b with
      | none => some o
      | some p => if o.1 < p.1 ∨ (o.1 = p.1 ∧ o.2 < p.2) then some o else b) none).map (·.2)

/-! ## Stop strings (R117 to R119) -/

/-- L_stop: the longest entry, 0 when there is none (R117). -/
def lStop (ents : List SieveEnt) : Nat := ents.foldl (fun m e => max m e.syms.length) 0

/-- The longest stop entry that ends at the last byte of `hist` (R117). -/
def stopAt (ents : List SieveEnt) (hist : List Nat) : Option Nat :=
  ents.foldl (fun b e => if endsWith hist e.syms then some (max (b.getD 0) e.syms.length) else b) none

/-- The hold-back length: the longest suffix of the pending bytes that is a proper prefix of a stop string (R119). -/
def holdBack (ents : List SieveEnt) (pend : List Nat) : Nat :=
  (List.range (lStop ents)).foldl
    (fun h n => if n ≤ pend.length ∧ ents.any (fun e => n < e.syms.length && endsWith pend (e.syms.take n)) then max h n else h) 0

/-! ## Banned and forced sequences (R121 to R123) -/

/-- The banned entries that emitting `id` after `hist` completes (R121). -/
def bannedBy (ents : List SieveEnt) (hist : List Nat) (id : Nat) : List SieveEnt :=
  ents.filter (fun e => endsWith (hist ++ [id]) e.syms)

/-- The longest k with TRIG ≤ k < n after which the entry is in force (R122). -/
def forcedAt (e : SieveEnt) (hist : List Nat) : Option Nat :=
  (List.range e.syms.length).foldl (fun b k => if e.trig ≤ k ∧ endsWith hist (e.syms.take k) then some k else b) none

/-- The entry in force of lowest index: (forced token, ACTION is MARK) (R122). -/
def forcedIn (ents : List SieveEnt) (hist : List Nat) : Option (Nat × Bool) :=
  ents.findSome? (fun e => (forcedAt e hist).map (fun k => (e.syms.getD k 0, e.mark)))

/-- The most next tokens that the banned entries forbid after any one history (Table 5-4): the histories that matter are the
proper prefixes of entries, and the tokens those of entries whose rest has just gone by. -/
def bannedFan (ents : List SieveEnt) : Nat :=
  let hists := (ents.flatMap (fun e => (List.range e.syms.length).map e.syms.take)).eraseDups
  (hists.map (fun h => ((ents.filter (fun e => endsWith h e.syms.dropLast)).map (fun e => e.syms.getLastD 0)).eraseDups.length)).foldl max 0

/-- The banned set of a constraint answer, ascending; never the forced token (R123). -/
def bannedSet (ban : List SieveEnt) (hist : List Nat) (forced : Option Nat) (vocab : Nat) : List Nat :=
  (List.range vocab).filter (fun id => !(bannedBy ban hist id).isEmpty && some id != forced)

/-- The symbols of history that any table can still look back on: 64 bytes and 31 tokens are enough (Table 5-4). -/
def keepLast (n : Nat) (xs : List Nat) : List Nat := xs.drop (xs.length - n)

end Sys2Proof.Machine
end

