-- ==== Sys2Proof/Machine/Text.lean ====
section
/-! DEFINITION. Text tables, the Cutter, the Joiner's bytes and the locality signature (04_text_path.md,
08_models_mappings.md R191). -/

namespace Sys2Proof.Machine

/-- A token of a text table: its bytes, and SPECIAL (R87). -/
structure TokEnt where
  bytes : List Byte
  special : Bool
  deriving DecidableEq, Repr

/-- A slot of the merge hash (R88). -/
structure HashEnt where
  left : Nat
  right : Nat
  rank : Nat
  valid : Bool
  deriving DecidableEq, Repr

/-- A verified text table (R85 to R88). -/
structure TextTable where
  id : Nat
  vocab : Nat
  digitRun : Nat
  spaceLead : Bool
  /-- class ranges (FIRST, CLASS), ascending (R86) -/
  classes : List (Nat × Nat)
  toks : List TokEnt
  /-- merge results by rank -/
  results : List Nat
  hash : List HashEnt
  /-- bytes of the image, and of its byte pool -/
  len : Nat := 0
  pool : Nat := 0
  /-- its section's DIGEST (R328) -/
  digest : List Byte := []
  deriving DecidableEq, Repr

/-! Character classes (Table 4-2). -/
def clsLetter : Nat := 0
def clsMark : Nat := 1
def clsDigit : Nat := 2
def clsSpace : Nat := 3
def clsNewline : Nat := 4
def clsPunct : Nat := 5
def clsOther : Nat := 6

/-- The class of a code point: that of the last range not above it (R86). -/
def TextTable.classOf (t : TextTable) (cp : Nat) : Nat :=
  t.classes.foldl (fun c r => if r.1 ≤ cp then r.2 else c) clsOther

/-- The probes of `lookup` (R88). -/
def hashProbe (h : List HashEnt) (left right : Nat) : Nat → Nat → Option Nat
  | 0, _ => none
  | k + 1, s =>
    match h[s % h.length]? with
    | none => none
    | some e =>
      if !e.valid then none
      else if e.left = left ∧ e.right = right then some e.rank
      else hashProbe h left right k (s + 1)

/-- `lookup(left, right)` (R88): the rank of a pair, found within eight probes. -/
def TextTable.lookup (t : TextTable) (left right : Nat) : Option Nat :=
  if t.hash.length = 0 then none else
    let h := ((left * 0x9E3779B1) % 2 ^ 32) ^^^ ((right * 0x85EBCA77) % 2 ^ 32)
    hashProbe t.hash left right 8 (h >>> (32 - t.hash.length.log2))

/-- The pair of lowest rank, the leftmost on a tie: (rank, index) (R96). -/
def TextTable.bestPair (t : TextTable) : Nat → List Nat → Option (Nat × Nat)
  | i, a :: b :: rest =>
    let here := (t.lookup a b).map (fun r => (r, i))
    match here, t.bestPair (i + 1) (b :: rest) with
    | some x, some y => if y.1 < x.1 then some y else some x
    | some x, none => some x
    | none, y => y
  | _, _ => none

/-- Replace the pair at index `i` by one symbol. -/
def mergeAt (sym : List Nat) (i r : Nat) : List Nat := sym.take i ++ r :: sym.drop (i + 2)

/-- The merge loop of `cut` (R96). -/
def TextTable.mergeGo (t : TextTable) : Nat → List Nat → List Nat
  | 0, sym => sym
  | f + 1, sym =>
    match t.bestPair 0 sym with
    | none => sym
    | some (r, i) => t.mergeGo f (mergeAt sym i (t.results.getD r 0))

/-- `cut(word)` (R96): the token ids of one word. -/
def TextTable.cut (t : TextTable) (word : List Byte) : List Nat :=
  t.mergeGo word.length (word.map (·.toNat))

/-- A word the Cutter has closed: its tokens and the payload byte that decided its end (R186);
`none` for the end of the request. -/
structure CutWord where
  toks : List Nat
  pos : Option Nat
  deriving DecidableEq, Repr

/-- One context of the Cutter (R97): the UTF-8 carry, the open word and what it has emitted. -/
structure CutCtx where
  carry : List Byte := []
  word : List Byte := []
  /-- class of the open word -/
  cls : Option Nat := none
  digits : Nat := 0
  /-- the open word's last character is U+0020 -/
  endSpace : Bool := false
  /-- payload bytes decoded -/
  pos : Nat := 0
  /-- closed words, oldest first -/
  words : List CutWord := []
  /-- offending bytes (R90) -/
  bad : Nat := 0
  /-- words split at 1,024 bytes (R95) -/
  splits : Nat := 0
  deriving DecidableEq, Repr

/-- Emit a word's tokens; an empty word is dropped (R94). -/
def CutCtx.emit (t : TextTable) (c : CutCtx) (w : List Byte) (at? : Option Nat) : CutCtx :=
  if w.isEmpty then c else { c with words := c.words ++ [⟨t.cut w, at?⟩] }

/-- Close the open word. -/
def CutCtx.close (t : TextTable) (c : CutCtx) (at? : Option Nat) : CutCtx :=
  { c.emit t c.word at? with word := [], cls := none, digits := 0, endSpace := false }

/-- Does a character of class `k` continue a word of class `w`? (Table 4-4) -/
def continues (digitRun digits w k : Nat) : Bool :=
  if k = clsLetter then w == clsLetter
  else if k = clsMark then w == clsLetter || w == clsDigit || w == clsPunct || w == clsOther
  else if k = clsDigit then w == clsDigit && (digitRun == 0 || digits < digitRun)
  else if k = clsPunct then w == clsPunct
  else if k = clsOther then w == clsOther
  else w == clsSpace || w == clsNewline

/-- The class of a word with one more character taken in (R93, R95). -/
def grownClass (w k : Nat) : Nat := if k = clsNewline ∧ w = clsSpace then clsNewline else w

/-- The class of a word that character class `k` starts (Table 4-4): a MARK starts an OTHER word. -/
def startClass (k : Nat) : Nat := if k = clsMark then clsOther else k

/-- A decoded character reaches the word cutter (R93 to R95). -/
def CutCtx.char (t : TextTable) (c : CutCtx) (bs : List Byte) (cp : Nat) (at? : Option Nat) : CutCtx :=
  let k := t.classOf cp
  let sp := cp = 0x20
  let d := if k = clsDigit then 1 else 0
  match c.cls with
  | some w =>
    if continues t.digitRun c.digits w k then
      if c.word.length + bs.length > 1024 then
        { c.close t at? with word := bs, cls := some (grownClass w k), digits := d, endSpace := sp, splits := c.splits + 1 }
      else
        { c with word := c.word ++ bs, cls := some (grownClass w k), digits := c.digits + d, endSpace := sp }
    else
      let n := startClass k
      let lead := t.spaceLead && c.endSpace && (w == clsSpace || w == clsNewline)
        && (n == clsLetter || n == clsDigit || n == clsPunct || n == clsOther)
      let ended := if lead then c.word.dropLast else c.word
      { c.emit t ended at? with
          word := (if lead then [0x20#8] else []) ++ bs, cls := some n, digits := d, endSpace := sp }
  | none => { c with word := bs, cls := some (startClass k), digits := d, endSpace := sp }

/-- One offending byte becomes an INVALID word of its own (R90): a byte token. -/
def CutCtx.offend (t : TextTable) (at? : Option Nat) (c : CutCtx) (x : Byte) : CutCtx :=
  let c := c.close t at?
  { c with words := c.words ++ [⟨[x.toNat], at?⟩], bad := c.bad + 1 }

/-- Announced length of a lead byte; 0 for a byte that is no lead (R90). -/
def utf8Len (x : Nat) : Nat :=
  if x < 0xC0 then 0 else if x ≤ 0xDF then 2 else if x ≤ 0xEF then 3 else if x ≤ 0xF7 then 4 else 0

/-- The value of a complete sequence. -/
def utf8Value : List Byte → Nat
  | [] => 0
  | l :: cs =>
    let n := cs.length + 1
    cs.foldl (fun v x => v * 64 + x.toNat % 64) (l.toNat % 2 ^ (7 - n))

/-- The checks of R90, point 5. -/
def utf8Ok (n v : Nat) : Bool :=
  (if n = 2 then 0x80 else if n = 3 then 0x800 else 0x10000) ≤ v && !(0xD800 ≤ v && v ≤ 0xDFFF) && v ≤ 0x10FFFF

/-- A byte in start position (R90, points 1 to 3). -/
def CutCtx.start (t : TextTable) (c : CutCtx) (x : Byte) (at? : Option Nat) : CutCtx :=
  if x.toNat < 0x80 then c.char t [x] x.toNat at?
  else if utf8Len x.toNat = 0 then c.offend t at? x
  else { c with carry := [x] }

/-- One payload byte (R90 to R95). -/
def CutCtx.byte (t : TextTable) (c : CutCtx) (x : Byte) : CutCtx :=
  let at? := some c.pos
  let c' :=
    match c.carry with
    | [] => c.start t x at?
    | l :: cs =>
      if 0x80 ≤ x.toNat ∧ x.toNat ≤ 0xBF then
        let seq := l :: cs ++ [x]
        let n := utf8Len l.toNat
        if seq.length = n then
          let c := { c with carry := [] }
          let v := utf8Value seq
          if utf8Ok n v then c.char t seq v at? else seq.foldl (CutCtx.offend t at?) c
        else { c with carry := seq }
      else ((l :: cs).foldl (CutCtx.offend t at?) { c with carry := [] }).start t x at?
  { c' with pos := c.pos + 1 }

/-- The bytes of one read completion (R91). -/
def CutCtx.feed (t : TextTable) (c : CutCtx) (xs : List Byte) : CutCtx := xs.foldl (CutCtx.byte t) c

/-- The end of the request: carried bytes are offending and the open word closes (R91). -/
def CutCtx.finish (t : TextTable) (c : CutCtx) : CutCtx :=
  (c.carry.foldl (CutCtx.offend t none) { c with carry := [] }).close t none

/-- Every token emitted, in order (R97). -/
def CutCtx.tokens (c : CutCtx) : List Nat := c.words.flatMap (·.toks)

/-- The number of tail tokens of a finished context (R186, point 3). -/
def CutCtx.tailCount (c : CutCtx) (total : Nat) : Nat :=
  ((c.words.filter (fun w => match w.pos with | none => true | some p => total ≤ p + 64)).map (·.toks.length)).sum

/-! ## The Joiner (R99, R102) -/

/-- The bytes of a token: none for a SPECIAL token (R99). -/
def TextTable.tokBytes (t : TextTable) (id : Nat) : List Byte :=
  match t.toks[id]? with
  | none => []
  | some e => if e.special then [] else e.bytes

/-- The look-back of `tail_inc` over the reversed bytes (R102). -/
def tailIncGo : Nat → Nat → List Byte → Nat
  | 0, _, _ => 0
  | _, _, [] => 0
  | f + 1, k, x :: rest =>
    let v := x.toNat
    if 0x80 ≤ v ∧ v ≤ 0xBF then tailIncGo f (k + 1) rest
    else if utf8Len v = 0 then 0 else if utf8Len v > k then k else 0

/-- `tail_inc(b)` over the last released bytes, newest last (R102). -/
def tailInc (b : List Byte) : Nat := tailIncGo 3 1 b.reverse

/-! ## Locality signature (R191) -/

/-- The hash of one shingle. -/
def shingleHash (ts : List Nat) : Nat :=
  ts.foldl (fun h x => let m := ((h ^^^ x) * 0xBF58476D1CE4E5B9) % 2 ^ 64; m ^^^ (m >>> 31)) 0x9E3779B97F4A7C15

/-- Fold one shingle into the 64 minima. -/
def sigFold (mins : List Nat) (ts : List Nat) : List Nat :=
  let h := shingleHash ts
  mins.modify (h >>> 58) (fun m => min m (h % 2 ^ 58))

/-- The shingles of 4 tokens of a token list. -/
def shingles (toks : List Nat) : List (List Nat) :=
  (List.range (max 1 (toks.length - 3))).map (fun i => (toks.drop i).take 4)

/-- The distance to the next bucket that is not empty. -/
def sigGap (mins : List Nat) (b : Nat) : Nat → Nat → Nat
  | 0, k => k
  | f + 1, k => if mins.getD ((b + k) % 64) 0 = 2 ^ 58 then sigGap mins b f (k + 1) else k

/-- The 64 nibbles of the signature (R191). -/
def signatureNibbles (toks : List Nat) : List Nat :=
  let mins := (shingles toks).foldl sigFold (List.replicate 64 (2 ^ 58))
  (List.range 64).map (fun b => let k := sigGap mins b 64 0; (mins.getD ((b + k) % 64) 0 + k) % 16)

/-- The 32 signature bytes; zero when there is no token (R191). -/
def signature (toks : List Nat) : List Byte :=
  if toks.isEmpty then List.replicate 32 0#8
  else leBytes 32 ((signatureNibbles toks).foldr (fun n acc => n + 16 * acc) 0)

end Sys2Proof.Machine
end

