-- ==== Sys2Proof/Machine/Image.lean ====
section
/-! DEFINITION. Images: the charter and amendments, their sections read from bytes, and the checks that each section's
chapter states (R326 to R330, R85 to R89, R109 to R111, R133 to R150, R163, R164, R180, R181, R208, R209, R255). -/

namespace Sys2Proof.Machine

/-- A model entry (Table 8-1) with its layer list and its tiles. -/
structure ModelObj where
  model : Nat
  pitch : Nat
  cls : Nat
  fallback : Bool
  ensId : Nat
  ntap : Nat
  nlayer : Nat
  poolD : Nat
  tapW : Nat
  tailTok : Nat
  tokCyc : Nat
  fixCyc : Nat
  inRows : Nat
  depth : Nat
  stopId : Nat
  banId : Nat
  forceId : Nat
  stateLen : Nat
  resBytes : Nat
  streamBytes : Nat
  markT : F32
  holdT : F32
  blockT : F32
  layers : List Byte
  tiles : List Tile
  deriving DecidableEq, Repr

/-- A calibration slot entry (Table 9-1). -/
structure CalibSlot where
  pitch : Nat
  model : Nat
  layer : Nat
  scale : Bool
  zp : Bool
  bias : Bool
  const : Bool
  qstep : Bool
  lr : Nat
  span : Nat
  zpSpan : Nat
  biasSpan : F32
  clipTrig : Nat
  spanTrig : Nat
  satLimit : Nat
  gainMin : Nat
  qstepMax : Nat
  deriving DecidableEq, Repr

/-- A placement entry (R255). -/
structure Placement where
  pitch : Nat
  model : Nat
  hint : Nat
  mirror : Bool
  first : Nat
  last : Nat
  deriving DecidableEq, Repr

/-- A running-feature definition (R232). -/
structure RunFeat where
  op : Nat
  src : Nat
  shift : Nat
  code : Nat
  deriving DecidableEq, Repr

/-- A PITCH_CFG section (Table 14-5). -/
structure PitchCfg where
  pitch : Nat
  inTable : Nat
  outTable : Nat
  modes : Nat
  wrapped : Bool
  keyver : Nat
  keyverMin : Nat
  salt : List Byte
  wrap : List Byte
  feats : List RunFeat
  deriving DecidableEq, Repr

/-- A pitch's record of STALL_ALLOC (R330). -/
structure RoleCfg where
  pitch : Nat
  minSpread : Nat
  maxSpread : Nat
  minChain : Nat
  maxChain : Nat
  maxBench : Nat
  benchStep : Nat
  /-- declared chains, stalls in stage order -/
  chains : List (List Nat)
  deriving DecidableEq, Repr

/-- A compatibility-mode SHARD_MAP section (Table 14-4). -/
structure ShardSec where
  pitch : Nat
  owners : List Nat
  dirBase : Nat
  dirPool : Nat
  dirLog2b : Nat
  deriving DecidableEq, Repr

/-- A guild slot (R311). -/
structure GuildSlot where
  pitch : Nat
  valid : Bool
  mask : List Byte
  deriving DecidableEq, Repr

/-- The objects requests are served with: a generation (R176, R342). -/
structure Gen where
  models : List ModelObj := []
  texts : List TextTable := []
  sieves : List SieveTable := []
  enss : List Ensemble := []
  stocks : List (Nat × StockTable) := []
  calib : List CalibSlot := []
  place : List Placement := []
  /-- constant lists in force (R217): pitch, model, layer, produced group, c -/
  consts : List (Nat × Nat × Nat × Nat × Nat) := []
  /-- the firmware that every porter's instruction and data memory holds (R17, R183) -/
  fw : List Byte := []
  deriving DecidableEq, Repr

/-- Everything a charter's sections give (Table 14-4). -/
structure Build where
  gen : Gen := {}
  regs : List (Nat × Nat) := []
  /-- those of pitch-scope sections, with their pitch -/
  owned : List (Nat × Nat × Nat) := []
  cfgs : List PitchCfg := []
  alloc : List Nat := []
  roles : List RoleCfg := []
  hasAlloc : Bool := false
  hasFw : Bool := false
  shards : List ShardSec := []
  guild : List GuildSlot := []
  deriving DecidableEq, Repr

/-- An image header (Table 14-3). -/
structure ImgHdr where
  kind : Nat
  keyslot : Nat
  revoke : Nat
  len : Nat
  nsect : Nat
  offDir : Nat
  svn : Nat
  svnBurn : Nat
  hpMhz : Nat
  lockMode : Nat
  lockTmo : Nat
  apitch : Nat
  amdSeq : Nat
  base : Nat
  deriving DecidableEq, Repr

/-- A directory entry (R328). -/
structure DirEnt where
  type : Nat
  pitch : Nat
  block : Bool
  id : Nat
  off : Nat
  len : Nat
  digest : List Byte
  /-- image offset of the entry -/
  place : Nat
  deriving DecidableEq, Repr

/-- A failed check: code of Table 14-6 and image offset. -/
abbrev Chk := Option (Nat × Nat)

def chk (ok : Bool) (code off : Nat) : Chk := if ok then none else some (code, off)

/-- The image header as it stands. -/
def readHdr (b : List Byte) : ImgHdr :=
  { kind := bits (getLe b 6 1) 0 1, keyslot := bits (getLe b 7 1) 0 2, revoke := bits (getLe b 7 1) 4 4
    len := getLe b 8 4, nsect := getLe b 12 4, offDir := getLe b 16 4, svn := getLe b 20 2, svnBurn := getLe b 22 2
    hpMhz := getLe b 24 2, lockMode := bits (getLe b 26 1) 0 1, lockTmo := getLe b 28 2
    apitch := bits (getLe b 30 1) 0 6, amdSeq := getLe b 32 4, base := getLe b 36 16 }

/-- Check 1: header ranges, R8 and KIND (R326). -/
def hdrChk (b : List Byte) (kind : Nat) : Chk :=
  let h := readHdr b
  let amd := kind == 1
  chk (getLe b 0 4 == 0x4E474348) 3 0 <|> chk (getLe b 4 2 == 1) 3 4
  <|> chk (getLe b 6 1 == kind) 3 6
  <|> chk (bits (getLe b 7 1) 2 2 == 0 && (!amd || h.revoke == 0)) 3 7
  <|> chk (h.len == b.length && h.len % 64 == 0 && 320 ≤ h.len && (amd || h.len ≤ 240 * 2 ^ 20)) 3 8
  <|> chk (1 ≤ h.nsect && h.nsect ≤ 4096) 3 12
  <|> chk (h.offDir % 64 == 0 && 64 ≤ h.offDir && h.offDir + 32 * h.nsect ≤ h.len - 256) 3 16
  <|> chk (if amd then h.svnBurn == 0 else true) 3 22
  <|> chk (if amd then h.hpMhz == 0 else 400 ≤ h.hpMhz && h.hpMhz ≤ 1600) 3 24
  <|> chk (if amd then getLe b 26 1 == 0 else getLe b 26 1 < 2) 3 26 <|> chk (zeroRun b 27 1) 3 27
  <|> chk (if !amd && h.lockMode == 1 then 1 ≤ h.lockTmo && h.lockTmo ≤ 60000 else h.lockTmo == 0) 3 28
  <|> chk (if amd then getLe b 30 1 < 64 else getLe b 30 1 == 0) 3 30 <|> chk (zeroRun b 31 1) 3 31
  <|> chk (amd || h.amdSeq == 0) 3 32 <|> chk (amd || h.base == 0) 3 36 <|> chk (zeroRun b 52 12) 3 52

/-- The image digest (R327). -/
def imageDigest (b : List Byte) : List Byte := sha384 (b.take (b.length - 256))

/-- The signature block: key, r and s (R327). -/
def sigBlock (b : List Byte) : List Byte := b.drop (b.length - 256)

def signatureOk (b : List Byte) : Bool :=
  let s := sigBlock b
  ecdsaOk (s.take 96) ((s.drop 96).take 96) (imageDigest b) && zeroRun s 192 64

/-- The directory (R328). -/
def readDir (b : List Byte) : List DirEnt :=
  let h := readHdr b
  (List.range h.nsect).map (fun i =>
    let o := h.offDir + 32 * i
    { type := getLe b o 1, pitch := bits (getLe b (o + 1) 1) 0 6, block := bit (getLe b (o + 1) 1) 6
      id := getLe b (o + 2) 2, off := getLe b (o + 4) 4, len := getLe b (o + 8) 4
      digest := (b.drop (o + 12)).take 16, place := o })

def DirEnt.body (e : DirEnt) (b : List Byte) : List Byte := (b.drop e.off).take e.len

/-- Types of block scope (Table 14-4); REG_VALUES has either scope. -/
def typeBlock (t : Nat) : Bool := t == 0x03 || t == 0x04 || t == 0x07 || t == 0x08 || t == 0x09 || t == 0x0E

/-- ID range of a type (Table 14-4). -/
def typeIdOk (t id : Nat) : Bool :=
  match t with
  | 0x05 | 0x06 => id < 4096
  | 0x07 => id < 16
  | 0x08 => id < 255
  | 0x09 => id < 256
  | 0x0A => id < 64
  | _ => id == 0

def DirEnt.key (e : DirEnt) : Nat × Nat × Bool × Nat := (e.type, if e.block then 0 else e.pitch, e.block, e.id)

/-- Check 5: the directory and each section's DIGEST (R328). -/
def dirChk (b : List Byte) (amd : Bool) : Chk :=
  let ds := readDir b
  let h := readHdr b
  (ds.map (fun e =>
    chk (1 ≤ e.type && e.type ≤ 0x0E && getLe b (e.place + 1) 1 < 128 && getLe b (e.place + 28) 4 == 0
        && typeIdOk e.type e.id && (e.type == 1 || e.block == typeBlock e.type)
        && (amd || e.len != 0)) 7 e.place
    <|> chk (e.off % 64 == 0 && 64 ≤ e.off && e.off + e.len ≤ h.len - 256
        && (e.len == 0 || e.off + e.len ≤ h.offDir || h.offDir + 32 * h.nsect ≤ e.off)) 7 e.place
    <|> chk (ds.all (fun f => f.place == e.place || (f.key != e.key
        && (e.len == 0 || f.len == 0 || e.off + e.len ≤ f.off || f.off + f.len ≤ e.off)))) 7 e.place
    <|> chk (e.len == 0 || (sha384 (e.body b)).take 16 == e.digest) 7 e.place)).foldl (· <|> ·) none

/-! ### Section readers: `none` when the section fails the checks its chapter makes on it alone -/

def guardOk {α : Type} (ok : Bool) (x : α) : Option α := if ok then some x else none

/-- No two of the given ranges (offset, length) overlap. -/
def disjoint (rs : List (Nat × Nat)) : Bool :=
  let rs := rs.filter (fun r => r.2 != 0)
  (List.range rs.length).all (fun i => (List.range i).all (fun j =>
    let a := rs.getD i (0, 0)
    let c := rs.getD j (0, 0)
    a.1 + a.2 ≤ c.1 || c.1 + c.2 ≤ a.1))

/-- A text table (R85 to R89). R86 bounds no FIRST: one above the last code point is taken as it stands, DESIGN CHOICE
(notes/assumptions/123.md). -/
def readText (b : List Byte) : Option TextTable :=
  let vocab := getLe b 4 4
  let nm := getLe b 8 4
  let nr := getLe b 12 2
  let pool := getLe b 16 4
  let slots := getLe b 20 4
  let oc := getLe b 24 4
  let oi := getLe b 28 4
  let op := getLe b 32 4
  let oh := getLe b 36 4
  let orr := getLe b 40 4
  let hdrOk := getLe b 0 2 < 16 && getLe b 2 2 == 1 && 256 ≤ vocab && vocab ≤ 262144 && nm ≤ vocab - 256
    && 1 ≤ nr && nr ≤ 4096 && getLe b 14 1 < 16 && getLe b 15 1 < 2 && 256 ≤ pool && pool ≤ 16777216
    && (if nm == 0 then slots == 0 && oh == 0 && orr == 0 else isPow2 slots && ceilDiv (4 * nm) 3 ≤ slots)
    && zeroRun b 44 20
    && [oc, oi, op, oh, orr].all (· % 64 == 0)
    && disjoint [(0, 64), (oc, 4 * nr), (oi, 4 * vocab), (op, pool), (oh, 8 * slots), (orr, 4 * nm)]
    && [oc + 4 * nr, oi + 4 * vocab, op + pool, oh + 8 * slots, orr + 4 * nm].all (· ≤ b.length)
  if !hdrOk then none else
  let poolB := (b.drop op).take pool
  let cls := (List.range nr).map (fun i => getLe b (oc + 4 * i) 4)
  let idx := (List.range vocab).map (fun i => getLe b (oi + 4 * i) 4)
  let toks := idx.map (fun w => (⟨(poolB.drop (bits w 0 24)).take (bits w 24 7), bit w 31⟩ : TokEnt))
  let hash := (List.range slots).map (fun i =>
    let w := getLe b (oh + 8 * i) 8
    (⟨bits w 0 18, bits w 18 18, bits w 36 18, bit w 63⟩ : HashEnt))
  let t : TextTable :=
    { id := getLe b 0 2, vocab, digitRun := getLe b 14 1, spaceLead := bit (getLe b 15 1) 0
      classes := cls.map (fun w => (bits w 0 21, bits w 21 3)), toks
      results := (List.range nm).map (fun i => bits (getLe b (orr + 4 * i) 4) 0 18), hash, len := b.length, pool }
  let plain (id : Nat) : Bool := id < vocab && !((toks[id]?.map (·.special)).getD true)
  let bytesOf (id : Nat) : List Byte := (toks[id]?.map (·.bytes)).getD []
  let live := hash.filter (·.valid)
  let clsOk := cls.all (fun w => w < 2 ^ 24 && bits w 21 3 < 7) && (t.classes.head?.map (·.1)) == some 0
    && (List.range (nr - 1)).all (fun i => (t.classes.getD i (0, 0)).1 < (t.classes.getD (i + 1) (0, 0)).1)
  let idxOk := idx.all (fun w => if bit w 31 then bits w 24 7 == 0 && bits w 0 24 == 0
      else 1 ≤ bits w 24 7 && bits w 0 24 + bits w 24 7 ≤ pool)
    && (List.range 256).all (fun i => toks.getD i ⟨[], true⟩ == ⟨[BitVec.ofNat 8 i], false⟩)
  let mergeOk := (List.range nm).all (fun r =>
      match live.filter (·.rank == r) with
      | [e] => t.lookup e.left e.right == some r && plain e.left && plain e.right
          && plain (t.results.getD r 0) && 256 ≤ t.results.getD r 0
          && bytesOf (t.results.getD r 0) == bytesOf e.left ++ bytesOf e.right
      | _ => false)
    && live.all (fun e => e.rank < nm && (live.filter (fun f => f.left == e.left && f.right == e.right)).length == 1)
    && (List.range slots).all (fun i => bits (getLe b (oh + 8 * i) 8) 54 9 == 0)
    && (List.range nm).all (fun i => getLe b (orr + 4 * i) 4 < 2 ^ 18)
  guardOk (clsOk && idxOk && mergeOk) t

/-- Entry limits of a Sieve kind: entries, least and greatest length, states (Table 5-4). -/
def sieveLimits (kind : Nat) : Nat × Nat × Nat × Nat :=
  match kind with
  | 0 => (262144, 1, 255, 1048576)
  | 1 => (65536, 1, 64, 262144)
  | 2 => (64, 1, 64, 1048576)
  | 3 => (65536, 1, 32, 262144)
  | _ => (4096, 2, 32, 262144)

/-- A Sieve table (R109 to R111); token ids are checked against the text tables by `sieveTokensOk`. -/
def readSieve (b : List Byte) : Option SieveTable :=
  let kind := getLe b 4 1
  let n := getLe b 8 4
  let pool := getLe b 12 4
  let oe := getLe b 20 4
  let op := getLe b 24 4
  let oa := getLe b 28 4
  let al := getLe b 32 4
  let tok := kind == 1 || kind == 3 || kind == 4
  let (maxN, minL, maxL, maxS) := sieveLimits kind
  let hdrOk := getLe b 0 2 ≤ 254 && getLe b 2 2 == 1 && kind ≤ 4 && zeroRun b 5 3 && n ≤ maxN && pool ≤ 16777216
    && 1 ≤ getLe b 16 4 && getLe b 16 4 ≤ maxS && [oe, op, oa].all (· % 64 == 0)
    && disjoint [(0, 64), (oe, 8 * n), (op, pool), (oa, al)]
    && oe + 8 * n ≤ b.length && op + pool ≤ b.length && oa + al ≤ b.length
    && (if tok then getLe b 36 1 < 16 else getLe b 36 1 == 0) && zeroRun b 37 27
  if !hdrOk then none else
  let ws := (List.range n).map (fun i => getLe b (oe + 8 * i) 8)
  let symsOf (w : Nat) : List Nat :=
    let p := (b.drop (op + bits w 0 24)).take (bits w 24 8 * (if tok then 4 else 1))
    if tok then (chunks 4 (bits w 24 8) p).map leNat else p.map (·.toNat)
  let ents := ws.map (fun w => (⟨symsOf w, bits w 32 5, bit w 37, bit w 38, bits w 40 5⟩ : SieveEnt))
  let entOk := ws.all (fun w =>
    minL ≤ bits w 24 8 && bits w 24 8 ≤ maxL
    && bits w 0 24 + bits w 24 8 * (if tok then 4 else 1) ≤ pool && (!tok || bits w 0 24 % 4 == 0)
    && (kind ≤ 1 || bits w 32 5 == 0) && (kind == 0 || !bit w 37) && (kind ≥ 3 || !bit w 38)
    && !bit w 39 && bits w 45 19 == 0
    && (if kind == 4 then 1 ≤ bits w 40 5 && bits w 40 5 ≤ bits w 24 8 - 1 else bits w 40 5 == 0))
  let distinct := (List.range n).all (fun i => (List.range i).all (fun j =>
    let e := ents.getD i ⟨[], 0, false, false, 0⟩
    let f := ents.getD j ⟨[], 0, false, false, 0⟩
    !(e.syms == f.syms && e.list == f.list && e.casefold == f.casefold && e.trig == f.trig)))
  guardOk (entOk && distinct && (kind != 3 || bannedFan ents ≤ 16384) && Config.automatonOk ((b.drop oa).take al))
    { id := getLe b 0 2, kind, textTable := getLe b 36 1, ents, len := b.length }

/-- Token ids of a Sieve table lie below VOCAB and are not SPECIAL (R111). -/
def sieveTokensOk (texts : List TextTable) (t : SieveTable) : Bool :=
  if t.kind == 0 || t.kind == 2 then true else
  match texts.find? (·.id == t.textTable) with
  | none => false
  | some x => t.ents.all (fun e => e.syms.all (fun i => i < x.vocab && !((x.toks[i]?.map (·.special)).getD true)))

/-- Longest path in internal nodes of a tree (R143), children above parents bounding the walk. -/
def nodeDepth (nodes : List TreeNode) : Nat → Nat → Nat
  | 0, _ => 0
  | k + 1, i =>
    match nodes[i]? with
    | none => 0
    | some n => if n.type == 0 then 0 else 1 + max (nodeDepth nodes k n.left) (nodeDepth nodes k n.right)

/-- An ensemble image (R133 to R150), by itself. -/
def readEns (b : List Byte) : Option Ensemble :=
  let nt := getLe b 4 2
  let nn := getLe b 8 4
  let ni := getLe b 12 2
  let nf := getLe b 14 2
  let ne := getLe b 28 4
  let nc := getLe b 44 4
  let nr := getLe b 60 1
  let o (k : Nat) : Nat := getLe b k 4
  let parts := [(o 16, 4 * ni), (o 20, 32 * nf), (o 24, 4 * ne), (o 32, 8 * nt), (o 36, 16 * nn), (o 40, 8 * nc),
    (o 48, 32), (o 52, 64), (o 56, 8 * nr)]
  let hdrOk := getLe b 0 2 ≤ 255 && getLe b 2 2 == 1 && nt ≤ 16384 && 1 ≤ getLe b 6 1 && getLe b 6 1 ≤ 8
    && getLe b 7 1 ≤ 3 && nn ≤ 16777216 && (nn != 0 || nt == 0) && ni ≤ 4096 && nf ≤ 4096 && ne ≤ 1048576
    && nc ≤ 16777216 && nr ≤ 64 && getLe b 61 1 ≤ 3 && zeroRun b 62 2
    && (ne != 0 || o 24 == 0) && (nc != 0 || o 40 == 0) && (nr != 0 || o 56 == 0)
    && parts.all (fun p => p.1 % 64 == 0 && p.1 + p.2 ≤ b.length) && disjoint ((0, 64) :: parts)
  if !hdrOk then none else
  let nout := getLe b 6 1
  let f32At (k : Nat) : F32 := BitVec.ofNat 32 (getLe b k 4)
  let edges := (List.range ne).map (fun i => f32At (o 24 + 4 * i))
  let inW := (List.range ni).map (fun i => getLe b (o 16 + 4 * i) 4)
  let inputs := inW.map (fun w => (⟨bits w 0 3, bits w 8 3, bits w 16 12⟩ : InputEnt))
  let mOff (k : Nat) : Nat := o 20 + 32 * k
  let measure := (List.range nf).map (fun k =>
    let m := mOff k
    (⟨bits (getLe b m 1) 0 4, bit (getLe b m 1) 4, getLe b (m + 2) 2, getLe b (m + 4) 2, getLe b (m + 6) 2,
      getLe b (m + 8) 4, getLe b (m + 12) 4, f32At (m + 16), f32At (m + 20)⟩ : MeasureOp))
  let trees := (List.range nt).map (fun i => (⟨bits (getLe b (o 32 + 8 * i) 4) 0 24, getLe b (o 32 + 8 * i + 4) 1,
    getLe b (o 32 + 8 * i + 5) 1⟩ : TreeEnt))
  let nodes := (List.range nn).map (fun i =>
    let k := o 36 + 16 * i
    let w := getLe b k 4
    (⟨bits w 0 2, bit w 2, bits w 4 12, bits w 16 10, f32At (k + 4), getLe b (k + 4) 4, getLe b (k + 8) 4,
      getLe b (k + 12) 4⟩ : TreeNode))
  let binds := (List.range 8).map (fun i =>
    let k := o 52 + 8 * i
    if getLe b k 1 == 255 then none else some (⟨getLe b k 1, getLe b (k + 1) 1, getLe b (k + 4) 4⟩ : StockBind))
  let rules := (List.range nr).map (fun i =>
    let k := o 56 + 8 * i
    (⟨getLe b k 1, getLe b (k + 1) 1, getLe b (k + 2) 1, getLe b (k + 4) 4⟩ : DecRule))
  let base := (List.range 8).map (fun i => f32At (o 48 + 4 * i))
  let cat := (List.range nc).map (fun i => getLe b (o 40 + 8 * i) 8)
  let inOk := (List.range ni).all (fun i =>
    let w := inW.getD i 0
    let e := inputs.getD i ⟨0, 0, 0⟩
    bits w 3 5 == 0 && bits w 11 5 == 0 && bits w 28 4 == 0 && e.src ≤ 4 && (e.src == 2 || e.bind == 0)
    && (match e.src with
        | 0 => true
        | 1 => e.index < 32
        | 2 => e.index < 64 && (binds.getD e.bind none).isSome
        | 3 => e.index ≤ 5
        | _ => e.index < 16))
  let mOk := (List.range nf).all (fun k =>
    let m := measure.getD k ⟨0, false, 0, 0, 0, 0, 0, 0#32, 0#32⟩
    let two := m.op == 5 || m.op == 6
    getLe b (mOff k) 1 < 32 && m.op ≤ 7 && zeroRun b (mOff k + 1) 1 && m.inA < ni
    && (if two then m.inB < ni else m.inB == 0)
    && (match m.op with
        | 4 => 1 ≤ m.card && m.card ≤ 255 && m.p0 + m.card ≤ ne
            && (List.range m.card).all (fun i => f32Finite (edges.getD (m.p0 + i) 0#32)
                && (i == 0 || f32Lt (edges.getD (m.p0 + i - 1) 0#32) (edges.getD (m.p0 + i) 0#32)))
        | 5 => true
        | _ => m.card == 0)
    && (m.op == 1 || m.op == 4 || m.p0 == 0) && (m.op == 1 || m.p1 == 0)
    && (if m.clip then f32Finite m.lo && f32Finite m.hi && f32Ge m.hi m.lo else m.lo == 0#32 && m.hi == 0#32)
    && zeroRun b (mOff k + 24) 8)
  let kids := nodes.flatMap (fun n => if n.type == 0 then [] else [n.left, n.right])
  let roots := trees.map (·.root)
  let nodeOk := (List.range nn).all (fun i =>
    let n := nodes.getD i ⟨3, false, 0, 0, 0#32, 0, 0, 0⟩
    let w := getLe b (o 36 + 16 * i) 4
    n.type ≤ 2 && !bit w 3 && bits w 26 6 == 0 && (roots ++ kids).count i == 1
    && (if n.type == 0 then !n.dflt && n.feature == 0 && n.setWordsM1 == 0 && n.left == 0 && n.right == 0
          && f32Finite n.value
        else n.feature < nf && i < n.left && i < n.right && n.left < nn && n.right < nn
          && (if n.type == 1 then n.setWordsM1 == 0 && f32Finite n.value
              else n.setOffset + n.setWordsM1 + 1 ≤ nc)))
  let treeOk := (List.range nt).all (fun i =>
    let t := trees.getD i ⟨0, 0, 0⟩
    t.root < nn && t.out < nout && t.depth ≤ 32 && nodeDepth nodes 34 t.root == t.depth
    && zeroRun b (o 32 + 8 * i + 3) 1 && zeroRun b (o 32 + 8 * i + 6) 2)
  let bindOk := (List.range 8).all (fun i =>
    let k := o 52 + 8 * i
    match binds.getD i none with
    | none => getLe b (k + 1) 1 < 8 && zeroRun b (k + 2) 2
    | some s => s.stockId < 64 && s.keySrc ≤ 3 && zeroRun b (k + 2) 2
        && (match s.keySrc with
            | 0 => s.keyArg == 0
            | 1 => 1 ≤ bits s.keyArg 16 7 && bits s.keyArg 16 7 ≤ 64 && bits s.keyArg 23 9 == 0
            | 2 => s.keyArg < 32
            | _ => true))
  let ruleOk := (List.range nr).all (fun i =>
    let r := rules.getD i ⟨3, 0, 0, 0⟩
    r.code ≤ 3 && zeroRun b (o 56 + 8 * i + 3) 1
    && (match r.test with
        | 0 => r.sel < nout && f32Finite (.ofNat 32 r.operand)
        | 1 => r.sel < 32
        | 2 => r.sel == 0 && r.operand < 65536
        | _ => false))
  let baseOk := (List.range 8).all (fun i => if i < nout then f32Finite (base.getD i f32NaN) else base.getD i f32NaN == 0#32)
  let work := (trees.map (fun t => t.depth + 1)).sum
  guardOk (inOk && mOk && nodeOk && treeOk && bindOk && ruleOk && baseOk && work ≤ 42944)
    { id := getLe b 0 2, nout, link := getLe b 7 1, inputs, binds, measure, edges, trees, nodes, cat, base, rules
      dflt := getLe b 61 1, len := b.length }

/-- A stock table with its owning pitch (R137, R149); the CRC words of its lines follow it in the section. -/
def readStock (sec : List Byte) : Option (Nat × StockTable) :=
  let nb := getLe sec 8 4
  let nrow := getLe sec 16 4
  let ncol := getLe sec 5 1
  let size := if getLe sec 4 1 == 0 then 4 else 2
  let stride := 64 * ceilDiv (ncol * size) 64
  let ob := getLe sec 20 4
  let orw := getLe sec 24 4
  let tlen := max (ob + 128 * nb) (orw + nrow * stride)
  let lines := ceilDiv tlen 4096
  let hdrOk := getLe sec 0 2 < 64 && getLe sec 2 2 == 1 && getLe sec 4 1 ≤ 1 && 1 ≤ ncol && ncol ≤ 64
    && getLe sec 6 1 < 64 && zeroRun sec 7 1 && isPow2 nb && nb ≤ 4194304 && 1 ≤ getLe sec 12 4
    && getLe sec 12 4 ≤ 8 * nb && 1 ≤ nrow && nrow ≤ 16777216 && ob % 128 == 0 && orw % 64 == 0
    && zeroRun sec 28 36 && disjoint [(0, 64), (ob, 128 * nb), (orw, nrow * stride)]
    && tlen + 4 * lines ≤ sec.length
  if !hdrOk then none else
  let slotOf (k : Nat) : StockSlot := ⟨getLe sec k 8, bits (getLe sec (k + 8) 4) 0 24, bit (getLe sec (k + 8) 4) 31⟩
  let buckets := (List.range nb).map (fun i => (List.range 8).map (fun j => slotOf (ob + 128 * i + 16 * j)))
  let rows := (List.range nrow).map (fun r => (List.range ncol).map (fun c =>
    let v := getLe sec (orw + r * stride + c * size) size
    if size == 4 then BitVec.ofNat 32 v else f32OfBf16 v))
  let t : StockTable := { id := getLe sec 0 2, ncol, buckets, rows, offBucket := ob, offRow := orw, stride,
                          len := tlen, crcs := (List.range lines).map (fun i => getLe sec (tlen + 4 * i) 4) }
  let live := buckets.flatMap (·.filter (·.valid))
  let slotOk := (List.range nb).all (fun i => (List.range 8).all (fun j =>
    let k := ob + 128 * i + 16 * j
    let s := slotOf k
    bits (getLe sec (k + 8) 4) 24 7 == 0 && zeroRun sec (k + 12) 4
    && (!s.valid || ((if nb ≤ 1 then 0 else hashTop s.key nb.log2) == i && s.row < nrow
        && (live.filter (·.key == s.key)).length == 1))))
  let crcOk := (List.range lines).all (fun i =>
    crc32c ((sec.drop (4096 * i)).take (min 4096 (tlen - 4096 * i))) == getLe sec (tlen + 4 * i) 4)
  guardOk (slotOk && live.length == getLe sec 12 4 && crcOk) (getLe sec 6 1, t)

/-- A threshold of Table 8-1: finite or +infinity (R181). -/
def thresholdOk (x : F32) : Bool := f32Finite x || x == 0x7F800000#32

/-- A MODEL section: model entry and layer list (R180, R181), the layer list read at its image offset. -/
def readModel (img sec : List Byte) (secOff : Nat) : Option ModelObj :=
  let cls := bits (getLe sec 3 1) 0 2
  let stream := cls == 2
  let intake (ok : Bool) (zero : Bool) : Bool := if stream then zero else ok
  let ol := getLe sec 52 4
  let ll := getLe sec 56 4
  let m : ModelObj :=
    { model := getLe sec 0 2, pitch := getLe sec 2 1, cls, fallback := bit (getLe sec 3 1) 2, ensId := getLe sec 4 1
      ntap := getLe sec 5 1, nlayer := getLe sec 6 2, poolD := getLe sec 8 2, tapW := getLe sec 10 2
      tailTok := getLe sec 12 2, tokCyc := getLe sec 14 2, fixCyc := getLe sec 16 2, inRows := getLe sec 20 4
      depth := getLe sec 24 1, stopId := getLe sec 25 1, banId := getLe sec 26 1, forceId := getLe sec 27 1
      stateLen := getLe sec 28 2, resBytes := getLe sec 32 4, streamBytes := getLe sec 36 4
      markT := .ofNat 32 (getLe sec 40 4), holdT := .ofNat 32 (getLe sec 44 4), blockT := .ofNat 32 (getLe sec 48 4)
      layers := (img.drop ol).take ll, tiles := [] }
  guardOk (m.model < 4096 && m.pitch < 64 && cls ≤ 2 && getLe sec 3 1 < 8
    && intake true (m.ensId == 0) && intake (m.ntap ≤ 8) (m.ntap == 0) && 1 ≤ m.nlayer && m.nlayer ≤ 1024
    && intake (1 ≤ m.poolD && m.poolD ≤ 512) (m.poolD == 0)
    && (if !stream && m.ntap > 0 then 1 ≤ m.tapW && m.tapW ≤ 1024 else m.tapW == 0)
    && intake (16 ≤ m.tailTok && m.tailTok ≤ 1040) (m.tailTok == 0) && intake true (m.fixCyc == 0)
    && zeroRun sec 18 2 && (if cls == 1 then 1 ≤ m.inRows && m.inRows ≤ 16777216 else m.inRows == 0)
    && (if stream then 2 ≤ m.depth && m.depth ≤ 8 else m.depth == 0)
    && (stream || (m.stopId == 255 && m.banId == 255 && m.forceId == 255))
    && (if stream then m.stateLen % 64 == 0 && 64 ≤ m.stateLen && m.stateLen ≤ 24576 else m.stateLen == 0)
    && zeroRun sec 30 2 && intake true (m.streamBytes == 0)
    && (if stream then thresholdOk m.markT && thresholdOk m.holdT && thresholdOk m.blockT && f32Ge m.holdT m.markT
          && f32Ge m.blockT m.holdT
        else m.markT == 0#32 && m.holdT == 0#32 && m.blockT == 0#32)
    && secOff + 64 ≤ ol && ol + ll ≤ secOff + sec.length && zeroRun sec 60 4
    && (stream || (m.fixCyc + m.tailTok * m.tokCyc ≤ 21600
          && m.streamBytes * 27 ≤ (m.fixCyc + m.tailTok * m.tokCyc) * 5000))) m

/-- The tiles of a TILES section, each as long as its header states (R159). -/
def readTilesGo : Nat → List Byte → Option (List Tile)
  | 0, b => if b.isEmpty then some [] else none
  | k + 1, b =>
    if b.isEmpty then some [] else
    let n := getLe b 32 4
    let t := b.take n
    if n == 0 || !(tileHcrcOk t && tileCrcOk t && tileRangesOk t) then none
    else (readTilesGo k (b.drop n)).map (tileRead t :: ·)

def readTiles (b : List Byte) : Option (List Tile) := readTilesGo (b.length / 256 + 1) b

/-- Tiles of one tile column of a layer. -/
def ModelObj.column (m : ModelObj) (layer tcol : Nat) : List Tile :=
  m.tiles.filter (fun t => t.layer == layer && t.tcol == tcol)

/-- R163, and that every tile lies in the model. -/
def tilesOk (m : ModelObj) : Bool :=
  m.tiles.all (fun t =>
    let c := m.column t.layer t.tcol
    t.model == m.model && t.layer < m.nlayer
    && c.all (fun u => u.qfrac == t.qfrac && u.gsize == t.gsize && u.wfmt == t.wfmt && u.afmt == t.afmt)
    && t.final == c.all (fun u => u.trow ≤ t.trow) && (c.filter (fun u => u.trow == t.trow)).length == 1)

/-- A slot of a CALIB section (Table 9-1), its ranges and the first check of R209. -/
def readCalib (pitch : Nat) (b : List Byte) : Option CalibSlot :=
  let f := getLe b 4 1
  let c : CalibSlot :=
    { pitch, model := getLe b 0 2, layer := getLe b 2 2, scale := bit f 0, zp := bit f 1, bias := bit f 2
      const := bit f 3, qstep := bit f 4, lr := getLe b 5 1, span := getLe b 6 1, zpSpan := getLe b 7 1
      biasSpan := .ofNat 32 (getLe b 8 4), clipTrig := getLe b 12 2, spanTrig := getLe b 14 2
      satLimit := getLe b 16 4, gainMin := getLe b 20 2, qstepMax := getLe b 22 1 }
  guardOk (c.model < 4096 && c.layer < 1024 && f < 32 && f != 0 && 1 ≤ c.lr && c.lr ≤ 24 && 1 ≤ c.span
    && f32Finite c.biasSpan && f32Ge c.biasSpan 0#32 && c.qstepMax ≤ 8 && zeroRun b 23 9) c

/-- R209 against the model the slot names. -/
def calibOk (g : Gen) (c : CalibSlot) : Bool :=
  match g.models.find? (fun m => m.pitch == c.pitch && m.model == c.model) with
  | none => false
  | some m =>
    let fin := m.tiles.filter (fun t => t.layer == c.layer && t.final)
    c.layer < m.nlayer
    && (g.calib.filter (fun d => d.pitch == c.pitch && d.model == c.model && d.layer == c.layer)).length == 1
    && fin.all (fun t => if isIntFmt t.ofmt
        then 0 < bits t.ascale 7 8 && bits t.ascale 7 8 < 255 && t.ascale < 32768 && t.out.all (·.shOut ≤ 63)
        else !(c.scale || c.zp || c.const || c.qstep))

/-- A placement entry (R255). -/
def readPlace (b : List Byte) : Option Placement :=
  let p : Placement := { pitch := getLe b 2 1, model := getLe b 0 2, hint := bits (getLe b 3 1) 0 3
                         mirror := bit (getLe b 3 1) 3, first := getLe b 4 2, last := getLe b 6 2 }
  guardOk (p.model < 4096 && p.pitch < 64 && getLe b 3 1 < 16 && p.first < 1024 && p.last < 1024 && p.first ≤ p.last
    && p.hint ≤ 4 && (!p.mirror || p.hint == 2 || p.hint == 3)) p

/-- R255 against the models. -/
def placeOk (g : Gen) (p : Placement) : Bool :=
  match g.models.find? (fun m => m.pitch == p.pitch && m.model == p.model) with
  | none => false
  | some m => p.last < m.nlayer && (m.cls != 2 || p.hint == 0)
    && (g.place.filter (fun q => q.pitch == p.pitch && q.model == p.model && q.first ≤ p.last && p.first ≤ q.last)).length == 1

/-- Hint of a layer: its placement entry, or the default (R255). -/
def Gen.hint (g : Gen) (m : ModelObj) (layer : Nat) : Nat × Bool :=
  match g.place.find? (fun q => q.pitch == m.pitch && q.model == m.model && q.first ≤ layer && layer ≤ q.last) with
  | some q => (q.hint, q.mirror)
  | none => (if m.cls == 2 then 0 else 1, false)

/-- RES_BYTES and STREAM_BYTES are the sums the placement gives (R255), for an intake model. -/
def sumsOk (g : Gen) (m : ModelObj) : Bool :=
  let sum (pin : Bool) : Nat := ((m.tiles.filter (fun t => ((g.hint m t.layer).1 == 0) == pin)).map (·.len)).sum
  m.cls == 2 || (m.resBytes == sum true && m.streamBytes == sum false)

/-- A running-feature definition (R232). -/
def readFeat (w : Nat) : Option RunFeat :=
  let f : RunFeat := ⟨bits w 0 3, bits w 8 4, bits w 16 5, bits w 21 4⟩
  guardOk (f.op ≤ 6 && f.src ≤ 5 && bits w 3 5 == 0 && bits w 12 4 == 0 && bits w 25 7 == 0
    && (if f.op == 5 then 1 ≤ f.shift && f.shift ≤ 16 else f.shift == 0)
    && (if f.src == 4 then f.code ≤ 4 else f.code == 0)) f

/-- All of a list of options, or none. -/
def allSome {α : Type} : List (Option α) → Option (List α)
  | [] => some []
  | none :: _ => none
  | some x :: xs => (allSome xs).map (x :: ·)

/-- A PITCH_CFG section (Table 14-5). -/
def readCfg (pitch : Nat) (b : List Byte) : Option PitchCfg :=
  let t := getLe b 1 1
  let m := getLe b 2 1
  let kv := getLe b 3 1
  let km := getLe b 4 1
  let wrapped := bit m 3
  match allSome ((List.range 16).map (fun i => readFeat (getLe b (72 + 4 * i) 4))) with
  | none => none
  | some feats =>
    guardOk (b.length == 320 && getLe b 0 1 == pitch && m < 16 && km ≤ kv && kv ≤ km + 6 && zeroRun b 5 11
        && (if wrapped then zeroRun b 16 16 else zeroRun b 32 40) && zeroRun b 136 184)
      { pitch, inTable := bits t 0 4, outTable := bits t 4 4, modes := bits m 0 3, wrapped, keyver := kv, keyverMin := km
        salt := (b.drop 16).take 16, wrap := (b.drop 32).take 40, feats }

/-- A pitch record of STALL_ALLOC (R330). -/
def readRole (b : List Byte) (alloc : List Nat) : Option RoleCfg :=
  let n := getLe b 1 1
  let chains := (List.range 16).map (fun i =>
    ((chunks 1 8 ((b.drop (32 + 8 * i)).take 8)).map leNat))
  let used := (chains.take n).map (·.takeWhile (· != 255))
  let bench := getLe b 6 1
  let bs := getLe b 8 2
  guardOk (getLe b 0 1 < 64 && n ≤ 16 && getLe b 2 1 ≤ getLe b 3 1 && getLe b 4 1 ≤ getLe b 5 1
    && (bench == 0 || (2 ≤ bench && bench ≤ 16)) && 10 ≤ bs && bs ≤ 1000 && zeroRun b 7 1 && zeroRun b 10 22
    && (List.range 16).all (fun i => ((chains.getD i []).drop (if i < n then (used.getD i []).length else 0)).all (· == 255))
    && used.all (fun c => 2 ≤ c.length && c.length ≤ 8 && c.all (fun s => s < 64 && alloc.getD s 0 == getLe b 0 1 + 128))
    && used.flatten.Nodup)
    { pitch := getLe b 0 1, minSpread := getLe b 2 1, maxSpread := getLe b 3 1, minChain := getLe b 4 1
      maxChain := getLe b 5 1, maxBench := bench, benchStep := bs, chains := used }

/-- Allocation bytes of STALL_ALLOC (R330): pitch in [5:0], VALID in [7]. -/
def readAlloc (b : List Byte) : Option (List Nat) :=
  let a := (List.range 64).map (fun i => getLe b i 1)
  guardOk (64 ≤ b.length && a.all (fun x => !bit x 6 && (bit x 7 || x == 0))) a

/-- A SHARD_MAP section (Table 14-4). -/
def readShards (pitch : Nat) (b : List Byte) : Option ShardSec :=
  let s : ShardSec := { pitch, owners := (List.range 1024).map (fun i => getLe b (2 * i) 2), dirBase := getLe b 2048 8
                        dirPool := getLe b 2056 1, dirLog2b := getLe b 2057 1 }
  guardOk (b.length == 2064 && s.owners.all (· < 8192) && 4 ≤ s.dirLog2b && s.dirLog2b ≤ 24 && zeroRun b 2058 6) s

/-- A GUILD section: four slots of pitch, VALID and mask. DEDUCED: 64 bytes a slot, pitch in [5:0] and VALID in [7]
of byte 0, the mask in bytes 32 to 63, the rest reserved (notes/assumptions/12.md). -/
def readGuild (b : List Byte) : Option (List GuildSlot) :=
  let g := (List.range 4).map (fun i => (⟨bits (getLe b (64 * i) 1) 0 6, bit (getLe b (64 * i) 1) 7,
    (b.drop (64 * i + 32)).take 32⟩ : GuildSlot))
  guardOk (b.length == 256 && (List.range 4).all (fun i => !bit (getLe b (64 * i) 1) 6 && zeroRun b (64 * i + 1) 31)
    && ((g.filter (·.valid)).map (·.pitch)).Nodup) g

/-- Registers a REG_VALUES entry must not name: mirrors of structured sections (R329). -/
def mirrorFld (f : Fld) : Bool :=
  match f with
  | .glbStlAllocPitch | .glbStlAllocValid | .glbGuildLoMap | .glbGuildHiMap | .glbGuildPoolsMask | .glbGuildSlotPitch
  | .glbGuildSlotValid | .glbKeyCfgSrc | .glbKeyCfgKeyver | .glbKeyCfgKeyverMin | .aszSlotIdModel | .aszSlotIdLayer
  | .aszSlotIdPitch | .aszSlotIdValid | .tollMdlLoModel | .tollMdlLoPitch | .tollMdlLoFallback | .tollMdlLoStream
  | .tollMdlLoValid | .stlRolePitch | .stlRoleAlloc => true
  | _ => false

/-- Fields of the word at an address, each with its copy number. -/
def fieldsAt (a : Nat) : List (Fld × Nat) :=
  Fld.all.filterMap (fun f => (f.desc.copyAt a).map (fun i => (f, i)))

/-- Pitch whose own row or window a copy lies in (R329, Table 13-3), where its place alone says so. -/
def rowPitch (f : Fld) (i : Nat) : Option Nat :=
  let b := f.desc.base
  if (0x2400 ≤ b && b < 0x2410) || (0x4400 ≤ b && b < 0x5400) || (0x6400 ≤ b && b < 0x7400)
    || (0x12000 ≤ b && b < 0x13000) || (0x31000 ≤ b && b < 0x31400) || (0x41000 ≤ b && b < 0x41800)
    || (0x51000 ≤ b && b < 0x51800) || (0x80000 ≤ b && b < 0x100000) then some i else none

/-- One entry of REG_VALUES (R329); `own` is the pitch of a pitch-scope section, and `mdl` tells which pitch owns a
model-table entry. -/
def regEntryOk (own : Option Nat) (mdl : Nat → Option Nat) (a v : Nat) : Bool :=
  let fs := fieldsAt a
  a % 4 == 0 && fs.any (fun x => x.1.desc.charter) && fs.all (fun x => !mirrorFld x.1)
  && fs.all (fun x => !x.1.desc.charter || x.1.desc.allows (bits v x.1.desc.lo x.1.desc.width))
  && (fs.map (fun x => bits v x.1.desc.lo x.1.desc.width * 2 ^ x.1.desc.lo)).sum == v
  && (match own with
      | none => true
      | some p => fs.all (fun x =>
          rowPitch x.1 x.2 == some p || (x.1 == .tollMdlHiEnergyNj && mdl x.2 == some p)))

/-- The entries of a REG_VALUES section. -/
def readRegs (b : List Byte) : Option (List (Nat × Nat)) :=
  let r := (List.range (b.length / 8)).map (fun i => (getLe b (8 * i) 4, getLe b (8 * i + 4) 4))
  guardOk (b.length % 8 == 0 && (List.range (r.length - 1)).all (fun i => (r.getD i (0, 0)).1 < (r.getD (i + 1) (0, 0)).1)) r

/-- Put an object in place of the one with the same key, or add it. -/
def replaceBy {α : Type} (same : α → Bool) (x : α) (xs : List α) : List α :=
  if xs.any same then xs.map (fun y => if same y then x else y) else xs ++ [x]

/-- Error code of a section type (Table 14-6). -/
def typeCode (t : Nat) : Nat :=
  match t with
  | 0x01 => 0x08 | 0x02 => 0x09 | 0x03 => 0x0A | 0x04 => 0x13 | 0x05 => 0x0F | 0x06 => 0x0E | 0x07 => 0x0B
  | 0x08 => 0x0C | 0x09 => 0x0D | 0x0A => 0x0D | 0x0B => 0x11 | 0x0C => 0x12 | _ => 0x15

/-- BSEQ of a tile that replaces another of a generation: one above the revision in force (R341). -/
def reseq (old : List Tile) (t : Tile) : Tile :=
  match old.find? (fun u => u.layer == t.layer && u.trow == t.trow && u.tcol == t.tcol) with
  | some u => { t with bseq := (u.bseq + 1) % 65536 }
  | none => t

/-- Remove what a section of LEN 0 names (R341). -/
def dropSection (e : DirEnt) (g : Gen) : Gen :=
  match e.type with
  | 0x05 => { g with models := g.models.filter (fun m => !(m.pitch == e.pitch && m.model == e.id)) }
  | 0x06 => { g with models := g.models.map (fun m => if m.pitch == e.pitch && m.model == e.id then { m with tiles := [] } else m) }
  | 0x07 => { g with texts := g.texts.filter (·.id != e.id) }
  | 0x08 => { g with sieves := g.sieves.filter (·.id != e.id) }
  | 0x09 => { g with enss := g.enss.filter (·.id != e.id) }
  | 0x0A => { g with stocks := g.stocks.filter (fun s => !(s.1 == e.pitch && s.2.id == e.id)) }
  | 0x0B => { g with calib := g.calib.filter (·.pitch != e.pitch) }
  | 0x0C => { g with place := g.place.filter (·.pitch != e.pitch) }
  | _ => g

/-- A model entry put in place of the one it replaces, whose tiles stay until a TILES section replaces them. -/
def Gen.putModel (g : Gen) (m : ModelObj) : Gen :=
  let same (x : ModelObj) : Bool := x.pitch == m.pitch && x.model == m.model
  { g with models := replaceBy same { m with tiles := ((g.models.find? same).map (·.tiles)).getD [] } g.models }

/-- One section taken into a build, or none when it fails its own checks. TILES bodies wait in `tiles` until the
models are known. How a PORTER_FW section divides into code and initialised data is not stated: its length is held to the sum
of the two bounds of R183, DESIGN CHOICE (notes/assumptions/123.md). -/
def takeSection (img : List Byte) (e : DirEnt) (u : Build) : Option Build :=
  let b := e.body img
  let g := u.gen
  if e.len == 0 then some { u with gen := dropSection e g } else
  match e.type with
  | 0x01 => (readRegs b).map (fun r => { u with
      regs := u.regs ++ r, owned := u.owned ++ (if e.block then [] else r.map (fun x => (e.pitch, x.1, x.2))) })
  | 0x02 => (readCfg e.pitch b).map (fun c => { u with cfgs := u.cfgs ++ [c] })
  | 0x03 =>
    (readAlloc b).bind (fun a =>
      (allSome ((chunks 160 ((b.length - 64) / 160) (b.drop 64)).map (fun x => readRole x a))).bind (fun rs =>
        guardOk (b.length == 64 + 160 * rs.length) { u with alloc := a, roles := rs, hasAlloc := true }))
  | 0x04 => guardOk (b.length ≤ 64 * 1024 + 16 * 1024) { u with hasFw := true, gen := { u.gen with fw := b } }
  | 0x05 => (readModel img b e.off).bind (fun m => guardOk (m.pitch == e.pitch && m.model == e.id)
      { u with gen := g.putModel m })
  | 0x06 => (readTiles b).bind (fun ts => guardOk (g.models.any (fun m => m.pitch == e.pitch && m.model == e.id))
      { u with gen := { g with models := g.models.map (fun m =>
          if m.pitch == e.pitch && m.model == e.id then { m with tiles := ts.map (reseq m.tiles) } else m) } })
  | 0x07 => (readText b).bind (fun t => guardOk (t.id == e.id)
      { u with gen := { g with texts := replaceBy (·.id == t.id) { t with digest := e.digest } g.texts } })
  | 0x08 => (readSieve b).bind (fun t => guardOk (t.id == e.id)
      { u with gen := { g with sieves := replaceBy (·.id == t.id) { t with digest := e.digest } g.sieves } })
  | 0x09 => (readEns b).bind (fun t => guardOk (t.id == e.id)
      { u with gen := { g with enss := replaceBy (·.id == t.id) { t with digest := e.digest } g.enss } })
  | 0x0A => (readStock b).bind (fun t => guardOk (t.1 == e.pitch && t.2.id == e.id)
      { u with gen := { g with stocks := replaceBy (fun s => s.1 == t.1 && s.2.id == t.2.id) t g.stocks } })
  | 0x0B => (allSome ((chunks 32 (b.length / 32) b).map (readCalib e.pitch))).bind (fun cs => guardOk (b.length % 32 == 0)
      { u with gen := { g with calib := g.calib.filter (·.pitch != e.pitch) ++ cs } })
  | 0x0C => (allSome ((chunks 8 (b.length / 8) b).map readPlace)).bind (fun ps =>
      guardOk (b.length % 8 == 0 && ps.all (·.pitch == e.pitch))
        { u with gen := { g with place := g.place.filter (·.pitch != e.pitch) ++ ps } })
  | 0x0D => (readShards e.pitch b).map (fun s => { u with shards := u.shards ++ [s] })
  | _ => (readGuild b).map (fun s => { u with guild := s })

/-- Sections in directory order, MODEL sections ahead of the TILES sections that need them (check 6). -/
def takeSections (img : List Byte) (u : Build) : List DirEnt → Except (Nat × Nat) Build
  | [] => .ok u
  | e :: es =>
    match takeSection img e u with
    | some v => takeSections img v es
    | none => .error (typeCode e.type, e.off)

/-- The sections an image's build takes, TILES last. -/
def sectionOrder (b : List Byte) : List DirEnt :=
  (readDir b).filter (·.type != 6) ++ (readDir b).filter (·.type == 6)

/-- The first section, in directory order, that fails the checks its chapter makes on it (check 6 of R331). -/
def firstBad (b : List Byte) (u : Build) : Option DirEnt :=
  let ms := (readDir b).filterMap (fun e => if e.type == 5 && e.len != 0 then readModel b (e.body b) e.off else none)
  let u0 : Build := { u with gen := ms.foldl Gen.putModel u.gen }
  (readDir b).find? (fun e => (takeSection b e u0).isNone)

/-- All sections of an image over a build; code and offset of the first that fails. -/
def takeAll (b : List Byte) (u : Build) : Except (Nat × Nat) Build :=
  match firstBad b u with
  | some e => .error (typeCode e.type, e.off)
  | none => takeSections b u (sectionOrder b)

/-! ### What a generation holds -/

/-- A tile revision. -/
structure TileId where
  pitch : Nat
  model : Nat
  layer : Nat
  trow : Nat
  tcol : Nat
  bseq : Nat
  deriving DecidableEq, Repr

def Gen.model? (g : Gen) (pitch m : Nat) : Option ModelObj := g.models.find? (fun x => x.pitch == pitch && x.model == m)
def Gen.text? (g : Gen) (id : Nat) : Option TextTable := g.texts.find? (·.id == id)
def Gen.sieve? (g : Gen) (id : Nat) : Option SieveTable := g.sieves.find? (·.id == id)
def Gen.ens? (g : Gen) (id : Nat) : Option Ensemble := g.enss.find? (·.id == id)
def Gen.stock? (g : Gen) (pitch id : Nat) : Option StockTable := (g.stocks.find? (fun s => s.1 == pitch && s.2.id == id)).map (·.2)

/-- Entries of a Sieve table, none when it is absent (Table 2-14). -/
def Gen.entries (g : Gen) (id kind : Nat) : List SieveEnt :=
  match g.sieve? id with
  | some t => if t.kind == kind then t.ents else []
  | none => []

/-- Bytes in whole granules of the tile region (R260). -/
def granules (n : Nat) : Nat := ceilDiv n 512 * 512

/-- The parts of a text table that a Joiner holds: its token index and its byte pool (R84). -/
def TextTable.joiner (t : TextTable) : Nat := 4 * t.vocab + t.pool

/-- Tile-region bytes of each of a generation's tables, by type and key: an image moves and is held whole (R253). -/
def Gen.tables (g : Gen) : List Nat :=
  g.texts.map (granules ·.len) ++ g.sieves.map (granules ·.len) ++ g.enss.map (granules ·.len) ++ g.stocks.map (granules ·.2.len)

def ModelObj.size (m : ModelObj) : Nat := (m.tiles.map (fun t => granules t.len)).sum

/-- Tile-region bytes of a generation: one home copy of every tile and table (R205). -/
def Gen.size (g : Gen) : Nat := (g.models.map (·.size)).sum + g.tables.sum

def Tile.name (t : Tile) (p : Nat) : TileId := ⟨p, t.model, t.layer, t.trow, t.tcol, t.bseq⟩

/-- Same place in a model. -/
def Tile.at (t : Tile) (layer trow tcol : Nat) : Bool := t.layer == layer && t.trow == trow && t.tcol == tcol

/-- The tile of a generation at a place. -/
def Gen.tile? (g : Gen) (p m layer trow tcol : Nat) : Option Tile :=
  (g.model? p m).bind (fun x => x.tiles.find? (·.at layer trow tcol))

def Gen.holds (g : Gen) (t : TileId) : Bool := ((g.tile? t.pitch t.model t.layer t.trow t.tcol).map (·.bseq)) == some t.bseq

/-- A generation with a model's tiles replaced. -/
def Gen.withTiles (g : Gen) (p m : Nat) (ts : List Tile) : Gen :=
  { g with models := g.models.map (fun x => if x.pitch == p && x.model == m then
      { x with tiles := x.tiles.map (fun t => (ts.find? (·.at t.layer t.trow t.tcol)).getD t) } else x) }

/-- Hint of a model's layer in a generation. -/
def Gen.hintOf (g : Gen) (p m layer : Nat) : Nat := ((g.model? p m).map (fun x => (g.hint x layer).1)).getD 0

/-- A layer's tiles are held in T0 of every stall of the role (Table 11-2). -/
def Gen.inT0 (g : Gen) (p m layer : Nat) : Bool := g.hintOf p m layer == 0

/-! ### What a stall of a role holds in T0 (R259) -/

/-- Something a stall holds in T0: a tile revision, or a table image, with its bytes. -/
inductive T0Obj where
  | tile (t : TileId) (bytes : Nat)
  | table (type id : Nat) (digest : List Byte) (bytes : Nat)
  deriving DecidableEq, Repr

def T0Obj.bytes : T0Obj → Nat
  | .tile _ n => n
  | .table _ _ _ n => n

/-- Objects of a Spread stall: the PIN_T0 tiles and tables of its pitch's intake models, and the banned and forced tables of its
stream models, from whose root it answers a CONSTRAINT of a session with no stream open (R27; notes/assumptions/127.md). -/
def Gen.spreadObjs (g : Gen) (c : PitchCfg) : List T0Obj :=
  let ms := g.models.filter (fun m => m.pitch == c.pitch && m.cls != 2)
  ms.flatMap (fun m => (m.tiles.filter (fun t => (g.hint m t.layer).1 == 0)).map (fun t => .tile (t.name c.pitch) t.len))
  ++ (g.texts.filter (·.id == c.inTable)).map (fun t => .table 0x07 t.id t.digest t.len)
  ++ (g.sieves.filter (fun t => t.id == Config.intakeSieve c.pitch 0 || t.id == Config.intakeSieve c.pitch 1
        || g.models.any (fun m => m.pitch == c.pitch && m.cls == 2 && (m.banId == t.id || m.forceId == t.id)))).map
      (fun t => .table 0x08 t.id t.digest t.len)
  ++ (g.enss.filter (fun e => ms.any (·.ensId == e.id))).map (fun e => .table 0x09 e.id e.digest e.len)

/-- Layers of a stream model that a chain of `n` stages holds in stage `st`: Tallyman's assignment, in the layer list (R193). -/
def ModelObj.sliceOf (m : ModelObj) (n st : Nat) : List Nat :=
  (List.range m.nlayer).filter (fun l => Config.layerStage m.layers l % n == st)

/-- Objects of stage `st` of a chain of `n` stages: its slices' tiles, and on the last stage the Sieve's tables and the Joiner's
parts (R27, R84). -/
def Gen.stageObjs (g : Gen) (c : PitchCfg) (n st : Nat) : List T0Obj :=
  let ms := g.models.filter (fun m => m.pitch == c.pitch && m.cls == 2)
  ms.flatMap (fun m => (m.tiles.filter (fun t => (m.sliceOf n st).contains t.layer)).map (fun t => .tile (t.name c.pitch) t.len))
  ++ (if st + 1 == n then
      (g.texts.filter (·.id == c.outTable)).map (fun t => .table 0x07 t.id t.digest t.joiner)
      ++ (g.sieves.filter (fun t => ms.any (fun m => m.stopId == t.id || m.banId == t.id || m.forceId == t.id))).map
          (fun t => .table 0x08 t.id t.digest t.len)
    else [])

def objBytes (xs : List T0Obj) : Nat := (xs.map T0Obj.bytes).sum

/-- Summary, state and hold areas of an entry size code (R230). -/
def summaryArea (code : Nat) : Nat := [1024, 2048, 4096, 4096].getD code 0
def stateArea (code : Nat) : Nat := [2048, 4096, 8192, 24576].getD code 0
def holdArea (code : Nat) : Nat := [768, 1792, 3840, 3840].getD code 0
def entryBytes (code : Nat) : Nat := 4096 * 2 ^ code

/-- Length of an intake summary (R192). -/
def ModelObj.summaryLen (m : ModelObj) : Nat := ceilDiv (64 + 2 * m.ntap * m.tapW) 64 * 64

/-- CLK_ARITH cycles of the hops of a chain: 54 within a quadrant, 270 through the hubs (R196). -/
def hopCycles : List Nat → Nat
  | a :: b :: rest => (if a / 16 == b / 16 then 54 else 270) + hopCycles (b :: rest)
  | _ => 0

/-- The chain row of a pitch's per-token delay, in CLK_ARITH cycles (R196). -/
def chainRow (g : Gen) (r : RoleCfg) (chainTokens : Nat) : Nat :=
  let ms := g.models.filter (fun m => m.pitch == r.pitch && m.cls == 2)
  let ttok := (ms.map (·.tokCyc)).foldl max 0
  let depth := (ms.map (·.depth)).foldl max 0
  (depth + chainTokens - 1) * ttok + (r.chains.map hopCycles).foldl max 0

/-- Least PIT_DELAY.TOKEN_DELAY of a pitch, in 100 ns units rounded up (R196); the hold margin is 0. -/
def tokenDelayMin (g : Gen) (r : RoleCfg) (chainTokens : Nat) : Nat :=
  if r.chains.isEmpty then 0 else ceilDiv (1200 * 27 + chainRow g r chainTokens * 10) 2700

/-- R193: the stream models of the pitch have one depth, the chains'. -/
def depthOk (g : Gen) (r : RoleCfg) : Bool :=
  let ms := g.models.filter (fun m => m.pitch == r.pitch && m.cls == 2)
  ms.all (fun m => some m.depth == ms.head?.map (·.depth)) && r.chains.all (fun c => ms.all (fun m => m.depth == c.length))

/-- Value of a register field among REG_VALUES, or its charter default (R329). -/
def regValue (regs : List (Nat × Nat)) (f : Fld) (i : Nat) : Nat :=
  let d := f.desc
  match regs.find? (fun r => r.1 == d.addr i) with
  | some r => bits r.2 d.lo d.width
  | none => d.dflt.getD 0

/-- T0 bytes that a Chain stage keeps for the state slices of CHAIN_SESSIONS sessions (R194, R205). -/
def sliceBytes (g : Gen) (p cs : Nat) : Nat :=
  cs * (((g.models.filter (fun m => m.pitch == p && m.cls == 2)).map (fun m => ceilDiv m.stateLen (max 1 m.depth))).foldl max 0)

/-- T0 bytes of the Sieve's and the Joiner's tables on a last stage (R84, R259). -/
def lastTables (g : Gen) (c : PitchCfg) : Nat :=
  ((g.stageObjs c 1 0).map (fun x => match x with
    | .table _ _ _ n => n
    | .tile _ _ => 0)).sum

/-- T0 of a stall less the staging area of streamed tiles (R259, Table 11-5). -/
def t0Space : Nat := 4 * 2 ^ 20 - 262144

/-- The T0 of a Spread stall holds its generation's objects, `xi` bytes more beside them, and its requests' working space; that of
a stage its own, and `xs` more (R205, R259, Table 11-5). That a last stage's tables count at the charter check too is DEDUCED from
R84 and R259 (notes/assumptions/123.md). -/
def t0Ok (g : Gen) (c : PitchCfg) (cs : Nat) (xi xs : Nat) : Bool :=
  let ms := g.models.filter (·.pitch == c.pitch)
  let intake := ms.filter (·.cls != 2)
  let tables := ((g.spreadObjs c).map (fun x => match x with
    | .table _ _ _ n => n
    | .tile _ _ => 0)).sum
  (intake.map (·.resBytes)).sum + tables + 16 * Config.workBytes + xi ≤ t0Space
  && ((ms.filter (·.cls == 2)).map (·.resBytes)).sum + sliceBytes g c.pitch cs + lastTables g c + xs ≤ t0Space

/-- The fit of a pitch but for the tile region (R205), with register values `val` and bytes of T0 that a second generation
takes beside it on Spread stalls and stages. -/
def fitOk (g : Gen) (val : Fld → Nat → Nat) (c : PitchCfg) (r : RoleCfg) (xi xs : Nat) : Bool :=
  let p := c.pitch
  let ms := g.models.filter (·.pitch == p)
  let stream := ms.filter (·.cls == 2)
  let sz := val .ldgPitCfgSize p
  let ct := val .tollPitCfgChainTokens p
  t0Ok g c (val .tollPitCfgChainSessions p) xi xs && ms.all (fun m => m.summaryLen ≤ summaryArea sz && m.stateLen ≤ stateArea sz)
  && tokenDelayMin g r ct ≤ val .pitDelayTokenDelay p
  && (r.chains.isEmpty || stream.all (fun m => ct * m.tokCyc ≤ 84375))

/-- Cross-checks over the objects of one generation (check 6 where a section needs another). -/
def genChk (g : Gen) : Chk :=
  chk (g.sieves.all (sieveTokensOk g.texts)) 0x0C 0
  <|> chk (g.enss.all (fun e =>
        let users := g.models.filter (fun m => m.cls != 2 && m.ensId == e.id)
        users.all (fun m =>
          e.inputs.all (fun i => i.src != 0 || i.index < 2 * m.poolD + 2)
          && e.binds.all (fun s => (s.map (fun s => (g.stock? m.pitch s.stockId).isSome)).getD true))
        && e.inputs.all (fun i => i.src != 2 || (match e.binds.getD i.bind none with
            | some s => ((g.stocks.find? (·.2.id == s.stockId)).map (fun t => decide (i.index < t.2.ncol))).getD false
            | none => false))
        && e.binds.all (fun s => (s.map (fun s => g.stocks.any (·.2.id == s.stockId))).getD true))
      && (g.stocks.map (·.2.id)).Nodup) 0x0D 0
  <|> chk (g.models.all tilesOk) 0x0E 0
  <|> chk (g.models.all (fun m => m.cls == 2 || (g.ens? m.ensId).isSome)
        && g.models.all (fun m =>
          let named (id kind : Nat) : Bool := id == 255 || ((g.sieve? id).map (·.kind == kind)).getD false
          m.cls != 2 || (named m.stopId 2 && named m.banId 3 && named m.forceId 4))
        && g.models.all (fun m => !m.fallback || (g.models.filter (fun x => x.pitch == m.pitch && x.fallback
            && (x.cls == 2) == (m.cls == 2) && (x.cls == 1) == (m.cls == 1))).length == 1)) 0x0F 0
  <|> chk (g.calib.length ≤ 2048 && g.calib.all (calibOk g)) 0x11 0
  <|> chk (g.place.all (placeOk g) && g.models.all (sumsOk g)) 0x12 0

/-- Pitch that owns model-table entry `i`: MODEL sections in directory order (notes/assumptions/11.md). -/
def Gen.mdlPitch (g : Gen) (i : Nat) : Option Nat := g.models[i]?.map (·.pitch)

/-- Fields without a default that every pitch in use must name (R329). -/
def namedOk (u : Build) : Bool :=
  Fld.all.all (fun f =>
    let d := f.desc
    !d.charter || d.dflt.isSome || mirrorFld f || (rowPitch f 0).isNone
    || u.cfgs.all (fun c => u.regs.any (fun r => r.1 == d.addr c.pitch)))

/-- Checks 6 and 7 of a charter once its sections are read: register entries, pitches, allocation, fit, guild, fabric. -/
def charterChk (u : Build) (dir : List DirEnt) : Chk :=
  let g := u.gen
  let used := u.cfgs.map (·.pitch)
  let guildPitches := (u.guild.filter (·.valid)).map (·.pitch)
  let ledger := regValue u.regs .tierRegionLedger 0
  genChk g
  <|> chk (u.regs.all (fun r => regEntryOk none g.mdlPitch r.1 r.2)
        && u.owned.all (fun r => regEntryOk (some r.1) g.mdlPitch r.2.1 r.2.2) && namedOk u
        && ledger ≤ 14
        && dir.all (fun e => !(e.type == 1 && !e.block) || used.contains e.pitch)) 0x08 0
  <|> chk (!used.isEmpty && used.Nodup && u.cfgs.all (fun c => (g.text? c.inTable).isSome && (g.text? c.outTable).isSome)
        && dir.all (fun e => e.block || used.contains e.pitch)
        && guildPitches.all used.contains) 0x09 0
  <|> chk (u.hasAlloc && u.roles.map (·.pitch) == sortBy (fun a b => decide (a ≤ b)) used
        && u.alloc.all (fun a => !bit a 7 || used.contains (bits a 0 6))
        && (u.roles.flatMap (·.chains.flatten)).Nodup && u.roles.all (depthOk g)) 0x0A 0
  <|> chk u.hasFw 0x13 0
  <|> chk (g.models.length ≤ 1024 && g.models.all (fun m => used.contains m.pitch)) 0x0F 0
  <|> chk (u.cfgs.all (fun c => ((u.roles.find? (·.pitch == c.pitch)).map (fun r => fitOk g (regValue u.regs) c r 0 0)).getD false)
        && g.size + ledger * 64 * 2 ^ 20 ≤ 1024 * 2 ^ 20) 0x10 0
  <|> chk ((List.range 4).all (fun p => regValue u.regs .fabPortCfgGuildEn p == 0
          || guildPitches.contains (regValue u.regs .fabPortCfgGuildPitch p))
        && u.cfgs.all (fun c => regValue u.regs .fabCfgMode 0 == 0 || regValue u.regs .fabPitCfgRemoteIntake c.pitch == 0)
        && (regValue u.regs .fabCfgMode 0 == 1 || u.shards.isEmpty)) 0x15 0

/-- Check 8: the secret of each pitch in use (R312). -/
def pitchSecret (c : PitchCfg) : Option (List Byte) :=
  if c.wrapped then keyUnwrap Config.fwk c.wrap else some (kdf Config.duk "NGV-PITCH" (BitVec.ofNat 8 c.pitch :: c.salt))

/-- The ledger key of a version (R312). -/
def ledgerKey (secret : List Byte) (pitch v : Nat) : List Byte :=
  kdf secret "NGV-LEDGER" [BitVec.ofNat 8 pitch, BitVec.ofNat 8 v]

end Sys2Proof.Machine
end

