-- ==== Sys2Proof/Machine/Regs.lean ====
section
/-! DEFINITION. The register file: every field of `Fld`, held as a sorted list of the fields that differ from their
reset value, so that equal register contents are equal lists. -/

namespace Sys2Proof.Machine

/-- A copy of a field that does not hold its reset value. -/
structure RegCell where
  fld : Fld
  idx : Nat
  val : Word
  deriving DecidableEq, Repr

/-- Order of the cells: field, then copy. -/
def cellBefore (a : Fld) (i : Nat) (b : Fld) (j : Nat) : Bool :=
  a.ctorIdx < b.ctorIdx || (a.ctorIdx == b.ctorIdx && i < j)

/-- A field's value after the events of its class (R399). -/
def Fld.resetVal (f : Fld) : Word := BitVec.ofNat 32 f.desc.rst

/-- The value of a copy of a field. -/
def regGet (r : List RegCell) (f : Fld) (i : Nat) : Word :=
  match r.find? (fun c => decide (c.fld = f ∧ c.idx = i)) with
  | some c => c.val
  | none => f.resetVal

/-- A cell put at its place. -/
def cellInsert (f : Fld) (i : Nat) (v : Word) : List RegCell → List RegCell
  | [] => [⟨f, i, v⟩]
  | c :: cs => if cellBefore f i c.fld c.idx then ⟨f, i, v⟩ :: c :: cs else c :: cellInsert f i v cs

/-- A copy of a field set to a value, which its width bounds. -/
def regSet (r : List RegCell) (f : Fld) (i : Nat) (v : Nat) : List RegCell :=
  let w := BitVec.ofNat 32 (v % 2 ^ f.desc.width)
  let rest := r.filter (fun c => decide (¬ (c.fld = f ∧ c.idx = i)))
  if w = f.resetVal then rest else cellInsert f i w rest

/-- Strictly rising, nothing at its reset value. -/
def regsWf : List RegCell → Bool
  | [] => true
  | [c] => c.val != c.fld.resetVal
  | c :: d :: cs => c.val != c.fld.resetVal && cellBefore c.fld c.idx d.fld d.idx && regsWf (d :: cs)

/-- Copies for which a test holds take their reset value again. -/
def regsDrop (r : List RegCell) (p : Fld → Nat → Bool) : List RegCell := r.filter (fun c => !p c.fld c.idx)

end Sys2Proof.Machine
end

