-- ==== Sys2Proof/Machine/State.lean ====
section
/-! DEFINITION. The machine's state: the register file and everything else the manual gives the block, as plain data. -/

namespace Sys2Proof.Machine

/-- Why a step stops with a fault: no command of the block does (every one of them answers a next state). -/
inductive Fault where
  deriving DecidableEq, Repr

/-- Why a step is refused. -/
inductive Refusal where
  /-- Raised by an arm of `exec` whose command has no meaning yet. Safe. -/
  | notModelled (mnemonic : String)
  deriving DecidableEq, Repr

/-! ### What leaves the block -/

/-- One thing the block sends (Table 1-4): a write or a read toward host memory (T2) under an accessor id
(R304), an interrupt message (R48), a non-posted completion (R60), data of a control-window read, a Carriage frame in a DATA
flit on a lane, a flit without frames (type, ACKSEQ, credits returned), programs and erases of the NOR devices, an image read, reads of a tile,
a table or a stock line from the charter device (R338). -/
inductive Out where
  | t2Write (acc addr : Nat) (bytes : List Byte)
  | t2Read (acc addr len : Nat)
  | irq (pitch addr data : Nat)
  | bellDone (pitch epoch : Nat)
  | readData (acc addr value : Nat)
  | frame (lane fseq : Nat) (bytes : List Byte)
  | lane (lane ftype ack vc credits : Nat)
  | slotSave (optime pcyc seq : Nat)
  | program (pos : Nat) (bytes : List Byte)
  | sectorErase (sector : Nat)
  | imageRead (alt : Bool)
  | deviceTile (pitch model layer trow tcol : Nat)
  | deviceTable (type id : Nat)
  | deviceStock (pitch stock line : Nat)
  deriving DecidableEq, Repr

/-- A thing sent, stamped with the HP_CLK cycle of its first flit (R55). -/
structure Emit where
  cyc : Nat
  what : Out
  deriving DecidableEq, Repr

/-! ### Clocks, power, pins -/

/-- The Toll port's outputs (R65). -/
structure TollPins where
  av : Bool := false
  ans : Nat := 0
  reason : Nat := 0
  deriving DecidableEq, Repr

/-- The crystal (R347). -/
inductive Crystal where
  | starting | running | failed
  deriving DecidableEq, Repr

/-- Clocks and counters of time. `frac` is the part of a 1/1024 s unit gathered so far, in units of 1/15625 of one
(an oscillator tick is 2/15625 of a unit). -/
structure Clocks where
  hp : Nat := 0
  ticks : Nat := 0
  optime : Nat := 0
  frac : Nat := 0
  /-- what the energy level holds beyond TOLL_ENERGY_LEVEL.NJ (R73): its fraction in eighths of a nJ, and the nJ above 32 bits -/
  levelFrac : Nat := 0
  levelOver : Nat := 0
  crystal : Crystal := .starting
  /-- WCH_OPTIME_HI latches of OPERATOR and AUDITOR (R403) -/
  latchOp : Nat := 0
  latchAud : Nat := 0
  /-- WCH_TIMER_HI as written, until WCH_TIMER_LO takes it in force (R403) -/
  timerHi : Nat := 0
  parkCtr : Nat := 0
  trims : Nat := 0
  deriving DecidableEq, Repr

/-- What holds the block (R359, R360, R356, R375). -/
inductive Hold where
  | none | hibernate (trip droop : Bool) | powerFail | clkLoss | shared
  deriving DecidableEq, Repr

/-- Where start-up stands (Table 14-7). -/
inductive StartPhase where
  | reset | reading (alt : Bool) | loading | done | failed | katFail
  deriving DecidableEq, Repr

/-- Power and start-up. -/
structure Power where
  hold : Hold := .none
  phase : StartPhase := .reset
  /-- the running start follows a power-on (R337) -/
  powerOn : Bool := false
  /-- the counters are still to be restored (R350), and their slot and POWER_ON to be written -/
  restore : Bool := false
  slotDue : Bool := false
  /-- a charter image is present at the alternate place (R324) -/
  altPresent : Bool := false
  /-- tick of the release that began the start, and of Toll ready -/
  startTick : Nat := 0
  readyTick : Option Nat := none
  /-- header of the image that verified, waiting for Toll ready -/
  build : Option ImgHdr := none
  /-- zeroisation is erasing (R318) -/
  zeroing : Bool := false
  deriving DecidableEq, Repr

/-- DESIGN CHOICE (notes/assumptions/4.md): the hash the part's key slot 0 is provisioned with, the SHA-384 of the P-384 base
point as a public key. -/
def slotHash0 : List Byte :=
  [0x6E#8, 0x8E#8, 0x2D#8, 0x20#8, 0x4C#8, 0x43#8, 0x43#8, 0x4A#8, 0xC2#8, 0xDB#8, 0xC8#8, 0xB6#8, 0xC2#8, 0x4F#8, 0xE6#8, 0x9E#8]
  ++ [0x31#8, 0x27#8, 0xCE#8, 0xF8#8, 0x84#8, 0x70#8, 0x59#8, 0xC7#8, 0x70#8, 0xD9#8, 0xB8#8, 0x2E#8, 0x79#8, 0xDC#8, 0x57#8, 0xC6#8]
  ++ [0x6C#8, 0x30#8, 0xCA#8, 0xFB#8, 0xCA#8, 0x8D#8, 0xDA#8, 0x39#8, 0xD3#8, 0x98#8, 0x5E#8, 0x38#8, 0x6E#8, 0xF4#8, 0x36#8, 0x6B#8]

/-- Fuses (R314, R315, R321). What they hold at reset is the part's own (notes/assumptions/4.md). -/
structure Fuses where
  keyHash : List (List Byte) := [slotHash0, List.replicate 48 0#8, List.replicate 48 0#8, List.replicate 48 0#8]
  programmed : Nat := 1
  revoked : Nat := 0
  svn : Nat := 0
  dukOk : Bool := true
  fwkOk : Bool := true
  deriving DecidableEq, Repr

/-! ### Requests and streams -/

/-- A live admission (R41). -/
structure Admission where
  pitch : Nat
  session : Nat
  tag : Nat
  kind : Nat
  model : Nat
  /-- the model that serves: the fallback when `model` is DOWN -/
  serving : Nat
  cost : Nat
  epoch : Nat
  /-- chain the request is charged to or pinned on: declared chain number of the pitch -/
  chain : Option Nat
  tick : Nat
  /-- stalls of the role and cellar banks lost since the answer (R377, E_CAPACITY) -/
  lostStalls : Nat := 0
  lostBanks : Nat := 0
  deriving DecidableEq, Repr

/-- An event of an arrival pass (Table 5-5) that decides its result. -/
inductive PassEnd where
  | block (tok : Nat)
  | stop (tok : Nat) (byte : Nat) (at_ : Nat)
  deriving DecidableEq, Repr

/-- Result of an arrival pass (R115): tokens examined, MARK event, ending event, pending bytes and hold-back, and the
stream tokens and bytes passed with it. -/
structure PassRes where
  examined : Nat := 0
  mark : Bool := false
  fin : Option PassEnd := none
  pend : List Byte := []
  hold : Nat := 0
  ids : List Nat := []
  bytes : List Byte := []
  deriving DecidableEq, Repr

/-- How a stream stands for later descriptors (R42, R115, R116). -/
inductive StreamEnd where
  | open | stop | block | closed | err
  deriving DecidableEq, Repr

/-- The Joiner's hold-back and held bytes (R100, R101). -/
structure JoinSt where
  back : List Byte := []
  held : List Byte := []
  isHeld : Bool := false
  stopDone : Bool := false
  deriving DecidableEq, Repr

/-- What a STREAM_TOKEN releases and reports, fixed at resolve (Tables 4-6, 5-6), with the state its checkpoint holds. -/
structure Resolve where
  code : Nat
  out : List Byte := []
  stopTok : Nat := 0
  stopByte : Nat := 0
  score : F32 := 0#32
  scored : Nat := 0
  fin : StreamEnd := .open
  /-- held bytes beyond the hold area (R39) -/
  limit : Option Nat := none
  join : JoinSt := {}
  ids : List Nat := []
  bytes : List Byte := []
  scoredIds : List Nat := []
  deriving DecidableEq, Repr

/-- Encoder results of an INTAKE (R188, R190, R192). -/
structure EncRes where
  pooled : List F32
  taps : List (List Nat)
  encoded : Nat
  tokens : Nat
  rows : Nat
  count : MxeCount
  deriving DecidableEq, Repr

/-- How a push of a summary stands (R203, R204). -/
inductive PushSt where
  | none | sent (target : Nat) | acked
  deriving DecidableEq, Repr

/-- A tile a request waits on (R263 to R267). -/
structure TileWait where
  layer : Nat
  trow : Nat
  tcol : Nat
  tier : Nat
  uncorr : Bool
  since : Nat
  /-- slack of the request when the tile was late (R266); none before its hold point -/
  slack : Option Nat := none
  deriving DecidableEq, Repr

/-- A request in flight. -/
structure Req where
  pitch : Nat
  session : Nat
  tag : Nat
  kind : Nat
  model : Nat
  serving : Nat
  cost : Nat
  epoch : Nat
  chain : Option Nat
  desc : BitVec 512
  /-- submission-ring count of its descriptor -/
  slot : Nat
  /-- order of arrival among requests of the block; 0 until it arrives -/
  seq : Nat := 0
  stall : Option Nat := none
  arrival : Option Nat := none
  due : Option Nat := none
  segs : List (Nat × Nat) := []
  /-- payload ranges being read, in order: offset and length -/
  plan : List (Nat × Nat) := []
  /-- payload bytes that have come, by offset -/
  got : List (Nat × List Byte) := []
  cut : CutCtx := {}
  feats : List F32 := []
  finalIssued : Bool := false
  /-- tick at which its final read was issued (R189) -/
  finalTick : Nat := 0
  /-- the host's list or buffer read is still awaited -/
  wantList : Bool := false
  grade : Option Grade := none
  enc : Option EncRes := none
  code : Nat := 0
  rule : Nat := 0
  decided : Bool := false
  push : PushSt := .none
  /-- the entry's revive is still awaited -/
  wantEntry : Bool := false
  waits : List TileWait := []
  /-- HP_CLK cycles it has waited since it arrived (R263), counted up to the cycle `counted` -/
  waited : Nat := 0
  counted : Nat := 0
  /-- tile reads issued for it and not yet completed, oldest first, and the place of its prefetcher in the tile list (R261) -/
  fetch : List TileId := []
  walk : Nat := 0
  shadow : Bool := false
  toks : List Nat := []
  /-- tokens of it that have passed the last stage -/
  served : Nat := 0
  pass : Option PassRes := none
  resolve : Option Resolve := none
  /-- the fallback model serves it (R182) -/
  fallback : Bool := false
  /-- it arrived after the stream had ended (R42): the code of that end -/
  afterEnd : Option Nat := none
  /-- an error found, to be recorded after the stream's earlier records (R53, R58): code, PARAM0, PARAM1 -/
  failed : Option (Nat × Nat × Nat) := none
  /-- CONSTRAINT: the stream was open when it arrived (R124), and the state it is answered against once the earlier passes
  are done: token ids, HALT, model, epoch -/
  openAtArrival : Bool := false
  con : Option (List Nat × Bool × Nat × Nat) := none
  /-- CONSTRAINT that arrived before a STREAM_OPEN record now written: END_KIND as it stood before that record (R124) -/
  endBefore : Option Nat := none
  /-- owner the summary goes to, when it is another block (R203, R289) -/
  remote : Option Nat := none
  /-- its input is to be sampled (R212), and was stored (R213) -/
  sampled : Bool := false
  flags : Nat := 0
  deriving DecidableEq, Repr

/-- A stream pinned to a chain (R38, R42, R103, R115). -/
structure Stream where
  pitch : Nat
  session : Nat
  chain : Nat
  /-- model the STREAM_OPEN named, and the one that serves -/
  model : Nat
  serving : Nat
  epoch : Nat
  relAddr : Nat
  relSize : Nat
  /-- its STREAM_OPEN record is written -/
  opened : Bool := false
  released : Nat := 0
  /-- trailing released bytes, at most 3 (R102) -/
  relTail : List Byte := []
  /-- Joiner state after the last resolve -/
  join : JoinSt := {}
  /-- stream tokens and bytes the passes have seen, and the hold-back they leave -/
  ids : List Nat := []
  bytes : List Byte := []
  passBack : List Byte := []
  /-- how the passes, and the resolves, ended it -/
  passEnd : StreamEnd := .open
  finEnd : StreamEnd := .open
  /-- tokens scored so far, in order -/
  scored : List Nat := []
  /-- the last checkpoint (R129, R378) -/
  saved : Resolve := { code := 0 }
  /-- opening summary -/
  summary : List Byte := []
  /-- its state slices are being loaded on a new chain (R377) -/
  repin : Bool := false
  deriving DecidableEq, Repr

/-- A token waiting at a chain stage (R195). -/
structure TokWait where
  pitch : Nat
  chain : Nat
  stage : Nat
  session : Nat
  tag : Nat
  idx : Nat
  deriving DecidableEq, Repr

/-- A declared chain (R193, R201, R206). -/
structure ChainSt where
  pitch : Nat
  idx : Nat
  stalls : List Nat
  active : Bool
  dissolved : Bool := false
  /-- reviews in a row with no session pinned -/
  idle : Nat := 0
  deriving DecidableEq, Repr

/-! ### Ledger -/

/-- A copy of an entry in one of its pitch's park areas (R237, R241): the area (2 or 3 by tier, 4 the mirror area), the
directory way that holds the session there, and the CKPT_SEQ of the copy. -/
structure Copy where
  area : Nat
  way : Nat
  seq : Nat
  deriving DecidableEq, Repr

/-- A resident ledger entry: the fields of Tables 10-2, 5-10 and 10-3 and its areas. Automata states are kept as the
symbols since STREAM_OPEN (R111). -/
structure Entry where
  pitch : Nat
  session : Nat
  ordered : Bool := false
  cold : Bool := false
  isOpen : Bool := false
  cut : Bool := false
  wt : Bool := false
  mirror : Bool := false
  lost : Bool := false
  hint : Nat := 1
  lostTier : Nat := 0
  chainFirst : Nat := 0
  smodel : Nat := 0
  ckptSeq : Nat := 0
  lastSeen : Nat := 0
  ownEpoch : Nat := 0
  sveModel : Nat := 0
  sveStop : Nat := 0
  sveBan : Nat := 0
  sveForce : Nat := 0
  endKind : Nat := 0
  sveGen : Nat := 0
  sveTables : List Nat := [255, 255, 255]
  sveTokens : Nat := 0
  released : Nat := 0
  tailInc : Nat := 0
  stopDone : Bool := false
  back : List Byte := []
  held : List Byte := []
  feats : List F32 := List.replicate 16 f32NaN
  summary : List Byte := []
  state : List Byte := []
  /-- what is known of its copies, one for each area -/
  copies : List Copy := []
  /-- held by a prefetch until this tick (R242) -/
  pfHold : Option Nat := none
  /-- order in which a PIN_T0 hint took effect -/
  pin : Option Nat := none
  deriving DecidableEq, Repr

/-- A revive in flight (R242). -/
structure Revive where
  pitch : Nat
  session : Nat
  prefetch : Bool
  /-- tier being read (2, 3; 4 for the ownership directory; 0 for none), its pool, and whether it is the mirror copy -/
  tier : Nat
  pool : Nat
  mirror : Bool
  since : Nat
  /-- started for a pushed summary (R246) -/
  pushed : Bool := false
  /-- block whose T3 area is read, as the ownership record named it, and that record's CKPT_SEQ (R246) -/
  holder : Option Nat := none
  recCkpt : Nat := 0
  /-- CKPT_SEQ of the way last found (R248) -/
  wayCkpt : Nat := 0
  deriving DecidableEq, Repr

/-- A copy of an entry on its way to a tier, and to the mirror area when the image asks for one (R241, R249): the state it
holds, when its bucket was read, and the areas whose pool has failed it since. -/
structure Transfer where
  pitch : Nat
  session : Nat
  tier : Nat
  image : Entry
  since : Nat := 0
  failed : Bool := false
  mfailed : Bool := false
  deriving DecidableEq, Repr

/-- A park in flight (R234, R249), and the key version it began under. -/
structure Park extends Transfer where
  keyver : Nat
  deriving DecidableEq, Repr

/-- A write-back in flight or waiting (R246): the epoch of what caused it, and whether it is in flight. -/
structure WriteBack extends Transfer where
  epoch : Nat
  started : Bool := false
  deriving DecidableEq, Repr

/-! ### Per pitch, per stall -/

/-- What a pitch has beside its registers. -/
structure PitSt where
  /-- epoch the outstanding Bell raised to (R60) -/
  bell : Option Nat := none
  irqCount : Nat := 0
  irqSince : Option Nat := none
  draining : Bool := false
  pfQueue : List Nat := []
  /-- last LDG_PIT_PF_LO value by accessor (R403) -/
  pfLo : List (Nat × Nat) := []
  /-- deferrals seen in this review period: NO_CREDIT or WAKING of INTAKE; NO_CREDIT of STREAM_OPEN (R201) -/
  defIntake : Bool := false
  defOpen : Bool := false
  lowUse : Nat := 0
  pinSeq : Nat := 0
  /-- epoch of the first amendment applied since the start (R345) -/
  amendedFrom : Option Nat := none
  amending : Bool := false
  /-- tick at which the running Assize window began (R210) -/
  winTick : Nat := 0
  /-- samples stored in the pitch's pool (R213) -/
  sampled : Nat := 0
  /-- the Bench step under way (R200, R222): the tick at which it began, and whether it trains, its energy charged -/
  step : Option (Nat × Bool) := none
  deriving DecidableEq, Repr

/-- Power of a stall (R358). -/
inductive StallPower where
  | awake | doze | nap | waking
  deriving DecidableEq, Repr

/-- A role a stall is leaving for or loading. -/
structure RoleGoal where
  role : Nat
  chain : Nat
  stage : Nat
  deriving DecidableEq, Repr

/-- What a stall has beside its registers. -/
structure StallSt where
  power : StallPower := .awake
  idleSince : Nat := 0
  goal : Option RoleGoal := none
  testing : Bool := false
  /-- operating time of its faults, newest first (R370) -/
  faults : List Nat := []
  /-- a check failed during its test (R369) -/
  forceFail : Bool := false
  /-- it was a Spread stall when it was reset (R364) -/
  giveBack : Bool := false
  /-- it waits for its quadrant's rail and PLL: cause 1 PLL, 2 rail; tick since (R374) -/
  quadCause : Nat := 0
  quadWait : Bool := false
  stoppedAt : Nat := 0
  /-- the last final payload read of the stall: its tick, and the CLK_ARITH cycles the next one keeps from it (R189) -/
  lastFinal : Option (Nat × Nat) := none
  deriving DecidableEq, Repr

/-! ### Charter, generations, amendment -/

/-- A generation of a pitch, serving admissions from an epoch on (R176, R342). -/
structure PitGen where
  pitch : Nat
  fromEpoch : Nat
  gen : Gen
  deriving DecidableEq, Repr

/-- The charter in force. -/
structure CharterSt where
  hdr : Option ImgHdr := none
  digest : List Byte := []
  cfgs : List PitchCfg := []
  alloc : List Nat := []
  roles : List RoleCfg := []
  guild : List GuildSlot := []
  charterGen : Gen := {}
  /-- the charter's objects as amendments have replaced them, without the Assize's changes (R225) -/
  baseGen : Gen := {}
  /-- per pitch: the 128-bit charter digest (R332) -/
  pitDigest : List (Nat × List Byte) := []
  /-- per pitch: the 128-bit amendment digest, once amended (R332) -/
  amdDigest : List (Nat × List Byte) := []
  deriving DecidableEq, Repr

/-- The amendment in progress (R339). -/
structure AmdSt where
  image : List Byte := []
  apply : Bool := false
  hdr : Option ImgHdr := none
  /-- the pitch's new generation, as it was checked -/
  gen : Option Gen := none
  waitTick : Nat := 0
  bellWait : Bool := false
  deriving DecidableEq, Repr

/-! ### Assize -/

/-- State of a calibrated model (Table 9-4). -/
inductive AszState where
  | idle | train | shadow | staging | ready | watch | frozen
  deriving DecidableEq, Repr

/-- Kind of a learned parameter with a master value (Table 9-2). -/
inductive ParamKind where
  | scale | zp | bias
  deriving DecidableEq, Repr

/-- A learned parameter: its slot, tile column and output column, master value, charter value, moments (R214, R219). -/
structure AszParam where
  slot : Nat
  kind : ParamKind
  tcol : Nat
  col : Nat := 0
  u : F32
  u0 : F32
  m : F32 := 0#32
  r : F32 := 0#32
  deriving DecidableEq, Repr

/-- A calibration slot's counters of the running window (R210). -/
structure SlotCount where
  nOut : Nat := 0
  nClip : Nat := 0
  nSat : Nat := 0
  spans : List (Nat × Int × Int) := []
  deriving DecidableEq, Repr

/-- A stored sample of a pitch's pool (R212, R213), oldest first: a training or a shadow sample, the input as numbers, and
for a stream its token ids so far. -/
structure Sample where
  pitch : Nat
  model : Nat
  session : Nat
  train : Bool
  input : List Nat
  toks : List Nat := []
  /-- a stream whose tokens may still enter -/
  live : Bool := false
  deriving DecidableEq, Repr

/-- A candidate or a revert (R214, R217, R223): the tiles it changes, with their new BSEQ, the constant lists of its layers
(layer, produced group, c), and the slots whose QFRAC it lowers or, for a revert, the steps they go back to. -/
structure Candidate where
  tiles : List Tile := []
  consts : List (Nat × Nat × Nat) := []
  qsteps : List (Nat × Nat) := []
  deriving DecidableEq, Repr

/-- A calibrated model's cycle (R211 to R226). -/
structure AszModel where
  pitch : Nat
  model : Nat
  state : AszState := .idle
  steps : Nat := 0
  holdoff : Nat := 0
  /-- windows spent in STAGING -/
  waited : Nat := 0
  /-- requests of the model counted (R212) -/
  seen : Nat := 0
  /-- slots whose last evaluated window reached SAT_LIMIT -/
  saturated : List Nat := []
  params : List AszParam := []
  /-- slots the cycle lowers QFRAC of -/
  lower : List Nat := []
  /-- least and greatest output of produced groups in the training passes: slot, group, y_lo, y_hi -/
  seenY : List (Nat × Nat × Dy × Dy) := []
  cand : Option Candidate := none
  /-- every copy of a revert has been written (R226) -/
  revertStaged : Bool := false
  /-- what the last commit replaced (R226) -/
  prev : Option Candidate := none
  deriving DecidableEq, Repr

/-- Its candidate's revisions stand beside those in force: READY, or a revert that has been staged. -/
def AszModel.staged (a : AszModel) : Bool := a.state == .ready || (a.state == .frozen && a.cand.isSome && a.revertStaged)

/-! ### Fabric -/

/-- A lane (R276 to R281). -/
structure LaneSt where
  up : Bool := false
  training : Bool := true
  retired : Bool := false
  ver : Nat := 0
  peer : Nat := 0
  peerKind : Nat := 0
  fseqExp : Nat := 0
  fseqNext : Nat := 0
  /-- ACKSEQ last received -/
  acked : Nat := 65535
  /-- the last 512 frames sent: flit sequence, virtual channel, bytes -/
  replay : List (Nat × Nat × List Byte) := []
  /-- frames that wait for credits, with their virtual channel -/
  queue : List (Nat × List Byte) := []
  credits : List Nat := [128, 128, 128, 128]
  missed : Nat := 0
  /-- ACKSEQ of the last replay, and replays from it in a row -/
  lastRetry : Option Nat := none
  replays : Nat := 0
  retrains : Nat := 0
  downCause : Nat := 0
  testing : Bool := false
  /-- operating time of its faults, newest first (R370) -/
  faults : List Nat := []
  deriving DecidableEq, Repr

/-- A shard's owner and epoch (R286). -/
structure ShardOwn where
  pitch : Nat
  shard : Nat
  device : Nat
  epoch : Nat
  deriving DecidableEq, Repr

/-- An exception: a session whose owner differs from its shard's (R287). -/
structure OwnExc where
  pitch : Nat
  session : Nat
  device : Nat
  epoch : Nat
  deriving DecidableEq, Repr

/-- An ownership conflict being resolved (R291). -/
structure Conflict where
  pitch : Nat
  session : Nat
  /-- the other claimant -/
  other : Nat
  since : Nat
  deriving DecidableEq, Repr

/-- A live move (R288). -/
structure Move where
  pitch : Nat
  session : Nat
  target : Nat
  /-- REASON of its OWN_REQ: 0 LOAD, 1 HOST -/
  reason : Nat := 1
  /-- OWN_REQ has been sent -/
  asked : Bool := false
  since : Nat
  deriving DecidableEq, Repr

/-- A push buffer entry (R289). -/
structure PushBuf where
  pitch : Nat
  session : Nat
  tag : Nat
  src : Nat
  taps : List (Nat × List Byte) := []
  head : Option (List Byte) := none
  /-- the revive it started has failed -/
  failed : Bool := false
  since : Nat
  deriving DecidableEq, Repr

/-- A transaction toward a pool (R293). -/
structure MemTxn where
  id : Nat
  pool : Nat
  write : Bool
  pitch : Nat
  session : Nat
  /-- bytes of a read still to come -/
  left : Nat := 0
  deriving DecidableEq, Repr

/-- A record to be written into an ownership directory once its bucket has been read (R287). -/
structure DirOp where
  txn : Nat
  pitch : Nat
  session : Nat
  owner : Nat
  epoch : Nat
  holder : Nat
  ckpt : Nat
  since : Nat
  deriving DecidableEq, Repr

/-- The fabric beside its lanes. -/
structure FabSt where
  shards : List ShardOwn := []
  exc : List OwnExc := []
  /-- ownership directories: pitch, base address, pool, LOG2B (R287) -/
  dirs : List (Nat × Nat × Nat × Nat) := []
  conflicts : List Conflict := []
  moves : List Move := []
  pushes : List PushBuf := []
  txns : List MemTxn := []
  /-- TXN of the next transaction; 0 marks an unused field (Table 12-3) -/
  txnNext : Nat := 1
  /-- digests of domain members: pitch, device, charter digest equal, amendment digest -/
  peers : List (Nat × Nat × Bool × Nat) := []
  lost : List Nat := []
  /-- pitches whose charter digest differs from the domain's (Table 12-7) -/
  excluded : List Nat := []
  /-- frames received whole and not yet taken up: lane and bytes -/
  inbox : List (Nat × List Byte) := []
  moveLo : List (Nat × Nat) := []
  route : List (Nat × Nat) := []
  dirOps : List DirOp := []
  /-- tick of the last heartbeats -/
  hbTick : Nat := 0
  deriving DecidableEq, Repr

/-! ### Tiers -/

/-- Where a tile is restored from (R257). -/
inductive HomeSrc where
  | t2 | t3 | mirror | device
  deriving DecidableEq, Repr

/-- A tile copy in T1 that is poisoned (R269): its bank and the source its restore reads; none when every source has failed
(R270). -/
structure BadTile where
  tile : TileId
  bank : Nat
  src : Option HomeSrc
  /-- tier of the last copy tried -/
  tier : Nat := 1
  /-- tick at which the read of its source began (R267) -/
  since : Nat := 0
  deriving DecidableEq, Repr

/-- A table image being reloaded into a stall (R106, R130, R154): section type, id, tier of the bad copy, the section DIGEST of the
revision, and the cycle since which it is bad. -/
structure Reload where
  stall : Nat
  type : Nat
  id : Nat
  tier : Nat
  digest : List Byte
  since : Nat
  deriving DecidableEq, Repr

/-- A poisoned 4 KiB line of a stock table (R154), with its CRC word and the cycle since which it is bad. -/
structure BadLine where
  pitch : Nat
  id : Nat
  line : Nat
  crc : Nat
  since : Nat
  deriving DecidableEq, Repr

/-- A PREFER_T1 tile kept in the T0 of a stall (R259). -/
structure KeptTile where
  stall : Nat
  tile : TileId
  bytes : Nat
  deriving DecidableEq, Repr

/-- Tiers beside the registers. -/
structure TierSt where
  bad : List BadTile := []
  /-- poisoned T0 copies by stall -/
  t0bad : List (Nat × TileId) := []
  /-- PREFER_T1 tiles kept, least recently used first -/
  kept : List KeptTile := []
  reloads : List Reload := []
  stockBad : List BadLine := []
  bankTest : List Nat := []
  bankFaults : List (Nat × Nat) := []
  /-- 512-byte granules of the ledger region that have been freed and are being zeroed (R308) -/
  zeroing : Nat := 0
  deriving DecidableEq, Repr

/-! ### Security, Daybook -/

/-- The secret of a pitch (R312). -/
structure PitKey where
  pitch : Nat
  secret : List Byte
  deriving DecidableEq, Repr

/-- A Daybook record (Table 16-4). -/
structure DRec where
  code : Nat
  pscope : Bool
  pitch : Nat
  p0 : Nat
  p1 : Nat
  p2 : Nat
  optime : Nat
  pcyc : Nat
  rep : Nat := 1
  drop : Bool := false
  flushed : Bool := false
  deriving DecidableEq, Repr

/-- A view (R390): the next store position it would look at (none before BASE), the position being fetched, the one that has
come, and whether a clearing passed its cursor since the last latch. -/
structure View where
  cursor : Option Nat := none
  fetching : Option Nat := none
  ready : Option Nat := none
  skipped : Bool := false
  deriving DecidableEq, Repr

/-- An accepted clearing order whose CLEARED record is not yet verified (R392). -/
structure ClearSt where
  count : Nat
  newBase : Nat
  digest : Nat
  deriving DecidableEq, Repr

/-- A counter slot (Table 15-1). -/
structure CounterSlot where
  optime : Nat
  pcyc : Nat
  clean : Bool
  seq : Nat
  deriving DecidableEq, Repr

/-- The Daybook. `store` names what the record area holds: slot and record, or none for a written slot whose CRC fails;
`slot` is the valid counter slot of highest SEQ. -/
structure DbkSt where
  buffer : List DRec := []
  /-- the last record entered, while it is open (R387) -/
  last : Option DRec := none
  /-- slot of the open record's store copy, once programmed -/
  lastPos : Option Nat := none
  dropMark : Bool := false
  store : List (Nat × Option DRec) := []
  slot : Option CounterSlot := none
  views : List View := List.replicate 66 {}
  clear : Option ClearSt := none
  /-- DBK_LEN of the location block -/
  regionLen : Nat := 0
  deriving DecidableEq, Repr

/-! ### The whole -/

structure State where
  /-- commands waiting, first in, first out -/
  pending : List Instr
  regs : List RegCell
  outbox : List Emit
  toll : TollPins
  clk : Clocks
  pwr : Power
  fuse : Fuses
  pits : List PitSt
  stalls : List StallSt
  adms : List Admission
  reqs : List Req
  /-- STREAM_TOKENs whose (SESSION, TAG) was in flight, waiting for their records' place in the stream's order (R42, R58) -/
  dups : List Req
  streams : List Stream
  toks : List TokWait
  rr : List (Nat × Nat)
  chains : List ChainSt
  entries : List Entry
  revives : List Revive
  parks : List Park
  wbs : List WriteBack
  chr : CharterSt
  gens : List PitGen
  amd : AmdSt
  asz : List AszModel
  aszCount : List (Nat × SlotCount)
  samples : List Sample
  lanes : List LaneSt
  fab : FabSt
  tier : TierSt
  keys : List PitKey
  /-- tick of the last report, or recovery step, of a model-table entry (R78) -/
  factorTick : List (Nat × Nat)
  dbk : DbkSt
  /-- requests that have arrived so far (order of arrival, R58) -/
  arrivals : Nat
  /-- free values taken so far: the model's own field (notes/assumptions/1.md) -/
  free : Nat
  deriving DecidableEq, Repr

/-- The machine right after power-on reset, before start-up: registers at their reset values, nothing in flight. -/
def State.reset : State :=
  { pending := [], regs := [], outbox := [], toll := {}, clk := {}
    pwr := { powerOn := true, restore := true, slotDue := true }, fuse := {}
    pits := List.replicate 64 {}, stalls := List.replicate 64 {}, adms := [], reqs := [], dups := [], streams := [], toks := []
    rr := [], chains := [], entries := [], revives := [], parks := [], wbs := [], chr := {}, gens := [], amd := {}
    asz := [], aszCount := [], samples := [], lanes := List.replicate 16 {}, fab := {}, tier := {}, keys := [], factorTick := [], dbk := {}
    arrivals := 0, free := 0 }

end Sys2Proof.Machine
end

