-- ==== Sys2Proof/Machine/Ops.lean ====
section
/-! DEFINITION. The named operations over the state: registers, time, what leaves the block, Daybook records, and the
credits the Toll counts. Every meaning is written over these. -/

namespace Sys2Proof.Machine

/-! ### Registers -/

/-- Value of copy `i` of a field. -/
def State.rd (s : State) (f : Fld) (i : Nat := 0) : Nat := (regGet s.regs f i).toNat

/-- Copy `i` of a field set to `v`, taken mod its width. -/
def State.wr (s : State) (f : Fld) (i : Nat) (v : Nat) : State := { s with regs := regSet s.regs f i v }

/-- A flag field set or cleared. -/
def State.wrB (s : State) (f : Fld) (i : Nat) (b : Bool) : State := s.wr f i (b2n b)

/-- A wrapping counter raised by `n`. -/
def State.bump (s : State) (f : Fld) (i : Nat := 0) (n : Nat := 1) : State := s.wr f i (s.rd f i + n)

/-- A saturating counter raised by one. -/
def State.bumpSat (s : State) (f : Fld) (i : Nat := 0) : State :=
  s.wr f i (min (s.rd f i + 1) (2 ^ f.desc.width - 1))

/-- A counter that keeps the largest value seen, saturating. -/
def State.wrMax (s : State) (f : Fld) (i : Nat) (v : Nat) : State :=
  s.wr f i (max (s.rd f i) (min v (2 ^ f.desc.width - 1)))

/-- Copies whose field is 1, in order. -/
def State.copiesSet (s : State) (f : Fld) : List Nat :=
  s.regs.filterMap (fun c => if c.fld = f ∧ c.val = 1#32 then some c.idx else none)

/-! ### Time and free values -/

/-- Oscillator ticks of 125 ns in `us` microseconds. -/
def usTicks (us : Nat) : Nat := 8 * us

/-- Oscillator ticks in `ms` milliseconds. -/
def msTicks (ms : Nat) : Nat := 8000 * ms

/-- HP_CLK cycles of a fixed delay of `ns` nanoseconds (R401). -/
def State.hpCycles (s : State) (ns : Nat) : Nat := ceilDiv (ns * s.rd .glbHpClkMhz) 1000

/-- A free value of the model and the state after it is taken. -/
def State.freeNat (s : State) : Nat := Config.freeValue s.free
def State.tookFree (s : State) : State := { s with free := s.free + 1 }

/-- Work of the units that a hold gates (R359, R360, R375): it has no effect while the block is held. -/
def State.whileUp (s : State) (f : State → State) : State := if s.pwr.hold == .none then f s else s

/-! ### What leaves the block -/

/-- Something sent in the present HP_CLK cycle. -/
def State.emit (s : State) (w : Out) : State := { s with outbox := s.outbox ++ [⟨s.clk.hp, w⟩] }

/-- A delivery at cycle `c` exactly (R14, R56): what it sends is stamped with that cycle, whatever cycle other commands have
reached, and HP_CLK has then run at least that far (notes/assumptions/2.md). -/
def State.deliverAt (s : State) (c : Nat) (f : State → State) : State :=
  let t := f { s with clk := { s.clk with hp := c } }
  { t with clk := { t.clk with hp := max s.clk.hp c } }

/-- What a read brought, when it is not as long as was asked for, counts as a read completed with error
(notes/assumptions/118.md). -/
def fitRead (n : Nat) (d : ReadData) : ReadData :=
  match d with
  | .ok b => if b.length == n then d else .error
  | .error => .error

/-! ### The energy level (R73) -/

/-- The level L in eighths of a nJ: the register's nJ and what it cannot hold (notes/assumptions/13.md). -/
def State.level8 (s : State) : Nat := 8 * (s.rd .tollEnergyLevelNj + s.clk.levelOver) + s.clk.levelFrac

/-- L set, in eighths of a nJ: the register holds its whole nJ as far as 32 bits reach. -/
def State.setLevel8 (s : State) (l : Nat) : State :=
  let n := min (l / 8) (2 ^ 32 - 1)
  { s.wr .tollEnergyLevelNj 0 n with clk := { s.clk with levelFrac := l % 8, levelOver := l / 8 - n } }

/-- A T2 address pair of a `_LO` field of `lo` low bits and a `_HI` field. -/
def State.addrPair (s : State) (loF hiF : Fld) (i : Nat) : Nat :=
  s.rd loF i * 2 ^ loF.desc.lo + s.rd hiF i * 2 ^ 32

/-! ### Per pitch, per stall -/

def State.pit (s : State) (p : Nat) : PitSt := s.pits.getD p {}
def State.updPit (s : State) (p : Nat) (f : PitSt → PitSt) : State := { s with pits := s.pits.modify p f }
def State.stl (s : State) (i : Nat) : StallSt := s.stalls.getD i {}
def State.updStl (s : State) (i : Nat) (f : StallSt → StallSt) : State := { s with stalls := s.stalls.modify i f }

/-- A stall in service (R376). -/
def State.inService (s : State) (i : Nat) : Bool := s.rd .stlFaultRetired i == 0 && !(s.stl i).testing

/-- Every stage of a chain holds its role. -/
def State.chainLoaded (s : State) (c : ChainSt) : Bool :=
  c.stalls.all (fun i => s.rd .stlRoleRole i == 2 && s.rd .stlRoleChain i == c.idx && s.inService i)

/-- Stalls of a pitch that hold a role and are in service. -/
def State.stallsOf (s : State) (p role : Nat) : List Nat :=
  (List.range 64).filter (fun i => s.rd .stlRoleAlloc i == 1 && s.rd .stlRolePitch i == p && s.rd .stlRoleRole i == role
    && s.inService i && s.rd .stlStatusDraining i == 0)

/-- Spread stalls of a pitch in a power state. -/
def State.spreadIn (s : State) (p : Nat) (f : StallPower → Bool) : List Nat :=
  (s.stallsOf p 1).filter (fun i => f (s.stl i).power)

/-- Spread stalls counted in S of Table 3-4: awake or in Doze (R75). -/
def State.spreadCount (s : State) (p : Nat) : Nat := (s.spreadIn p (fun w => w == .awake || w == .doze)).length

/-! ### Charter, generations, models -/

/-- The generation that serves an epoch of a pitch: the newest that starts at or below it (R81, R342). -/
def State.genAt (s : State) (p epoch : Nat) : Gen :=
  ((s.gens.filter (fun g => g.pitch == p && g.fromEpoch ≤ epoch)).foldl
    (fun (a : Option PitGen) g => match a with
      | some b => if b.fromEpoch ≤ g.fromEpoch then some g else some b
      | none => some g) none).map (·.gen) |>.getD {}

def State.cfg? (s : State) (p : Nat) : Option PitchCfg := s.chr.cfgs.find? (·.pitch == p)
def State.role? (s : State) (p : Nat) : Option RoleCfg := s.chr.roles.find? (·.pitch == p)
def State.epoch (s : State) (p : Nat) : Nat := s.rd .pitEpochEpoch p

/-- The model table entry of a pitch's model (R78, Table 3-5). -/
def State.mdl? (s : State) (p m : Nat) : Option Nat :=
  (s.copiesSet .tollMdlLoValid).find? (fun i => s.rd .tollMdlLoPitch i == p && s.rd .tollMdlLoModel i == m)

/-- CLASS of a pitch's model in the generation in force (Table 8-1). -/
def State.classOf (s : State) (p m : Nat) : Option Nat := ((s.genAt p (s.epoch p)).model? p m).map (·.cls)

/-- The pitch's fallback entry of a model's class, if it is not DOWN (R182). -/
def State.fallback? (s : State) (p m : Nat) : Option Nat :=
  (s.copiesSet .tollMdlLoValid).find? (fun i => s.rd .tollMdlLoPitch i == p && s.rd .tollMdlLoFallback i == 1
    && s.classOf p (s.rd .tollMdlLoModel i) == s.classOf p m && s.rd .tollMdlLoDown i == 0)

/-- The entry that serves a model: its own, or the fallback when it is DOWN (R182). -/
def State.serving? (s : State) (p m : Nat) : Option Nat :=
  match s.mdl? p m with
  | none => none
  | some i => if s.rd .tollMdlLoDown i == 0 then some i else s.fallback? p m

/-- The model object that serves a request. -/
def State.modelOf (s : State) (r : Req) : Option ModelObj := (s.genAt r.pitch r.epoch).model? r.pitch r.serving

/-! ### Ledger entries, requests, streams -/

def Entry.isOf (e : Entry) (p sess : Nat) : Bool := e.pitch == p && e.session == sess
def State.entry? (s : State) (p sess : Nat) : Option Entry := s.entries.find? (·.isOf p sess)
def State.updEntry (s : State) (p sess : Nat) (f : Entry → Entry) : State :=
  { s with entries := s.entries.map (fun e => if e.isOf p sess then f e else e) }
def State.dropEntry (s : State) (p sess : Nat) : State :=
  { s with entries := s.entries.filter (fun e => !e.isOf p sess) }

def State.reviving (s : State) (p sess : Nat) : Bool := s.revives.any (fun r => r.pitch == p && r.session == sess)

def Req.isOf (r : Req) (p sess tag : Nat) : Bool := r.pitch == p && r.session == sess && r.tag == tag
def State.req? (s : State) (p sess tag : Nat) : Option Req := s.reqs.find? (·.isOf p sess tag)
def State.updReq (s : State) (p sess tag : Nat) (f : Req → Req) : State :=
  { s with reqs := s.reqs.map (fun r => if r.isOf p sess tag then f r else r) }
/-- The stall of a request was in use until now (R358). -/
def State.touchStall (s : State) (p sess tag : Nat) : State :=
  match (s.req? p sess tag).bind (·.stall) with
  | some i => { s with stalls := s.stalls.modify i (fun x => { x with idleSince := s.clk.ticks }) }
  | none => s

def State.dropReq (s : State) (p sess tag : Nat) : State :=
  let s : State := s.touchStall p sess tag
  { s with reqs := s.reqs.filter (fun r => !r.isOf p sess tag), toks := s.toks.filter (fun t => !(t.pitch == p && t.session == sess && t.tag == tag)) }

def State.stream? (s : State) (p sess : Nat) : Option Stream := s.streams.find? (fun x => x.pitch == p && x.session == sess)
def State.updStream (s : State) (p sess : Nat) (f : Stream → Stream) : State :=
  { s with streams := s.streams.map (fun x => if x.pitch == p && x.session == sess then f x else x) }
def State.dropStream (s : State) (p sess : Nat) : State :=
  { s with streams := s.streams.filter (fun x => !(x.pitch == p && x.session == sess)) }

def State.chain? (s : State) (p c : Nat) : Option ChainSt := s.chains.find? (fun x => x.pitch == p && x.idx == c)
def State.updChain (s : State) (p c : Nat) (f : ChainSt → ChainSt) : State :=
  { s with chains := s.chains.map (fun x => if x.pitch == p && x.idx == c then f x else x) }

/-- A session is busy: a request in flight or a stream open (Table 10-4); a live admission counts as a request
(notes/assumptions/15.md). -/
def State.busy (s : State) (p sess : Nat) : Bool :=
  s.adms.any (fun a => a.pitch == p && a.session == sess) || s.reqs.any (fun r => r.pitch == p && r.session == sess) || (s.stream? p sess).isSome

/-! ### Credits (Table 3-4), counted from what holds them -/

def State.admsOf (s : State) (p : Nat) : List Admission := s.adms.filter (·.pitch == p)
def State.reqsOf (s : State) (p : Nat) : List Req := s.reqs.filter (·.pitch == p)

/-- Verdict slots free beyond all reservations, the Bell's kept apart (R41, R46). -/
def State.verdictFree (s : State) (p : Nat) : Nat :=
  s.rd .pitVqSizeEntries p - 1 - (s.rd .pitVqTailCount p + 2 ^ 32 - s.rd .pitVqHeadCount p) % 2 ^ 32
    - (s.admsOf p).length - (s.reqsOf p).length - (s.dups.filter (·.pitch == p)).length

def State.intakeUsed (s : State) (p : Nat) : Nat :=
  ((s.admsOf p).filter (·.kind == 0)).length + ((s.reqsOf p).filter (·.kind == 0)).length

def State.conUsed (s : State) (p : Nat) : Nat :=
  ((s.admsOf p).filter (·.kind == 3)).length + ((s.reqsOf p).filter (·.kind == 3)).length

/-- Tokens in flight on a chain. -/
def State.chainTokens (s : State) (p c : Nat) : Nat :=
  (((s.admsOf p).filter (fun a => a.kind == 2 && a.chain == some c)).map (·.cost)).sum
    + (((s.reqsOf p).filter (fun r => r.kind == 2 && r.chain == some c)).map (·.cost)).sum

/-- Sessions pinned to a chain, an admitted STREAM_OPEN's among them. -/
def State.chainPins (s : State) (p c : Nat) : Nat :=
  ((s.admsOf p).filter (fun a => a.kind == 1 && a.chain == some c)).length
    + (s.streams.filter (fun x => x.pitch == p && x.chain == c)).length

/-- Outstanding write-backs of a session (R77). -/
def State.wbCount (s : State) (p sess : Nat) : Nat :=
  (s.wbs.filter (fun w => w.pitch == p && w.session == sess)).length

/-- Bytes of an entry of a pitch. -/
def State.entrySize (s : State) (p : Nat) : Nat := entryBytes (s.rd .ldgPitCfgSize p)

/-- The pitch's default park tier: T2, T3 or none (R234). -/
def State.parkTier (s : State) (p : Nat) : Option Nat :=
  if s.rd .ldgPitT2CfgLog2b p != 0 then some 2 else if s.rd .ldgPitT3CfgLog2b p != 0 then some 3 else none

def State.hasArea (s : State) (p tier : Nat) : Bool :=
  (tier == 2 && s.rd .ldgPitT2CfgLog2b p != 0) || (tier == 3 && s.rd .ldgPitT3CfgLog2b p != 0)

/-- The copy of an entry in an area. -/
def Entry.copyIn (e : Entry) (area : Nat) : Option Copy := e.copies.find? (·.area == area)

/-- A copy in some area is current (R231). -/
def Entry.current (e : Entry) : Bool := e.copies.any (fun c => c.seq == e.ckptSeq)

/-- R235: an entry that may be evicted now. -/
def State.evictable (s : State) (e : Entry) : Bool :=
  !(s.busy e.pitch e.session) && !e.isOpen && e.pfHold.isNone && e.pin.isNone
    && (e.current || (s.parkTier e.pitch).isSome)
    && !s.parks.any (fun k => k.pitch == e.pitch && k.session == e.session)

/-- Place of a bank in the order in which the ledger region takes them; equal ones go by number. -/
def bankRank (b : Nat) : Nat :=
  ((List.range 64).filter (fun c => Config.bankOrder c < Config.bankOrder b || (Config.bankOrder c == Config.bankOrder b && c < b))).length

/-- A bank of 16 MiB belongs to the ledger region, which takes four for each 64 MiB of TIER_REGION.LEDGER (R21). -/
def State.ledgerBank (s : State) (b : Nat) : Bool := bankRank b < 4 * s.rd .tierRegionLedger

/-- A bank is retired (R272). -/
def State.bankOut (s : State) (b : Nat) : Bool := bit (s.rd (if b < 32 then .tierBankOutLoMap else .tierBankOutHiMap)) (b % 32)

/-- Bytes of the ledger region, less its retired banks (R21, R272). -/
def State.ledgerBytes (s : State) : Nat :=
  (s.rd .tierRegionLedger * 64 - 16 * ((List.range 64).filter (fun b => s.bankOut b && s.ledgerBank b)).length) * 2 ^ 20

/-- Bytes resident entries, entries being revived and granules being zeroed take. -/
def State.ledgerUsed (s : State) : Nat :=
  (s.entries.map (fun e => s.entrySize e.pitch)).sum + (s.revives.map (fun r => s.entrySize r.pitch)).sum
    + 512 * s.tier.zeroing

/-- Largest entry size among the pitches in use (R235). -/
def State.maxEntry (s : State) : Nat := (s.chr.cfgs.map (fun c => s.entrySize c.pitch)).foldl max 4096

/-- Free entries, counted in entries of that size (R235). -/
def State.freeEntries (s : State) : Nat := (s.ledgerBytes - s.ledgerUsed) / s.maxEntry

/-- A revive slot is free for a pitch, with room for its entry (R235, Table 3-4). -/
def State.reviveFree (s : State) (p : Nat) : Bool :=
  s.revives.length < s.rd .tollReviveMaxInflight
    && s.entrySize p ≤ s.ledgerBytes - s.ledgerUsed
        + ((s.entries.filter s.evictable).map (fun e => s.entrySize e.pitch)).sum

/-! ### Daybook -/

/-- Codes that are pitch-scoped wherever they occur (R383). -/
def pitchScoped (code : Nat) : Bool :=
  code / 4096 == 2 || code / 4096 == 5
  || [0x1502, 0x1031, 0x3101, 0x3102, 0x3301, 0x3302, 0x3601, 0x3602, 0x4101, 0x4102, 0x4103, 0x4204, 0x4301,
      0x4302].contains code

/-- The bytes of a record (Table 16-4); REPEAT is left erased while the record is open. -/
def DRec.bytes (r : DRec) (rep : Nat) : List Byte :=
  let a := leBytes 2 r.code ++ [BitVec.ofNat 8 (b2n r.pscope + 2 * b2n r.drop + 4 * b2n r.flushed), BitVec.ofNat 8 r.pitch]
    ++ leBytes 5 r.optime ++ leBytes 3 r.pcyc
  let c := leBytes 2 0 ++ leBytes 4 r.p0 ++ leBytes 4 r.p1 ++ leBytes 4 r.p2
  a ++ leBytes 2 rep ++ c ++ leBytes 2 (crc16 (a ++ c)) ++ leBytes 2 0

def DRec.same (a b : DRec) : Bool :=
  a.code == b.code && a.pscope == b.pscope && a.pitch == b.pitch && a.p0 == b.p0 && a.p1 == b.p1 && a.p2 == b.p2

/-- Offset of a record slot in the Daybook region (R384). -/
def slotOffset (pos : Nat) : Nat := 8192 + 32 * pos

/-- The open record is closed: the REPEAT of a copy already in the store is programmed (R387). -/
def State.dbkClose (s : State) : State :=
  match s.dbk.last, s.dbk.lastPos with
  | some r, some pos =>
    { s.emit (.program (slotOffset pos + 12) (leBytes 2 r.rep)) with
        dbk := { s.dbk with last := none, lastPos := none, store := s.dbk.store.map (fun x =>
          if x.1 == pos then (pos, x.2.map (fun q => { q with rep := r.rep })) else x) } }
  | _, _ => { s with dbk := { s.dbk with last := none, lastPos := none } }

/-- A record that is not a repeat of the open one enters the buffer, or is dropped (R386). -/
def State.dbkEnter (s : State) (r : DRec) : State :=
  if 256 ≤ s.dbk.buffer.length then
    let s : State := s.bumpSat .dbkDroppedCount
    { s with dbk := { s.dbk with dropMark := true } }
  else
    let s : State := s.dbkClose
    let r := { r with drop := s.dbk.dropMark }
    { s with dbk := { s.dbk with buffer := s.dbk.buffer ++ [r], last := some r, lastPos := none, dropMark := false } }

/-- The open record counted once more (R387). -/
def State.dbkRepeat (s : State) (l : DRec) : State :=
  let l' := { l with rep := min (l.rep + 1) 0xFFFE }
  { s with dbk := { s.dbk with
      last := some l'
      buffer := if s.dbk.lastPos.isNone then s.dbk.buffer.dropLast ++ [l'] else s.dbk.buffer } }

/-- A Daybook record with a stated scope (R383, R386, R387). -/
def State.dbkAs (s : State) (ps : Bool) (code pitch p0 p1 p2 : Nat) : State :=
  let r : DRec := { code, pscope := ps, pitch, p0 := p0 % 2 ^ 32, p1 := p1 % 2 ^ 32, p2 := p2 % 2 ^ 32
                    optime := s.clk.optime, pcyc := s.rd .wchPcycCount }
  match s.dbk.last with
  | some l => if l.same r then s.dbkRepeat l else s.dbkEnter r
  | none => s.dbkEnter r

/-- A Daybook record, its scope by its code. -/
def State.day (s : State) (code : Nat) (pitch : Nat := 0) (p0 p1 p2 : Nat := 0) : State :=
  s.dbkAs (pitchScoped code) code (if pitchScoped code then pitch else 0) p0 p1 p2

/-! ### Access to the control window (R304, R305, Table 13-3) -/

/-- Roles of accessor ids (Table 13-2). -/
inductive Role where
  | pitch (n : Nat) | operator | auditor | none
  deriving DecidableEq, Repr

def roleOf (acc : Accessor) : Role :=
  if acc.toNat < 64 then .pitch acc.toNat else if acc.toNat == 0x40 then .operator
  else if acc.toNat == 0x41 then .auditor else .none

/-- Pitch that owns the row, window, model-table entry, calibration slot or stall of a copy (Table 13-3). -/
def State.ownerOf (s : State) (f : Fld) (i : Nat) : Option Nat :=
  let b := f.desc.base
  if (0x14000 ≤ b && b < 0x16000) then
    (if s.rd .tollMdlLoValid i == 1 then some (s.rd .tollMdlLoPitch i) else none)
  else if (0x54000 ≤ b && b < 0x60000) then (if s.rd .aszSlotIdValid i == 1 then some (s.rd .aszSlotIdPitch i) else none)
  else if (0x100000 ≤ b) then (if s.rd .stlRoleAlloc i == 1 then some (s.rd .stlRolePitch i) else none)
  else if (0x21000 ≤ b && b < 0x22100) then
    (let v := i / f.desc.inner
     if v < 64 then some v else none)
  else if b < 0x4000 || (0x30000 ≤ b && b < 0x40000) then none
  else rowPitch f i

/-- Fields a pitch may write in its own rows (Table 13-3). -/
def pitchWrites (f : Fld) : Bool :=
  let b := f.desc.base
  f == .ldgPitPfLoSession || f == .ldgPitPfHiSession
  || (f.desc.acc == .w1c && (0x4400 ≤ b && b < 0x5400)) || (0x5100C ≤ b && b ≤ 0x51018)
  || (f.desc.acc == .w1c && b == 0x5101C) || (0x80000 ≤ b && b < 0x100000) || (f.desc.acc == .w1c && 0x100000 ≤ b)

/-- A write of the word at an address is granted to a role. -/
def State.mayWrite (s : State) (r : Role) (fs : List (Fld × Nat)) : Bool :=
  match r with
  | .operator => true
  | .pitch n => fs.any (fun x => s.ownerOf x.1 x.2 == some n && pitchWrites x.1)
  | _ => false

/-- A read of the word at an address is granted to a role. -/
def State.mayRead (s : State) (r : Role) (fs : List (Fld × Nat)) : Bool :=
  match r with
  | .operator => true
  | .auditor => true
  | .pitch n => fs.any (fun x => s.ownerOf x.1 x.2 == some n)
  | .none => false

/-- A refused access is counted, kept and recorded (R305). -/
def State.deny (s : State) (acc : Accessor) (write : Bool) (addr : Nat) : State :=
  let s : State := s.bump .glbDenyCount
  let s : State := s.wr .glbDenyLastAccessor 0 acc.toNat
  let s : State := s.wrB .glbDenyLastWrite 0 write
  let s : State := s.wr .glbDenyLastAddr 0 addr
  let isPitch := acc.toNat < 64
  s.dbkAs isPitch 0x3201 (if isPitch then acc.toNat else 0) acc.toNat addr (b2n write)

/-- Windows that answer in the block's state (R405): `write` asks for the effect of a write. -/
def State.windowLive (s : State) (addr : Nat) (write : Bool) : Bool :=
  let early := (0x20000 ≤ addr && addr < 0x40000) || addr < 0x100 || (0x2000 ≤ addr && addr < 0x2040)
  match s.pwr.hold with
  | .hibernate _ _ | .powerFail | .clkLoss => false
  | .shared => if s.rd .glbSharedSyndUnit == 2 then false else !write || (0x20000 ≤ addr && addr < 0x40000)
  | .none =>
    if s.pwr.phase == .reset then false else if s.rd .chrStatusState == 4 then true else early

/-- Guard of a control-window write that acts: the window answers and the role may write. `none` gives the state in
which the write had no effect; `some` lets the write go on. -/
def State.writeGate (s : State) (acc : Accessor) (addr : Nat) (f : Fld) (i : Nat) : State ⊕ State :=
  if !s.windowLive addr true then .inl s
  else if s.mayWrite (roleOf acc) [(f, i)] then .inr s
  else .inl (s.deny acc true addr)

/-- The guard of a write of a field's register. -/
def State.gate (s : State) (acc : Accessor) (f : Fld) (i : Nat) : State ⊕ State := s.writeGate acc (f.desc.addr i) f i

end Sys2Proof.Machine
end

