-- ==== Sys2Proof/Machine/Frames.lean ====
section
/-! DEFINITION. Carriage frames: their bytes, their way out over the lanes, and who owns a session (12_fabric_domains.md
R278 to R287). -/

namespace Sys2Proof.Machine

/-- A Carriage frame (Table 12-3). -/
structure Frame where
  kind : Nat
  dkind : Nat
  dst : Nat
  pitch : Nat := 0
  txn : Nat := 0
  session : Nat := 0
  arg : List Byte := []
  body : List Byte := []
  /-- a guild pitch's traffic to a direct pool address (R311); no part of the frame -/
  direct : Bool := false
  deriving DecidableEq, Repr

/-- Virtual channel of a frame kind (Table 12-4). -/
def frameVc (kind : Nat) : Nat :=
  if kind == 0x20 || kind == 0x21 || kind == 0x31 then 1 else if kind == 0x30 then 2
  else if kind == 0x22 || kind == 0x32 || kind == 0x33 then 3 else 0

/-- `n` bytes of a list, zeros after its end. -/
def fill (n : Nat) (b : List Byte) : List Byte := b.take n ++ List.replicate (n - b.length) 0#8

/-- The bytes of a frame sent by device `dev`; a body is filled to a multiple of 8. -/
def Frame.bytes (f : Frame) (dev : Nat) : List Byte :=
  let body := fill (ceilDiv f.body.length 8 * 8) f.body
  [BitVec.ofNat 8 f.kind, BitVec.ofNat 8 (frameVc f.kind)] ++ leBytes 2 (32 + body.length) ++ leBytes 2 dev
    ++ leBytes 2 (f.dst + 8192 * f.dkind) ++ leBytes 4 f.pitch ++ leBytes 4 f.txn ++ leBytes 5 f.session
    ++ leBytes 3 0 ++ fill 8 f.arg ++ body

def State.lane (s : State) (l : Nat) : LaneSt := s.lanes.getD l {}
def State.updLane (s : State) (l : Nat) (f : LaneSt → LaneSt) : State := { s with lanes := s.lanes.modify l f }

/-- Route-table index of a destination (R284). -/
def routeIdx (dkind dst : Nat) : Nat := if dkind == 0 then dst else if dkind == 1 then 8192 + dst else 8448

/-- Port mask of a route index: written by the fabric manager in native mode, by the host in compatibility mode (R284). -/
def State.routeMask (s : State) (i : Nat) : Nat :=
  if s.rd .fabCfgMode == 0 then Config.nativeRoute i % 16 else ((s.fab.route.find? (·.1 == i)).map (·.2)).getD 0

/-- A port may carry a frame of a pitch (R299). -/
def State.portTakes (s : State) (port pitch : Nat) : Bool :=
  s.rd .fabPortCfgGuildEn port == 0 || s.rd .fabPortCfgGuildPitch port == pitch

/-- Lanes a destination's frame may take (R284, R299). -/
def State.lanesTo (s : State) (dkind dst pitch : Nat) : List Nat :=
  (List.range 16).filter (fun l => (s.lane l).up && !(s.lane l).retired
    && bit (s.routeMask (routeIdx dkind dst)) (l / 4) && s.portTakes (l / 4) pitch)

/-- A frame leaves on a lane as a DATA flit of its own, kept for replay (R279), while its channel has credits. -/
def State.flitOut (s : State) (l vc : Nat) (b : List Byte) : State :=
  let st := s.lane l
  let s : State := s.emit (.frame l st.fseqNext b)
  s.updLane l (fun x => { x with
    fseqNext := (x.fseqNext + 1) % 65536
    credits := setNth x.credits vc (· - 1)
    replay := (x.replay ++ [(st.fseqNext, vc, b)]).drop (x.replay.length + 1 - 512) })

/-- A frame on a lane: at once, or behind those of its channel that wait for credits. -/
def State.laneSend (s : State) (l vc : Nat) (b : List Byte) : State :=
  if (s.lane l).credits.getD vc 0 != 0 && !((s.lane l).queue.any (·.1 == vc)) then s.flitOut l vc b
  else s.updLane l (fun x => { x with queue := x.queue ++ [(vc, b)] })

/-- Credits have come: the waiting frames of a channel leave while there are any. -/
def State.laneDrain (s : State) (l vc : Nat) : Nat → State
  | 0 => s
  | n + 1 =>
    if (s.lane l).credits.getD vc 0 == 0 then s else
    match (s.lane l).queue.findIdx? (·.1 == vc) with
    | none => s
    | some i =>
      let b := ((s.lane l).queue.getD i (0, [])).2
      State.laneDrain ((s.updLane l (fun x => { x with queue := x.queue.eraseIdx i })).flitOut l vc b) l vc n

/-- The lane of a frame: by its pitch and session, or by its TXN (R284); direct pool traffic of a guild pitch keeps to the
ports given to it while one can take it (R311, Table 13-6). -/
def State.laneFor (s : State) (f : Frame) : Option Nat :=
  let all := s.lanesTo f.dkind f.dst f.pitch
  let own := all.filter (fun l => s.rd .fabPortCfgGuildEn (l / 4) == 1)
  let ls := if f.direct && !own.isEmpty then own else all
  if ls.isEmpty then none else
  let key := if f.session == 0 then f.txn else f.session + 2 ^ 40 * f.pitch
  ls[Config.lanePick key ls.length % ls.length]?

/-- A frame is sent; one whose destination is unreachable is lost. -/
def State.sendFrame (s : State) (f : Frame) : State :=
  match s.laneFor f with
  | some l => s.laneSend l (frameVc f.kind) (f.bytes (s.rd .fabIdDevice))
  | none => s

/-! ### Pooled memory (R283, R310) -/

/-- A transaction toward a pool is opened and its frame sent. -/
def State.openTxn (s : State) (p sess pool : Nat) (write : Bool) (kind left : Nat) (arg body : List Byte)
    (direct : Bool) : State :=
  let id := s.fab.txnNext
  let t : MemTxn := { id, pool, write, pitch := p, session := sess, left }
  let s : State := { s with fab := { s.fab with txns := s.fab.txns ++ [t], txnNext := max 1 ((id + 1) % 2 ^ 32) } }
  s.sendFrame { kind, dkind := 1, dst := pool, pitch := p, txn := id, session := sess, arg, body, direct }

/-- A read from a pool: MEM_RD frames of at most 16,448 bytes each (Table 12-4). -/
def State.poolRead (s : State) (p sess pool addr len : Nat) (tile direct : Bool := false) : State :=
  (List.range (ceilDiv len 16448)).foldl (fun (a : State) k =>
    let n := min 16448 (len - 16448 * k)
    a.openTxn p sess pool false 0x30 n (leBytes 8 (addr + 16448 * k)) (leBytes 4 n ++ leBytes 4 (b2n tile)) direct) s

/-- A write to a pool: MEM_WR frames of at most 592 data bytes each. -/
def State.poolWrite (s : State) (p sess pool addr : Nat) (b : List Byte) (direct : Bool := false) : State :=
  (List.range (ceilDiv b.length 592)).foldl (fun (a : State) k =>
    a.openTxn p sess pool true 0x31 0 (leBytes 8 (addr + 592 * k)) ((b.drop (592 * k)).take 592) direct) s

/-! ### Ownership -/

/-- The ownership directory of a domain pitch: base, pool, LOG2B (R287). -/
def State.dir? (s : State) (p : Nat) : Option (Nat × Nat × Nat) :=
  if s.rd .fabPitCfgDomainEn p == 0 then none else (s.fab.dirs.find? (·.1 == p)).map (·.2)

/-- Address of a session's directory bucket. -/
def dirBucket (d : Nat × Nat × Nat) (sess : Nat) : Nat := d.1 + 128 * hashTop sess d.2.2

/-- Shard of a session (R286). -/
def shardOf (sess : Nat) : Nat := hashTop sess 10

/-- Owner and epoch of a session: an exception with a higher epoch, or its shard's (R286). -/
def State.owner? (s : State) (p sess : Nat) : Option (Nat × Nat) :=
  let sh := (s.fab.shards.find? (fun x => x.pitch == p && x.shard == shardOf sess)).map (fun x => (x.device, x.epoch))
  match s.fab.exc.find? (fun x => x.pitch == p && x.session == sess) with
  | some x => if (sh.isNone || ((sh.map (·.2)).getD 0) < x.epoch) then some (x.device, x.epoch) else sh
  | none => sh

/-- Members of a pitch's domain that the shard map names, this block left out. -/
def State.members (s : State) (p : Nat) : List Nat :=
  ((s.fab.shards.filter (·.pitch == p)).map (·.device)).eraseDups.filter (· != s.rd .fabIdDevice)

/-- This block owns the shard of a session. -/
def State.ownsShard (s : State) (p sess : Nat) : Bool :=
  s.fab.shards.any (fun x => x.pitch == p && x.shard == shardOf sess && x.device == s.rd .fabIdDevice)

/-- An exception put in the table, which holds 65,536 sessions (R286). -/
def State.putExc (s : State) (p sess device epoch : Nat) : State :=
  let rest := s.fab.exc.filter (fun x => !(x.pitch == p && x.session == sess))
  if 65536 ≤ rest.length then s else { s with fab := { s.fab with exc := rest ++ [⟨p, sess, device, epoch⟩] } }

/-- Epoch under which a session is owned. -/
def State.ownEpoch (s : State) (p sess : Nat) : Nat := ((s.owner? p sess).map (·.2)).getD 0

/-- The other block that owns a session of a domain pitch. -/
def State.otherOwner (s : State) (p sess : Nat) : Option Nat :=
  if s.rd .fabPitCfgDomainEn p == 0 then none else
  match s.owner? p sess with
  | some (d, _) => if d == s.rd .fabIdDevice then none else some d
  | none => none

/-- The owner a summary is pushed to, when this block may run the session's INTAKE without owning it (R289). -/
def State.remoteFor (s : State) (p sess : Nat) : Option Nat :=
  match s.otherOwner p sess with
  | some d => if s.rd .fabPitCfgRemoteIntake p == 1 && !s.fab.lost.contains d && !(s.lanesTo 0 d p).isEmpty then some d else none
  | none => none

/-- A session deferred with OWNERSHIP: an unresolved conflict, a live move, an owner that is another block or unknown
(R247, R288, R289, R298). An INTAKE another block owns may still run here. -/
def State.ownDeferred (s : State) (p sess kind : Nat) : Bool :=
  s.fab.conflicts.any (fun c => c.pitch == p && c.session == sess)
  || s.fab.moves.any (fun m => m.pitch == p && m.session == sess)
  || (s.rd .fabPitCfgDomainEn p == 1 && (s.owner? p sess).isNone)
  || ((s.otherOwner p sess).isSome && !(kind == 0 && (s.remoteFor p sess).isSome))

end Sys2Proof.Machine
end

