-- ==== Sys2Proof/Machine/Operands.lean ====
section
/-! DEFINITION. Operand forms: the descriptor (Tables 2-2 to 2-5, 5-7), the segment list (R35), the token buffer, and the
checks made on them in the order of R408. -/

namespace Sys2Proof.Machine

/-- A descriptor. -/
abbrev Desc := BitVec 512

def Desc.le (d : Desc) (off n : Nat) : Nat := bvLe d off n
def Desc.bitsAt (d : Desc) (off lo w : Nat) : Nat := bits d.toNat (8 * off + lo) w

/-! Common header (Table 2-2). -/
def Desc.kind (d : Desc) : Nat := d.bitsAt 0 0 2
def Desc.ord (d : Desc) : Nat := d.bitsAt 0 2 2
def Desc.resultEn (d : Desc) : Bool := d.bitsAt 0 4 1 == 1
def Desc.hint (d : Desc) : Nat := d.bitsAt 1 0 3
def Desc.mirror (d : Desc) : Bool := d.bitsAt 1 3 1 == 1
def Desc.hintEn (d : Desc) : Bool := d.bitsAt 1 4 1 == 1
def Desc.model (d : Desc) : Nat := d.bitsAt 2 0 12
def Desc.tag (d : Desc) : Nat := d.le 4 3
def Desc.pitch (d : Desc) : Nat := d.bitsAt 7 0 6
def Desc.session (d : Desc) : Nat := d.le 8 5
def Desc.declCost (d : Desc) : Nat := d.le 14 2

/-! INTAKE (Table 2-3). -/
def Desc.totalLen (d : Desc) : Nat := d.le 16 4
def Desc.nseg (d : Desc) : Nat := d.le 20 2
def Desc.segAddr (d : Desc) : Nat := d.le 24 8
def Desc.resultAddr (d : Desc) : Nat := d.le 32 8

/-! STREAM_OPEN (Table 2-4). -/
def Desc.relAddr (d : Desc) : Nat := d.le 16 8
def Desc.relSize (d : Desc) : Nat := d.le 24 4

/-! STREAM_TOKEN (Table 2-5). -/
def Desc.endBit (d : Desc) : Bool := d.bitsAt 16 0 1 == 1
def Desc.holdAct (d : Desc) : Nat := d.bitsAt 16 1 2
def Desc.ntok (d : Desc) : Nat := d.le 18 2
def Desc.tokAddr (d : Desc) : Nat := d.le 24 8
def Desc.inlineTok (d : Desc) (i : Nat) : Nat := d.bitsAt 40 (18 * i) 18

/-! CONSTRAINT (Table 5-7). -/
def Desc.mode (d : Desc) : Nat := d.bitsAt 16 0 2
def Desc.ncand (d : Desc) : Nat := d.bitsAt 17 0 4 + 1
def Desc.listMax (d : Desc) : Nat := d.bitsAt 18 0 14 + 1
def Desc.ansAddr (d : Desc) : Nat := d.le 20 8
def Desc.cand (d : Desc) (i : Nat) : Nat := d.bitsAt 28 (18 * i) 18

/-- How a request ends in error: ERRCODE, PARAM0, PARAM1 (Table 2-10). -/
structure EndErr where
  code : Nat
  p0 : Nat
  p1 : Nat
  deriving DecidableEq, Repr

/-- E_DESC with a sub-reason (Table 2-11). -/
def eDesc (sub p0 : Nat) : EndErr := ⟨0x40, p0, sub⟩
/-- E_LIMIT with its limit number and the value found. -/
def eLimit (lim v : Nat) : EndErr := ⟨0x49, lim, min v 0xFFFFFFFF⟩

/-- First error of a list of checks. -/
def firstErr : List (Option EndErr) → Option EndErr
  | [] => none
  | some e :: _ => some e
  | none :: es => firstErr es

/-- A check: `ok`, or the error. -/
def need (ok : Bool) (e : EndErr) : Option EndErr := if ok then none else some e

/-- Pool a guild pitch's direct address names, and whether its mask lacks it (R311). -/
def State.guildPool (s : State) (p addr : Nat) : Option (Nat × Bool) :=
  if s.rd (if p < 32 then .glbGuildLoMap else .glbGuildHiMap) 0 / 2 ^ (p % 32) % 2 == 0 || addr < 2 ^ 63 then none
  else
    let pool := bits addr 55 8
    match (List.range 4).find? (fun g => s.rd .glbGuildSlotValid g == 1 && s.rd .glbGuildSlotPitch g == p) with
    | none => none
    | some g => some (pool, bit (s.rd .glbGuildPoolsMask (8 * g + pool / 32)) (pool % 32))

/-- A direct pool address outside the mask ends the request (R311). -/
def State.poolErr (s : State) (p addr sub : Nat) : Option EndErr :=
  match s.guildPool p addr with
  | some (pool, false) => some (eDesc sub pool)
  | _ => none

/-- A read the block issues for a pitch, toward T2 or, for a guild pitch's direct address, a pool (R311). -/
def State.readMem (s : State) (p sess addr len : Nat) : State :=
  match s.guildPool p addr with
  | some (pool, _) => s.poolRead p sess pool (addr % 2 ^ 55) len false true
  | none => s.emit (.t2Read p addr len)

/-- A write the block issues for a pitch, T2 or pool. -/
def State.writeMem (s : State) (p sess addr : Nat) (bytes : List Byte) : State :=
  match s.guildPool p addr with
  | some (pool, _) => s.poolWrite p sess pool (addr % 2 ^ 55) bytes true
  | none => s.emit (.t2Write p addr bytes)

/-- Lowest unused inline slot from `n` on that is not 0, as the byte offset of its lowest byte. -/
def unusedSlot (slot : Nat → Nat) (base n : Nat) : Nat → Option Nat
  | 0 => none
  | k + 1 =>
    if slot n != 0 then some (base + 18 * n / 8) else unusedSlot slot base (n + 1) k

/-- RESERVED causes of Table 2-11 in ascending offset (R408, step 2). -/
def State.reservedErr (s : State) (p : Nat) (d : Desc) : Option EndErr :=
  let r (ok : Bool) (off : Nat) := need ok (eDesc 4 off)
  let park := d.hint == 2 || d.hint == 3
  let head := [r (d.ord != 3 && (!d.resultEn || d.kind == 0) && d.bitsAt 0 5 3 == 0) 0,
    r (d.bitsAt 1 5 3 == 0 && (if d.hintEn then d.hint < 6 && (!d.mirror || park) else d.hint == 0 && !d.mirror)) 1,
    r (d.bitsAt 2 12 4 == 0) 3, r (d.bitsAt 7 6 2 == 0) 7, r (d.le 13 1 == 0) 13]
  let slotErr (o : Option Nat) : Option EndErr := o.map (eDesc 4 ·)
  let rest := match d.kind with
    | 0 => [r (d.le 22 2 == 0) 22, r (d.nseg != 0 || d.segAddr == 0) 24, r (d.resultEn || d.resultAddr == 0) 32,
        s.poolErr p d.resultAddr 4, r (d.le 40 24 == 0) 40]
    | 1 => [r (d.le 28 36 == 0) 28]
    | 2 => [r (d.holdAct != 3 && d.bitsAt 16 3 5 == 0) 16, r (d.le 17 1 == 0) 17, r (d.le 20 4 == 0) 20,
        r (8 < d.ntok || d.tokAddr == 0) 24, s.poolErr p d.tokAddr 4, r (d.le 32 8 == 0) 32,
        slotErr (let n := if d.ntok ≤ 8 then d.ntok else 0
                 unusedSlot d.inlineTok 40 n (8 - n)), r (d.le 58 6 == 0) 58]
    | _ => [r (d.mode != 3 && d.bitsAt 16 2 6 == 0) 16, r (d.bitsAt 17 4 4 == 0 && (d.mode == 0 || d.le 17 1 == 0)) 17,
        r (d.mode == 1 || d.bitsAt 18 0 14 == 0) 18, r (d.bitsAt 18 14 2 == 0) 19,
        r (if d.mode == 0 then d.ansAddr == 0 else d.ansAddr % 64 == 0) 20, s.poolErr p d.ansAddr 4,
        slotErr (let n := if d.mode == 0 then d.ncand else 0
                 unusedSlot d.cand 28 n (16 - n))]
  firstErr (head ++ rest)

/-- MISMATCH causes: KIND, MODEL, DECL_COST, the cost checks of R72, the stream's model (R408, step 4). -/
def State.mismatchErr (s : State) (d : Desc) (a : Admission) : Option EndErr :=
  let m (ok : Bool) (off : Nat) := need ok (eDesc 2 off)
  firstErr [m (a.kind == d.kind) 0, m (a.model == d.model) 2, m (a.cost == d.declCost) 14,
    m (d.kind != 0 || d.declCost == 0xFFFF || d.totalLen ≤ 256 * d.declCost) 16,
    m (d.kind != 2 || d.ntok == d.declCost) 18,
    m (d.kind != 2 || ((s.stream? a.pitch a.session).map (fun x => x.model == d.model)).getD true) 2]

/-- Vocabulary size a descriptor's token ids are held to (R84, R105). -/
def State.vocab (s : State) (p epoch : Nat) : Nat :=
  match s.cfg? p with
  | some c => (((s.genAt p epoch).text? c.outTable).map (·.vocab)).getD 0
  | none => 0

/-- The epoch whose tables a token or a constraint of a session uses: its stream's, or its own (R105, R124). -/
def State.tokenEpoch (s : State) (p sess epoch : Nat) : Nat :=
  match s.stream? p sess with
  | some x => if x.opened then x.epoch else epoch
  | none => epoch

/-- First of the given ids at or above the vocabulary size (Table 2-11, TOKEN). -/
def tokenErr (vocab : Nat) (ids : List Nat) : Option EndErr :=
  (firstIdx (fun i => decide (vocab ≤ i)) ids).map (eDesc 6 ·)

/-- Inline token ids of a STREAM_TOKEN with NTOK ≤ 8. -/
def Desc.inline (d : Desc) : List Nat := if d.ntok ≤ 8 then (List.range d.ntok).map d.inlineTok else []

/-- Candidates of a CONSTRAINT. -/
def Desc.cands (d : Desc) : List Nat := if d.mode == 0 then (List.range d.ncand).map d.cand else []

/-- Checks of the descriptor's own fields for its kind (R408, step 6). -/
def State.fieldErr (s : State) (p epoch : Nat) (d : Desc) : Option EndErr :=
  let vocab := s.vocab p (s.tokenEpoch p d.session epoch)
  match d.kind with
  | 0 => firstErr [need (d.totalLen ≤ 16777216) (eLimit 1 d.totalLen),
      need (d.nseg != 0 || d.totalLen == 0) (eDesc 5 20), need (d.nseg ≤ 256) (eLimit 2 d.nseg),
      need (d.segAddr % 16 == 0) (eDesc 5 24), s.poolErr p d.segAddr 5, need (d.resultAddr % 64 == 0) (eDesc 5 32)]
  | 1 => firstErr [need (d.relAddr % 64 == 0) (eDesc 11 16), s.poolErr p d.relAddr 11,
      need (isPow2 d.relSize && 4096 ≤ d.relSize && d.relSize ≤ 16777216) (eDesc 11 24)]
  | 2 => firstErr [need (d.holdAct == 0 || d.ntok != 0) (eDesc 9 16), need (d.ntok ≤ 64) (eLimit 3 d.ntok),
      need (d.tokAddr % 4 == 0) (eDesc 5 24), tokenErr vocab d.inline]
  | _ => firstErr [need (match s.cfg? p with | some c => bit c.modes d.mode | none => false) (eLimit 5 d.mode),
      tokenErr vocab d.cands]

/-- How a session stands toward a STREAM_TOKEN that arrives (R42): an error, the code of an ended stream, or its stream. One
that follows an END not yet resolved is judged when that END is, which may still block it (R116). -/
inductive TokStand where
  | noStream | ended (code : Nat) | live
  deriving DecidableEq, Repr

def State.tokStand (s : State) (p sess : Nat) : TokStand :=
  match s.stream? p sess with
  | some x =>
    if !x.opened then .noStream
    else match x.finEnd, x.passEnd with
      | .block, _ => .ended 3
      | .stop, _ => .ended 4
      | .open, .open => .live
      | .open, .stop => .ended 4
      | .open, .block => .ended 3
      | .open, .closed => .live
      | _, _ => .noStream
  | none =>
    match s.entry? p sess with
    | some e => if e.endKind == 1 then .ended 4 else if e.endKind == 2 then .ended 3 else .noStream
    | none => .noStream

/-- Stream-state checks (R408, step 7). -/
def State.streamErr (s : State) (p : Nat) (d : Desc) : Option EndErr :=
  match d.kind with
  | 1 => need ((s.stream? p d.session).isNone) (eDesc 12 0)
  | 2 => firstErr [need (s.tokStand p d.session != .noStream) (eDesc 7 0),
      need (d.holdAct == 0 || ((s.stream? p d.session).map (·.join.isHeld)).getD false) (eDesc 9 16)]
  | _ => none

/-- The first cause that ends a descriptor when it is read, steps 1 to 7 of R408; `a` is the admission it matched. -/
def State.descErr (s : State) (p : Nat) (d : Desc) (a : Option Admission) : Option EndErr :=
  firstErr [need (d.pitch == p) (eDesc 3 7), s.reservedErr p d, need a.isSome (eDesc 1 0),
    a.bind (s.mismatchErr d), need ((s.req? p d.session d.tag).isNone) (eDesc 8 0),
    s.fieldErr p ((a.map (·.epoch)).getD (s.epoch p)) d, s.streamErr p d]

/-- A segment list: address and length of each entry (R35). -/
def segsOf (n : Nat) (b : List Byte) : List (Nat × Nat) :=
  (List.range n).map (fun i => (getLe b (16 * i) 8, getLe b (16 * i + 8) 4))

/-- First index at which the running sum of the lengths exceeds the total. -/
def sumIndex (total : Nat) : Nat → Nat → List (Nat × Nat) → Nat
  | i, _, [] => i
  | i, acc, x :: xs => if total < acc + x.2 then i else sumIndex total (i + 1) (acc + x.2) xs

/-- The checks of a segment list, in list order (R35, R54, R408 step 8). -/
def State.segErr (s : State) (p : Nat) (d : Desc) (b : List Byte) : Option EndErr :=
  let n := d.nseg
  let seg := segsOf n b
  let per := (List.range n).map (fun i =>
    let x := seg.getD i (0, 0)
    firstErr [need (1 ≤ x.2 && x.2 ≤ 16777216) (eDesc 5 i), need (getLe b (16 * i + 12) 4 == 0) (eDesc 4 i),
      s.poolErr p x.1 5,
      need (((seg.take (i + 1)).map (·.2)).sum ≤ d.totalLen) (eDesc 5 i)])
  firstErr (per ++ [need ((seg.map (·.2)).sum == d.totalLen) (eDesc 5 (sumIndex d.totalLen 0 0 seg))])

/-- A token buffer's words (Table 2-5, TOK_ADDR). -/
def tokWords (b : List Byte) : List Nat := (chunks 4 (b.length / 4) b).map leNat

/-- Checks of a token buffer, in token order: reserved bits, then the id (R408 step 8). -/
def bufErr (vocab : Nat) (ws : List Nat) : Option EndErr :=
  (firstIdx (fun w => decide (2 ^ 18 ≤ w) || decide (vocab ≤ w)) ws).map (fun i =>
    if 2 ^ 18 ≤ ws.getD i 0 then eDesc 4 i else eDesc 6 i)

end Sys2Proof.Machine
end

