-- ==== Sys2Proof/Machine/Flags.lean ====
section
/-! DEFINITION. Verdict records and what writing one does: flags (Table 2-9), PHASE, interrupt messages (R48), the entry's
update (R231, R232, R234), write-through (R246), and the credit factors (R78). -/

namespace Sys2Proof.Machine

/-! Flag bits (Table 2-9). -/
def flEmpty : Nat := 1
def flCold : Nat := 2
def flFallback : Nat := 4
def flBytes : Nat := 8
def flTrunc : Nat := 16
def flStock : Nat := 32
def flTail : Nat := 64
def flShadow : Nat := 128
def flAmended : Nat := 256

/-- A VECTOR request. -/
def State.isVector (s : State) (r : Req) : Bool := ((s.modelOf r).map (·.cls == 1)).getD false

/-- The text table an INTAKE is cut with (R84, R105). -/
def State.inTable (s : State) (r : Req) : Option TextTable :=
  (s.cfg? r.pitch).bind (fun c => (s.genAt r.pitch r.epoch).text? c.inTable)

/-- Tokens cut from a request's payload, with the finished context. -/
def State.cutOf (s : State) (r : Req) : CutCtx :=
  match s.inTable r with
  | some t => r.cut.finish t
  | none => r.cut

/-- Flags of an INTAKE set by its input, as much of it as has come (Table 2-9). -/
def State.inputFlags (s : State) (r : Req) : Nat :=
  let d : Desc := r.desc
  if r.kind != 0 then 0 else if d.totalLen == 0 then flEmpty
  else if s.isVector r then 0
  else
    let c : CutCtx := if r.arrival.isSome then s.cutOf r else r.cut
    (if c.bad != 0 then flBytes else 0) ||| (if c.splits != 0 then flTrunc else 0)

/-- Flags of a request's record, whatever its code (R51): its own, those of its input, COLD_START, FALLBACK, SHADOW and
AMENDED_GEN (Table 2-9, R345). -/
def State.recFlags (s : State) (r : Req) : Nat :=
  let cold := ((s.entry? r.pitch r.session).map (fun e => e.cold && !e.lost)).getD false
  let am := ((s.pit r.pitch).amendedFrom.map (fun e => decide (e ≤ r.epoch))).getD false
  r.flags ||| s.inputFlags r ||| (if cold then flCold else 0) ||| (if r.fallback then flFallback else 0)
    ||| (if r.shadow then flShadow else 0) ||| (if am then flAmended else 0)

/-- The 32 bytes of a record but for PHASE (Tables 2-6, 2-7). -/
def recordBytes (vcode kind rtype err flags tag pitch session epoch model : Nat) (tail : List Byte) : List Byte :=
  [BitVec.ofNat 8 (vcode + 16 * kind + 64 * rtype), BitVec.ofNat 8 err] ++ leBytes 2 flags ++ leBytes 3 tag
    ++ [BitVec.ofNat 8 pitch] ++ leBytes 5 session ++ [BitVec.ofNat 8 epoch] ++ leBytes 2 (model % 4096)
    ++ (tail ++ List.replicate (16 - tail.length) 0#8)

/-- PHASE of a record count (R46). -/
def phaseOf (count entries : Nat) : Nat := 1 - count / entries % 2

/-- The interrupt message is sent (R48). -/
def State.sendIrq (s : State) (p : Nat) : State :=
  let s : State := s.emit (.irq p (s.addrPair .pitIrqAddrLoAddr .pitIrqAddrHiAddr p) (s.rd .pitIrqDataData p))
  s.updPit p (fun x => { x with irqCount := 0, irqSince := none })

/-- A record counts toward the next message, and sends it when COUNT is reached (R48). -/
def State.countIrq (s : State) (p : Nat) : State :=
  let n := (s.pit p).irqCount + 1
  let s : State := s.updPit p (fun x => { x with irqCount := n, irqSince := x.irqSince <|> some s.clk.ticks })
  if s.rd .pitIrqModCount p != 0 && s.rd .pitIrqModCount p ≤ n then s.sendIrq p else s

/-- A record written to the pitch's verdict ring at slot VQ_TAIL mod ENTRIES, with its PHASE (R43, R46). -/
def State.putRecord (s : State) (p : Nat) (b : List Byte) : State :=
  let n := s.rd .pitVqSizeEntries p
  let c := s.rd .pitVqTailCount p
  let b := match b with
    | x :: xs => (x ||| BitVec.ofNat 8 (128 * phaseOf c n)) :: xs
    | [] => []
  let s : State := s.emit (.t2Write p (s.addrPair .pitVqBaseLoAddr .pitVqBaseHiAddr p + 32 * (c % n)) b)
  (s.bump .pitVqTailCount p).countIrq p

/-! ### The entry at a record -/

/-- What a record carries for the running features (R232). -/
structure RecVals where
  code : Option Nat := none
  inScore : Option F32 := none
  inTokens : Option Nat := none
  inHits : Option Nat := none
  stScore : Option F32 := none
  rel : Option Nat := none
  deriving DecidableEq, Repr

/-- Value of a feature's SRC in a record, if it carries one (R232). -/
def RecVals.get (v : RecVals) (f : RunFeat) : Option F32 :=
  match f.src with
  | 0 => v.inScore
  | 1 => v.inTokens.map (fun n => f32OfInt n)
  | 2 => v.inHits.map (fun n => f32OfInt n)
  | 3 => v.stScore
  | 4 => v.code.map (fun c => if f.code ≤ c then f32One else 0#32)
  | _ => v.rel.map (fun n => f32OfInt n)

/-- v + (x − v) × 2^−SHIFT, exact, rounded once (R232). -/
def ewma (v x : F32) (sh : Nat) : F32 :=
  match (f32Val v).dy?, (f32Val x).dy? with
  | some a, some b => f32OfDy (a.add ((b.sub a).scale (-(sh : Int))))
  | _, _ => f32Enc ((f32Val v).add ((f32Val x).add (f32Val v).neg))

/-- One running feature after a record (R232); `prev` and `now` are LAST_SEEN before and after. -/
def featStep (f : RunFeat) (vals : RecVals) (v : F32) (prev now : Nat) : F32 :=
  if f.op == 0 then v
  else if f.op == 6 then
    (if prev == 0 then v else f32OfDy ⟨(now : Int) - prev, -10⟩)
  else match vals.get f with
    | none => v
    | some x => match f.op with
      | 1 => if f32IsNaN v then f32One else f32Add v f32One
      | 2 => if f32IsNaN v then x else f32Add v x
      | 3 => if f32IsNaN v || f32Lt v x then x else v
      | 4 => x
      | _ => if f32IsNaN v then x else ewma v x f.shift

/-- WT of an entry with a hint (R234). -/
def State.wtOf (s : State) (p hint : Nat) : Bool :=
  match hint with
  | 2 => s.hasArea p 2
  | 3 => s.hasArea p 3
  | 4 => (s.parkTier p).isSome
  | _ => false

/-- Park tier of an entry: that of its PARK hint, or the default (R234). -/
def State.tierOf (s : State) (e : Entry) : Option Nat :=
  if (e.hint == 2 || e.hint == 3) && s.hasArea e.pitch e.hint then some e.hint else s.parkTier e.pitch

/-! ### Park areas and write-backs (R236, R237, R241, R246) -/

/-- The bucket of a session in an area of 2^n buckets (R237). -/
def bucketOf (sess n : Nat) : Nat := hashTop sess n

/-- Base address of a park area. -/
def State.areaBase (s : State) (p tier : Nat) (mirror : Bool) : Nat :=
  if mirror then s.addrPair .ldgPitMrBaseLoAddr .ldgPitMrBaseHiAddr p
  else if tier == 2 then s.addrPair .ldgPitT2BaseLoAddr .ldgPitT2BaseHiAddr p
  else s.addrPair .ldgPitT3BaseLoAddr .ldgPitT3BaseHiAddr p

def State.areaLog (s : State) (p tier : Nat) (mirror : Bool) : Nat :=
  if mirror then s.rd .ldgPitMrCfgLog2b p else if tier == 2 then s.rd .ldgPitT2CfgLog2b p else s.rd .ldgPitT3CfgLog2b p

def State.areaPool (s : State) (p : Nat) (mirror : Bool) : Nat :=
  if mirror then s.rd .ldgPitMrCfgPool p else s.rd .ldgPitT3CfgPool p

/-- The mirror area lies in the T3 area's pool, and is not used (R236, Table 10-10). -/
def State.mirrorBad (s : State) (p : Nat) : Bool :=
  s.rd .ldgPitMrCfgLog2b p != 0 && s.rd .ldgPitT3CfgLog2b p != 0 && s.rd .ldgPitMrCfgPool p == s.rd .ldgPitT3CfgPool p

/-- A read of ledger memory: T2 under the pitch's accessor id, or a pool. -/
def State.areaRead (s : State) (p sess tier : Nat) (mirror : Bool) (off len : Nat) : State :=
  let a := s.areaBase p tier mirror + off
  if tier == 2 && !mirror then s.emit (.t2Read p a len) else s.poolRead p sess (s.areaPool p mirror) a len

/-- The whole bucket of a session is read in one access (R237). -/
def State.readBucket (s : State) (p sess tier : Nat) (mirror : Bool) : State :=
  s.areaRead p sess tier mirror (128 * bucketOf sess (s.areaLog p tier mirror)) 128

/-- An entry whose copies go to the mirror area too (R241): MIRROR stands with a PARK hint only. -/
def State.mirrors (s : State) (e : Entry) : Bool :=
  e.mirror && s.rd .ldgPitMrCfgLog2b e.pitch != 0 && !s.mirrorBad e.pitch

/-- The buckets a copy goes to are read: the named tier's, and the mirror area's. -/
def State.readBuckets (s : State) (e : Entry) (tier : Nat) : State :=
  let s : State := s.readBucket e.pitch e.session tier false
  if s.mirrors e then s.readBucket e.pitch e.session tier true else s

/-- HINT, MIRROR and ORD of a descriptor applied (R234); the flag says whether anything changed. -/
def State.applyHints (s : State) (e : Entry) (d : Desc) : Entry × Bool :=
  let h := if d.hintEn then d.hint else e.hint
  let m := if d.hintEn then d.mirror else e.mirror
  let o := if d.ord == 1 then true else if d.ord == 2 then false else e.ordered
  ({ e with hint := h, mirror := m, ordered := o, wt := s.wtOf e.pitch h },
    h != e.hint || m != e.mirror || o != e.ordered)

/-- Entries of a pitch that hold a pin (R234). -/
def State.pinned (s : State) (p : Nat) : Nat := (s.entries.filter (fun e => e.pitch == p && e.pin.isSome)).length

/-- The pin of an entry after a record, or on becoming resident (R234). -/
def State.pinStep (s : State) (e : Entry) : Entry :=
  if e.hint != 0 then { e with pin := none }
  else if e.pin.isSome then e
  else if s.pinned e.pitch < s.rd .ldgPitCfgPinMax e.pitch then { e with pin := some (s.pit e.pitch).pinSeq }
  else e

/-- An entry after a record of its session (R231 to R234). -/
def State.entryAtRecord (s : State) (e : Entry) (d : Desc) (isErr : Bool) (vals : RecVals) : Entry :=
  let now := s.clk.optime
  let feats := if isErr then e.feats else
    match s.cfg? e.pitch with
    | some c => (List.range 16).map (fun j =>
        featStep (c.feats.getD j ⟨0, 0, 0, 0⟩) vals (e.feats.getD j f32NaN) e.lastSeen now)
    | none => e.feats
  let e1 := { e with feats, lastSeen := now, cold := e.cold && e.lost, ckptSeq := (e.ckptSeq + 1) % 2 ^ 32 }
  if isErr then s.pinStep e1 else
  let (e2, changed) := s.applyHints e1 d
  s.pinStep { e2 with ckptSeq := (e2.ckptSeq + b2n changed) % 2 ^ 32 }

def Transfer.isOf (x : Transfer) (p sess : Nat) : Bool := x.pitch == p && x.session == sess

/-- A write-back of an entry as it now stands is issued. An ORDERED session's are in flight at once and never superseded;
otherwise one is in flight and a newer one takes the place of the one that waits, standing for that one's epoch too (R60,
R246). -/
def State.issueWb (s : State) (e : Entry) (tier epoch : Nat) : State :=
  let w : WriteBack := { pitch := e.pitch, session := e.session, tier, image := e, since := s.clk.ticks, epoch }
  let mine := s.wbs.filter (fun x => x.isOf e.pitch e.session)
  if e.ordered || mine.isEmpty then State.readBuckets { s with wbs := s.wbs ++ [{ w with started := true }] } e tier
  else
    let waits := mine.filter (fun x => !x.started)
    let oldest := waits.foldl (fun a x => min a x.epoch) epoch
    { s with wbs := s.wbs.filter (fun x => !(x.isOf e.pitch e.session && !x.started)) ++ [{ w with epoch := oldest }] }

/-- The write-back of a written-through entry (R246). -/
def State.askWb (s : State) (e : Entry) (epoch : Nat) : State :=
  match s.tierOf e with
  | none => s
  | some t => if e.wt then s.issueWb e t epoch else s

/-- The entry of a session updated for a record written, with its write-through. -/
def State.noteRecord (s : State) (p sess epoch : Nat) (d : Desc) (isErr : Bool) (vals : RecVals) : State :=
  match s.entry? p sess with
  | none => s
  | some e =>
    let e' := s.entryAtRecord e d isErr vals
    let s : State := (s.updEntry p sess (fun _ => e')).updPit p (fun x => { x with pinSeq := x.pinSeq + 1 })
    s.askWb e' epoch

/-- A request's verdict record: written, its entry updated, the request gone and its credits with it (R33, R71). -/
def State.endReq (s : State) (r : Req) (vcode err : Nat) (flags : Nat) (tail : List Byte) (vals : RecVals) : State :=
  let s : State := s.putRecord r.pitch (recordBytes vcode r.kind 0 err flags r.tag r.pitch r.session r.epoch r.model tail)
  (s.noteRecord r.pitch r.session r.epoch r.desc (vcode == 15) vals).dropReq r.pitch r.session r.tag

/-- An error record of a descriptor that makes no request (R42, R53): nothing else is touched. -/
def State.failDesc (s : State) (r : Req) (e : EndErr) : State :=
  let s : State := s.putRecord r.pitch (recordBytes 15 r.kind 0 e.code (s.recFlags r) r.tag r.pitch r.session r.epoch r.model
    (leBytes 4 e.p0 ++ leBytes 4 e.p1))
  s.noteRecord r.pitch r.session r.epoch r.desc true {}

/-- A request in flight ends with ERR (R53): no result and no released bytes; a STREAM_OPEN opens no stream. -/
def State.failReq (s : State) (r : Req) (e : EndErr) : State :=
  let s : State := (s.failDesc r e).dropReq r.pitch r.session r.tag
  if r.kind == 1 then s.dropStream r.pitch r.session else s

/-! ### Credit factors (R78) -/

/-- F_m of a model-table entry lowered, with CREDIT_LOWERED when it first falls or reaches FMIN. -/
def State.lowerFactor (s : State) (i f : Nat) : State :=
  let old := s.rd .tollMdlLoFactor i
  let s1 := { s.wr .tollMdlLoFactor i f with
      factorTick := (i, s.clk.ticks) :: s.factorTick.filter (fun x => x.1 != i) }
  if f < old && (old == 256 || (f ≤ s.rd .tollLateFmin && s.rd .tollLateFmin < old)) then
    s1.day 0x5101 (s.rd .tollMdlLoPitch i) (s.rd .tollMdlLoPitch i) (s.rd .tollMdlLoModel i) f
  else s1

/-- A late tile of a model reported to the Toll (R78 rule 2, R266). -/
def State.lateReport (s : State) (p m : Nat) : State :=
  match s.mdl? p m with
  | none => s
  | some i => s.lowerFactor i (max (s.rd .tollLateFmin) (s.rd .tollMdlLoFactor i - s.rd .tollLateDec))

/-- E_LATE_TIER: the record, LATE_TIER, the count of its stall, or of its chain's last stage, and the report (R264, R266). -/
def State.failLate (s : State) (r : Req) (tier trow tcol : Nat) : State :=
  let s : State := s.failReq r ⟨0x42, r.serving, tier⟩
  let s : State := s.bump .tierLateCount
  let s : State := s.day 0x5202 r.pitch r.serving tier (trow + tcol * 65536)
  let s : State := match r.stall.orElse (fun _ => (r.chain.bind (s.chain? r.pitch)).bind (·.stalls.getLast?)) with
    | some i => s.bump .tierStlLateCount i
    | none => s
  s.lateReport r.pitch r.serving

end Sys2Proof.Machine
end

