-- ==== Sys2Proof/Machine/Toll.lean ====
section
/-! DEFINITION. The Toll port: Table 3-3, credits, energy, wakes, revives, quarantine (03_toll_port.md). -/

namespace Sys2Proof.Machine

/-- A query's fields (Table 1-4). -/
structure Query where
  pitch : Nat
  session : Nat
  tag : Nat
  kind : Nat
  model : Nat
  cost : Nat
  deriving DecidableEq, Repr

/-- Quarantine entries in force (R80). -/
def State.quarHit (s : State) (p sess : Nat) : Bool :=
  (s.copiesSet .tollQtabHiValid).any (fun i => s.rd .tollQtabHiPitch i == p
    && (s.rd .tollQtabHiWhole i == 1
      || s.rd .tollQtabLoSession i + 2 ^ 32 * s.rd .tollQtabHiSession i == sess))

/-- Charge of an admission in nJ (R73). -/
def State.charge (s : State) (i : Nat) (q : Query) : Nat :=
  s.rd .tollMdlHiEnergyNj i * (if q.kind == 0 || q.kind == 2 then max q.cost 1 else 1)

/-- The chain a session is pinned to. -/
def State.pinnedChain (s : State) (p sess : Nat) : Option Nat := (s.stream? p sess).map (·.chain)

/-- Chains of a pitch that take a new session: active, not emptying for inactivity, with room (Table 3-4, Table 8-6). -/
def State.openChains (s : State) (p : Nat) : List ChainSt :=
  s.chains.filter (fun c => c.pitch == p && c.active && c.idle == 0 && s.chainLoaded c
    && s.chainPins p c.idx < s.rd .tollPitCfgChainSessions p)

/-- The chain with the fewest pinned sessions, then the lowest stage-0 stall (Table 3-4). -/
def State.pickChain (s : State) (p : Nat) (cs : List ChainSt) : Option Nat :=
  (cs.foldl (fun (a : Option ChainSt) c => match a with
    | none => some c
    | some b =>
      let nb := s.chainPins p b.idx
      let nc := s.chainPins p c.idx
      if nc < nb || (nc == nb && c.stalls.headD 64 < b.stalls.headD 64) then some c else some b) none).map (·.idx)

/-- Limit of a share of `n` under a credit factor. -/
def factored (n f : Nat) : Nat := n * f / 256

/-- Intake limit with `n` stalls counted (Table 3-4). -/
def State.intakeLimit (s : State) (p i n : Nat) : Nat :=
  factored (n * s.rd .tollPitCfgIntakeDepth p) (s.rd .tollMdlLoFactor i)

/-- Fewest Napping or waking Spread stalls that make the intake slot suffice (R75). -/
def State.napsNeeded (s : State) (p i : Nat) : Option Nat :=
  let sleeping := (s.spreadIn p (fun w => w == .nap || w == .waking)).length
  (List.range (sleeping + 1)).find? (fun k => s.intakeUsed p < s.intakeLimit p i (s.spreadCount p + k))

/-- A table reload defers a query: an INTAKE for any Spread stall of the pitch, a stream query for the stalls of its chain
(R106, R130, R154). A STREAM_OPEN has the chain the Toll would choose. -/
def State.reloadDeferred (s : State) (q : Query) : Bool :=
  let chain : Option Nat := if q.kind == 1 then s.pickChain q.pitch (s.openChains q.pitch) else s.pinnedChain q.pitch q.session
  s.tier.reloads.any (fun r =>
    if q.kind == 0 then s.rd .stlRolePitch r.stall == q.pitch && s.rd .stlRoleRole r.stall == 1
    else ((chain.bind (s.chain? q.pitch)).map (fun c => c.stalls.contains r.stall)).getD false)

/-- A stock table that a model's image binds has a poisoned line (R154). -/
def State.stockDeferred (s : State) (p m : Nat) : Bool :=
  let g := s.genAt p (s.epoch p)
  s.tier.stockBad.any (fun x => x.pitch == p && (match (g.model? p m).bind (fun o => g.ens? o.ensId) with
    | some e => e.binds.any (fun b => (b.map (fun b => b.stockId == x.id)).getD false)
    | none => false))

/-- What a query is answered, and why. -/
inductive TollDecision where
  | refuse (reason : Nat)
  | quarantine
  | defer (reason : Nat)
  | grant (entry : Nat) (chain : Option Nat)
  deriving DecidableEq, Repr

/-- Row 11 of Table 3-3: every credit of Table 3-4 that applies, for serving entry `i`; the chain the request is charged
to comes with the answer. -/
def State.credits (s : State) (q : Query) (i : Nat) : Option (Option Nat) :=
  let f := s.rd .tollMdlLoFactor i
  let ordOk := ((s.entry? q.pitch q.session).map (fun e =>
      !e.ordered || decide (s.wbCount q.pitch q.session < s.rd .tollPitCfgOrdMax q.pitch))).getD true
  let common := 1 ≤ s.verdictFree q.pitch && s.adms.length < 65536 && ordOk
    && s.level8 + 8 * s.charge i q ≤ 8000 * s.rd .tollEnergyDepthUj
  if !common then none else
  match q.kind with
  | 0 => if s.intakeUsed q.pitch < s.intakeLimit q.pitch i (s.spreadCount q.pitch) then some none else none
  | 1 => (s.pickChain q.pitch (s.openChains q.pitch)).map some
  | 2 =>
    match s.stream? q.pitch q.session with
    | none => some none
    | some x =>
      if x.repin then none
      else if q.cost == 0 || s.chainTokens q.pitch x.chain + q.cost ≤ factored (s.rd .tollPitCfgChainTokens q.pitch) f
        then some (some x.chain) else none
  | _ =>
    if s.conUsed q.pitch < s.rd .tollPitCfg2ConMax q.pitch
        && !((s.stream? q.pitch q.session).map (·.repin)).getD false then some none else none

/-- Row 4 of Table 3-3: the pitch lacks the capacity altogether (R19, R74). -/
def State.noCapacity (s : State) (q : Query) : Bool :=
  (q.kind == 1 && ((((List.range 64).filter (fun i => s.rd .stlRoleAlloc i == 1 && s.rd .stlRolePitch i == q.pitch)).length < 2)
      || !s.chains.any (fun c => c.pitch == q.pitch && !c.dissolved)))
  || (q.kind == 2 && (64 < q.cost || s.rd .tollPitCfgChainTokens q.pitch < q.cost))
  || (q.kind == 0 && (s.stallsOf q.pitch 1).isEmpty)
  || ((s.serving? q.pitch q.model).map (fun i => decide (s.rd .tollEnergyDepthUj * 1000 < s.charge i q))).getD false

/-- The decision order of Table 3-3 (R69). -/
def State.decideQuery (s : State) (q : Query) : TollDecision :=
  let p := q.pitch
  if s.rd .pitStatusEnabled p == 0 || (s.pit p).draining || s.fab.excluded.contains p then .refuse 7
  else if s.adms.any (fun a => a.pitch == p && a.session == q.session && a.tag == q.tag) then .refuse 0
  else if s.quarHit p q.session then .quarantine
  else if s.noCapacity q then .refuse 9
  else match s.mdl? p q.model, s.serving? p q.model with
    | some own, some i =>
      if s.rd .tollMdlLoStream own != b2n (q.kind != 0) then .refuse 4
      else if s.ownDeferred p q.session q.kind then .defer 5
      else if (s.pit p).amending && (q.kind ≤ 1 || (q.kind == 3 && ((s.stream? p q.session).map (·.opened)) != some true))
        then .defer 6
      else if s.rd .tollMdlLoDeferred i == 1 || s.reloadDeferred q || s.stockDeferred p (s.rd .tollMdlLoModel i) then .defer 4
      else if (s.entry? p q.session).isNone && q.kind != 2 && (s.otherOwner p q.session).isNone
          && !s.reviving p q.session && (q.kind == 3 || !s.reviveFree p) then .defer 3
      else match s.credits q i with
        | some c => .grant i c
        | none =>
          if q.kind == 0 && !(s.intakeUsed p < s.intakeLimit p i (s.spreadCount p)) && (s.napsNeeded p i).isSome
            then .defer 2 else .defer 1
    | _, _ => .refuse 4

/-- A revive is started: it takes a revive slot and reads the session's bucket; with no park area of the pitch's own, the
ownership record's (R76, R242). -/
def State.startRevive (s : State) (p sess : Nat) (prefetch pushed : Bool) : State :=
  let dir := s.dir? p
  let tier := (s.parkTier p).getD (if dir.isSome then 4 else 0)
  let r : Revive := { pitch := p, session := sess, prefetch, pushed, tier, pool := s.areaPool p false, mirror := false
                      since := s.clk.ticks }
  let s : State := { s with revives := s.revives ++ [r] }
  if tier == 0 then s
  else if tier == 4 then
    (match dir with
      | some d => s.poolRead p sess d.2.1 (dirBucket d sess) 128
      | none => s)
  else s.readBucket p sess tier false

/-- Stalls of a list taken from a place a free value names (the manual leaves open which). -/
def rotate {α : Type} (n : Nat) (xs : List α) : List α := xs.drop (n % xs.length) ++ xs.take (n % xs.length)

/-- Wakes of Napping Spread stalls (R75, R359): as many as make the slot suffice, those already waking counted. -/
def State.startWakes (s : State) (p i : Nat) : State :=
  match s.napsNeeded p i with
  | none => s
  | some k =>
    let waking := (s.spreadIn p (· == .waking)).length
    let naps := rotate s.freeNat (s.spreadIn p (· == .nap))
    ((naps.take (k - waking)).foldl (fun a j => a.updStl j (fun x => { x with power := .waking })) s).tookFree

/-- The answer on the port and in the pitch's counts (R65, Table 3-5). -/
def State.answer (s : State) (p ans reason : Nat) : State :=
  let s : State := { s with toll := { av := true, ans, reason } }
  match ans with
  | 0 => s.bump .tollPitAdmitCount p
  | 1 => ((s.bump .tollPitDeferCount p).wr .tollPitLastReason p reason).wr .tollPitLastAns p 1
  | 2 => ((s.bump .tollPitRefuseCount p).wr .tollPitLastReason p reason).wr .tollPitLastAns p 2
  | _ => ((s.bump .tollPitQuarCount p).wr .tollPitLastReason p reason).wr .tollPitLastAns p 3

/-- The admission an ADMIT creates (R41, R81). -/
def State.admission (s : State) (q : Query) (i : Nat) (chain : Option Nat) : Admission :=
  { pitch := q.pitch, session := q.session, tag := q.tag, kind := q.kind, model := q.model
    serving := s.rd .tollMdlLoModel i, cost := q.cost, epoch := s.epoch q.pitch, chain, tick := s.clk.ticks }

/-- The state after a decision (R69, R71, R73, R75, R76). -/
def State.applyDecision (s : State) (q : Query) : TollDecision → State
  | .refuse r => s.answer q.pitch 2 r
  | .quarantine => s.answer q.pitch 3 8
  | .defer r =>
    let s : State := s.answer q.pitch 1 r
    let s : State := if q.kind == 0 && (r == 1 || r == 2) then s.updPit q.pitch (fun x => { x with defIntake := true }) else s
    let s : State := if q.kind == 1 && r == 1 then s.updPit q.pitch (fun x => { x with defOpen := true }) else s
    if r == 2 then ((s.serving? q.pitch q.model).map (s.startWakes q.pitch)).getD s
    else if r == 3 && q.kind == 3 && s.reviveFree q.pitch
      then s.startRevive q.pitch q.session false false
    else s
  | .grant i c =>
    let a := s.admission q i c
    let s : State := s.setLevel8 (s.level8 + 8 * s.charge i q)
    let s : State := { (s.answer q.pitch 0 0) with adms := s.adms ++ [a] }
    if (q.kind == 0 || q.kind == 1) && (s.otherOwner q.pitch q.session).isNone
        && (s.entry? q.pitch q.session).isNone && !s.reviving q.pitch q.session
      then s.startRevive q.pitch q.session false false
    else s

/-- The Toll is powered and answers (R68). -/
def State.tollLive (s : State) : Bool := s.pwr.hold == .none && s.rd .tollStatusReady == 1

/-- TOLL_QUERY (R65 to R81): one query in one TOLL_CLK cycle. -/
def tollQueryStep (q : Query) (s : State) : State :=
  if s.tollLive then s.applyDecision q (s.decideQuery q) else { s with toll := {} }

/-- ADMISSION_LAPSE (R41, R71): once its lifetime has passed; every credit but energy returns with it. -/
def lapseStep (p sess tag : Nat) (s : State) : State :=
  { s with adms := s.adms.filter (fun a => !(a.pitch == p && a.session == sess && a.tag == tag
      && a.tick + usTicks (s.rd .pitAdmitTtlUsec p) ≤ s.clk.ticks)) }

/-- The drain in force: the hot drain while HOT is set (R73, R353). -/
def State.drainMw (s : State) : Nat := if s.rd .wchStatusHot == 1 then s.rd .wchHotDrainMw else s.rd .tollEnergyDrainMw

/-- Units of 1/1024 s a tick adds: 2/15625 each. -/
def tickClock (c : Clocks) : Clocks :=
  let f := c.frac + 2
  { c with ticks := c.ticks + 1, frac := f % 15625, optime := (c.optime + f / 15625) % 2 ^ 40 }

/-! ### Bench steps begin (R199, R200, R222) -/

/-- A Bench group of at least 2 stalls is formed for a pitch. -/
def State.benchGroup (s : State) (p : Nat) : Bool := 2 ≤ (s.stallsOf p 3).length

/-- The level after a step lies within the limit that admission leaves (R222). -/
def State.stepEnergy (s : State) (p : Nat) : Bool :=
  s.level8 + 8000 * s.rd .aszPitCfg3StepUj p ≤ 8000 * (s.rd .tollEnergyDepthUj - s.rd .aszEnergyReserveUj)

/-- The Assize may run cycles for a pitch (R212, R225). -/
def State.aszRuns (s : State) (p : Nat) : Bool := s.rd .aszCtrlEnable == 1 && s.rd .aszPitCtrlFreeze p == 0

/-- Some model of a pitch is in a state. -/
def State.aszIn (s : State) (p : Nat) (st : AszState) : Bool := s.asz.any (fun a => a.pitch == p && a.state == st)

/-- A pitch's next Bench step begins when a model trains or is in shadow, a group is formed, and, for a training step, its energy
is there, which it takes (R222). That a shadow evaluation is held to no energy and takes none is a DESIGN CHOICE
(notes/assumptions/122.md). -/
def State.beginStep (s : State) (p : Nat) : State :=
  if (s.pit p).step.isSome || !s.aszRuns p || !s.benchGroup p then s
  else if s.aszIn p .train && s.stepEnergy p then
    (s.setLevel8 (s.level8 + 8000 * s.rd .aszPitCfg3StepUj p)).updPit p (fun x => { x with step := some (s.clk.ticks, true) })
  else if s.aszIn p .shadow then s.updPit p (fun x => { x with step := some (s.clk.ticks, false) })
  else s

/-- Bench steps begin wherever they may. -/
def State.beginSteps (s : State) : State := ((s.asz.map (·.pitch)).eraseDups).foldl State.beginStep s

/-- ENERGY_DRAIN_TICK (R65, R73): one 125 ns tick of the oscillator; L falls by MW × 0.125 nJ and never below 0, and the Toll
port has seen a cycle without a query. A Bench step that waited for energy may begin (R222). -/
def drainStep (s : State) : State :=
  (State.setLevel8 { s with clk := tickClock s.clk, toll := {} } (s.level8 - s.drainMw)).beginSteps

/-- CREDIT_FACTOR_RECOVER (R78 rule 3): a full 1 ms without a report for the entry. -/
def factorRecoverStep (i : Nat) (s : State) : State :=
  let since := ((s.factorTick.find? (·.1 == i)).map (·.2)).getD 0
  if since + msTicks 1 ≤ s.clk.ticks && s.rd .tollMdlLoValid i == 1 then
    { s.wr .tollMdlLoFactor i (min 256 (s.rd .tollMdlLoFactor i + s.rd .tollLateInc)) with
        factorTick := (i, s.clk.ticks) :: s.factorTick.filter (fun x => x.1 != i) }
  else s

/-- The fields a write of a quarantine entry's second word sets (Table 3-5). -/
def State.setQuar (s : State) (i : Nat) (w : Nat) : State :=
  let s : State := s.wr .tollQtabHiSession i (bits w 0 8)
  let s : State := s.wr .tollQtabHiPitch i (bits w 8 6)
  let s : State := s.wr .tollQtabHiWhole i (bits w 16 1)
  s.wr .tollQtabHiValid i (bits w 31 1)

/-- TOLL_QTAB_HI written (R80, R404): the entry is live from the next edge, and no longer one Ngarov inserted. -/
def State.writeQuar (s : State) (i w : Nat) : State := (s.setQuar i w).wr .tollQtabHiAuto i 0

/-- QTAB_ENTRY_WRITE. -/
def qtabStep (acc : Accessor) (i : Nat) (w : Word) (s : State) : State :=
  match s.gate acc .tollQtabHiValid i with
  | .inl t => t
  | .inr t => t.writeQuar i w.toNat

/-- The automatic quarantine insert of R80 for a session. -/
def State.quarantineAuto (s : State) (p sess : Nat) : State :=
  if s.quarHit p sess then s else
  match (List.range 256).find? (fun i => s.rd .tollQtabHiValid i == 0) with
  | some i =>
    let s : State := s.wr .tollQtabLoSession i (sess % 2 ^ 32)
    let s : State := s.setQuar i (sess / 2 ^ 32 + 256 * p + 2 ^ 31)
    (s.wr .tollQtabHiAuto i 1).day 0x3101 p (sess % 2 ^ 32) (sess / 2 ^ 32) i
  | none => (s.wr .tollStatusQtabFull 0 1).day 0x3101 p (sess % 2 ^ 32) (sess / 2 ^ 32) 0xFFFFFFFF

abbrev Result := Host.Outcome State Fault Refusal

def execTollQuery (pitch : Fin 64) (session : Session) (tag : Tag) (kind : BitVec 2) (model : BitVec 12)
    (cost : BitVec 16) (s : State) : Result :=
  .next (tollQueryStep ⟨pitch, session.toNat, tag.toNat, kind.toNat, model.toNat, cost.toNat⟩ s)

def execAdmissionLapse (pitch : Fin 64) (session : Session) (tag : Tag) (s : State) : Result :=
  .next (lapseStep pitch session.toNat tag.toNat s)

def execEnergyDrainTick (s : State) : Result := .next (drainStep s)

def execCreditFactorRecover (entry : Fin 1024) (s : State) : Result := .next (factorRecoverStep entry s)

def execQtabEntryWrite (acc : Accessor) (entry : Fin 256) (value : Word) (s : State) : Result :=
  .next (qtabStep acc entry value s)

end Sys2Proof.Machine
end

