-- ==== Sys2Proof/Machine/Ledger.lean ====
section
/-! DEFINITION. The ledger: entries and park envelopes as bytes, parks, write-backs, revives, prefetches and eviction
(10_ledger_sessions.md). -/

namespace Sys2Proof.Machine

/-- `b` padded with zeros, or cut, to `n` bytes. -/
def padTo (n : Nat) (b : List Byte) : List Byte := b.take n ++ List.replicate (n - b.length) 0#8

def byteOf (n : Nat) : Byte := BitVec.ofNat 8 n

/-- The bytes of an entry (Tables 10-1 to 10-3, 5-10). -/
def Entry.image (e : Entry) (size : Nat) : List Byte :=
  let flags := b2n e.ordered + 2 * b2n e.cold + 4 * b2n e.isOpen + 8 * b2n e.cut + 16 * b2n e.wt + 32 * b2n e.mirror
    + 64 * b2n e.lost
  let header := [byteOf size, byteOf e.pitch] ++ leBytes 5 e.session
    ++ [byteOf flags, byteOf (e.hint + 8 * e.lostTier), byteOf e.chainFirst] ++ leBytes 2 e.smodel
    ++ leBytes 4 e.ckptSeq ++ leBytes 5 e.lastSeen ++ leBytes 3 0 ++ leBytes 4 e.ownEpoch
    ++ leBytes 2 e.summary.length ++ leBytes 2 e.state.length ++ List.replicate 32 0#8
  let sieve := leBytes 4 e.sveStop ++ leBytes 4 e.sveBan ++ leBytes 4 e.sveForce ++ leBytes 2 e.sveModel
    ++ [byteOf e.endKind, 0#8] ++ leBytes 4 e.sveGen ++ (e.sveTables.map byteOf) ++ [0#8] ++ leBytes 4 e.sveTokens
    ++ leBytes 4 0
  let joiner := leBytes 8 e.released ++ [byteOf e.back.length, byteOf e.tailInc, byteOf (b2n e.stopDone), 0#8]
    ++ leBytes 4 e.held.length ++ List.replicate 16 0#8 ++ padTo 64 e.back
  header ++ padTo 32 sieve ++ padTo 96 joiner ++ (e.feats.flatMap (fun f => leBytes 4 f.toNat))
    ++ padTo (summaryArea size) e.summary ++ padTo (stateArea size) e.state ++ padTo (holdArea size) e.held

/-- The entry a byte image holds. -/
def entryOf (b : List Byte) (size : Nat) : Entry :=
  let fl := getLe b 7 1
  let so := 256
  let st := so + summaryArea size
  let ho := st + stateArea size
  { pitch := bits (getLe b 1 1) 0 6, session := getLe b 2 5, ordered := bit fl 0, cold := bit fl 1, isOpen := bit fl 2
    cut := bit fl 3, wt := bit fl 4, mirror := bit fl 5, lost := bit fl 6, hint := bits (getLe b 8 1) 0 3
    lostTier := bits (getLe b 8 1) 3 2, chainFirst := bits (getLe b 9 1) 0 6, smodel := bits (getLe b 10 2) 0 12
    ckptSeq := getLe b 12 4, lastSeen := getLe b 16 5, ownEpoch := getLe b 24 4
    sveStop := getLe b 64 4, sveBan := getLe b 68 4, sveForce := getLe b 72 4, sveModel := bits (getLe b 76 2) 0 12
    endKind := bits (getLe b 78 1) 0 2, sveGen := getLe b 80 4
    sveTables := [getLe b 84 1, getLe b 85 1, getLe b 86 1], sveTokens := getLe b 88 4
    released := getLe b 96 8, tailInc := bits (getLe b 105 1) 0 2, stopDone := bit (getLe b 106 1) 0
    back := (b.drop 128).take (bits (getLe b 104 1) 0 6), held := (b.drop ho).take (getLe b 108 4)
    feats := (List.range 16).map (fun j => BitVec.ofNat 32 (getLe b (192 + 4 * j) 4))
    summary := (b.drop so).take (getLe b 28 2), state := (b.drop st).take (getLe b 30 2) }

/-! ### Park envelopes (R239, R240) -/

/-- The initialisation vector of the next copy (Table 10-6). -/
def State.nextIv (s : State) : Nat :=
  s.rd .fabIdDevice + 2 ^ 13 * s.rd .wchPcycCount + 2 ^ 37 * (s.clk.parkCtr % 2 ^ 59)

def State.secretOf (s : State) (p : Nat) : List Byte := ((s.keys.find? (·.pitch == p)).map (·.secret)).getD []

/-- Envelope bytes but the tag (Table 10-6). -/
def envelope (size pitch sess keyver device ckpt epoch iv : Nat) : List Byte × List Byte :=
  (leBytes 2 1 ++ [byteOf size, byteOf pitch] ++ leBytes 5 sess ++ [byteOf keyver] ++ leBytes 2 device ++ leBytes 4 ckpt
    ++ leBytes 4 epoch ++ leBytes 12 iv, List.replicate 16 0#8)

/-- The parked copy of an entry under a key version (R239). -/
def State.sealed (s : State) (e : Entry) (keyver : Nat) : List Byte :=
  let size := s.rd .ldgPitCfgSize e.pitch
  let iv := s.nextIv
  let (h, t) := envelope size e.pitch e.session keyver (s.rd .fabIdDevice) e.ckptSeq e.ownEpoch iv
  let (ct, tag) := gcmSeal (ledgerKey (s.secretOf e.pitch) e.pitch keyver) (leBytes 12 iv) (h ++ t) (e.image size)
  h ++ tag ++ t ++ ct

/-- The park counter rises with each copy encrypted (R240). -/
def State.countCopy (s : State) : State := { s with clk := { s.clk with parkCtr := (s.clk.parkCtr + 1) % 2 ^ 59 } }

/-! ### Directory buckets (R237) -/

/-- A directory way (Table 10-5). -/
structure Way where
  session : Nat
  state : Nat
  wt : Bool
  mirror : Bool
  ckpt : Nat
  epoch : Nat
  deriving DecidableEq, Repr

def wayAt (b : List Byte) (w : Nat) : Way :=
  let o := 16 * w
  ⟨getLe b o 5, bits (getLe b (o + 5) 1) 0 2, bit (getLe b (o + 5) 1) 2, bit (getLe b (o + 5) 1) 3, getLe b (o + 8) 4,
    getLe b (o + 12) 4⟩

def Way.image (w : Way) : List Byte :=
  leBytes 5 w.session ++ [byteOf (w.state + 4 * b2n w.wt + 8 * b2n w.mirror)] ++ leBytes 2 0 ++ leBytes 4 w.ckpt
    ++ leBytes 4 w.epoch

/-- The way that holds a session. -/
def wayOf (b : List Byte) (sess : Nat) : Option Nat :=
  (List.range 8).find? (fun w => (wayAt b w).state != 0 && (wayAt b w).session == sess)

/-- The way a park uses: the session's, or the lowest FREE one (R237). -/
def parkWay (b : List Byte) (sess : Nat) : Option Nat :=
  (wayOf b sess).orElse (fun _ => (List.range 8).find? (fun w => (wayAt b w).state == 0))

def State.slotOff (s : State) (p tier : Nat) (mirror : Bool) (sess w : Nat) : Nat :=
  let n := s.areaLog p tier mirror
  128 * 2 ^ n + (8 * bucketOf sess n + w) * (s.entrySize p + 64)

def State.areaWrite (s : State) (p sess tier : Nat) (mirror : Bool) (off : Nat) (b : List Byte) : State :=
  let a := s.areaBase p tier mirror + off
  if tier == 2 && !mirror then s.emit (.t2Write p a b) else s.poolWrite p sess (s.areaPool p mirror) a b

def State.writeWay (s : State) (p tier : Nat) (mirror : Bool) (w : Nat) (x : Way) : State :=
  s.areaWrite p x.session tier mirror (128 * bucketOf x.session (s.areaLog p tier mirror) + 16 * w) x.image

/-! ### Parks and write-backs -/

/-- The ledger region's granules of a freed entry await zeroing (R308). -/
def State.freeGranules (s : State) (p : Nat) : State :=
  { s with tier := { s.tier with zeroing := s.tier.zeroing + s.entrySize p / 512 } }

/-- A resident entry leaves the cellar. -/
def State.freeEntry (s : State) (p sess : Nat) : State := (s.dropEntry p sess).freeGranules p

/-- Number of an area in an entry's copies. -/
def areaOf (tier : Nat) (mirror : Bool) : Nat := if mirror then 4 else tier

/-- The state a copy holds already stands in an area: a current copy is not written again (R31). -/
def State.holdsCopy (s : State) (e : Entry) (tier : Nat) (mirror : Bool) : Bool :=
  ((s.entry? e.pitch e.session).getD e).copies.any (fun c => c.area == areaOf tier mirror && c.seq == e.ckptSeq)

/-- The copy an entry now has in an area. -/
def State.noteCopy (s : State) (e : Entry) (tier : Nat) (mirror : Bool) (w : Nat) : State :=
  s.updEntry e.pitch e.session (fun x => { x with
    copies := x.copies.filter (fun c => c.area != areaOf tier mirror) ++ [⟨areaOf tier mirror, w, e.ckptSeq⟩] })

/-- The copy of an entry written into the area, slot then way, and noted; `mir` is the way's MIRROR. -/
def State.storeCopy (s : State) (e : Entry) (tier : Nat) (mirror mir : Bool) (w keyver state : Nat) : State :=
  let s : State := if s.holdsCopy e tier mirror then s
    else (s.areaWrite e.pitch e.session tier mirror (s.slotOff e.pitch tier mirror e.session w) (s.sealed e keyver)).countCopy
  (s.writeWay e.pitch tier mirror w ⟨e.session, state, e.wt, mir, e.ckptSeq, e.ownEpoch⟩).noteCopy e tier mirror w

/-- Tier of an area: the mirror area is pooled memory (R236). -/
def areaTier (tier : Nat) (mirror : Bool) : Nat := if mirror then 3 else tier

/-- POOL_FAIL for an area (R249). -/
def State.poolFail (s : State) (p tier : Nat) (mirror : Bool) : State :=
  (s.wr .ldgStatusPoolFail 0 1).day 0x1501 p (areaTier tier mirror) (if tier == 2 && !mirror then 0 else s.areaPool p mirror)

/-- PARK_DIR_FULL (R238). -/
def State.dirFull (s : State) (p sess tier : Nat) (mirror : Bool) : State :=
  (s.wr .ldgPitStatusDirFull p 1).day 0x5402 p (sess % 2 ^ 32) (areaTier tier mirror) (bucketOf sess (s.areaLog p tier mirror))

/-- How the named tier took a copy. -/
inductive Stored where
  | done | full | failed
  deriving DecidableEq, Repr

/-- What a bucket read brings to a transfer: nothing when the pool has failed it before. -/
def bucketFor (failed : Bool) (d : ReadData) : Option ReadData := if failed then none else some d

/-- The ledger engine may seal a copy for an area: not once the counters are lost (R351). A copy that stands there needs no
seal. -/
def State.maySeal (s : State) (e : Entry) (tier : Nat) (mirror : Bool) : Bool :=
  s.rd .wchStatusCntLost == 0 || s.holdsCopy e tier mirror

/-- The mirror copy (R241): its bucket may have failed, or be full, which the named tier's copy does not wait for
(notes/assumptions/120.md). The flag tells whether it is written. -/
def State.storeMirror (s : State) (e : Entry) (tier keyver state : Nat) (d : Option ReadData) : State × Bool :=
  if !(s.mirrors e && s.maySeal e tier true) then (s, false) else
  match d with
  | none => (s, false)
  | some .error => (s.poolFail e.pitch tier true, false)
  | some (.ok b) =>
    match parkWay b e.session with
    | some w => (s.storeCopy e tier true true w keyver state, true)
    | none => (s.dirFull e.pitch e.session tier true, false)

/-- Copies of an entry's image to its tier and, with MIRROR, to the mirror area (R238, R241, R249). A full bucket of the named
tier takes nothing, and nothing is written. -/
def State.storeBoth (s : State) (e : Entry) (tier keyver state : Nat) (d md : Option ReadData) : State × Stored :=
  match d with
  | some (.ok b) =>
    (match parkWay b e.session with
    | none => (s.dirFull e.pitch e.session tier false, .full)
    | some w =>
      let (s, mir) := s.storeMirror e tier keyver state md
      (s.storeCopy e tier false mir w keyver state, .done))
  | some .error => (((s.poolFail e.pitch tier false).storeMirror e tier keyver state md).1, .failed)
  | none => ((s.storeMirror e tier keyver state md).1, .failed)

/-- A park is started for an entry that has a tier to go to (R234, R235). -/
def State.startPark (s : State) (e : Entry) (tier : Nat) : State :=
  if s.parks.any (fun k => k.isOf e.pitch e.session) then s else
  let k : Park := { pitch := e.pitch, session := e.session, tier, image := e, since := s.clk.ticks
                    keyver := s.rd .glbKeyCfgKeyver e.pitch }
  State.readBuckets { s with parks := s.parks ++ [k] } e tier

/-! ### Ownership records and moves (R246, R287, R288, R290) -/

/-- An ownership record (Table 12-5). -/
structure OwnRec where
  session : Nat
  valid : Bool
  owner : Nat
  epoch : Nat
  holder : Nat
  ckpt : Nat
  deriving DecidableEq, Repr

def ownRecAt (b : List Byte) (k : Nat) : OwnRec :=
  let o := 32 * k
  ⟨getLe b o 5, bit (getLe b (o + 5) 1) 0, bits (getLe b (o + 6) 2) 0 13, getLe b (o + 8) 4, bits (getLe b (o + 12) 2) 0 13,
    getLe b (o + 16) 4⟩

def OwnRec.image (x : OwnRec) : List Byte :=
  leBytes 5 x.session ++ [byteOf (b2n x.valid)] ++ leBytes 2 x.owner ++ leBytes 4 x.epoch ++ leBytes 2 x.holder ++ leBytes 2 0
    ++ leBytes 4 x.ckpt ++ leBytes 12 0

/-- The record of a session in its bucket. -/
def ownRecOf (b : List Byte) (sess : Nat) : Option OwnRec :=
  ((List.range 4).map (ownRecAt b)).find? (fun x => x.valid && x.session == sess)

/-- A session's record is to be written, by the owner of its shard: the bucket is read first. -/
def State.writeRecord (s : State) (p sess owner epoch holder ckpt : Nat) : State :=
  match s.dir? p with
  | none => s
  | some d =>
    if !s.ownsShard p sess then s else
    let op : DirOp := { txn := s.fab.txnNext, pitch := p, session := sess, owner, epoch, holder, ckpt, since := s.clk.ticks }
    { s with fab := { s.fab with dirOps := s.fab.dirOps ++ [op] } }.poolRead p sess d.2.1 (dirBucket d sess) 128

/-- The bucket has come: the record goes into the session's place, or a free one; a full bucket takes none (DIR_FULL). -/
def State.dirWrite (s : State) (op : DirOp) (b : List Byte) : State :=
  let s : State := { s with fab := { s.fab with dirOps := s.fab.dirOps.filter (fun x => x.txn != op.txn) } }
  match s.dir? op.pitch with
  | none => s
  | some d =>
    let mine := (List.range 4).find? (fun k => (ownRecAt b k).valid && (ownRecAt b k).session == op.session)
    match mine.orElse (fun _ => (List.range 4).find? (fun k => !(ownRecAt b k).valid)) with
    | none => s.day 0x4204 op.pitch (op.session % 2 ^ 32) d.2.1 (hashTop op.session d.2.2)
    | some k =>
      let s : State := s.poolWrite op.pitch op.session d.2.1 (dirBucket d op.session + 32 * k)
        (OwnRec.image ⟨op.session, true, op.owner, op.epoch, op.holder, op.ckpt⟩)
      if op.owner == s.rd .fabIdDevice then s.updEntry op.pitch op.session (fun e => { e with ownEpoch := op.epoch }) else s

/-- A session of a domain pitch has been parked or written through to T3. -/
def State.noteParked (s : State) (e : Entry) (tier : Nat) : State :=
  if tier != 3 then s else
  s.writeRecord e.pitch e.session (s.rd .fabIdDevice) (s.ownEpoch e.pitch e.session) (s.rd .fabIdDevice) e.ckptSeq

def State.move? (s : State) (p sess : Nat) : Option Move := s.fab.moves.find? (fun m => m.pitch == p && m.session == sess)
def State.dropMove (s : State) (p sess : Nat) : State :=
  { s with fab := { s.fab with moves := s.fab.moves.filter (fun m => !(m.pitch == p && m.session == sess)) } }

/-- OWN_ANNOUNCE to every member of the domain (R290). -/
def State.announce (s : State) (p sess owner holder epoch : Nat) (body : List Byte) : State :=
  (s.members p).foldl (fun (a : State) d => a.sendFrame
    { kind := 0x17, dkind := 0, dst := d, pitch := p, session := sess
      arg := leBytes 2 owner ++ leBytes 2 holder ++ leBytes 4 epoch, body }) s

/-- The copy of a moving session stands in this block's T3 area: OWN_REQ to the fabric manager, or in compatibility mode the
announcement, which ends the move. -/
def State.moveParked (s : State) (p sess ckpt : Nat) : State :=
  match s.move? p sess with
  | none => s
  | some m =>
    let me := s.rd .fabIdDevice
    let ep := s.ownEpoch p sess
    if m.asked then s
    else if s.rd .fabCfgMode == 0 then
      let s : State := s.sendFrame { kind := 0x12, dkind := 2, dst := 0, pitch := p, session := sess
                                     arg := leBytes 2 m.target ++ [byteOf m.reason, 0#8] ++ leBytes 4 ep
                                     body := leBytes 4 ckpt ++ leBytes 2 me }
      { s with fab := { s.fab with moves := s.fab.moves.map (fun x =>
          if x.pitch == p && x.session == sess then { x with asked := true, since := s.clk.ticks } else x) } }
    else
      let e := (ep + 1) % 2 ^ 32
      let s : State := (s.announce p sess m.target me e (leBytes 4 ckpt)).writeRecord p sess m.target e me ckpt
      let s : State := (s.putExc p sess m.target e).dropMove p sess
      if (s.entry? p sess).isSome then s.freeEntry p sess else s

/-- A moving session whose requests are done: its entry is parked to T3; one that is not resident is asked for as it
stands, its copy's CKPT_SEQ not known here. -/
def State.moveOn (s : State) (p sess : Nat) : State :=
  match s.move? p sess with
  | none => s
  | some m =>
    if m.asked || s.busy p sess then s else
    match s.entry? p sess with
    | some e => if s.hasArea p 3 then s.startPark e 3 else s
    | none => s.tookFree.moveParked p sess (s.freeNat % 2 ^ 32)

/-- A PARK hint applied to an entry that is no longer busy and not held (R234). -/
def State.parkByHint (s : State) (p sess : Nat) : State :=
  match s.entry? p sess with
  | none => s
  | some e =>
    if !(s.busy p sess) && !e.isOpen && e.pfHold.isNone && (e.hint == 2 || e.hint == 3) && s.hasArea p e.hint
      then s.startPark e e.hint else s

/-- PARK_START (R234, R288). -/
def parkStartStep (p sess : Nat) (s : State) : State := if (s.move? p sess).isSome then s.moveOn p sess else s.parkByHint p sess

/-- Order of eviction (R235). -/
def evictsBefore (a b : Entry) : Bool :=
  let ka := (b2n (a.hint != 5), a.lastSeen, a.pitch, a.session)
  let kb := (b2n (b.hint != 5), b.lastSeen, b.pitch, b.session)
  ka.1 < kb.1 || (ka.1 == kb.1 && (ka.2.1 < kb.2.1 || (ka.2.1 == kb.2.1 && (ka.2.2.1 < kb.2.2.1
    || (ka.2.2.1 == kb.2.2.1 && ka.2.2.2 < kb.2.2.2)))))

/-- The entry to evict next (R235). -/
def State.victim (s : State) : Option Entry :=
  (s.entries.filter s.evictable).foldl (fun (a : Option Entry) e => match a with
    | none => some e
    | some b => if evictsBefore e b then some e else some b) none

/-- EVICTION (R235). -/
def evictStep (s : State) : State :=
  if s.rd .tollReviveMaxInflight ≤ s.freeEntries then s else
  match s.victim with
  | none => s
  | some e =>
    match s.tierOf e with
    | some t => s.startPark e t
    | none => s.freeEntry e.pitch e.session

/-- The first write-back of a session that waits goes in flight, with none there (R246). -/
def State.kickWb (s : State) (p sess : Nat) : State :=
  if s.wbs.any (fun w => w.isOf p sess && w.started) then s else
  match s.wbs.find? (fun w => w.isOf p sess) with
  | none => s
  | some w => State.readBuckets { s with wbs := s.wbs.map (fun x =>
      if x == w then { x with started := true, since := s.clk.ticks } else x) } w.image w.tier

/-- The oldest write-back of a session is done (R246). -/
def State.dropWb (s : State) (p sess : Nat) : State :=
  match s.wbs.findIdx? (fun w => w.isOf p sess) with
  | some i => State.kickWb { s with wbs := s.wbs.eraseIdx i } p sess
  | none => s

/-- The update that a park in flight has missed is written by a later write-back (R249). -/
def State.laterWb (s : State) (k : Transfer) (e : Entry) : State :=
  if k.image.ckptSeq == e.ckptSeq || s.wbs.any (fun w => w.isOf e.pitch e.session && w.image.ckptSeq == e.ckptSeq) then s
  else s.issueWb e k.tier (s.epoch e.pitch)

def State.dropPark (s : State) (p sess : Nat) : State := { s with parks := s.parks.filter (fun k => !k.isOf p sess) }

/-- PARK_COMPLETE (R234, R237, R238, R249, R351). An entry wanted again, or updated since, stays, and the park counts as a
write-back. -/
def parkCompleteStep (p sess : Nat) (bucket mbucket : ReadData) (s : State) : State :=
  match s.parks.find? (fun k => k.isOf p sess), s.entry? p sess with
  | some k, some e =>
    let needed := s.busy p sess || k.image.ckptSeq != e.ckptSeq
    let s : State := s.dropPark p sess
    if !s.maySeal k.image k.tier false then (if needed then s else s.freeEntry p sess) else
    let (s, how) := s.storeBoth k.image k.tier k.keyver (if needed then 2 else 1) (bucketFor k.failed bucket)
      (bucketFor k.mfailed mbucket)
    (match how with
    | .full => if needed then s else s.freeEntry p sess
    | .failed => s
    | .done =>
      if needed then ((s.bump .ldgWbCount).noteParked k.image k.tier).laterWb k.toTransfer e
      else
        let s : State := ((s.freeEntry p sess).bump .ldgParksCount).noteParked k.image k.tier
        if k.tier == 3 then s.moveParked p sess e.ckptSeq else s)
  | _, _ => s.dropPark p sess

/-- WRITE_BACK_COMPLETE (R246, R249, R351): the way's CKPT_SEQ is updated. -/
def writeBackStep (p sess : Nat) (bucket mbucket : ReadData) (s : State) : State :=
  match s.wbs.find? (fun w => w.isOf p sess) with
  | none => s
  | some w =>
    if !s.maySeal w.image w.tier false || (s.entry? p sess).isNone then s.dropWb p sess else
    let (s, how) := s.storeBoth w.image w.tier (s.rd .glbKeyCfgKeyver p) 2 (bucketFor w.failed bucket) (bucketFor w.mfailed mbucket)
    let s : State := if how == .done then (s.bump .ldgWbCount).noteParked w.image w.tier else s
    s.dropWb p sess

/-! ### Pools that fail a transfer (R249) -/

/-- The areas of a transfer that lie in a pool and have not failed it before: the named one, the mirror area. -/
def State.jobHit (s : State) (pool : Nat) (x : Transfer) : Bool × Bool :=
  (x.tier == 3 && !x.failed && s.areaPool x.pitch false == pool,
   s.mirrors x.image && !x.mfailed && s.areaPool x.pitch true == pool)

/-- A pool fails a transfer: POOL_FAIL, and what is left of it to write, if anything. -/
def State.jobFail (s : State) (pool : Nat) (x : Transfer) : State × Option Transfer :=
  let h := s.jobHit pool x
  let s : State := if h.1 then s.poolFail x.pitch x.tier false else s
  let s : State := if h.2 then s.poolFail x.pitch x.tier true else s
  let x' := { x with failed := x.failed || h.1, mfailed := x.mfailed || h.2 }
  (s, if x'.failed && (x'.mfailed || !s.mirrors x'.image) then none else some x')

/-- A pool fails the parks and write-backs that it holds up. -/
def State.failJobs (s : State) (pool : Nat) (late : Transfer → Bool) : State :=
  let hit (s : State) (x : Transfer) : Bool := late x && ((s.jobHit pool x).1 || (s.jobHit pool x).2)
  let s : State := s.parks.foldl (fun (a : State) (k : Park) =>
    if !hit a k.toTransfer then { a with parks := a.parks ++ [k] } else
    match a.jobFail pool k.toTransfer with
    | (b, some x) => { b with parks := b.parks ++ [{ k with toTransfer := x }] }
    | (b, none) => b) { s with parks := [] }
  let out := s.wbs.foldl (fun (a : State × List (Nat × Nat)) (w : WriteBack) =>
    if !(w.started && hit a.1 w.toTransfer) then ({ a.1 with wbs := a.1.wbs ++ [w] }, a.2) else
    match a.1.jobFail pool w.toTransfer with
    | (b, some x) => ({ b with wbs := b.wbs ++ [{ w with toTransfer := x }] }, a.2)
    | (b, none) => (b, a.2 ++ [(w.pitch, w.session)])) ({ s with wbs := [] }, [])
  out.2.foldl (fun (a : State) x => a.kickWb x.1 x.2) out.1

/-! ### Revives -/

/-- A revive's request slot is given back. -/
def State.dropRevive (s : State) (p sess : Nat) : State :=
  { s with revives := s.revives.filter (fun r => !(r.pitch == p && r.session == sess)) }

/-- Requests of a session that wait for its entry. -/
def State.waitersOf (s : State) (p sess : Nat) : List Req :=
  s.reqs.filter (fun r => r.pitch == p && r.session == sess && r.wantEntry)

/-- Every waiting request of a session ends with an error. -/
def State.failWaiters (s : State) (p sess : Nat) (e : EndErr) : State :=
  (s.waitersOf p sess).foldl (fun a r => a.failReq r e) s

/-- An entry becomes resident; waiting requests read its features (R233, R242). -/
def State.install (s : State) (e : Entry) (prefetch : Bool) : State :=
  let until_ := s.clk.ticks + usTicks (s.rd .ldgPitPfHoldUsec e.pitch)
  let e := s.pinStep { e with pfHold := if prefetch then some until_ else none }
  let s : State := { s.dropRevive e.pitch e.session with entries := s.entries ++ [e] }
  let s : State := s.updPit e.pitch (fun x => { x with pinSeq := x.pinSeq + 1 })
  let s : State := { s with streams := s.streams.map (fun x =>
      if x.pitch == e.pitch && x.session == e.session && !x.opened then { x with summary := e.summary } else x) }
  { s with reqs := s.reqs.map (fun r =>
      if r.pitch == e.pitch && r.session == e.session && r.wantEntry then { r with wantEntry := false, feats := e.feats }
      else r) }

/-- A new entry of a session (R242 step 2). -/
def newEntry (p sess : Nat) : Entry := { pitch := p, session := sess }

/-! ### Pushed summaries at the owner (R246, R289, R292) -/

/-- The summary written to the resident entry, its CKPT_SEQ raised (R25, R231). -/
def State.writeSummary (s : State) (p sess : Nat) (b : List Byte) : State :=
  s.updEntry p sess (fun e => { e with summary := b, ckptSeq := (e.ckptSeq + 1) % 2 ^ 32 })

def State.dropPush (s : State) (x : PushBuf) : State := { s with fab := { s.fab with pushes := s.fab.pushes.filter (· != x) } }

/-- PUSH_ACK; any STATUS but 0 writes PUSH_REFUSED. -/
def State.answerPush (s : State) (p sess tag src status : Nat) : State :=
  let s : State := s.sendFrame { kind := 0x22, dkind := 0, dst := src, pitch := p, session := sess
                                 arg := leBytes 3 tag ++ [byteOf status] ++ leBytes 4 (s.ownEpoch p sess) }
  if status == 0 then s else s.day 0x4302 p (sess % 2 ^ 32) src status

/-- The summary is written and acknowledged; the header counts as the session's record, its hits as 0; the session has an
ownership record from then on (R246). -/
def State.acceptPush (s : State) (x : PushBuf) (h : List Byte) : State :=
  let taps := (List.range (getLe h 3 1)).flatMap (fun i => ((x.taps.find? (·.1 == i)).map (·.2)).getD [])
  let b := h ++ taps
  let s : State := s.writeSummary x.pitch x.session (b ++ List.replicate (ceilDiv b.length 64 * 64 - b.length) 0#8)
  let vals : RecVals := { code := some (getLe h 2 1), inScore := some (BitVec.ofNat 32 (getLe h 4 4))
                          inTokens := some (getLe h 8 4), inHits := some 0 }
  let s : State := s.noteRecord x.pitch x.session (s.epoch x.pitch) 0#512 false vals
  let me := s.rd .fabIdDevice
  let s : State := s.writeRecord x.pitch x.session me (s.ownEpoch x.pitch x.session) me
    (((s.entry? x.pitch x.session).bind (·.copyIn 3) |>.map (·.seq)).getD 0)
  (s.dropPush x).answerPush x.pitch x.session x.tag x.src 0

/-- Pushes whose header has come are taken once their session's entry is resident. -/
def State.settlePushes (s : State) (p sess : Nat) : State :=
  if (s.entry? p sess).isNone then s else
  (s.fab.pushes.filter (fun x => x.pitch == p && x.session == sess)).foldl (fun (a : State) x =>
    match x.head with
    | some h => a.acceptPush x h
    | none => a) s

/-- The revive a push waits for has failed (REVIVE_FAIL). -/
def State.failPushes (s : State) (p sess : Nat) : State :=
  let mine (x : PushBuf) : Bool := x.pitch == p && x.session == sess
  let s' : State := (s.fab.pushes.filter (fun x => mine x && x.head.isSome)).foldl (fun (a : State) x =>
    (a.dropPush x).answerPush p sess x.tag x.src 2) s
  { s' with fab := { s'.fab with pushes := s'.fab.pushes.map (fun x => if mine x then { x with failed := true } else x) } }

/-- Lost state (R243, R248): waiting requests end, LEDGER_STATE_LOST, a cold entry; a prefetch leaves the mark LOST. -/
def State.stateLost (s : State) (r : Revive) (tier ckpt : Nat) : State :=
  let waiting := !(s.waitersOf r.pitch r.session).isEmpty
  let s : State := s.failPushes r.pitch r.session
  let s : State := s.failWaiters r.pitch r.session ⟨0x44, 0, tier⟩
  let s : State := (s.bump .ldgLostCount).day 0x5401 r.pitch (r.session % 2 ^ 32) tier ckpt
  s.install { newEntry r.pitch r.session with cold := true, lost := !waiting, lostTier := if waiting then 0 else tier } false

/-- A copy that fails R240 with no mirror left: E_KEY, LEDGER_AUTH_FAIL, quarantine (R240, R243). -/
def State.authFailed (s : State) (r : Revive) (ckpt : Nat) : State :=
  let s : State := (s.dropRevive r.pitch r.session).failPushes r.pitch r.session
  let s : State := s.failWaiters r.pitch r.session ⟨0x48, r.tier, 0⟩
  let s : State := (s.bump .ldgAuthfailCount).day 0x3102 r.pitch (r.session % 2 ^ 32) r.tier ckpt
  let s : State := s.quarantineAuto r.pitch r.session
  s.updPit r.pitch (fun x => { x with pfQueue := x.pfQueue.filter (· != r.session) })

/-! Areas a revive reads: this pitch's, or another block's T3 area (R242, R246) -/

def State.revBase (s : State) (r : Revive) : Nat :=
  match r.holder with
  | some h => (Config.holderArea r.pitch h).1
  | none => s.areaBase r.pitch r.tier r.mirror

def State.revPool (s : State) (r : Revive) : Nat :=
  match r.holder with
  | some h => (Config.holderArea r.pitch h).2.1 % 256
  | none => s.areaPool r.pitch r.mirror

def State.revLog (s : State) (r : Revive) : Nat :=
  match r.holder with
  | some h => (Config.holderArea r.pitch h).2.2 % 25
  | none => s.areaLog r.pitch r.tier r.mirror

def State.revRead (s : State) (r : Revive) (off len : Nat) : State :=
  if r.tier == 2 && !r.mirror then s.emit (.t2Read r.pitch (s.revBase r + off) len)
  else s.poolRead r.pitch r.session (s.revPool r) (s.revBase r + off) len

def State.revSlot (s : State) (r : Revive) (w : Nat) : Nat :=
  128 * 2 ^ s.revLog r + (8 * bucketOf r.session (s.revLog r) + w) * (s.entrySize r.pitch + 64)

/-- A revive takes up another stage. -/
def State.setRevive (s : State) (r : Revive) : State :=
  { s with revives := s.revives.map (fun (x : Revive) => if x.pitch == r.pitch && x.session == r.session then r else x) }

/-- A revive goes on with another copy: its bucket is read there. -/
def State.reviveNext (s : State) (r : Revive) (tier : Nat) (mirror : Bool) : State :=
  let r' : Revive := { r with tier, mirror, pool := s.areaPool r.pitch mirror, since := s.clk.ticks }
  (s.setRevive r').revRead r' (128 * bucketOf r.session (s.revLog r')) 128

/-- A revive goes on with the ownership directory. -/
def State.reviveDir (s : State) (r : Revive) (d : Nat × Nat × Nat) : State :=
  (s.setRevive { r with tier := 4, pool := d.2.1, since := s.clk.ticks }).poolRead r.pitch r.session d.2.1 (dirBucket d r.session) 128

/-- A revive goes on with the T3 area of another block. -/
def State.reviveHolder (s : State) (r : Revive) (x : OwnRec) : State :=
  let r1 : Revive := { r with tier := 3, holder := some x.holder, recCkpt := x.ckpt, since := s.clk.ticks }
  let r' : Revive := { r1 with pool := s.revPool r1 }
  (s.setRevive r').revRead r' (128 * bucketOf r.session (s.revLog r')) 128

/-- The mirror area may be read in place of the first copy (R241). -/
def State.mirrorUsable (s : State) (r : Revive) : Bool :=
  !r.mirror && r.holder.isNone && s.rd .ldgPitMrCfgLog2b r.pitch != 0 && !s.mirrorBad r.pitch

/-- The pool or memory a revive reads a directory from has failed (R241, R243, R248). -/
def State.reviveLost (s : State) (r : Revive) : State :=
  let tier := min r.tier 3
  if s.mirrorUsable r then s.reviveNext r tier true else s.stateLost r tier r.wayCkpt

/-- No directory names the session (R242): a prefetch has found nothing; a request, or a push, gets a new entry, one that has
joined a prefetch's revive too (R249). -/
def State.reviveNone (s : State) (r : Revive) : State :=
  let wanted := !r.prefetch || s.busy r.pitch r.session
    || s.fab.pushes.any (fun x => x.pitch == r.pitch && x.session == r.session)
  let s : State := if r.prefetch then s.bump .ldgPitPfMissCount r.pitch else s
  if wanted then s.install (newEntry r.pitch r.session) false else s.dropRevive r.pitch r.session

/-- No way of the present area holds the session: the next area, or none is left (R242 step 1). -/
def State.reviveAbsent (s : State) (r : Revive) : State :=
  if r.mirror then s.stateLost r r.tier r.wayCkpt
  else if r.holder.isSome then s.stateLost r r.tier r.recCkpt
  else if r.tier == 2 && s.hasArea r.pitch 3 then s.reviveNext r 3 false
  else match s.dir? r.pitch with
    | some d => s.reviveDir r d
    | none => s.reviveNone r

/-- The directory ways an entry is known to hold are written. -/
def State.writeWays (s : State) (e : Entry) (f : Copy → Way) : State :=
  e.copies.foldl (fun (a : State) c => a.writeWay e.pitch c.area (c.area == 4) c.way (f c)) s

/-- The losing block of an ownership conflict (R247). -/
def State.loseSession (s : State) (p sess winner epoch : Nat) : State :=
  let s : State := match s.entry? p sess with
    | some e => (s.writeWays e (fun _ => ⟨sess, 0, false, false, 0, 0⟩)).freeEntry p sess
    | none => s
  let s : State := (s.reqs.filter (fun r => r.pitch == p && r.session == sess)).foldl
    (fun (a : State) r => a.failReq r ⟨0x45, winner, epoch⟩) s
  let mine (a b : Nat) : Bool := a == p && b == sess
  let s : State := { (s.dropStream p sess).dropRevive p sess with
    dups := s.dups.filter (fun r => !mine r.pitch r.session)
    parks := s.parks.filter (fun k => !mine k.pitch k.session), wbs := s.wbs.filter (fun k => !mine k.pitch k.session)
    fab := { s.fab with conflicts := s.fab.conflicts.filter (fun c => !mine c.pitch c.session)
                        moves := s.fab.moves.filter (fun c => !mine c.pitch c.session) } }
  (s.putExc p sess winner epoch).day 0x4101 p (sess % 2 ^ 32) (winner + sess / 2 ^ 32 * 2 ^ 24) epoch

/-- The ownership directory's bucket has come to a revive (R246, R291). -/
def State.reviveRecord (s : State) (r : Revive) (b : List Byte) : State :=
  match ownRecOf b r.session with
  | none => s.reviveNone r
  | some x =>
    let me := s.rd .fabIdDevice
    if x.owner != me && s.ownEpoch r.pitch r.session < x.epoch then
      (s.bump .fabConflictsCount).loseSession r.pitch r.session x.owner x.epoch
    else if x.holder == me then s.stateLost r 3 x.ckpt
    else s.reviveHolder r x

/-- A revived entry whose stream was open on a chain that no longer holds it is cut (R245). -/
def Entry.cutOpen (e : Entry) : Entry :=
  if e.isOpen then { e with isOpen := false, cut := true, endKind := 0, back := [], held := [] } else e

/-- The plain entry of a slot read, when every check of R240 passes. -/
def State.openCopy (s : State) (r : Revive) (w : Way) (b : List Byte) : Option Entry :=
  let size := s.rd .ldgPitCfgSize r.pitch
  let kv := getLe b 9 1
  let kmin := s.rd .glbKeyCfgKeyverMin r.pitch
  let kmax := s.rd .glbKeyCfgKeyver r.pitch
  if kv < kmin || kmax < kv then none else
  match gcmOpen (ledgerKey (s.secretOf r.pitch) r.pitch kv) ((b.drop 20).take 12) (b.take 32 ++ (b.drop 48).take 16)
      (b.drop 64) ((b.drop 32).take 16) with
  | none => none
  | some pt =>
    if getLe b 3 1 == r.pitch && getLe b 4 5 == r.session && getLe b 2 1 == size && getLe b 12 4 == w.ckpt
      then some { entryOf pt size with pitch := r.pitch, session := r.session } else none

/-- A copy authenticated: the way is written OUT, but for one in another block's area, which this block only reads (R236), and
the entry becomes resident (R242 steps 5 and 6, R244, R245). -/
def State.revived (s : State) (r : Revive) (w : Nat) (x : Way) (e : Entry) : State :=
  let e := e.cutOpen
  let own := r.holder.isNone
  let e := { e with wt := s.wtOf r.pitch e.hint, copies := if own then [⟨areaOf r.tier r.mirror, w, x.ckpt⟩] else []
                    ownEpoch := if s.rd .fabPitCfgDomainEn r.pitch == 1 then s.ownEpoch r.pitch r.session else e.ownEpoch }
  let s : State := if own then s.writeWay r.pitch r.tier r.mirror w { x with state := 2, wt := e.wt } else s
  let s : State := if r.mirror then s.day 0x1502 r.pitch (r.session % 2 ^ 32) r.tier (s.areaPool r.pitch true) else s
  let s : State := if x.state == 2 then s.day 0x5403 r.pitch (r.session % 2 ^ 32) r.tier x.ckpt else s
  (s.install e r.prefetch).bump .ldgRevivesCount

/-- The directory way found for a revive: OUT with no copy is lost; otherwise the slot is opened (R242 to R244). -/
def State.reviveWay (s : State) (r : Revive) (w : Nat) (x : Way) (slot : ReadData) : State :=
  if (x.state == 2 && !x.wt) || (r.holder.isSome && x.ckpt < r.recCkpt) then s.stateLost r r.tier x.ckpt else
  let s : State := s.revRead r (s.revSlot r w) (s.entrySize r.pitch + 64)
  let r : Revive := { r with wayCkpt := x.ckpt }
  let again := x.mirror && s.mirrorUsable r
  match slot with
  | .error => if again then s.reviveNext r r.tier true else s.stateLost r r.tier x.ckpt
  | .ok b =>
    match s.openCopy r x b with
    | some e => s.revived r w x e
    | none => if again then (s.bump .ldgAuthfailCount).reviveNext r r.tier true else s.authFailed r x.ckpt

/-- What the revive read has come. -/
def State.reviveGot (s : State) (r : Revive) (bucket slot : ReadData) : State :=
  if r.tier == 0 then s.reviveNone r
  else match bucket with
    | .error => s.reviveLost r
    | .ok b =>
      if r.tier == 4 then s.reviveRecord r b
      else match wayOf b r.session with
        | none => s.reviveAbsent r
        | some w => s.reviveWay r w (wayAt b w) slot

/-- REVIVE_COMPLETE (R242 to R248). -/
def reviveStep (p sess : Nat) (bucket slot : ReadData) (s : State) : State :=
  match s.revives.find? (fun r => r.pitch == p && r.session == sess) with
  | none => s
  | some r => (s.reviveGot r bucket slot).settlePushes p sess

/-- POOL_TIMEOUT toward the ledger (R241, R248, R249): every transfer of the pool that has waited LDG_CFG.POOL_TMO counts as
failed. -/
def ledgerTimeoutStep (pool : Nat) (s : State) : State :=
  let late (r : Revive) : Bool := (3 ≤ r.tier || r.mirror) && r.pool == pool
    && r.since + s.rd .ldgCfgPoolTmo ≤ s.clk.ticks
  let s : State := (s.revives.filter late).foldl (fun a r => a.reviveLost r) s
  let s : State := s.failJobs pool (fun x => x.since + s.rd .ldgCfgPoolTmo ≤ s.clk.ticks)
  let old (x : DirOp) : Bool := ((s.dir? x.pitch).map (·.2.1)) == some pool && x.since + s.rd .ldgCfgPoolTmo ≤ s.clk.ticks
  let s' : State := (s.fab.dirOps.filter old).foldl (fun (a : State) x => (a.wr .ldgStatusPoolFail 0 1).day 0x1501 x.pitch 3 pool) s
  { s' with fab := { s'.fab with dirOps := s'.fab.dirOps.filter (fun x => !old x) } }

/-! ### Prefetches -/

/-- A prefetch queued (R242, R403): the high word written, with the accessor's last low word. -/
def State.queuePrefetch (s : State) (acc : Accessor) (p w : Nat) : State :=
  let lo := (((s.pit p).pfLo.find? (·.1 == acc.toNat)).map (·.2)).getD 0
  let sess := lo + 2 ^ 32 * bits w 0 8
  if 64 ≤ (s.pit p).pfQueue.length then s.wr .ldgPitStatusPfOvf p 1
  else s.updPit p (fun x => { x with pfQueue := x.pfQueue ++ [sess] })

/-- PREFETCH_REQUEST. -/
def prefetchStep (acc : Accessor) (p : Nat) (w : Word) (s : State) : State :=
  match s.gate acc .ldgPitPfHiSession p with
  | .inl t => t
  | .inr t => t.queuePrefetch acc p w.toNat

/-- PREFETCH_START (R242): nothing is revived for a session that another block owns, or that is being moved (R246). -/
def prefetchStartStep (p : Nat) (s : State) : State :=
  match (s.pit p).pfQueue with
  | [] => s
  | sess :: rest =>
    let t := s.updPit p (fun x => { x with pfQueue := rest })
    if (s.entry? p sess).isSome || s.reviving p sess || (s.otherOwner p sess).isSome || s.ownDeferred p sess 0 then t
    else if s.reviveFree p then t.startRevive p sess true false
    else s

/-- PREFETCH_HOLD_EXPIRY (R234, R242). -/
def holdExpiryStep (p sess : Nat) (s : State) : State :=
  match s.entry? p sess with
  | none => s
  | some e =>
    match e.pfHold with
    | none => s
    | some t =>
      if t ≤ s.clk.ticks then (s.updEntry p sess (fun x => { x with pfHold := none })).parkByHint p sess else s

/-- GRANULE_ZEROED (R308): one freed granule is zeroed and counts as free. -/
def granuleStep (s : State) : State := { s with tier := { s.tier with zeroing := s.tier.zeroing - 1 } }

def execPrefetchRequest (acc : Accessor) (pitch : Fin 64) (value : Word) (s : State) : Result :=
  .next (prefetchStep acc pitch value s)

def execPrefetchStart (pitch : Fin 64) (s : State) : Result := .next (s.whileUp (prefetchStartStep pitch))

def execPrefetchHoldExpiry (pitch : Fin 64) (session : Session) (s : State) : Result :=
  .next (s.whileUp (holdExpiryStep pitch session.toNat))

def execParkStart (pitch : Fin 64) (session : Session) (s : State) : Result := .next (s.whileUp (parkStartStep pitch session.toNat))

def execEviction (s : State) : Result := .next (s.whileUp evictStep)

def execParkComplete (pitch : Fin 64) (session : Session) (bucket mirrorBucket : ReadData) (s : State) : Result :=
  .next (parkCompleteStep pitch session.toNat (fitRead 128 bucket) (fitRead 128 mirrorBucket) s)

def execGranuleZeroed (s : State) : Result := .next (s.whileUp granuleStep)

end Sys2Proof.Machine
end

