-- ==== Sys2Proof/Machine/Models.lean ====
section
/-! DEFINITION. The screening models at work: a layer over the engine and the porters, the intake encoder's windows and pooling
(R180, R185, R190, R192), a stream model's tokens (R193, R194, R198), and the Assize's student and reference passes (R218). -/

namespace Sys2Proof.Machine

/-! ### A layer -/

/-- Tile columns of a layer, in order. -/
def ModelObj.columns (m : ModelObj) (l : Nat) : List (List Tile) :=
  let n := (m.tiles.filter (fun t => t.layer == l)).foldl (fun a t => max a (t.tcol + 1)) 0
  (List.range n).map (m.column l)

/-- Group-size code of the layer that consumes layer `l`'s output: the next layer's, or its own. -/
def ModelObj.consumer (m : ModelObj) (l : Nat) : Nat :=
  match m.tiles.find? (fun t => t.layer == l + 1) with
  | some t => t.gsize
  | none => ((m.tiles.find? (fun t => t.layer == l)).map (·.gsize)).getD 0

/-- The constant marker of a produced group in a generation (R217). -/
def Gen.marker (g : Gen) (m : ModelObj) (l j : Nat) : Option Nat :=
  (g.consts.find? (fun c => c.1 == m.pitch && c.2.1 == m.model && c.2.2.1 == l && c.2.2.2.1 == j)).map (·.2.2.2.2)

/-- Output elements of a layer's tile columns, in order: tile column, column, and the column's FINAL tile. -/
def outElems (cols : List (List Tile)) : List (Nat × Nat × Tile) :=
  (List.range cols.length).flatMap (fun j =>
    match (cols.getD j []).find? (·.final) with
    | none => []
    | some f => (List.range f.nValid).map (fun n => (j, n, f)))

/-- The code a porter's tail leaves in an output element of a tile column: the engine's own, or its value requantised by
requant() (R173), or converted by R157 for a floating OFMT. -/
def porterCode (f : Tile) (code : Nat) (el : Config.PorterEl) : Nat :=
  match el, floatFmt f.ofmt with
  | .keep, _ => code
  | .value m _ mo sh, none => codeOfInt f.ofmt (requant m ⟨mo, sh, 0, 0⟩ f.ofmt f.zout).1
  | .value m e _ _, some ff => ff.roundDy ⟨m, e⟩
  | .nan, none => code
  | .nan, some ff => ff.nanCode

/-- A layer's output row after its porter's tail: the codes are the porter's, the group words stay as R166 has them. -/
def porterRow (cols : List (List Tile)) (row : ActRow) (els : List Config.PorterEl) : ActRow :=
  { row with codes := ((outElems cols).zip row.codes).zipIdx.map (fun x => porterCode x.1.1.2.2 x.1.2 (els.getD x.2 .keep)) }

/-- The input row of a token (R180, R193). -/
def ModelObj.embedRow (fw : List Byte) (m : ModelObj) (tok : Nat) : ActRow :=
  let e := Config.embed fw m.layers tok
  ⟨e.1, e.2⟩

/-! ### Live counts (R210) -/

/-- The signed value of an output code of a column, for the used span (R210). -/
def spanStep (tcol : Nat) (v : Int) (xs : List (Nat × Int × Int)) : List (Nat × Int × Int) :=
  if xs.any (·.1 == tcol) then xs.map (fun x => if x.1 == tcol then (tcol, min x.2.1 v, max x.2.2 v) else x)
  else xs ++ [(tcol, v, v)]

/-- Counts of a slot taken together. -/
def SlotCount.add (c x : SlotCount) : SlotCount :=
  { nOut := c.nOut + x.nOut, nClip := c.nClip + x.nClip, nSat := c.nSat + x.nSat
    spans := x.spans.foldl (fun y z => spanStep z.1 z.2.2 (spanStep z.1 z.2.1 y)) c.spans }

/-- What one row of a layer adds to its slot's counts, groups under the marker left out (R210). -/
def liveCounts (cols : List (List Tile)) (gsize : Nat) (konst : Nat → Option Nat) (row : ActRow) : SlotCount :=
  (List.range cols.length).foldl (fun (c : SlotCount) j =>
    match (cols.getD j []).find? (·.final) with
    | none => c
    | some f =>
      let ns := (List.range f.nValid).filter (fun n => (konst ((64 * j + n) / groupSize gsize)).isNone)
      let r := columnsRun (cols.getD j []) row ns
      let spans := if isIntFmt f.ofmt then r.1.foldl (fun a v => spanStep j (intOfCode f.ofmt v) a) c.spans else c.spans
      { nOut := c.nOut + ns.length, nClip := c.nClip + r.2.osat + r.2.clip, nSat := c.nSat + r.2.qsat, spans }) {}

/-- Counts of a layer added to those by layer. -/
def addTally (ts : List (Nat × SlotCount)) (l : Nat) (x : SlotCount) : List (Nat × SlotCount) :=
  if ts.any (·.1 == l) then ts.map (fun t => if t.1 == l then (l, t.2.add x) else t) else ts ++ [(l, x)]

/-! ### The intake encoder (R180, R185, R190, R192) -/

/-- What an encoder has gathered: rows of the present layer, outputs by layer, counts, and counts by layer. -/
structure EncAcc where
  rows : List ActRow
  outs : List (List ActRow) := []
  cnt : MxeCount := {}
  tally : List (Nat × SlotCount) := []
  deriving DecidableEq, Repr

/-- One layer over a window: the engine on every row, then the porter's tail over the window (R180, R183). -/
def layerStep (g : Gen) (m : ModelObj) (a : EncAcc) (l : Nat) : EncAcc :=
  let cols := m.columns l
  let gs := m.consumer l
  let konst := g.marker m l
  let r := a.rows.map (layerRow cols gs konst)
  let els := Config.porterTail g.fw m.layers l (r.map (fun x => (x.1.codes, x.1.words)))
  let outs := r.zipIdx.map (fun x => porterRow cols x.1.1 (els.getD x.2 []))
  { rows := outs, outs := a.outs ++ [outs], cnt := (r.map (·.2)).foldl MxeCount.add a.cnt
    tally := a.rows.foldl (fun t row => addTally t l (liveCounts cols gs konst row)) a.tally }

/-- Every layer of a model over one window. -/
def runWindow (g : Gen) (m : ModelObj) (rows : List ActRow) : EncAcc :=
  (List.range m.nlayer).foldl (layerStep g m) { rows }

/-- First tokens of the windows of `n` encoded tokens (R185). -/
def windowStarts (n : Nat) : List Nat :=
  (List.range (n / 224 + 1)).filterMap (fun w =>
    if (w == 0 && 1 ≤ n) || (1 ≤ w && 224 * w + 32 < n) then some (224 * w) else none)

/-- The value of element `i` of a layer's output row (R165, R190): ASCALE × (a − ZOUT), or the constant of its group; an element
of a floating OFMT stands for itself. -/
def elemVal (m : ModelObj) (l : Nat) (row : ActRow) (i : Nat) : FVal :=
  let fmt := ((m.column l (i / 64)).find? (·.final) |>.map (·.ofmt)).getD 3
  let a := row.codes.getD i 0
  match floatFmt fmt with
  | some f => f.decode a
  | none =>
    let word := row.words.getD (i / groupSize (m.consumer l)) 0
    let sc := word % 65536
    if sc == 0 then bf16Val (word / 65536)
    else (bf16Val sc).mul (let v := intOfCode fmt a - signedOf 16 (word / 65536)
                           .fin (v < 0) ⟨v, 0⟩)

/-- Mean of a channel over rows: exact sum, times 1/n, one rounding (R190). -/
def meanVal (vs : List FVal) : FVal :=
  match vs with
  | [] => .nan
  | v :: rest => (rest.foldl FVal.add v).mul (f32Val (f32Recip vs.length))

/-- Maximum of a channel over rows (R190). -/
def maxF32 (vs : List F32) : F32 :=
  if vs.any f32IsNaN then Config.nanMax vs
  else vs.foldl (fun m v => if f32Lt m v then v else m) (vs.headD f32NaN)

/-- Pooled vector and taps of the rows pooled, by layer (R190, R192). -/
def poolRows (m : ModelObj) (byLayer : Nat → List ActRow) (n t : Nat) : List F32 × List (List Nat) :=
  let last := m.nlayer - 1
  let col (l j : Nat) : List FVal := (byLayer l).map (fun r => elemVal m l r j)
  let means := (List.range m.poolD).map (fun j => f32Enc (meanVal (col last j)))
  let maxs := (List.range m.poolD).map (fun j => maxF32 ((col last j).map f32Enc))
  let taps := (List.range m.ntap).map (fun i =>
    (List.range m.tapW).map (fun j => fmtBF16.encode (meanVal (col (Config.tapLayer m.layers i) j))))
  (means ++ maxs ++ [f32OfInt n, f32OfInt ((t : Int) - n)], taps)

/-- The encoder over a request's input rows: `n` of `t` tokens or rows are encoded (R185 to R192). -/
def encode (g : Gen) (m : ModelObj) (rows : List ActRow) (n t : Nat) : EncRes × List (Nat × SlotCount) :=
  let wins := (windowStarts n).map (fun b => (b, runWindow g m ((rows.take n).drop b |>.take 256)))
  let byLayer (l : Nat) : List ActRow := wins.flatMap (fun w => (w.2.outs.getD l []).drop (if w.1 == 0 then 0 else 32))
  let pool := poolRows m byLayer n t
  let tally := wins.foldl (fun a w => w.2.tally.foldl (fun b x => addTally b x.1 x.2) a) []
  ({ pooled := pool.1, taps := pool.2, encoded := n, tokens := t
     rows := (wins.map (fun w => (w.2.outs.map (·.length)).sum)).sum
     count := wins.foldl (fun a w => a.add w.2.cnt) {} }, tally)

/-- Tiles of the layers named. -/
def ModelObj.tilesIn (m : ModelObj) (ls : List Nat) : Nat := (m.tiles.filter (fun t => ls.contains t.layer)).length

/-! ### The stream model (R193, R194, R198) -/

/-- The taps of a summary that are not zero: tap, channel and BF16 value of each (Table 8-4). A session without a summary has
zero taps (R194). -/
def summaryTaps (b : List Byte) : List Nat :=
  let w := getLe b 20 2
  (List.range (bits (getLe b 3 1) 0 4)).flatMap (fun i => (List.range w).flatMap (fun j =>
    let v := getLe b (64 + 2 * (i * w + j)) 2
    if v == 0 then [] else [i, j, v]))

/-- What one token of a stream leaves: state slices, the present row, and the engine's counts and the live counts by layer. -/
structure TokAcc where
  state : List Byte
  row : ActRow := ⟨[], []⟩
  counts : List (Nat × MxeCount) := []
  tally : List (Nat × SlotCount) := []
  deriving DecidableEq, Repr

/-- One layer of a stream model on a token's row. -/
def streamLayer (g : Gen) (m : ModelObj) (a : TokAcc) (l : Nat) : TokAcc :=
  let cols := m.columns l
  let gs := m.consumer l
  let konst := g.marker m l
  let r := layerRow cols gs konst a.row
  let t := Config.streamTail g.fw m.layers l a.state r.1.codes r.1.words
  { state := t.1, row := porterRow cols r.1 t.2, counts := a.counts ++ [(l, r.2)]
    tally := addTally a.tally l (liveCounts cols gs konst a.row) }

/-- The state slices a stream opens with (R194): from the taps of the summary, through the open layers. -/
def ModelObj.openState (fw : List Byte) (m : ModelObj) (taps : List Nat) : List Byte :=
  let b := Config.streamOpen fw m.layers taps m.stateLen
  b.take m.stateLen ++ List.replicate (m.stateLen - b.length) 0#8

/-- One token through every layer. -/
def streamTok (g : Gen) (m : ModelObj) (state : List Byte) (tok : Nat) : TokAcc :=
  let a := (List.range m.nlayer).foldl (streamLayer g m) { state, row := m.embedRow g.fw tok }
  { a with state := a.state.take m.stateLen ++ List.replicate (m.stateLen - a.state.length) 0#8 }

/-- A stream's tokens from its opening on, each with what it leaves. -/
def streamRun (g : Gen) (m : ModelObj) (taps toks : List Nat) : List TokAcc :=
  (toks.foldl (fun (a : List Byte × List TokAcc) t =>
    let x := streamTok g m a.1 t
    (x.state, a.2 ++ [x])) (m.openState g.fw taps, [])).2

/-- The state slices after a stream's tokens. -/
def streamStateAfter (g : Gen) (m : ModelObj) (taps toks : List Nat) : List Byte :=
  ((streamRun g m taps toks).getLast?.map (·.state)).getD (m.openState g.fw taps)

/-- The score of a token: the model's head on the last layer's row, any NaN canonical (R157, R198). -/
def tokScore (fw : List Byte) (m : ModelObj) (a : TokAcc) : F32 :=
  let x := Config.streamHead fw m.layers a.row.codes a.row.words
  if f32IsNaN x then f32NaN else x

/-! ### Bench passes (R199, R218) -/

/-- One output element of a calibrated layer in a batch (R218): tile column and column, the student's pre-requantisation value
y and dequantised output, none for a NaN, and the reference output. -/
structure BenchEl where
  tcol : Nat
  col : Nat
  y : Dy
  hat : Option Dy
  yref : F32
  deriving DecidableEq, Repr

/-- Weight of a tile on the reference pass: the weight times its scale, exact in binary32 (R218). -/
def Tile.refWeight (t : Tile) (k n : Nat) : FVal :=
  let w := t.data.getD (k * 64 + n) 0
  let v : FVal := match floatFmt t.wfmt with
    | some f => f.decode w
    | none => let i := intOfCode t.wfmt w
              .fin (i < 0) ⟨i, 0⟩
  v.mul (bf16Val (t.scales.getD ((k / groupSize t.gsize) * 64 + n) 0))

/-- Column `n` of a tile column on the reference pass: the F32 path of R174 with unit scales, no requantisation. -/
def refColumn (tiles : List Tile) (row : List F32) (n : Nat) : F32 :=
  let acc := tiles.foldl (fun a t => (List.range t.ngroup).foldl (fun a g =>
    f32Add a (f32Enc ((t.groupRows g).foldl (fun d k =>
      d.add ((f32Val (row.getD (t.trow * 128 + k) 0#32)).mul (t.refWeight k n))) (f32Val 0#32)))) a) 0#32
  match tiles.find? (·.final) with
  | none => acc
  | some f =>
    let e := f.out.getD n ⟨0, 0, 0, 0⟩
    let b : F32 := if intPath tiles then f32OfDy ⟨signedOf 64 e.bias, -(f.qfrac : Int)⟩ else .ofNat 32 (e.bias % 2 ^ 32)
    let y := f32Add acc b
    if isIntFmt f.ofmt then y else f32Enc ((f32Val y).mul (bf16Val e.oscale))

/-- One layer of the reference pass on one row. -/
def refLayer (cols : List (List Tile)) (row : List F32) : List F32 :=
  (outElems cols).map (fun x => refColumn (cols.getD x.1 []) row x.2.1)

/-- An input row on the reference pass: what its elements stand for (R165), in F32. -/
def refRow (m : ModelObj) (row : ActRow) : List F32 :=
  let t := m.tiles.find? (fun t => t.layer == 0)
  let fmt := (t.map (·.afmt)).getD 2
  let gs := groupSize ((t.map (·.gsize)).getD 0)
  row.codes.zipIdx.map (fun x =>
    let word := row.words.getD (x.2 / gs) 0
    let sc := word % 65536
    match floatFmt fmt with
    | some f => if sc == 0 then 0#32 else f32Enc ((f.decode x.1).mul (bf16Val sc))
    | none => if sc == 0 then f32OfBf16 (word / 65536)
      else f32Enc ((bf16Val sc).mul (let v := intOfCode fmt x.1 - signedOf 16 (word / 65536)
                                     .fin (v < 0) ⟨v, 0⟩)))

/-- The elements of one row of a layer: the student's row before its porter's tail, beside the reference's. -/
def benchRow (cols : List (List Tile)) (input : ActRow) (ref : List F32) : List BenchEl :=
  (outElems cols).zipIdx.map (fun x =>
    let (j, n, f) := x.1
    let tiles := cols.getD j []
    let y : Option Dy := if intPath tiles then some ⟨(intAcc tiles input n).1, -(f.qfrac : Int)⟩ else (f32Val (fpAcc tiles input n)).dy?
    let code := (columnsRun tiles input [n]).1.headD 0
    { tcol := j, col := n, y := y.getD .zero
      hat := (match floatFmt f.ofmt with
        | some ff => (ff.decode code).dy?
        | none => y.map (fun _ => .zero))
      yref := ref.getD x.2 0#32 })

/-- The student and the reference pass of one sample so far: rows of both, elements by layer, the student's counts by layer and
tile column, and whether a NaN has come up; an infinite output counts as one, DESIGN CHOICE (notes/assumptions/122.md). -/
structure BenchAcc where
  rows : List ActRow
  refs : List (List F32)
  els : List (Nat × BenchEl) := []
  counts : List (Nat × MxeCount) := []
  /-- rows multiplied, by tile column, each counted once per tile -/
  mults : List (Nat × Nat) := []
  nan : Bool := false
  deriving DecidableEq, Repr

/-- One layer of both passes over some rows, the porters' tails given. -/
def benchLayer (g : Gen) (m : ModelObj) (l : Nat) (tail : List (List Nat × List Nat) → List (List Config.PorterEl))
    (refTail : List (List F32) → List (List F32)) (a : BenchAcc) : BenchAcc :=
  let cols := m.columns l
  let r := a.rows.map (layerRow cols (m.consumer l) (g.marker m l))
  let refs := a.refs.map (refLayer cols)
  let els := (a.rows.zip refs).flatMap (fun x => benchRow cols x.1 x.2)
  let t := tail (r.map (fun x => (x.1.codes, x.1.words)))
  let byCol := (List.range cols.length).map (fun j =>
    (j, a.rows.foldl (fun (k : MxeCount) row => match (cols.getD j []).find? (·.final) with
      | some f => k.add (columnsRun (cols.getD j []) row (List.range f.nValid)).2
      | none => k) {}))
  { rows := r.zipIdx.map (fun x => porterRow cols x.1.1 (t.getD x.2 [])), refs := refTail refs
    els := a.els ++ els.map (fun e => (l, e)), counts := a.counts ++ byCol
    mults := a.mults ++ (List.range cols.length).map (fun j => (j, (a.rows.length + a.refs.length) * (cols.getD j []).length))
    nan := a.nan || els.any (fun e => e.hat.isNone || !f32Finite e.yref) }

/-- The rows of a VECTOR sample: the split header, then the first row block's data and scale blocks by pairs (R212). -/
def sampleRows (p : SplitSpec) (input : List Nat) : List ActRow :=
  let b : List Byte := input.map (BitVec.ofNat 8)
  let rows := min 16 (getLe b 4 4)
  let starts := (List.range p.slices).map (fun i =>
    64 + ((List.range i).map (fun k => 32 + p.bodyLen rows k false + p.bodyLen rows k true)).sum)
  (List.range rows).map (fun r =>
    let pieces := (List.range p.slices).map (fun i =>
      let o := starts.getD i 0
      let rb := 16 * fmtBits p.fmt
      let so := o + 16 + p.bodyLen rows i false + 16
      let n := p.groups i
      (unpack p.fmt ((b.drop (o + 16 + r * rb)).take rb), (List.range n).map (fun j => getLe b (so + 4 * (r * n + j)) 4)))
    ⟨pieces.flatMap (·.1), pieces.flatMap (·.2)⟩)

/-- What a VECTOR model's first layer expects of a payload (R167). -/
def ModelObj.splitSpec (m : ModelObj) : SplitSpec :=
  let first := m.tiles.filter (fun t => t.layer == 0)
  let t0 := first.head?
  { fmt := (t0.map (·.afmt)).getD 0, gsize := (t0.map (·.gsize)).getD 0
    k := ((first.filter (·.tcol == 0)).map (·.kValid)).sum, rows := m.inRows }

/-- Both passes of an intake sample: its window 0, or the rows of its first row block. -/
def benchIntake (g : Gen) (m : ModelObj) (input : List Nat) : BenchAcc :=
  let rows := if m.cls == 1 then sampleRows m.splitSpec input else input.map (m.embedRow g.fw)
  (List.range m.nlayer).foldl (fun a l => benchLayer g m l (Config.porterTail g.fw m.layers l) (Config.refTail g.fw m.layers l) a)
    { rows, refs := rows.map (refRow m) }

/-- Both passes of a stream sample: each token in turn, the state slices of either pass carried on. -/
def benchStream (g : Gen) (m : ModelObj) (taps toks : List Nat) : BenchAcc :=
  let s0 := m.openState g.fw taps
  (toks.foldl (fun (x : (List Byte × List Byte) × BenchAcc) tok =>
    let row := m.embedRow g.fw tok
    (List.range m.nlayer).foldl (fun (y : (List Byte × List Byte) × BenchAcc) l =>
      let one := y.2.rows.map (layerRow (m.columns l) (m.consumer l) (g.marker m l))
      let st := Config.streamTail g.fw m.layers l y.1.1 ((one.map (·.1.codes)).headD []) ((one.map (·.1.words)).headD [])
      let rt := Config.refStreamTail g.fw m.layers l y.1.2 ((y.2.refs.map (refLayer (m.columns l))).headD [])
      ((st.1, rt.1), benchLayer g m l (fun _ => [st.2]) (fun _ => [rt.2]) y.2))
      (x.1, { x.2 with rows := [row], refs := [refRow m row] })) ((s0, s0), { rows := [], refs := [] })).2

/-- Both passes of a sample (R218). -/
def benchRun (g : Gen) (m : ModelObj) (x : Sample) : BenchAcc :=
  if m.cls == 2 then benchStream g m x.input x.toks else benchIntake g m x.input

end Sys2Proof.Machine
end

