-- ==== Sys2Proof/Machine/Intake.lean ====
section
/-! DEFINITION. INTAKE: placement, payload reads, the encoder, the Grader, the summary and the delivery
(02_requests_verdicts.md, 04 to 08). -/

namespace Sys2Proof.Machine

/-! ### Placement and payload reads (R24, R35, R36, R186, R187) -/

/-- INTAKE requests a stall holds. -/
def State.intakesOn (s : State) (i : Nat) : Nat := (s.reqs.filter (fun r => r.kind == 0 && r.stall == some i)).length

/-- The Spread stall an INTAKE goes to: any that R24 allows, by a free value. -/
def State.pickSpread (s : State) (p : Nat) : Option Nat :=
  (rotate s.freeNat ((s.spreadIn p (fun w => w == .awake || w == .doze)).filter (fun i => s.intakesOn i < 16))).head?

/-- Slices of segments that hold payload bytes `[off, off+len)`: segment index, address, length. -/
def segSlices : Nat → Nat → List (Nat × Nat) → Nat → Nat → List (Nat × Nat × Nat)
  | _, _, [], _, _ => []
  | i, base, x :: xs, off, len =>
    let a := max off base
    let b := min (off + len) (base + x.2)
    (if a < b then [(i, x.1 + (a - base), b - a)] else []) ++ segSlices (i + 1) (base + x.2) xs off len

/-- Reads of a payload range are issued (R36), as far as the payload reaches; the request waits for its bytes. -/
def State.issueRead (s : State) (r : Req) (off len : Nat) : State :=
  let len := min len (Desc.totalLen r.desc - off)
  if len == 0 then s else
  let s : State := (segSlices 0 0 r.segs off len).foldl (fun a x => a.readMem r.pitch r.session x.2.1 x.2.2) s
  s.updReq r.pitch r.session r.tag (fun q => { q with plan := q.plan ++ [(off, len)] })

def State.issueReads (s : State) (r : Req) (rs : List (Nat × Nat)) : State :=
  rs.foldl (fun a x => a.issueRead r x.1 x.2) s

/-- Bytes of payload `[off, off+len)` among the pieces that have come. -/
def assemble (got : List (Nat × List Byte)) (total : Nat) : List Byte :=
  (List.range total).map (fun k =>
    match got.find? (fun g => decide (g.1 ≤ k) && decide (k < g.1 + g.2.length)) with
    | some g => g.2.getD (k - g.1) 0#8
    | none => 0#8)

/-- The payload's bytes in order: those of the ranges read, sorted by offset. -/
def Req.payload (r : Req) : List Byte :=
  let inOrder := r.got.foldl (fun (a : Option (List Byte)) g =>
    a.bind (fun b => if b.length == g.1 then some (b ++ g.2) else none)) (some [])
  match inOrder with
  | some b => b
  | none => assemble r.got (Desc.totalLen r.desc)

/-- Pairs of blocks of a VECTOR payload before the hold point: all but the last row block's (R187). -/
def SplitSpec.early (p : SplitSpec) (b : List Byte) : Nat := p.pairs b - p.slices

/-- The first reads of a payload (R186, R187): up to the hold point; a VECTOR's header first. -/
def State.beginPayload (s : State) (r : Req) : State :=
  let n := Desc.totalLen r.desc
  if s.isVector r then s.issueRead r 0 (min 64 n) else s.issueRead r 0 (n - 64)

/-- CLK_ARITH cycles of an intake model's encoder tail (R181). -/
def ModelObj.tailCycles (m : ModelObj) : Nat := m.fixCyc + m.tailTok * m.tokCyc

/-- CLK_ARITH cycles have passed since an oscillator tick: 337.5 to a tick of 125 ns at 2.7 GHz. -/
def State.cyclesPast (s : State) (since cycles : Nat) : Bool := 2 * cycles ≤ 675 * (s.clk.ticks - since)

/-- FINAL_PAYLOAD_READ (R186): the read after the hold point. -/
def State.finalReads (s : State) (r : Req) : State :=
  let n := Desc.totalLen r.desc
  let s : State := s.updReq r.pitch r.session r.tag (fun q => { q with finalIssued := true, finalTick := s.clk.ticks })
  let gap := max ((s.modelOf r).map ModelObj.tailCycles |>.getD 0) 4860
  let s : State := match r.stall with
    | some i => s.updStl i (fun x => { x with lastFinal := some (s.clk.ticks, gap) })
    | none => s
  if s.isVector r then
    match s.modelOf r with
    | none => s
    | some m =>
      let p := m.splitSpec
      let b := r.payload
      s.issueReads r ((List.range (p.pairs b)).drop (p.early b) |>.flatMap (p.pairRanges b))
  else s.issueRead r (n - min 64 n) (min 64 n)

/-- The pieces of a defect search that a part of a VECTOR payload decides: the header, and the data blocks of the pairs
that have come (R169). -/
def earlyDefect (p : SplitSpec) (r : Req) : Option SplitDefect :=
  let n := Desc.totalLen r.desc
  let b := assemble r.got n
  let have_ (o len : Nat) : Bool := r.got.any (fun g => decide (g.1 ≤ o) && decide (o + len ≤ g.1 + g.2.length))
  if (r.got.map (·.2.length)).sum < 64 then none else
  match splitDefect p b with
  | some (.tile k) => if k < 64 then some (.tile k)
      else if k < 64 + getLe b 16 4 && have_ k 1 then some (.tile k) else none
  | some (.limit v) => some (.limit v)
  | some (.misalign e f i) =>
    let o := ((p.pairRanges b i).headD (0, 0)).1
    let z := ((p.pairRanges b i).getLastD (0, 0)).1
    let rows := getLe b 4 4
    if have_ o (16 + p.bodyLen rows i false) && have_ z (16 + p.bodyLen rows i true) then some (.misalign e f i) else none
  | none => none

/-- A request ends by a defect of its split payload (R168, R169). -/
def State.failSplit (s : State) (r : Req) : SplitDefect → State
  | .tile off => s.failReq r (eDesc 10 off)
  | .limit v => s.failReq r (eLimit 5 v)
  | .misalign e f _ =>
    let s : State := s.failReq r ⟨0x41, e, f⟩
    let s : State := match r.stall with
      | some i => s.bump .mxeMisalignCount i
      | none => s
    s.day 0x5201 r.pitch r.serving e f

/-- Calibration slot of a layer, by its index (R208, R228). -/
def State.slotOf (s : State) (p m l : Nat) : Option Nat :=
  (s.copiesSet .aszSlotIdValid).find? (fun i => s.rd .aszSlotIdPitch i == p && s.rd .aszSlotIdModel i == m
    && s.rd .aszSlotIdLayer i == l)

/-! ### Arrival -/

/-- Entries of the pitch's intake table of a kind (R108). -/
def State.intakeEnts (s : State) (r : Req) (kind : Nat) : List SieveEnt :=
  (s.genAt r.pitch r.epoch).entries (Config.intakeSieve r.pitch kind) kind

/-- List counts of a TEXT request (R112, R113); a VECTOR request has none. -/
def State.hitsOf (s : State) (r : Req) : List Nat :=
  if s.isVector r || Desc.totalLen r.desc == 0 then List.replicate 32 0 else
  let a := listCounts (s.intakeEnts r 0) (r.payload.map (·.toNat))
  let b := listCounts (s.intakeEnts r 1) ((s.cutOf r).tokens)
  (List.range 32).map (fun j => min 0xFFFFFFFF (a.getD j 0 + b.getD j 0))

/-- The stall counters of the Cutter and the Sieve as a request's context goes from `c` to `c'` and its payload from `b` to
`b'`: they count what is emitted and found, whatever becomes of the request (R107, R131). -/
def State.countCut (s : State) (r : Req) (c c' : CutCtx) (b b' : List Byte) : State :=
  match r.stall with
  | none => s
  | some i =>
    let hits (kind : Nat) (xs : List Nat) : Nat := (occurrences (s.intakeEnts r kind) xs).length
    let nb := hits 0 (b'.map (·.toNat)) - hits 0 (b.map (·.toNat))
    let nt := hits 1 c'.tokens - hits 1 c.tokens
    let s : State := s.bump .tknTokensOutCount i (c'.tokens.length - c.tokens.length)
    let s : State := s.bump .tknFallbackCount i (c'.bad - c.bad)
    let s : State := s.bump .tknSplitCount i (c'.splits - c.splits)
    let s : State := s.bump .sveByteHitsCount i nb
    s.bump .sveTokenHitsCount i nt

/-- The calibration state of a model changed. -/
def State.updAsz (s : State) (p m : Nat) (f : AszModel → AszModel) : State :=
  { s with asz := s.asz.map (fun x => if x.pitch == p && x.model == m then f x else x) }

/-- The samples that stay when one of a kind enters its pitch's pool (R213): a full pool gives up its oldest of the same kind,
or, holding none, its oldest. -/
def State.poolRoom (s : State) (p : Nat) (train : Bool) : List Sample :=
  if (s.samples.filter (·.pitch == p)).length < s.rd .aszPitCfg3Pool p then s.samples else
  match (firstIdx (fun x => x.pitch == p && x.train == train) s.samples).orElse
      (fun _ => firstIdx (fun x => x.pitch == p) s.samples) with
  | some i => s.samples.eraseIdx i
  | none => s.samples

/-- A sample enters its pitch's pool (R212, R213); the copy may find no room to be made and is then dropped. The pairs of
training and shadow samples are counted over the pitch's pool, whatever the models, DESIGN CHOICE
(notes/assumptions/122.md). -/
def State.storeSample (s : State) (p m sess : Nat) (input : List Nat) (live : Bool := false) : State × Bool :=
  let drop := s.freeNat % 2 == 1
  let s : State := s.tookFree
  if drop then (s.bump .aszDropsCount, false) else
  let train := (s.pit p).sampled % 2 == 0
  let x : Sample := { pitch := p, model := m, session := sess, train, input, live }
  let s : State := { s with samples := s.poolRoom p train ++ [x] }
  ((s.updPit p (fun y => { y with sampled := y.sampled + 1 })).bump .aszSamplesCount, true)

/-- Tokens of a TEXT request that the encoder encodes (R188). -/
def State.encodedOf (s : State) (r : Req) (m : ModelObj) : Nat :=
  let c := s.cutOf r
  c.tokens.length - (c.tailCount (Desc.totalLen r.desc) - m.tailTok)

/-- The input a sample of an intake request holds (R212): the encoded tokens of window 0, or the split header and the first
row block. -/
def State.sampleInput (s : State) (r : Req) : List Nat :=
  match s.modelOf r with
  | none => []
  | some m =>
    if m.cls == 1 then
      let p := m.splitSpec
      let b := r.payload
      ((0, 64) :: (List.range (min p.slices (p.pairs b))).flatMap (p.pairRanges b)).flatMap
        (fun x => ((b.drop x.1).take x.2).map (·.toNat))
    else (s.cutOf r).tokens.take (min 256 (s.encodedOf r m))

/-- Capture of a sampled INTAKE's input (R212, R213). -/
def State.captureIntake (s : State) (r : Req) : State :=
  if !r.sampled then s else
  let x := s.storeSample r.pitch r.serving r.session (s.sampleInput r)
  x.1.updReq r.pitch r.session r.tag (fun q => { q with shadow := x.2 })

/-- The last payload byte, or an EMPTY's descriptor, has come: the fixed count starts (R55, R56). -/
def State.arriveIntake (s : State) (r : Req) : State :=
  let s : State := s.updReq r.pitch r.session r.tag (fun q => { q with
    arrival := some s.clk.hp, due := some (s.clk.hp + s.hpCycles 12000), seq := s.arrivals + 1, plan := [] })
  let s : State := { s with arrivals := s.arrivals + 1 }
  if Desc.totalLen r.desc == 0 then s
  else if s.isVector r then s.captureIntake r
  else (s.countCut r r.cut (s.cutOf r) r.payload r.payload).captureIntake r

/-! ### The verdict -/

/-- The key of a stock binding (Table 6-5). -/
def State.stockKey (s : State) (r : Req) (b : StockBind) : Option Nat :=
  let pay := r.payload
  match b.keySrc with
  | 0 => some r.session
  | 1 =>
    let off := bits b.keyArg 0 16
    let len := bits b.keyArg 16 7
    if off + len ≤ pay.length then some (fieldKey ((pay.drop off).take len)) else none
  | 2 =>
    if s.isVector r then none else
    let l := bits b.keyArg 0 5
    match firstHit (s.intakeEnts r 0) l (pay.map (·.toNat)) with
    | some e => some (2 ^ 32 + e)
    | none => (firstHit (s.intakeEnts r 1) l (s.cutOf r).tokens).map (fun e => 2 * 2 ^ 32 + e)
  | _ => some b.keyArg

/-- The keyed table of a binding. -/
def State.stockFor (s : State) (r : Req) (b : StockBind) : Option StockTable := (s.genAt r.pitch r.epoch).stock? r.pitch b.stockId

/-- The row a binding finds (R139). -/
def State.stockRow (s : State) (r : Req) (b : Option StockBind) : Option (List F32) :=
  b.bind (fun b => (s.stockFor r b).bind (fun t => (s.stockKey r b).bind t.lookup))

/-- Bad 4 KiB lines that a binding's lookup needs (R154). -/
def State.bindLines (s : State) (r : Req) (b : Option StockBind) : List BadLine :=
  match b with
  | none => []
  | some b =>
    match s.stockFor r b, s.stockKey r b with
    | some t, some k => s.tier.stockBad.filter (fun x => x.pitch == r.pitch && x.id == t.id
        && (t.reads k).any (fun y => y.1 / 4096 ≤ x.line && x.line ≤ (y.1 + y.2 - 1) / 4096))
    | _, _ => []

/-- Request figures of Table 6-3. -/
def State.reqInputs (s : State) (r : Req) : List Nat :=
  let d : Desc := r.desc
  let c := s.cutOf r
  let text := !s.isVector r && d.totalLen != 0
  [d.totalLen, if text then c.tokens.length else 0, if text then c.bad else 0, if text then c.splits else 0, d.nseg,
    b2n (d.totalLen == 0)]

/-- The encoder's result of a request (R185 to R190), with its slots' counts; none for an EMPTY one. -/
def State.encodeReq (s : State) (r : Req) (m : ModelObj) : Option (EncRes × List (Nat × SlotCount)) :=
  let g := s.genAt r.pitch r.epoch
  let n := Desc.totalLen r.desc
  if n == 0 then none
  else if m.cls == 1 then
    let rows := splitRows m.splitSpec r.payload
    some (encode g m rows rows.length rows.length)
  else
    let toks := (s.cutOf r).tokens
    some (encode g m (toks.map (m.embedRow g.fw)) (s.encodedOf r m) toks.length)

/-- The Grader's counters of an evaluation (Table 6-11); its latency is open. -/
def State.countGrade (s : State) (i : Nat) (g : Grade) : State :=
  let s : State := (s.bump .grdEvalsCount i).bump .grdVisitsCount i g.visits
  let s : State := (s.bump .grdLookupsCount i g.lookups).bump .grdMissesCount i g.misses
  let s : State := s.bump .grdDefaultsCount i g.defaults
  (s.wrMax .grdTailMaxCycles i (s.freeNat % 4861)).tookFree

/-- What the engine counts of its rows (Table 7-6, R172 to R174). -/
def State.countEngine (s : State) (i : Nat) (k : MxeCount) : State :=
  let s : State := (s.bump .mxeQsatCount i k.qsat).bump .mxeOsatCount i k.osat
  (s.bump .mxeConstCount i k.konst).bump .mxeNanCount i k.nan

/-- The matrix engine's counters of an encoder tail (Tables 7-6, 8-7); its length and tile fetches are open. -/
def State.countEncoder (s : State) (i : Nat) (m : ModelObj) (e : EncRes) : State :=
  let s : State := (s.bump .stlTailsCount i).bump .stlUnencCount i (e.tokens - e.encoded)
  let s : State := (s.wrMax .stlTailMaxCycles i (s.freeNat % 21601)).tookFree
  let s : State := (s.bump .mxeTilesCount i s.freeNat).tookFree
  (s.bump .mxeRowsCount i (m.tilesIn (List.range m.nlayer) * (e.rows / max m.nlayer 1))).countEngine i e.count

/-- The formats of the last tile run on a stall (Table 7-6). -/
def State.noteTile (s : State) (i : Nat) (t : Option Tile) : State :=
  match t with
  | none => s
  | some t => ((s.wr .mxeCfgWfmt i t.wfmt).wr .mxeCfgAfmt i t.afmt).wr .mxeCfgGsize i t.gsize

/-- The formats of the last tile of the last of some layers. -/
def State.noteFormats (s : State) (i : Nat) (m : ModelObj) (ls : List Nat) : State :=
  s.noteTile i ((ls.getLast?.map m.columns).bind (fun c => c.getLast?.bind (·.getLast?)))

/-- Stall counters of a tail: engine, Grader and roles (R155, R179, R207). Cycle counts and weight-buffer loads are timing,
left free. -/
def State.countTail (s : State) (r : Req) (m : ModelObj) (e : Option EncRes) (g : Grade) : State :=
  match r.stall with
  | none => s
  | some i =>
    let s : State := s.countGrade i g
    match e with
    | none => s
    | some e => (s.countEncoder i m e).noteFormats i m (List.range m.nlayer)

/-- Live counts of a model's layers go to its slots, when the generation they ran under is the one in force (R210). -/
def State.countSlots (s : State) (p model epoch : Nat) (tally : List (Nat × SlotCount)) : State :=
  let g := s.genAt p epoch
  match g.model? p model with
  | none => s
  | some m =>
    if s.genAt p (s.epoch p) != g then s else
    tally.foldl (fun a x =>
      match s.slotOf m.pitch m.model x.1 with
      | none => a
      | some k => { a with aszCount := addTally a.aszCount k x.2 }) s

/-- The intake summary (Table 8-4), padded to a multiple of 64. -/
def summaryBytes (r : Req) (vcode flags tokens encoded tapW : Nat) (score : F32) (taps : List (List Nat)) : List Byte :=
  let h := leBytes 2 r.serving ++ [byteOf vcode, byteOf taps.length] ++ leBytes 4 score.toNat ++ leBytes 4 tokens
    ++ leBytes 4 encoded ++ leBytes 4 r.epoch ++ leBytes 2 tapW ++ leBytes 2 flags ++ leBytes 3 r.tag
  let b := fill 64 h ++ taps.flatMap (fun t => t.flatMap (leBytes 2))
  fill (ceilDiv b.length 64 * 64) b

/-- SCORE of an INTAKE record: the first output, +0.0 when it was not graded (R146, R148). -/
def Req.score (r : Req) : F32 := ((r.grade.map (fun g => g.outs.getD 0 0#32))).getD 0#32

/-- Frames of one tap (R292): pieces of at most 592 bytes. -/
def tapFrames (p sess dst tag tap : Nat) (b : List Byte) : List Frame :=
  (List.range (ceilDiv b.length 592)).map (fun k =>
    let piece := (b.drop (592 * k)).take 592
    { kind := 0x20, dkind := 0, dst, pitch := p, session := sess
      arg := leBytes 3 tag ++ [byteOf tap] ++ leBytes 2 (592 * k) ++ leBytes 2 piece.length, body := piece })

/-- A summary pushed to the session's owner: taps, then the header (R203, R292). -/
def State.pushSummary (s : State) (r : Req) (dst : Nat) (b : List Byte) (tapW : Nat) : State :=
  let ntap := getLe b 3 1
  let s : State := (List.range ntap).foldl (fun a i =>
    (tapFrames r.pitch r.session dst r.tag i ((b.drop (64 + 2 * i * tapW)).take (2 * tapW))).foldl State.sendFrame a) s
  let ep := ((s.owner? r.pitch r.session).map (·.2)).getD 0
  let f : Frame := { kind := 0x21, dkind := 0, dst, pitch := r.pitch, session := r.session
                     arg := leBytes 3 r.tag ++ [0#8] ++ leBytes 4 ep, body := b.take 64 }
  let s : State := s.sendFrame f
  let s : State := match r.stall with
    | some i => s.bump .stlPushCount i
    | none => s
  s.updReq r.pitch r.session r.tag (fun q => { q with push := .sent dst })

/-- The request reaches the Grader (R148). -/
def State.graded (s : State) (r : Req) : Bool := !(Desc.totalLen r.desc == 0 && s.rd .pitOptsGradeEmpty r.pitch == 0)

/-- The intake summary of a decided request (Table 8-4); an EMPTY one has every tap 0. -/
def State.summaryOf (s : State) (r : Req) : List Byte :=
  match s.modelOf r with
  | none => []
  | some m =>
    let taps := match r.enc with
      | some e => e.taps
      | none => List.replicate m.ntap (List.replicate m.tapW 0)
    summaryBytes r r.code (s.recFlags r) ((r.enc.map EncRes.tokens).getD 0) ((r.enc.map EncRes.encoded).getD 0)
      (if m.ntap == 0 then 0 else m.tapW) r.score taps

/-- The verdict decided (R147, R148, R192, R203): the grade, and the push of the summary when another block owns the session.
The summary of one that this block owns is written when the request completes (R25, R26, R58). -/
def State.decideIntake (s : State) (r : Req) (m : ModelObj) : State :=
  let g := s.genAt r.pitch r.epoch
  let full : Option (EncRes × List (Nat × SlotCount)) := s.encodeReq r m
  let enc : Option EncRes := full.map Prod.fst
  let tally : List (Nat × SlotCount) := (full.map Prod.snd).getD []
  let hits := s.hitsOf r
  let fl := s.recFlags r
  let grade : Option Grade := if !s.graded r then none else
    (g.ens? m.ensId).map (fun e => e.grade
      { enc := (enc.map EncRes.pooled).getD [], hits, req := s.reqInputs r, sess := r.feats
        stock := e.binds.map (s.stockRow r) } fl)
  let code := (grade.map (fun g => g.code)).getD 0
  let own := (if (grade.map (fun g => g.misses)).getD 0 != 0 then flStock else 0)
  let s : State := match grade with
    | some gr => s.countTail r m enc gr
    | none => s
  let s : State := s.countSlots r.pitch r.serving r.epoch tally
  let r' : Req := { r with decided := true, code, rule := (grade.map (fun g => g.rule)).getD 0, grade, enc, flags := own }
  let s : State := s.updReq r.pitch r.session r.tag (fun _ => r')
  match r.remote with
  | some d => s.pushSummary r' d (s.summaryOf r') m.tapW
  | none => s

/-- The text, Sieve and ensemble tables of an INTAKE's stall that it needs and that are being reloaded (R106, R130, R154); one that
does not reach the Grader needs no ensemble (R148). -/
def State.intakeReloads (s : State) (r : Req) : List Reload :=
  let text := !s.isVector r && Desc.totalLen r.desc != 0
  s.tier.reloads.filter (fun x => r.stall == some x.stall && (match x.type with
    | 0x07 => text && ((s.cfg? r.pitch).map (·.inTable)) == some x.id
    | 0x08 => text && (x.id == Config.intakeSieve r.pitch 0 || x.id == Config.intakeSieve r.pitch 1)
    | _ => s.graded r && ((s.modelOf r).map (·.ensId)) == some x.id))

def State.intakeTableWait (s : State) (r : Req) : Bool := !(s.intakeReloads r).isEmpty

/-- The poisoned stock lines that a request's lookups need (R154): those of the bindings that some input names (R139). -/
def State.stockLines (s : State) (r : Req) : List BadLine :=
  if !s.graded r then [] else
  match (s.modelOf r).bind (fun m => (s.genAt r.pitch r.epoch).ens? m.ensId) with
  | some e => (usedBinds e).flatMap (fun b => s.bindLines r (e.binds.getD b none))
  | none => []

def State.stockWait (s : State) (r : Req) : Bool := !(s.stockLines r).isEmpty

/-- A tile copy in the T0 of a stall that a model needs is poisoned and not yet re-fetched (R268). -/
def State.t0Wait (s : State) (i p m : Nat) : Bool := s.tier.t0bad.any (fun x => x.1 == i && x.2.pitch == p && x.2.model == m)

/-- A T1 copy that a model streams is poisoned (R252), and the stall keeps no copy of it: the encoder has no tile to go on with. -/
def State.t1Wait (s : State) (r : Req) : Bool :=
  s.tier.bad.any (fun x => x.tile.pitch == r.pitch && x.tile.model == r.serving
    && ((s.genAt r.pitch r.epoch).tile? r.pitch r.serving x.tile.layer x.tile.trow x.tile.tcol).map (·.bseq) == some x.tile.bseq
    && !(s.genAt r.pitch r.epoch).inT0 x.tile.pitch x.tile.model x.tile.layer
    && !s.tier.kept.any (fun k => r.stall == some k.stall && k.tile == x.tile))

/-- The encoder of an INTAKE cannot go on: a tile it needs is late, poisoned in T0 or in T1, or a table is being reloaded
(R106, R130, R252, R264, R268). -/
def State.encoderStuck (s : State) (r : Req) : Bool :=
  !r.waits.isEmpty || s.intakeTableWait r
    || (Desc.totalLen r.desc != 0 && (s.t1Wait r || (r.stall.map (fun i => s.t0Wait i r.pitch r.serving)).getD false))

/-- A request's encoder tail is under way: from its final read until its bytes have come and its cycles have passed (R189). -/
def State.tailUnder (s : State) (r : Req) : Bool :=
  r.kind == 0 && r.finalIssued && !r.decided
    && !(r.arrival.isSome && !s.encoderStuck r && s.cyclesPast r.finalTick ((s.modelOf r).map ModelObj.tailCycles |>.getD 0))

/-- Slices of a re-pinned session are being loaded through the hub of a quadrant (R377). -/
def State.repinIn (s : State) (q : Nat) : Bool :=
  s.streams.any (fun x => x.repin && ((s.chain? x.pitch x.chain).map (fun c => c.stalls.any (· / 16 == q))).getD false)

/-- The final read of a request on a stall may be issued (R189): one tail at a time on it, spaced from the one before, and at
most four tails of 500 GB/s at once in its quadrant, two while re-pinned slices are loaded through its hub (R377). -/
def State.finalMay (s : State) (i : Nat) : Bool :=
  let busy (j : Nat) : Bool := s.reqs.any (fun q => q.stall == some j && s.tailUnder q)
  !busy i && ((s.stl i).lastFinal.map (fun x => s.cyclesPast x.1 x.2)).getD true
    && ((List.range 16).filter (fun k => busy (i / 16 * 16 + k))).length < (if s.repinIn (i / 16) then 2 else 4)

/-- The Grader and the summary may go on: the entry is resident unless it is another block's, no list is awaited, and no tile, no
table and no stock line is waited for (R106, R154, R242, R264). -/
def State.tailReady (s : State) (r : Req) : Bool :=
  (r.remote.isSome || (s.entry? r.pitch r.session).isSome) && !r.wantList && !s.encoderStuck r && !s.stockWait r

/-- A Grader serves its stall's requests in order of last-byte arrival (R152). -/
def State.graderTurn (s : State) (r : Req) : Bool :=
  !s.graded r || s.reqs.all (fun q => !(q.kind == 0 && q.stall == r.stall && q.seq != 0 && q.seq < r.seq && !q.decided && s.graded q))

/-- INTAKE_VERDICT_DECIDED. -/
def intakeDecideStep (p sess tag : Nat) (s : State) : State :=
  match s.req? p sess tag with
  | none => s
  | some r =>
    match s.modelOf r with
    | none => s
    | some m => if r.kind == 0 && r.arrival.isSome && !r.decided && s.tailReady r && s.graderTurn r then s.decideIntake r m else s

/-! ### Delivery -/

/-- Value of an entry a place function names: the one whose place is `k`. -/
def placed (places : List Nat) (vals : List Nat) (k : Nat) : Nat :=
  match firstIdx (· == k) places with
  | some i => vals.getD i 0
  | none => 0

/-- The result block (R37, R113). -/
def State.resultBlock (s : State) (r : Req) (ensId : Nat) : List Byte :=
  let text := !s.isVector r && Desc.totalLen r.desc != 0
  let sig := if text then signature (s.cutOf r).tokens else List.replicate 32 0#8
  let outs := (((r.grade.map (·.outs)).getD []).map (·.toNat))
  let hits := (s.hitsOf r).map (min 0xFFFF)
  let heads := (List.range 8).flatMap (fun k => leBytes 4 (placed ((List.range outs.length).map (Config.headPlace ensId)) outs k))
  sig ++ heads ++ hits.flatMap (leBytes 2)

/-- Bytes 16–27 of an INTAKE record (Table 2-7). -/
def State.intakeTail (s : State) (r : Req) : List Byte :=
  let toks := if s.isVector r || Desc.totalLen r.desc == 0 then 0 else (s.cutOf r).tokens.length
  leBytes 4 r.score.toNat ++ leBytes 4 toks ++ leBytes 2 r.rule ++ leBytes 2 (min 0xFFFF (s.hitsOf r).sum)

/-- What an INTAKE record carries for the running features (R232). -/
def State.intakeVals (s : State) (r : Req) : RecVals :=
  { code := some r.code, inScore := if r.grade.isSome then some r.score else none
    inHits := some (min 0xFFFF (s.hitsOf r).sum)
    inTokens := some (if s.isVector r || Desc.totalLen r.desc == 0 then 0 else (s.cutOf r).tokens.length) }

/-- An ORDERED session's record waits for its write-backs (R59): the tier of one still outstanding. -/
def State.orderedWait (s : State) (p sess : Nat) : Option Nat :=
  match s.entry? p sess with
  | some e => if e.ordered then (s.wbs.find? (fun w => w.pitch == p && w.session == sess)).map (·.tier) else none
  | none => none

/-- A push without acknowledgement by the delivery point (R204). -/
def State.pushUnacked (s : State) (r : Req) (target : Nat) : State :=
  let s : State := (s.failReq r ⟨0x44, 0, 3⟩).day 0x4301 r.pitch r.pitch (r.session % 2 ^ 32) target
  match r.stall with
  | some i => s.bump .stlPushFailCount i
  | none => s

/-- Result block, summary, record (R25, R33, R37, R47, R192). -/
def State.deliverIntake (s : State) (r : Req) : State :=
  let d : Desc := r.desc
  let s : State := if r.remote.isSome then s else s.writeSummary r.pitch r.session (s.summaryOf r)
  let ens := ((s.modelOf r).map (·.ensId)).getD 0
  let s : State := if d.resultEn then s.writeMem r.pitch r.session d.resultAddr (s.resultBlock r ens) else s
  s.endReq r r.code 0 (s.recFlags r) (s.intakeTail r) (s.intakeVals r)

/-- INTAKE_DELIVERY (R56, R59, R204), exactly at its count. -/
def intakeDeliveryStep (p sess tag : Nat) (s : State) : State :=
  match s.req? p sess tag with
  | none => s
  | some r =>
    match r.due with
    | none => s
    | some c =>
      if !(r.kind == 0 && r.decided) then s else
      s.deliverAt c (fun s => match r.push with
        | .sent t => s.pushUnacked r t
        | _ =>
          match s.orderedWait p sess with
          | some t => s.failLate r t 0 0
          | none => s.deliverIntake r)

/-! ### Payload completions -/

/-- The segment a payload offset lies in, and the tier its bytes come from: 2, or 3 for a pool (R53, R311). -/
def State.payloadErr (s : State) (r : Req) : EndErr :=
  let off := (r.plan.headD (0, 0)).1
  match (segSlices 0 0 r.segs off 1).head? with
  | some x => ⟨0x43, x.1, if (s.guildPool r.pitch x.2.1).isSome then 3 else 2⟩
  | none => ⟨0x43, 0, 2⟩

/-- The payload bytes of one completion go to the request (R36, R91). -/
def State.takeBytes (s : State) (r : Req) (b : List Byte) : Req :=
  match r.plan with
  | [] => r
  | x :: rest =>
    let plan := if b.length == x.2 then rest else (x.1 + b.length, x.2 - b.length) :: rest
    let cut := if s.isVector r then r.cut else
      match s.inTable r with
      | some t => r.cut.feed t b
      | none => r.cut
    { r with plan, got := r.got ++ [(x.1, b)], cut }

/-- After a VECTOR payload's bytes: the header's checks, the next reads, the defects found, the end (R167 to R169, R187). -/
def State.vectorStep (s : State) (r : Req) (m : ModelObj) : State :=
  let p := m.splitSpec
  let n := Desc.totalLen r.desc
  if !r.plan.isEmpty then
    (match earlyDefect p r with
     | some d => s.failSplit r d
     | none => s)
  else if r.finalIssued || n ≤ 64 then
    (match splitDefect p (assemble r.got n) with
     | some d => s.failSplit r d
     | none => s.arriveIntake r)
  else
    match earlyDefect p r with
    | some d => s.failSplit r d
    | none =>
      let b := r.payload
      if r.got.any (fun g => 64 ≤ g.1) then s
      else s.issueReads r ((List.range (p.early b)).flatMap (p.pairRanges b))

/-- PAYLOAD_READ_COMPLETE (R36, R53). -/
def payloadStep (p sess tag : Nat) (data : ReadData) (s : State) : State :=
  match s.req? p sess tag with
  | none => s
  | some r =>
    if r.kind != 0 || r.plan.isEmpty then s else
    match data with
    | .error => s.failReq r (s.payloadErr r)
    | .ok b =>
      let r' := s.takeBytes r b
      let s : State := s.updReq p sess tag (fun _ => r')
      let s : State := match r.stall with
        | some i => if s.isVector r then s else
            (s.countCut r r.cut r'.cut r.payload r'.payload).bump .tknBytesInCount i b.length
        | none => s
      if s.isVector r then
        (match s.modelOf r with
         | some m => s.vectorStep r' m
         | none => s)
      else if r'.finalIssued && r'.plan.isEmpty then s.arriveIntake r' else s

/-- A VECTOR payload so short that nothing is left to read after the hold point ends here (R169). -/
def State.finalVector (s : State) (p sess tag : Nat) : State :=
  match s.req? p sess tag with
  | none => s
  | some r =>
    match s.modelOf r with
    | some m => if s.isVector r && r.plan.isEmpty then s.vectorStep r m else s
    | none => s

/-- FINAL_PAYLOAD_READ (R186, R187, R189): the reads before the hold point have completed, the encoder has encoded what was
emitted, and the stall's and the quadrant's tails leave room. -/
def finalReadStep (p sess tag : Nat) (s : State) : State :=
  match s.req? p sess tag with
  | none => s
  | some r =>
    if r.kind == 0 && r.arrival.isNone && !r.finalIssued && !r.wantList && r.plan.isEmpty && Desc.totalLen r.desc != 0
        && !s.encoderStuck r && (r.stall.map s.finalMay).getD true
      then (s.finalReads r).finalVector p sess tag else s

/-- A completion that brings no bytes, or more than were asked for, counts as one with error (notes/assumptions/118.md). -/
def State.payloadFit (s : State) (p sess tag : Nat) (data : ReadData) : ReadData :=
  match s.req? p sess tag, data with
  | some r, .ok b => if 1 ≤ b.length && b.length ≤ (r.plan.headD (0, 0)).2 then data else .error
  | _, _ => data

def execPayloadReadComplete (pitch : Fin 64) (session : Session) (tag : Tag) (data : ReadData) (s : State) : Result :=
  .next (payloadStep pitch session.toNat tag.toNat (s.payloadFit pitch session.toNat tag.toNat data) s)

def execFinalPayloadRead (pitch : Fin 64) (session : Session) (tag : Tag) (s : State) : Result :=
  .next (finalReadStep pitch session.toNat tag.toNat s)

def execIntakeVerdictDecided (pitch : Fin 64) (session : Session) (tag : Tag) (s : State) : Result :=
  .next (intakeDecideStep pitch session.toNat tag.toNat s)

def execIntakeDelivery (pitch : Fin 64) (session : Session) (tag : Tag) (s : State) : Result :=
  .next (intakeDeliveryStep pitch session.toNat tag.toNat s)

end Sys2Proof.Machine
end

