-- ==== Sys2Proof/Machine/Stream.lean ====
section
/-! DEFINITION. Streams: opening, arrival passes, chain stages, resolve, release, and constraint answers
(02, 04, 05, 08). -/

namespace Sys2Proof.Machine

/-! ### Tables of a stream -/

/-- The model that serves a stream. -/
def State.streamModel (s : State) (x : Stream) : Option ModelObj := (s.genAt x.pitch x.epoch).model? x.pitch x.serving

/-- The stream text table of an epoch (R84, R105). -/
def State.outTable (s : State) (p epoch : Nat) : Option TextTable :=
  (s.cfg? p).bind (fun c => (s.genAt p epoch).text? c.outTable)

/-- Entries of a model's stop (2), banned (3) and forced (4) table in an epoch's generation (R108). -/
def State.streamEnts (s : State) (p model epoch kind : Nat) : List SieveEnt :=
  let g := s.genAt p epoch
  match g.model? p model with
  | none => []
  | some m => g.entries (if kind == 2 then m.stopId else if kind == 3 then m.banId else m.forceId) kind

def toNats (b : List Byte) : List Nat := b.map (·.toNat)

/-- The stall of a chain's stage; the last stage holds the Sieve and the Joiner (R27). -/
def State.lastStage (s : State) (p c : Nat) : Option Nat := (s.chain? p c).bind (·.stalls.getLast?)

def State.bumpAt (s : State) (f : Fld) (i : Option Nat) (n : Nat := 1) : State :=
  match i with
  | some i => s.bump f i n
  | none => s

/-- The tables that a stream's last stage needs and that are being reloaded there (R106, R130). -/
def State.streamReloads (s : State) (x : Stream) : List Reload :=
  let m := s.streamModel x
  s.tier.reloads.filter (fun t => s.lastStage x.pitch x.chain == some t.stall && (match t.type with
    | 0x07 => ((s.cfg? x.pitch).map (·.outTable)) == some t.id
    | 0x08 => (m.map (fun m => m.stopId == t.id || m.banId == t.id || m.forceId == t.id)).getD false
    | _ => false))

/-- The banned and forced tables of a stream model, which a Spread stall answers a CONSTRAINT from, that are being reloaded there
(R130). -/
def State.rootReloads (s : State) (r : Req) : List Reload :=
  s.tier.reloads.filter (fun t => r.stall == some t.stall && t.type == 0x08
    && ((s.modelOf r).map (fun m => m.banId == t.id || m.forceId == t.id)).getD false)

/-- The tables that a stream request or a CONSTRAINT needs and that are being reloaded (R106, R130). -/
def State.tokReloads (s : State) (r : Req) : List Reload :=
  if r.kind == 3 && !r.openAtArrival then s.rootReloads r
  else ((s.stream? r.pitch r.session).map s.streamReloads).getD []

def State.tokTableWait (s : State) (r : Req) : Bool := !(s.tokReloads r).isEmpty

/-! ### Arrival order -/

/-- A free-running ring count comes before another (R43). -/
def slotBefore (a b : Nat) : Bool :=
  let n := (b + 2 ^ 32 - a % 2 ^ 32) % 2 ^ 32
  0 < n && n < 2 ^ 31

/-- Order of arrival: the cycle, and within one cycle the submission-ring slot (R58). -/
def Req.before (q r : Req) : Bool :=
  match q.arrival, r.arrival with
  | some a, some b => a < b || (a == b && slotBefore q.slot r.slot)
  | _, _ => false

/-- STREAM_TOKENs of a session that have arrived. -/
def State.arrived (s : State) (p sess : Nat) : List Req :=
  (s.reqs ++ s.dups).filter (fun r => r.pitch == p && r.session == sess && r.kind == 2 && r.seq != 0)

/-- No STREAM_TOKEN of the session arrived earlier and fails a test. -/
def State.earlierAll (s : State) (r : Req) (ok : Req → Bool) : Bool :=
  (s.arrived r.pitch r.session).all (fun q => !q.before r || ok q)

/-- The first arrived STREAM_TOKEN of a session in flight. -/
def State.firstTok (s : State) (p sess : Nat) : Option Req :=
  (s.arrived p sess).foldl (fun (a : Option Req) r => match a with
    | none => some r
    | some b => if r.before b then some r else some b) none

/-- The record of a failed descriptor whose turn has come. -/
def State.endFailed (s : State) (r : Req) (e : EndErr) : State :=
  if s.dups.contains r then State.failDesc { s with dups := s.dups.filter (fun q => q != r) } r e else s.failReq r e

/-- Failed descriptors at the head of a stream's order get their records (R53, R58). -/
def State.flushFailed (s : State) (p sess : Nat) : Nat → State
  | 0 => s
  | n + 1 =>
    match s.firstTok p sess with
    | none => s
    | some r =>
      match r.failed with
      | none => s
      | some (c, a, b) => State.flushFailed (s.endFailed r ⟨c, a, b⟩) p sess n

def State.flush (s : State) (p sess : Nat) : State := s.flushFailed p sess (s.reqs.length + s.dups.length)

/-- A STREAM_TOKEN in flight ends with an error, in its place among the stream's records. -/
def State.failTok (s : State) (r : Req) (e : EndErr) : State :=
  (s.updReq r.pitch r.session r.tag (fun q => { q with failed := some (e.code, e.p0, e.p1) })).flush r.pitch r.session

/-- A STREAM_TOKEN whose (SESSION, TAG) is in flight (R42): its record keeps its place among its stream's (R58). -/
def State.queueDup (s : State) (r : Req) (e : EndErr) : State :=
  let q : Req := { r with arrival := some s.clk.hp, seq := s.arrivals + 1, failed := some (e.code, e.p0, e.p1) }
  State.flush { s with dups := s.dups ++ [q], arrivals := s.arrivals + 1 } r.pitch r.session

/-- A request arrives: its place in the order of arrival (R58). -/
def State.arrive (s : State) (r : Req) (due : Option Nat) : State :=
  { (s.updReq r.pitch r.session r.tag (fun q => { q with arrival := some s.clk.hp, due, seq := s.arrivals + 1 }))
      with arrivals := s.arrivals + 1 }

/-- A STREAM_TOKEN arrives (R55 to R57). -/
def State.arriveToken (s : State) (r : Req) : State :=
  s.arrive r (some (s.clk.hp + s.hpCycles (100 * s.rd .pitDelayTokenDelay r.pitch)))

/-- A CONSTRAINT arrives; whether its session's stream is open is judged now (R124), and with it the Sieve that answers: the
last stage's of its chain, or that of a Spread stall, which one a free value says (R27). -/
def State.arriveCon (s : State) (r : Req) : State :=
  let o : Option Stream := match s.stream? r.pitch r.session with
    | some x => if x.opened then some x else none
    | none => none
  let i : Option Nat := match o with
    | some x => s.lastStage x.pitch x.chain
    | none => (rotate s.freeNat (s.spreadIn r.pitch (fun w => w == .awake || w == .doze))).head?
  ((s.arrive r none).updReq r.pitch r.session r.tag (fun q => { q with openAtArrival := o.isSome, stall := i })).tookFree

/-! ### Arrival pass (R115 to R119) -/

/-- A pass under way. -/
structure PassAcc where
  res : PassRes
  banned : Nat := 0
  devs : Nat := 0
  stops : Nat := 0
  deriving DecidableEq, Repr

/-- The bytes of a token after the bytes seen so far: the length of the stop string completed at the first byte that
completes one (R117), and the bytes taken. -/
def stopScan (ents : List SieveEnt) (hist : List Nat) : List Byte → List Byte → Option Nat × List Byte
  | done, [] => (none, done)
  | done, x :: xs =>
    let h := hist ++ toNats (done ++ [x])
    match stopAt ents h with
    | some n => (some n, done ++ [x])
    | none => stopScan ents hist (done ++ [x]) xs

/-- One token of a pass (Table 5-5, R121 to R123). -/
def passTok (stop ban frc : List SieveEnt) (bytesOf : Nat → List Byte) (a : PassAcc) (k id : Nat) : PassAcc :=
  if a.res.fin.isSome then a else
  let r := a.res
  let forced := forcedIn frc r.ids
  let hits := match forced with
    | some (f, _) => if f == id then [] else bannedBy ban r.ids id
    | none => bannedBy ban r.ids id
  let dev := match forced with
    | some (f, m) => if f == id then none else some m
    | none => none
  let block := hits.any (fun e => !e.mark) || dev == some false
  let mark := hits.any (·.mark) || dev == some true
  let r1 := { r with ids := r.ids ++ [id], examined := r.examined + 1 }
  let a := { a with banned := a.banned + hits.length, devs := a.devs + b2n dev.isSome }
  if block then { a with res := { r1 with fin := some (.block k) } }
  else
    let (st, taken) := stopScan stop (toNats r.bytes) [] (bytesOf id)
    let r2 := { r1 with bytes := r.bytes ++ taken, pend := r.pend ++ taken, mark := r.mark || mark }
    match st with
    | some n =>
      let at_ := r2.pend.length - n
      { a with res := { r2 with fin := some (.stop k (at_ - r.pend.length) at_) }, stops := a.stops + 1 }
    | none => { a with res := r2 }

/-- The arrival pass of a descriptor's tokens (R115, R119). -/
def runPass (stop ban frc : List SieveEnt) (bytesOf : Nat → List Byte) (x : Stream) (toks : List Nat) (fin : Bool) : PassAcc :=
  let a := (toks.zipIdx).foldl (fun a t => passTok stop ban frc bytesOf a t.2 t.1)
    { res := { ids := x.ids, bytes := x.bytes, pend := x.passBack } }
  { a with res := { a.res with hold := if fin || a.res.fin.isSome then 0 else holdBack stop (toNats a.res.pend) } }

/-- Bytes that follow the first `n`. -/
def lastN (n : Nat) (b : List Byte) : List Byte := b.drop (b.length - n)

/-- The pass of a descriptor that the Sieve does not examine (R116): what the stream's earlier passes left. -/
def Stream.noPass (x : Stream) : PassRes := { ids := x.ids, bytes := x.bytes }

/-- The state that waiting CONSTRAINTs are answered against, taken before a pass that they come before (R58). -/
def State.snapCons (s : State) (x : Stream) (before : Req → Bool) : State :=
  let halt := x.passEnd == .stop || x.passEnd == .block
  { s with reqs := s.reqs.map (fun r =>
      if r.pitch == x.pitch && r.session == x.session && r.kind == 3 && r.openAtArrival && r.con.isNone && before r
      then { r with con := some (x.ids, halt, x.serving, x.epoch) } else r) }

/-- The pass of an open stream's descriptor. -/
def State.passOpen (s : State) (r : Req) (x : Stream) : State :=
  let d : Desc := r.desc
  let ents := s.streamEnts x.pitch x.serving x.epoch
  let bytesOf (id : Nat) : List Byte := ((s.outTable x.pitch x.epoch).map (·.tokBytes id)).getD []
  let a := runPass (ents 2) (ents 3) (ents 4) bytesOf x r.toks d.endBit
  let s : State := s.snapCons x (fun q => q.before r)
  let fin : StreamEnd := match a.res.fin with
    | some (.stop _ _ _) => .stop
    | some (.block _) => .block
    | none => if d.endBit then .closed else .open
  let s : State := s.updStream x.pitch x.session (fun y => { y with
    ids := a.res.ids, bytes := a.res.bytes, passBack := lastN a.res.hold a.res.pend, passEnd := fin })
  let s : State := s.updReq r.pitch r.session r.tag (fun q => { q with pass := some a.res })
  let waits := (List.range a.res.examined).map (fun k => (⟨x.pitch, x.chain, 0, r.session, r.tag, k⟩ : TokWait))
  let s : State := { s with toks := s.toks ++ waits }
  let l := s.lastStage x.pitch x.chain
  let s : State := s.bumpAt .svePassesCount l
  let s : State := s.bumpAt .sveStopsCount l a.stops
  let s : State := s.bumpAt .sveBannedCount l a.banned
  s.bumpAt .sveForceDevCount l a.devs

/-- ARRIVAL_PASS_COMPLETE (R115, R116). A descriptor after one that ended the stream is not examined; what it ends with is
decided with that descriptor's resolve. -/
def passStep (p sess tag : Nat) (s : State) : State :=
  match s.req? p sess tag with
  | none => s
  | some r =>
    if !(r.kind == 2 && r.seq != 0 && r.pass.isNone && r.failed.isNone && s.earlierAll r (fun q => q.pass.isSome || q.failed.isSome)
        && (r.afterEnd.isSome || !s.tokTableWait r))
    then s else
    if r.afterEnd.isSome then s.updReq p sess tag (fun q => { q with pass := some {} }) else
    match s.stream? p sess with
    | none => s.failTok r (eDesc 7 0)
    | some x =>
      if x.passEnd == .open && x.finEnd == .open then s.passOpen r x
      else s.updReq p sess tag (fun q => { q with pass := some x.noPass })

/-! ### Chain stages (R195) -/

/-- Chain and stage of a stall, once the chain's stages hold their roles (R18). -/
def State.stageOf (s : State) (i : Nat) : Option (ChainSt × Nat) :=
  (s.chains.find? (fun c => c.active && s.chainLoaded c && c.stalls.contains i)).map (fun c => (c, (c.stalls.findIdx? (· == i)).getD 0))

/-- The session served next at a stage: the one after the last served, going round by session id. -/
def nextSession (last : Nat) (xs : List Nat) : Option Nat :=
  let least (ys : List Nat) : Option Nat := ys.foldl (fun (a : Option Nat) y => match a with
    | none => some y
    | some b => some (min b y)) none
  match least (xs.filter (fun y => decide (last < y))) with
  | some y => some y
  | none => least xs

/-- What a stage counts of a token (R172 to R174, R179, R210): its slice's rows, each once per tile, the engine's counts, the live
counts of its layers. -/
def State.countStage (s : State) (i n st : Nat) (t : TokWait) : State :=
  match s.stream? t.pitch t.session, (s.req? t.pitch t.session t.tag).bind (·.pass) with
  | some x, some ps =>
    match s.streamModel x with
    | none => s
    | some m =>
      let toks := ps.ids.take (ps.ids.length - ps.examined + t.idx + 1)
      match (streamRun (s.genAt x.pitch x.epoch) m (summaryTaps x.summary) toks).getLast? with
      | none => s
      | some a =>
        let ls := m.sliceOf n st
        let k := (a.counts.filter (fun y => ls.contains y.1)).foldl (fun (k : MxeCount) y => k.add y.2) {}
        let s : State := ((s.bump .mxeRowsCount i (m.tilesIn ls)).countEngine i k).noteFormats i m ls
        s.countSlots x.pitch x.serving x.epoch (a.tally.filter (fun y => ls.contains y.1))
  | _, _ => s

/-- CHAIN_STAGE_SERVE: one token of the next session in turn. -/
def serveStep (i : Nat) (s : State) : State :=
  match s.stageOf i with
  | none => s
  | some (c, st) =>
    let here (t : TokWait) : Bool := t.pitch == c.pitch && t.chain == c.idx && t.stage == st
    let ts := s.toks.filter here
    match nextSession (((s.rr.find? (·.1 == i)).map (·.2)).getD 0) (ts.map (·.session)) with
    | none => s
    | some sess =>
      match s.toks.findIdx? (fun t => here t && t.session == sess) with
      | none => s
      | some k =>
        match s.toks[k]? with
        | none => s
        | some t =>
          let s : State := { s with toks := s.toks.eraseIdx k, rr := (i, sess) :: s.rr.filter (·.1 != i) }
          let s : State := (s.bump .stlChainTokCount i).updStl i (fun x => { x with idleSince := s.clk.ticks })
          let s : State := (s.countStage i c.stalls.length st t).bump .mxeTilesCount i s.freeNat
          let s : State := s.tookFree
          if st + 1 < c.stalls.length then { s with toks := s.toks ++ [{ t with stage := st + 1 }] }
          else s.updReq t.pitch t.session t.tag (fun q => { q with served := q.served + 1 })

/-! ### Resolve (Tables 4-6, 5-6) -/

/-- Code of one score (R198). -/
def scoreCode (m : ModelObj) (x : F32) : Nat :=
  let reached (t : F32) : Bool := t != 0x7F800000#32 && f32Ge x t
  if f32IsNaN x || reached m.blockT then 3 else if reached m.holdT then 2 else if reached m.markT then 1 else 0

/-- Scores of tokens that follow those scored so far. -/
def scoresOf (g : Gen) (m : ModelObj) (summary : List Byte) (scored toks : List Nat) : List F32 :=
  ((streamRun g m (summaryTaps summary) (scored ++ toks)).drop scored.length).map (tokScore g.fw m)

/-- Table 5-6: code of a pass and of the model; the flag marks a stop on a held stream. -/
def combine (p : PassRes) (m : Nat) : Nat × Bool :=
  match p.fin with
  | some (.block _) => (3, false)
  | some (.stop _ _ _) => if m == 3 then (3, false) else if m == 2 then (2, true) else (4, false)
  | none => (if p.mark then max m 1 else m, false)

/-- Bytes before a stop string, and where it was completed. -/
def PassRes.stopCut (p : PassRes) : List Byte × Nat × Nat :=
  match p.fin with
  | some (.stop k b at_) => (p.pend.take at_, k, b)
  | _ => (p.pend, 0, 0)

/-- A stream's own descriptor on a stream that is not held, or whose hold is released: `pre` is released before it. -/
def resolveFree (pre : List Byte) (p : PassRes) (code : Nat) (stopHeld endBit : Bool) : Resolve :=
  let keep := lastN p.hold p.pend
  let front := p.pend.take (p.pend.length - p.hold)
  let (cutB, k, b) := p.stopCut
  if code == 3 then { code, fin := .block }
  else if code == 4 then { code, out := pre ++ cutB, stopTok := k, stopByte := b, fin := .stop }
  else if code == 2 then
    if endBit then { code, out := pre, fin := .closed }
    else if stopHeld then { code, out := pre, join := { held := cutB, isHeld := true, stopDone := true } }
    else { code, out := pre, join := { back := keep, held := front, isHeld := true } }
  else if endBit then { code, out := pre ++ p.pend, fin := .closed }
  else { code, out := pre ++ front, join := { back := keep } }

/-- A descriptor on a held stream, HOLD_ACT 0 (R39, Table 4-6). -/
def resolveHeld (j : JoinSt) (p : PassRes) (code : Nat) (endBit : Bool) : Resolve :=
  if code == 3 then { code, fin := .block }
  else if endBit then { code := 2, fin := .closed }
  else match p.fin with
    | some (.stop _ _ _) => { code := 2, join := { held := j.held ++ p.stopCut.1, isHeld := true, stopDone := true } }
    | _ => { code := 2, join := { back := lastN p.hold p.pend, isHeld := true
                                  held := j.held ++ p.pend.take (p.pend.length - p.hold) } }

/-- A descriptor on a held stream whose stop string has been completed (R101). -/
def resolveStopped (j : JoinSt) (holdAct : Nat) (endBit : Bool) : Resolve :=
  if holdAct == 1 then { code := 4, out := j.held, stopTok := 0xFFFF, fin := .stop }
  else if holdAct == 2 then { code := 3, fin := .block }
  else if endBit then { code := 2, fin := .closed }
  else { code := 2, join := j }

/-- A keep-alive (Table 2-14, Table 4-6). -/
def resolveKeep (j : JoinSt) (endBit : Bool) : Resolve :=
  if j.isHeld then (if endBit then { code := 2, fin := .closed } else { code := 2, join := j })
  else if endBit then { code := 0, out := j.back, fin := .closed } else { code := 0, join := j }

/-- What a descriptor of a live stream releases (Tables 4-6, 5-6). -/
def resolveLive (j : JoinSt) (d : Desc) (p : PassRes) (m : Nat) : Resolve :=
  let (code, stopHeld) := combine p m
  if j.stopDone then resolveStopped j d.holdAct d.endBit
  else if d.ntok == 0 then resolveKeep j d.endBit
  else if d.holdAct == 2 then { code := 3, fin := .block }
  else if d.holdAct == 1 then resolveFree j.held p code stopHeld d.endBit
  else if j.isHeld then resolveHeld j p code d.endBit
  else resolveFree [] p code stopHeld d.endBit

/-- A token of a stream that has ended (R42, R116). -/
def resolveEnded (code : Nat) : Resolve := { code, stopTok := if code == 4 then 0xFFFF else 0, fin := .open }

/-- Held bytes beyond the entry's hold area (R39). -/
def holdLimit (area : Nat) (r : Resolve) : Resolve :=
  if area < r.join.held.length then
    { r with out := [], limit := some r.join.held.length, fin := .err, join := {} }
  else r

/-- The resolve of a descriptor of an open stream. -/
def State.resolveOpen (s : State) (r : Req) (x : Stream) (p : PassRes) : State :=
  let d : Desc := r.desc
  match s.streamModel x with
  | none => s
  | some m =>
    let toks := r.toks.take p.examined
    let sc := scoresOf (s.genAt x.pitch x.epoch) m x.summary x.scored toks
    let mcode := (sc.map (scoreCode m)).foldl max 0
    let res0 := holdLimit (holdArea (s.rd .ldgPitCfgSize x.pitch)) (resolveLive x.join d p mcode)
    let scored := x.scored ++ toks
    let res : Resolve := { res0 with score := sc.getLastD 0#32, scored := toks.length, ids := x.ids, bytes := x.bytes, scoredIds := scored }
    let res := { res with ids := p.ids, bytes := p.bytes }
    let s : State := s.updStream x.pitch x.session (fun y => { y with join := res.join, finEnd := res.fin, scored })
    s.updReq r.pitch r.session r.tag (fun q => { q with resolve := some res })

/-- STREAM_RESOLVE (R116): once the model has served the descriptor's tokens, and while the last stage has its tables
(R106). -/
def resolveStep (p sess tag : Nat) (s : State) : State :=
  match s.req? p sess tag with
  | none => s
  | some r =>
    match r.pass with
    | none => s
    | some ps =>
      if !(r.kind == 2 && r.resolve.isNone && r.failed.isNone && s.earlierAll r (fun q => q.resolve.isSome || q.failed.isSome))
      then s else
      let put (c : Nat) : State := s.updReq p sess tag (fun q => { q with resolve := some (resolveEnded c), afterEnd := some c })
      match r.afterEnd, s.stream? p sess with
      | some c, _ => put c
      | none, none => s.failTok r (eDesc 7 0)
      | none, some x =>
        match x.finEnd with
        | .stop => put 4
        | .block => put 3
        | .open => if r.served < ps.examined || s.tokTableWait r then s else s.resolveOpen r x ps
        | _ => s.failTok r (eDesc 7 0)

/-! ### Release (R38, R100 to R103, R246) -/

/-- Writes of released bytes into the circular buffer from offset `off` (R38). -/
def relWrites (addr size off : Nat) (b : List Byte) : List (Nat × List Byte) :=
  if b.isEmpty || size == 0 then [] else
  let o := off % size
  let n := size - o
  (addr + o, b.take n) :: (chunks size (ceilDiv (b.length - n) size) (b.drop n)).map (fun a => (addr, a))

/-- The code a stream's end gives later descriptors: STOP 4, BLOCK 3, none for a close or an error. -/
def StreamEnd.lateCode : StreamEnd → Option Nat
  | .stop => some 4
  | .block => some 3
  | _ => none

/-- The stream is over: the entry, the chain's pin, later descriptors in flight, waiting constraints (R42, R115). -/
def State.endStream (s : State) (x : Stream) (fin : StreamEnd) : State :=
  let s : State := s.snapCons x (fun _ => true)
  let kind := if fin == .stop then 1 else if fin == .block then 2 else 0
  let s : State := s.updEntry x.pitch x.session (fun e => { e with isOpen := false, endKind := kind, back := [], held := [], stopDone := false })
  let s : State := { s with samples := s.samples.map (fun q =>
    if q.pitch == x.pitch && q.session == x.session then { q with live := false } else q) }
  let later (r : Req) : Bool := r.pitch == x.pitch && r.session == x.session && r.kind == 2 && r.resolve.isNone && r.failed.isNone
  let s : State := { s with
    toks := s.toks.filter (fun t => !(t.pitch == x.pitch && t.session == x.session))
    reqs := s.reqs.map (fun r => if later r then
      (match fin.lateCode with
       | some c => { r with afterEnd := some c }
       | none => { r with failed := some (0x40, 0, 7) }) else r) }
  (s.dropStream x.pitch x.session).flush x.pitch x.session

/-- The entry's areas of a checkpoint (R129, R194, R246). -/
def checkpointEntry (g : Gen) (x : Stream) (m : ModelObj) (r : Resolve) (released tail : Nat) (e : Entry) : Entry :=
  { e with
    state := streamStateAfter g m (summaryTaps x.summary) r.scoredIds
    sveStop := Config.automatonState m.stopId (toNats r.bytes), sveBan := Config.automatonState m.banId r.ids
    sveForce := Config.automatonState m.forceId r.ids, sveTokens := r.ids.length % 2 ^ 32
    released, tailInc := tail, stopDone := r.join.stopDone, back := r.join.back, held := r.join.held }

/-- The checkpoint of a release written to the resident entry, with its write-back (R246). The release that ends the stream
writes the same areas, and counts as no checkpoint of its own: the worked example of 10_ledger_sessions.md has CKPT_SEQ rise
by its record and its hint alone. -/
def State.checkpoint (s : State) (x : Stream) (r : Resolve) (tail : Nat) : State :=
  match s.streamModel x, s.stream? x.pitch x.session with
  | some m, some y =>
    let s : State := s.updStream x.pitch x.session (fun z => { z with saved := r })
    let s : State := s.updEntry x.pitch x.session (checkpointEntry (s.genAt x.pitch x.epoch) x m r y.released tail)
    if r.fin != .open then s else
    let s : State := s.updEntry x.pitch x.session (fun e => { e with ckptSeq := (e.ckptSeq + 1) % 2 ^ 32 })
    match s.entry? x.pitch x.session with
    | some e => s.askWb e x.epoch
    | none => s
  | _, _ => s

/-- A STREAM_TOKEN's tokens enter its stream's open sample (R212, R213); the flag tells whether any did. -/
def State.sampleToks (s : State) (r : Req) : State × Bool :=
  match s.samples.find? (fun q => q.pitch == r.pitch && q.session == r.session && q.live && q.toks.length < 256) with
  | none => (s, false)
  | some _ =>
    if r.toks.isEmpty then (s, false) else
    ({ s with samples := s.samples.map (fun q =>
        if q.pitch == r.pitch && q.session == r.session && q.live then { q with toks := (q.toks ++ r.toks).take 256 } else q) }, true)

/-- Bytes 16–31 of a STREAM_TOKEN record (Table 2-7). -/
def tokenTail (off : Nat) (r : Resolve) (tail : Nat) : List Byte :=
  leBytes 4 (off % 2 ^ 32) ++ leBytes 2 r.out.length ++ [byteOf tail, 0#8] ++ leBytes 2 r.stopTok ++ leBytes 2 r.stopByte
    ++ leBytes 4 r.score.toNat

/-- Bytes of a host-port flit (Table 1-4: 1,280 bits). -/
def flitBytes : Nat := 160

/-- The record follows the last flit of the released bytes (R55). -/
def State.afterFlits (s : State) (n : Nat) (f : State → State) : State :=
  let t := f { s with clk := { s.clk with hp := s.clk.hp + ceilDiv n flitBytes } }
  { t with clk := { t.clk with hp := s.clk.hp } }

/-- The record of a STREAM_TOKEN, its bytes before it and its checkpoint after it. TKN_JOIN_TOKENS counts every token of the
descriptor here, DESIGN CHOICE (notes/assumptions/119.md). -/
def State.releaseTok (s : State) (r : Req) (res : Resolve) : State :=
  let x? : Option Stream := if r.afterEnd.isSome then none else s.stream? r.pitch r.session
  let e? : Option Entry := s.entry? r.pitch r.session
  let off := (x?.map (·.released)).getD ((e?.map (·.released)).getD 0)
  let old := (x?.map (·.relTail)).getD []
  let rel := lastN 3 (old ++ res.out)
  let tail := if x?.isSome then tailInc rel else (e?.map (·.tailInc)).getD 0
  let s : State := match x? with
    | some x =>
      let s : State := (relWrites x.relAddr x.relSize off res.out).foldl (fun a w => a.writeMem r.pitch r.session w.1 w.2) s
      let l := s.lastStage x.pitch x.chain
      let s : State := (s.bumpAt .tknJoinTokensCount l r.toks.length).bumpAt .tknJoinBytesCount l res.out.length
      s.updStream x.pitch x.session (fun y => { y with released := y.released + res.out.length, relTail := rel })
    | none => s
  let sh : State × Bool := s.sampleToks r
  let (s, shadow) := sh
  let fl := s.recFlags { r with shadow } ||| (if tail != 0 then flTail else 0)
  let vals : RecVals := { code := some res.code, rel := some res.out.length, stScore := if res.scored != 0 then some res.score else none }
  let s : State := s.afterFlits res.out.length (fun t => t.endReq r res.code 0 fl (tokenTail off res tail) vals)
  match x? with
  | none => s.flush r.pitch r.session
  | some x =>
    let s : State := s.checkpoint x res tail
    let s : State := if res.fin != .open then
      (match s.stream? x.pitch x.session with
       | some y => s.endStream y res.fin
       | none => s) else s
    s.flush r.pitch r.session

/-- The descriptor at a stream's turn whose record is an error: late write-backs (R59), the hold area (R39). -/
def State.releaseFail (s : State) (r : Req) (res : Resolve) (late : Option Nat) : State :=
  let s : State := match res.limit with
    | some v => s.failReq r (eLimit 4 v)
    | none => match late with
      | some t => s.failLate r t 0 0
      | none => s
  let s : State := if res.fin != .open then
    (match s.stream? r.pitch r.session with
     | some y => s.endStream y res.fin
     | none => s) else s
  s.flush r.pitch r.session

/-- TOKEN_RELEASE (R56, R58, R100), exactly at its count. -/
def releaseStep (p sess tag : Nat) (s : State) : State :=
  match s.req? p sess tag with
  | none => s
  | some r =>
    match r.due, r.resolve with
    | some c, some res =>
      if r.kind != 2 || r.failed.isSome || !s.earlierAll r (fun _ => false) then s else
      s.deliverAt c (fun s =>
        let late := s.orderedWait p sess
        if res.limit.isSome || late.isSome then s.releaseFail r res late else s.releaseTok r res)
    | _, _ => s

/-! ### STREAM_OPEN (R38, R42, R124, R194) -/

/-- The entry when a STREAM_OPEN's record is written (R124, Tables 5-10, 10-2, 10-3). -/
def openEntry (fw : List Byte) (x : Stream) (m : ModelObj) (first : Nat) (e : Entry) : Entry :=
  { e with isOpen := true, cut := false, chainFirst := first, smodel := x.serving
           sveStop := 0, sveBan := 0, sveForce := 0, sveModel := x.serving, endKind := 0, sveGen := x.epoch
           sveTables := [m.stopId, m.banId, m.forceId], sveTokens := 0
           released := 0, tailInc := 0, stopDone := false, back := [], held := []
           state := m.openState fw (summaryTaps x.summary) }

/-- The STREAM_OPEN record: the stream is open from its cycle (R42). -/
def State.openStream (s : State) (r : Req) (x : Stream) (c : ChainSt) (m : ModelObj) : State :=
  let first := c.stalls.headD 0
  let sh : State × Bool := if r.sampled then s.storeSample r.pitch r.serving r.session (summaryTaps x.summary) true
    else (s, false)
  let (s, shadow) := sh
  let old := (s.entry? x.pitch x.session).map (·.endKind)
  let s : State := { s with reqs := s.reqs.map (fun q =>
    if q.pitch == x.pitch && q.session == x.session && q.kind == 3 && !q.openAtArrival && q.endBefore.isNone then { q with endBefore := old } else q) }
  let s : State := s.updEntry x.pitch x.session (openEntry (s.genAt x.pitch x.epoch).fw x m first)
  let s : State := s.updStream x.pitch x.session (fun y => { y with opened := true })
  s.endReq { r with shadow } 0 0 (s.recFlags { r with shadow })
    ([byteOf first, byteOf c.stalls.length] ++ leBytes 2 (s.rd .pitDelayTokenDelay r.pitch)) {}

/-- STREAM_OPEN_COMPLETE: the chain's stages hold their roles (R18) and the session's entry, and no write-back of an ORDERED
session is outstanding (R59). -/
def streamOpenStep (p sess : Nat) (s : State) : State :=
  match s.stream? p sess, s.reqs.find? (fun r => r.pitch == p && r.session == sess && r.kind == 1) with
  | some x, some r =>
    match s.chain? p x.chain, s.streamModel x with
    | some c, some m =>
      if x.opened || r.wantEntry || (s.entry? p sess).isNone || !s.chainLoaded c || (s.orderedWait p sess).isSome then s
      else s.openStream r x c m
    | _, _ => s
  | _, _ => s

/-! ### CONSTRAINT (R123 to R127) -/

/-- What a CONSTRAINT is answered with. -/
structure ConAns where
  forced : Option Nat
  banned : List Nat
  halt : Bool
  noStream : Bool
  ended : Bool
  deriving DecidableEq, Repr

/-- The answer's state: the open stream's, or the root (R124). -/
def State.conAnswer (s : State) (r : Req) : ConAns :=
  let q : List Nat × Bool × Nat × Nat × Bool := match r.con, (if r.openAtArrival then s.stream? r.pitch r.session else none) with
    | some (ids, h, m, e), _ => (ids, h, m, e, false)
    | none, some x => (x.ids, x.passEnd == .stop || x.passEnd == .block, x.serving, x.epoch, false)
    | none, none => ([], false, r.serving, r.epoch, true)
  let (ids, halt, model, epoch, noStream) := q
  let kind := r.endBefore.getD (((s.entry? r.pitch r.session).map (·.endKind)).getD 0)
  let ended := noStream && (kind == 1 || kind == 2)
  if halt then { forced := none, banned := [], halt, noStream, ended } else
  let forced := (forcedIn (s.streamEnts r.pitch model epoch 4) ids).map (·.1)
  { forced, banned := bannedSet (s.streamEnts r.pitch model epoch 3) ids forced (s.vocab r.pitch epoch), halt, noStream, ended }

/-- The answer block of LIST and BITMAP (R126), none with HALT (R127). -/
def conBlock (d : Desc) (vocab : Nat) (a : ConAns) : List Byte :=
  if a.halt then [] else
  match d.mode with
  | 1 => (a.banned.take d.listMax).flatMap (leBytes 4)
  | 2 =>
    let n := ceilDiv vocab 8
    fill (ceilDiv n 64 * 64) ((List.range n).map (fun k =>
      BitVec.ofNat 8 (((List.range 8).map (fun b => if a.banned.contains (8 * k + b) then 2 ^ b else 0)).sum)))
  | _ => []

/-- Bytes 16–31 of a CONSTRAINT record (Table 5-8). -/
def conTail (d : Desc) (a : ConAns) (block : List Byte) : List Byte :=
  let mask := if d.mode == 0 && !a.halt then
    ((List.range d.ncand).map (fun i => if a.banned.contains (d.cand i) then 2 ^ i else 0)).sum else 0
  let nb := if d.mode == 0 then ((List.range 16).filter (fun i => bit mask i)).length else a.banned.length
  let written := if d.mode == 1 then block.length / 4 else if d.mode == 2 then block.length else 0
  leBytes 4 (a.forced.getD 0) ++ leBytes 2 mask ++ [byteOf (b2n a.halt + 2 * b2n a.noStream + 4 * b2n a.ended), 0#8]
    ++ leBytes 4 nb ++ leBytes 4 written

/-- CONSTRAINT_ANSWER: block, then record (R47, R126). -/
def State.answerCon (s : State) (r : Req) : State :=
  let d : Desc := r.desc
  let a := s.conAnswer r
  let epoch := match r.con, s.stream? r.pitch r.session with
    | some c, _ => c.2.2.2
    | none, some x => if r.openAtArrival then x.epoch else r.epoch
    | none, none => r.epoch
  let b := conBlock d (s.vocab r.pitch epoch) a
  let s : State := if b.isEmpty then s else s.writeMem r.pitch r.session d.ansAddr b
  let s : State := s.bumpAt .sveConstraintsCount r.stall
  s.endReq r (if a.forced.isSome then 5 else 0) 0 (s.recFlags r) (conTail d a b) {}

/-- CONSTRAINT_ANSWER: once every earlier descriptor of the stream has had its pass (R58, R124), and no write-back of an
ORDERED session is outstanding (R59). -/
def conStep (p sess tag : Nat) (s : State) : State :=
  match s.req? p sess tag with
  | none => s
  | some r =>
    if r.kind == 3 && r.seq != 0 && !r.wantEntry && !s.tokTableWait r && (r.con.isSome || s.earlierAll r (fun q => q.pass.isSome || q.failed.isSome))
        && (s.orderedWait p sess).isNone then s.answerCon r
    else s

def execStreamOpenComplete (pitch : Fin 64) (session : Session) (s : State) : Result :=
  .next (streamOpenStep pitch session.toNat s)

def execArrivalPassComplete (pitch : Fin 64) (session : Session) (tag : Tag) (s : State) : Result :=
  .next (passStep pitch session.toNat tag.toNat s)

def execChainStageServe (stall : Fin 64) (s : State) : Result := .next (serveStep stall s)

def execStreamResolve (pitch : Fin 64) (session : Session) (tag : Tag) (s : State) : Result :=
  .next (resolveStep pitch session.toNat tag.toNat s)

def execTokenRelease (pitch : Fin 64) (session : Session) (tag : Tag) (s : State) : Result :=
  .next (releaseStep pitch session.toNat tag.toNat s)

def execConstraintAnswer (pitch : Fin 64) (session : Session) (tag : Tag) (s : State) : Result :=
  .next (conStep pitch session.toNat tag.toNat s)

end Sys2Proof.Machine
end

