-- ==== Sys2Proof/Machine/Roles.lean ====
section
/-! DEFINITION. Roles and power of stalls, the Shift, and what becomes of a chain whose stall goes: dissolving and
re-pinning (08_models_mappings.md R199 to R206, 15 R358, R364, 16 R377). -/

namespace Sys2Proof.Machine

/-! ### Stalls and their roles -/

/-- Chains of a pitch and stage a stall is declared in. -/
def State.chainOf (s : State) (i : Nat) : Option ChainSt := s.chains.find? (fun c => c.stalls.contains i)

/-- Work in flight that keeps a stall in its role (R18, R200): requests it holds, the Bench step under way, and for a stage of an
active chain the sessions pinned there. -/
def State.stallBusy (s : State) (i : Nat) : Bool :=
  s.reqs.any (fun r => r.stall == some i)
  || (s.rd .stlRoleRole i == 3 && (s.pit (s.rd .stlRolePitch i)).step.isSome)
  || s.chains.any (fun c => c.active && c.stalls.contains i && s.rd .stlRoleRole i == 2
      && (s.streams.any (fun x => x.pitch == c.pitch && x.chain == c.idx) || s.toks.any (fun t => t.pitch == c.pitch && t.chain == c.idx)))

/-- A stall takes a role (R18, Table 8-7). -/
def State.takeRole (s : State) (i : Nat) (g : RoleGoal) : State :=
  let s : State := ((s.wr .stlRoleRole i g.role).wr .stlRoleStage i g.stage).wr .stlRoleChain i g.chain
  let s : State := (s.wrB .stlStatusDraining i false).wrB .stlStatusLoading i false
  (s.bump .stlRoleChgCount i).updStl i (fun x => { x with goal := none, idleSince := s.clk.ticks })

def idleGoal : RoleGoal := ⟨0, 0, 0⟩

/-- A drained stall starts on its next role: Idle at once, any other after its load; one in Nap is woken for it. -/
def State.startLoad (s : State) (i : Nat) (g : RoleGoal) : State :=
  if g.role == 0 then s.takeRole i g else
  let s : State := ((s.wr .stlRoleRole i 0).wr .stlRoleStage i 0).wr .stlRoleChain i 0
  let s : State := (s.wrB .stlStatusDraining i false).wrB .stlStatusLoading i true
  s.updStl i (fun x => { x with goal := some g, power := if x.power == .nap then .waking else if x.power == .doze then .awake else x.power })

/-- A stall is given a role: it drains first when work is in flight (R201). -/
def State.giveRole (s : State) (i : Nat) (g : RoleGoal) : State :=
  if s.stallBusy i then (s.wrB .stlStatusDraining i true).updStl i (fun x => { x with goal := some g }) else s.startLoad i g

/-- Drained stalls go on to their next roles. -/
def State.settle (s : State) : State :=
  (List.range 64).foldl (fun (a : State) i =>
    match (a.stl i).goal with
    | some g => if a.rd .stlStatusDraining i == 1 && !a.stallBusy i then a.startLoad i g else a
    | none => a) s

/-- A Bench step of a pitch is over, done or discarded (R200): the stalls that wait for its end go on to their next roles. -/
def State.endStep (s : State) (p : Nat) : State := (s.updPit p (fun x => { x with step := none })).settle

/-- Stalls of a pitch that a Bench step runs on, those that leave at its end among them. -/
def State.stepStalls (s : State) (p : Nat) : List Nat :=
  (List.range 64).filter (fun i => s.rd .stlRoleRole i == 3 && s.rd .stlRolePitch i == p && s.inService i)

/-- A step whose group has fallen below 2 stalls is discarded (R200, R206). -/
def State.trimSteps (s : State) : State :=
  (List.range 64).foldl (fun (a : State) p => if (a.pit p).step.isSome && (a.stepStalls p).length < 2 then a.endStep p else a) s

/-- A stall's load ends: the role is taken, its chain becomes active with its last stage (R18, R201), and a Bench group may have
formed. -/
def State.loadDone (s : State) (i : Nat) : State :=
  match (s.stl i).goal with
  | none => s
  | some g =>
    let s : State := s.takeRole i g
    if g.role == 3 then s.beginStep (s.rd .stlRolePitch i) else
    match s.chainOf i with
    | some c => if g.role == 2 && s.chainLoaded c then s.updChain c.pitch c.idx (fun x => { x with active := true, idle := 0 }) else s
    | none => s

/-- ROLE_LOAD_COMPLETE (R18, R201). -/
def roleLoadStep (i : Nat) (s : State) : State :=
  if s.rd .stlStatusLoading i == 1 && s.inService i && (s.stl i).power != .waking then s.loadDone i else s

/-! ### Minima and maxima (R330) -/

def State.spreadAll (s : State) (p : Nat) : Nat :=
  ((List.range 64).filter (fun i => s.rd .stlRoleAlloc i == 1 && s.rd .stlRolePitch i == p && s.inService i
    && ((s.rd .stlRoleRole i == 1 && s.rd .stlStatusDraining i == 0) || ((s.stl i).goal.map (·.role)) == some 1))).length

/-- A chain's stages are on their way to it. -/
def State.chainComing (s : State) (c : ChainSt) : Bool :=
  !c.active && c.stalls.any (fun i => ((s.stl i).goal.map (fun g => g.role == 2 && g.chain == c.idx)).getD false)

/-- Chains of a pitch that are active or on their way there. -/
def State.activeChains (s : State) (p : Nat) : Nat :=
  (s.chains.filter (fun c => c.pitch == p && (c.active || s.chainComing c))).length

/-- Bench stalls of a pitch, those being loaded among them. -/
def State.benchStalls (s : State) (p : Nat) : List Nat :=
  (List.range 64).filter (fun i => s.rd .stlRoleAlloc i == 1 && s.rd .stlRolePitch i == p && s.inService i
    && (s.rd .stlRoleRole i == 3 || ((s.stl i).goal.map (·.role)) == some 3))

/-- Idle stalls of a pitch with no role to come, awake or in Doze, then those in Nap. -/
def State.idleStalls (s : State) (p : Nat) (nap : Bool) : List Nat :=
  (List.range 64).filter (fun i => s.rd .stlRoleAlloc i == 1 && s.rd .stlRolePitch i == p && s.inService i
    && s.rd .stlRoleRole i == 0 && (s.stl i).goal.isNone && ((s.stl i).power == .nap) == nap && (s.stl i).power != .waking)

/-- A stall may change to a chain's stage (Table 8-6; notes/assumptions/21.md): Idle, a Spread stall with nothing in flight, or a
Bench stall, which goes at the end of its step (R200). -/
def State.freeToChange (s : State) (p i : Nat) : Bool :=
  s.rd .stlRoleAlloc i == 1 && s.rd .stlRolePitch i == p && s.inService i && (s.stl i).goal.isNone
    && (s.rd .stlRoleRole i == 3 || !s.stallBusy i) && s.rd .stlRoleRole i != 2 && (s.stl i).power != .waking

/-- The Spread stalls a chain's activation would take leave the minimum. -/
def State.chainSpares (s : State) (p : Nat) (c : ChainSt) : Bool :=
  (((s.role? p).map (·.minSpread)).getD 0) + (c.stalls.filter (fun i => s.rd .stlRoleRole i == 1)).length ≤ s.spreadAll p

/-- The lowest-numbered inactive chain that may be activated (R201). -/
def State.chainToActivate (s : State) (p : Nat) : Option ChainSt :=
  if (((s.role? p).map (·.maxChain)).getD 0) ≤ s.activeChains p then none else
  (s.chains.filter (fun c => c.pitch == p && !c.active && !s.chainComing c && !c.dissolved && c.stalls.all (s.freeToChange p)
      && s.chainSpares p c)).foldl (fun (a : Option ChainSt) c => match a with
    | none => some c
    | some b => if c.idx < b.idx then some c else some b) none

/-- The stages of a chain are given their roles. -/
def State.loadChain (s : State) (c : ChainSt) : State :=
  (c.stalls.zipIdx).foldl (fun (a : State) x => a.giveRole x.1 ⟨2, c.idx, x.2⟩) s

/-- A chain goes inactive and its stalls in service go Idle (Table 8-6, R206). -/
def State.dropChain (s : State) (c : ChainSt) (dissolved : Bool) : State :=
  let s : State := s.updChain c.pitch c.idx (fun x => { x with active := false, idle := 0, dissolved := x.dissolved || dissolved })
  c.stalls.foldl (fun (a : State) i =>
    if a.inService i && (a.rd .stlRoleRole i == 2 || ((a.stl i).goal.map (·.role)) == some 2) then a.takeRole i idleGoal else a) s

/-! ### The review (R201, Table 8-6) -/

/-- Reset Spread stalls take their role back (R364). -/
def State.giveBack (s : State) (p : Nat) : State :=
  (List.range 64).foldl (fun (a : State) i =>
    if (a.stl i).giveBack && a.rd .stlRolePitch i == p && a.rd .stlRoleAlloc i == 1 && a.inService i && (a.stl i).goal.isNone
        && a.rd .stlRoleRole i == 0 && a.spreadAll p < ((a.role? p).map (·.maxSpread)).getD 0 then
      let a : State := a.updStl i (fun x => { x with giveBack := false })
      if (a.stl i).power == .nap then a.takeRole i ⟨1, 0, 0⟩ else a.startLoad i ⟨1, 0, 0⟩
    else a) s

/-- A chain of a pitch with no session, which Spread may take a stall of. -/
def State.spareChain (s : State) (p : Nat) : Option ChainSt :=
  if s.activeChains p ≤ ((s.role? p).map (·.minChain)).getD 0 then none
  else s.chains.find? (fun c => c.pitch == p && c.active && s.chainPins p c.idx == 0 && !c.stalls.any s.stallBusy)

/-- One Spread stall more after a deferred INTAKE. -/
def State.addSpread (s : State) (p : Nat) : State :=
  if !(s.pit p).defIntake || ((s.role? p).map (·.maxSpread)).getD 0 ≤ s.spreadAll p then s else
  let pick (xs : List Nat) : Option Nat := (rotate s.freeNat xs).head?
  match pick (s.idleStalls p false), pick (s.idleStalls p true), pick (s.benchStalls p) with
  | some i, _, _ => s.tookFree.giveRole i ⟨1, 0, 0⟩
  | none, some i, _ => s.tookFree.giveRole i ⟨1, 0, 0⟩
  | none, none, some i => s.tookFree.giveRole i ⟨1, 0, 0⟩
  | none, none, none =>
    match s.spareChain p with
    | none => s
    | some c =>
      let s : State := s.dropChain c false
      match pick c.stalls with
      | some i => s.tookFree.giveRole i ⟨1, 0, 0⟩
      | none => s

/-- One Spread stall less after 100 reviews of low use. -/
def State.cutSpread (s : State) (p : Nat) : State :=
  let n := s.spreadCount p
  let low := s.intakeUsed p < (n - 1) * s.rd .tollPitCfgIntakeDepth p
  let k := if low then (s.pit p).lowUse + 1 else 0
  let s : State := s.updPit p (fun x => { x with lowUse := if k < 100 then k else 0 })
  if k < 100 || s.spreadAll p ≤ ((s.role? p).map (·.minSpread)).getD 0 then s else
  match (rotate s.freeNat (s.stallsOf p 1)).head? with
  | some i => s.tookFree.giveRole i idleGoal
  | none => s

/-- One declared chain more after a deferred STREAM_OPEN. -/
def State.addChain (s : State) (p : Nat) : State :=
  if !(s.pit p).defOpen then s else
  match s.chainToActivate p with
  | some c => s.loadChain c
  | none => s

/-- Chains above the minimum without sessions count the reviews, and go inactive at the hundredth. -/
def State.cutChains (s : State) (p : Nat) : State :=
  (s.chains.filter (fun c => c.pitch == p && c.active && s.chainLoaded c)).foldl (fun (a : State) c =>
    if a.activeChains p ≤ ((a.role? p).map (·.minChain)).getD 0 || a.chainPins p c.idx != 0 then
      a.updChain p c.idx (fun x => { x with idle := 0 })
    else if c.idle + 1 < 100 then a.updChain p c.idx (fun x => { x with idle := x.idle + 1 })
    else a.dropChain c false) s

/-- The Assize asks for Bench stalls of a pitch: a model of it trains or is in shadow (R199, R222). -/
def State.wantsBench (s : State) (p : Nat) : Bool := s.asz.any (fun m => m.pitch == p && (m.state == .train || m.state == .shadow))

/-- Bench stalls join from Idle above the minima, and go back when the Assize needs them no more. -/
def State.reviewBench (s : State) (p : Nat) : State :=
  let rc := s.role? p
  if !s.wantsBench p then (s.benchStalls p).foldl (fun (a : State) i => a.giveRole i idleGoal) s
  else if (rc.map (·.maxBench)).getD 0 ≤ (s.benchStalls p).length || s.spreadAll p < (rc.map (·.minSpread)).getD 0
      || s.activeChains p < (rc.map (·.minChain)).getD 0 then s
  else match (rotate s.freeNat (s.idleStalls p false ++ s.idleStalls p true)).head? with
    | some i => s.tookFree.giveRole i ⟨3, 0, 0⟩
    | none => s

/-- The review of one pitch. -/
def State.reviewPitch (s : State) (p : Nat) : State :=
  let s : State := ((((s.giveBack p).addSpread p).cutSpread p).addChain p).cutChains p
  (s.reviewBench p).updPit p (fun x => { x with defIntake := false, defOpen := false })

/-- ROLE_REVIEW. -/
def roleReviewStep (s : State) : State := ((s.chr.cfgs.map (·.pitch)).foldl State.reviewPitch s.settle).beginSteps

/-! ### Doze, Nap and wakes (R75, R358) -/

/-- Class N registers of a stall take their reset values; `alsoS` those of class S as well (R365). -/
def State.resetStallRegs (s : State) (i : Nat) (alsoS : Bool) : State :=
  { s with regs := regsDrop s.regs (fun f k =>
      0x100000 ≤ f.desc.base && (f.desc.kept == .n || (alsoS && f.desc.kept == .s)) && k / f.desc.inner == i) }

/-- What a stall's T0 held is gone: poisoned copies, kept tiles and reloads of tables with it (Table 15-9). -/
def State.dropT0 (s : State) (i : Nat) : State :=
  { s with tier := { s.tier with t0bad := s.tier.t0bad.filter (·.1 != i), kept := s.tier.kept.filter (·.stall != i)
                                 reloads := s.tier.reloads.filter (fun x => x.stall != i || x.tier == 1) } }

/-- The Doze wake latency lies inside the hold margin of the pitch's per-token delay (R75, R196). -/
def State.dozeMargin (s : State) (p : Nat) : Bool :=
  match s.role? p with
  | some r => tokenDelayMin (s.genAt p (s.epoch p)) r (s.rd .tollPitCfgChainTokens p) + 1 ≤ s.rd .pitDelayTokenDelay p
  | none => false

def State.idleFor (s : State) (i us : Nat) : Bool := (s.stl i).idleSince + usTicks us ≤ s.clk.ticks

/-- A request in flight on any stage of a chain (R369). -/
def State.onChain (s : State) (c : ChainSt) (r : Req) : Bool :=
  r.pitch == c.pitch
  && ((r.kind == 1 && r.chain == some c.idx)
    || ((r.kind == 2 || (r.kind == 3 && r.openAtArrival))
        && ((s.stream? r.pitch r.session).map (·.chain)) == some c.idx))

/-- DOZE_ENTRY: of a stall with no request in flight on it or on its chain. -/
def dozeStep (i : Nat) (s : State) : State :=
  let role := s.rd .stlRoleRole i
  let quiet := !s.reqs.any (fun r => r.stall == some i || (s.chains.any (fun c => c.active && c.stalls.contains i && s.onChain c r)))
  if (s.stl i).power == .awake && s.inService i && (s.stl i).goal.isNone && s.idleFor i (s.rd .wchSleepDozeUs) && quiet
      && (role ≤ 1 || (role == 2 && s.dozeMargin (s.rd .stlRolePitch i))) then
    s.updStl i (fun x => { x with power := .doze })
  else s

/-- NAP_ENTRY. -/
def napStep (i : Nat) (s : State) : State :=
  if ((s.stl i).power == .awake || (s.stl i).power == .doze) && s.inService i && (s.stl i).goal.isNone
      && s.idleFor i (s.rd .wchSleepNapUs) && s.rd .stlRoleRole i ≤ 1 && !s.stallBusy i then
    ((s.resetStallRegs i false).dropT0 i).updStl i (fun x => { x with power := .nap })
  else s

/-- STALL_WAKE_COMPLETE: the Toll counts the stall from the next edge; one woken for a role has taken it. -/
def wakeStep (i : Nat) (s : State) : State :=
  match (s.stl i).power with
  | .waking =>
    let s : State := s.updStl i (fun x => { x with power := .awake, idleSince := s.clk.ticks })
    if (s.stl i).goal.isSome && s.rd .stlStatusLoading i == 1 then s.loadDone i else s
  | .doze => s.updStl i (fun x => { x with power := .awake, idleSince := s.clk.ticks })
  | _ => s

/-! ### Chains dissolved, sessions re-pinned (R206, R377) -/

/-- A cut entry (R245). -/
def Entry.cutNow (e : Entry) : Entry := { e with isOpen := false, cut := true, endKind := 0, back := [], held := [], stopDone := false }

/-- A stream is cut (R245, R377): the entry keeps its state, admissions give back their chain credits, later descriptors end
under R42. -/
def State.cutStream (s : State) (x : Stream) : State :=
  let s : State := { s with adms := s.adms.map (fun a =>
    if a.pitch == x.pitch && a.session == x.session && a.kind == 2 then { a with chain := none } else a) }
  let s : State := s.endStream x .closed
  s.updEntry x.pitch x.session Entry.cutNow

/-- The stream resumes from its last checkpoint on another chain (R378); a stop string completed on a held stream stays so. -/
def Stream.resume (x : Stream) (c : Nat) : Stream :=
  { x with chain := c, repin := true, join := x.saved.join, ids := x.saved.ids, bytes := x.saved.bytes
           passBack := x.saved.join.back, finEnd := .open, scored := x.saved.scoredIds
           passEnd := if x.saved.join.stopDone then .stop else .open }

/-- A stream moves to chain `c`, with the admissions charged to it. -/
def State.movePin (s : State) (x : Stream) (c : Nat) : State :=
  let s : State := s.updStream x.pitch x.session (fun y => y.resume c)
  { s with adms := s.adms.map (fun a =>
      if a.pitch == x.pitch && a.session == x.session && a.kind == 2 && a.chain == some x.chain then { a with chain := some c } else a) }

/-- Active chains of a pitch with room. -/
def State.roomyChains (s : State) (p : Nat) : List ChainSt :=
  s.chains.filter (fun c => c.pitch == p && c.active && s.chainPins p c.idx < s.rd .tollPitCfgChainSessions p)

/-- A chain for a session without one: the least pinned active one, or a declared one activated at once (R377). -/
def State.chainForPin (s : State) (p : Nat) : Option (Nat × State) :=
  match s.pickChain p (s.roomyChains p) with
  | some c => some (c, s)
  | none =>
    match s.chainToActivate p with
    | none => none
    | some c => some (c.idx, (s.loadChain c).updChain p c.idx (fun x => { x with active := true, idle := 0 }))

/-- Streams of a chain, by session id. -/
def State.streamsOn (s : State) (p c : Nat) : List Stream :=
  sortBy (fun a b => decide (a.session ≤ b.session)) (s.streams.filter (fun x => x.pitch == p && x.chain == c))

/-- The sessions of a chain that is gone are re-pinned or cut; how many of each. -/
def State.repinAll (s : State) (p c : Nat) : State × Nat × Nat :=
  (s.streamsOn p c).foldl (fun (a : State × Nat × Nat) x =>
    match a.1.chainForPin p with
    | some (k, t) => (t.movePin x k, a.2.1 + 1, a.2.2)
    | none => (a.1.cutStream x, a.2.1, a.2.2 + 1)) (s, 0, 0)

/-- A request on a stage that is lost: E_STALL_LOST, or the error it already waits to report. -/
def State.endLost (s : State) (r : Req) (i : Nat) : State :=
  match r.failed with
  | some (c, a, b) => s.endFailed r ⟨c, a, b⟩
  | none => s.failReq r ⟨0x46, i, 0⟩

/-- Requests on a stall, or on its chain, end with E_STALL_LOST, those of a stream in their order of arrival (R58). -/
def State.endStallReqs (s : State) (i : Nat) (c : Option ChainSt) : State :=
  let on (r : Req) : Bool := r.stall == some i || (c.map (fun c => s.onChain c r)).getD false
  (sortBy (fun a b => !b.before a) ((s.reqs ++ s.dups).filter on)).foldl (fun (a : State) r => a.endLost r i) s

/-- Chain, active or on its way there, of which a stall is a stage. -/
def State.activeChainOf (s : State) (i : Nat) : Option ChainSt :=
  s.chains.find? (fun c => (c.active || s.chainComing c) && c.stalls.contains i)

/-- Stalls that stop are out of service while the sessions of their chains find others: they are not free to change role. -/
def State.markStopped (s : State) (is : List Nat) (f : Nat → Bool) : State :=
  is.foldl (fun (a : State) i => a.updStl i (fun x => { x with testing := f i })) s

/-- Stalls stop (R369 steps 1 and 2): their requests end, their chains dissolve and the sessions are re-pinned. The chains
dissolved come back with the counts of their records. -/
def State.stopStalls (s : State) (is : List Nat) : State × List (ChainSt × Nat × Nat) :=
  let hit := s.chains.filter (fun c => (c.active || s.chainComing c) && c.stalls.any is.contains)
  let s : State := is.foldl (fun (a : State) i => a.endStallReqs i (a.activeChainOf i)) s
  let lost (p : Nat) : Nat := (is.filter (fun i => s.rd .stlRoleRole i == 1 && s.rd .stlRolePitch i == p)).length
  let s : State := { s with adms := s.adms.map (fun a => { a with lostStalls := a.lostStalls + lost a.pitch }) }
  let s : State := hit.foldl (fun (a : State) c => a.dropChain c false) s
  let r := hit.foldl (fun (a : State × List (ChainSt × Nat × Nat)) c =>
    let r := a.1.repinAll c.pitch c.idx
    (r.1, a.2 ++ [(c, r.2)])) (s.markStopped is (fun _ => true), [])
  (r.1.markStopped is (fun i => (s.stl i).testing), r.2)

/-- CHAIN_DISSOLVED records. -/
def State.dayChains (s : State) (cs : List (ChainSt × Nat × Nat)) : State :=
  cs.foldl (fun (a : State) c => a.day 0x1031 c.1.pitch c.1.idx c.2.1 c.2.2) s

/-- REPIN_SLICES_LOADED (R377): once the chain's stages hold their roles. -/
def repinStep (p sess : Nat) (s : State) : State :=
  match s.stream? p sess with
  | some x =>
    if x.repin && ((s.chain? p x.chain).map s.chainLoaded).getD false then s.updStream p sess (fun y => { y with repin := false }) else s
  | none => s

/-- The stall's reset (R364): class S and N registers at their reset values, no role, nothing on it. -/
def State.resetStall (s : State) (i : Nat) : State :=
  let was := s.rd .stlRoleRole i == 1 || ((s.stl i).goal.map (·.role)) == some 1
  ((s.resetStallRegs i true).dropT0 i).updStl i (fun x => { x with goal := none, lastFinal := none, giveBack := x.giveBack || was, idleSince := s.clk.ticks })

/-- WCH_STL_RESET written (R363, R364): GO resets the stall it names. -/
def State.writeStlReset (s : State) (w : Nat) : State :=
  let i := bits w 0 6
  if !bit w 31 || !s.inService i then s else
  let r := s.stopStalls [i]
  ((r.1.resetStall i).trimSteps.day 0x0010 0 i 0).dayChains r.2

/-- STALL_RESET. -/
def stallResetStep (acc : Accessor) (w : Word) (s : State) : State :=
  match s.gate acc .wchStlResetGo 0 with
  | .inl t => t
  | .inr s => s.writeStlReset w.toNat

def execRoleReview (s : State) : Result := .next (s.whileUp roleReviewStep)
def execRoleLoadComplete (stall : Fin 64) (s : State) : Result := .next (s.whileUp (roleLoadStep stall))
def execDozeEntry (stall : Fin 64) (s : State) : Result := .next (s.whileUp (dozeStep stall))
def execNapEntry (stall : Fin 64) (s : State) : Result := .next (s.whileUp (napStep stall))
def execStallWakeComplete (stall : Fin 64) (s : State) : Result := .next (s.whileUp (wakeStep stall))
def execRepinSlicesLoaded (pitch : Fin 64) (session : Session) (s : State) : Result := .next (repinStep pitch session.toNat s)
def execStallReset (acc : Accessor) (value : Word) (s : State) : Result := .next (stallResetStep acc value s)

end Sys2Proof.Machine
end

