-- ==== Sys2Proof/Machine/Homes.lean ====
section
/-! DEFINITION. Tiles as bytes, their home copies in T2 and T3 (R159, R257, R258), the tile region's use (R205, R274), and the
revisions a pitch's generations hold (R176). -/

namespace Sys2Proof.Machine

/-! ### A tile's bytes (R159 to R162) -/

/-- Element codes packed by R156. -/
def pack (fmt : Nat) (xs : List Nat) : List Byte :=
  if fmtBits fmt == 4 then (chunks 2 (xs.length / 2) xs).map (fun x => BitVec.ofNat 8 (x.getD 0 0 + 16 * x.getD 1 0))
  else xs.flatMap (leBytes (fmtBits fmt / 8))

/-- An output-block entry (R162). -/
def OutEnt.bytes (e : OutEnt) : List Byte :=
  leBytes 4 e.mOut ++ leBytes 2 e.shOut ++ leBytes 2 e.oscale ++ leBytes 8 e.bias

/-- A tile whole, header and both CRCs included (R159). -/
def Tile.bytes (t : Tile) : List Byte :=
  let csum := !t.csums.isEmpty
  let body := pack t.wfmt t.data ++ t.scales.flatMap (leBytes 2)
    ++ t.csums.flatMap (fun c => leBytes 4 (c % 2 ^ 32).toNat) ++ t.out.flatMap OutEnt.bytes
  let lens := tileLens t.wfmt t.ngroup csum t.final
  let head := leBytes 2 t.model ++ leBytes 2 t.layer ++ leBytes 2 t.trow ++ leBytes 2 t.tcol
    ++ leBytes 1 (t.wfmt + 8 * t.afmt) ++ leBytes 1 (t.gsize + 4 * b2n csum + 8 * b2n t.final) ++ leBytes 1 t.ngroup
    ++ leBytes 1 t.kValid ++ leBytes 1 t.nValid ++ leBytes 1 t.qfrac ++ leBytes 1 t.ofmt ++ leBytes 1 (t.zout % 256).toNat
    ++ leBytes 2 t.bseq ++ leBytes 2 t.ascale ++ leBytes 4 lens.1 ++ leBytes 4 lens.2.1 ++ leBytes 4 lens.2.2.1
    ++ leBytes 4 t.len ++ leBytes 20 0 ++ leBytes 4 (crc32c body)
  fill t.len (head ++ leBytes 4 (crc32c head) ++ body)

/-! ### Revisions -/

/-- The generation in force of a pitch. -/
def State.genNow (s : State) (p : Nat) : Gen := s.genAt p (s.epoch p)

/-- A generation serves an epoch of its pitch. -/
def State.genServes (s : State) (g : PitGen) (e : Nat) : Bool :=
  g.fromEpoch ≤ e && !s.gens.any (fun h => h.pitch == g.pitch && g.fromEpoch < h.fromEpoch && h.fromEpoch ≤ e)

/-- A generation is in force, or some admission, request or stream still runs under it (R176). -/
def State.genUsed (s : State) (g : PitGen) : Bool :=
  s.genServes g (s.epoch g.pitch) || (s.admsOf g.pitch).any (fun a => s.genServes g a.epoch)
    || (s.reqsOf g.pitch).any (fun r => s.genServes g r.epoch)
    || s.streams.any (fun x => x.pitch == g.pitch && s.genServes g x.epoch)

/-- Generations whose revisions are held. -/
def State.heldGens (s : State) : List PitGen := s.gens.filter s.genUsed

def State.gensOf (s : State) (p : Nat) : List Gen := (s.heldGens.filter (·.pitch == p)).map (·.gen)

/-! ### The tile region (R205, R259, R260) -/

/-- The new generation of an amendment that is STAGING or STAGED, with its pitch. -/
def State.amdStaged (s : State) : Option (Nat × Gen) :=
  if s.rd .chrAmdStatusState == 3 || s.rd .chrAmdStatusState == 4 then s.amd.gen.map (fun g => (s.rd .chrAmdStatusPitch, g)) else none

/-- Candidates whose revisions stand beside those in force. -/
def State.stagedCands (s : State) : List (Nat × Nat × List Tile) :=
  (s.asz.filter (fun a => a.staged)).map (fun a => (a.pitch, a.model, (a.cand.map (·.tiles)).getD []))

/-- Tile revisions of some generations, each once, with the bytes of their granules. -/
def tilesOf (gs : List (Nat × Gen)) : List (TileId × Nat) :=
  (gs.flatMap (fun g => (g.2.models.filter (·.pitch == g.1)).flatMap (fun m => m.tiles.map (fun t => (t.name g.1, granules t.len))))).eraseDups

/-- Bytes of the tables of some generations, each image once. -/
def tableBytes (gs : List (Nat × Gen)) : Nat :=
  ((gs.flatMap (fun g => g.2.texts)).eraseDups.map (granules ·.len)).sum
  + ((gs.flatMap (fun g => g.2.sieves)).eraseDups.map (granules ·.len)).sum
  + ((gs.flatMap (fun g => g.2.enss)).eraseDups.map (granules ·.len)).sum
  + ((gs.flatMap (fun g => g.2.stocks)).eraseDups.map (granules ·.2.len)).sum

/-- Tile-region bytes of some generations. -/
def regionBytes (gs : List (Nat × Gen)) : Nat := ((tilesOf gs).map (·.2)).sum + tableBytes gs

/-- Generations held, by pitch. -/
def State.heldBy (s : State) : List (Nat × Gen) := s.heldGens.map (fun g => (g.pitch, g.gen))

/-- Tile revisions that lie in the tile region. -/
def State.tileSet (s : State) : List (TileId × Nat) := tilesOf (s.heldBy ++ s.amdStaged.toList)

/-- Bytes of the tile region in use but for a staged amendment: every generation's tiles and tables, and staged candidates. -/
def State.heldBytes (s : State) : Nat :=
  regionBytes s.heldBy + ((s.stagedCands.flatMap (·.2.2)).map (fun t => granules t.len)).sum

/-- Bytes of the tile region in use (R205). -/
def State.tileBytes (s : State) : Nat :=
  regionBytes (s.heldBy ++ s.amdStaged.toList) + ((s.stagedCands.flatMap (·.2.2)).map (fun t => granules t.len)).sum

/-- Retired cellar banks (R21, R272). -/
def State.banksOut (s : State) : List Nat := (List.range 64).filter s.bankOut

/-- Tile region in MiB, less its retired banks. -/
def State.tileCap (s : State) : Nat :=
  1024 - 64 * s.rd .tierRegionLedger - 16 * (s.banksOut.filter (fun b => !s.ledgerBank b)).length

/-- Banks of the tile region in service, in turn (R260). -/
def State.tileBanks (s : State) : List Nat := (List.range 64).filter (fun b => !s.ledgerBank b && !s.bankOut b)

/-- A tile revision has a granule in a bank (R260): its granules go to the banks in turn from an open place on. -/
def State.tileIn (s : State) (bank : Nat) (t : TileId) (bytes : Nat) : Bool :=
  let bs := s.tileBanks
  (List.range (min bs.length (bytes / 512))).any (fun k =>
    bs[(Config.tileStart [t.pitch, t.model, t.layer, t.trow, t.tcol, t.bseq] + k) % bs.length]? == some bank)

/-! ### What a stall's T0 holds (R259) -/

/-- A stall whose T0 holds what its role needs: not in Nap, and not being woken. -/
def State.t0Held (s : State) (i : Nat) : Bool :=
  s.rd .stlRoleAlloc i == 1 && ((s.stl i).power == .awake || (s.stl i).power == .doze)

/-- Stages of the chain of a stall, and its own. -/
def State.stageIn (s : State) (i : Nat) : Option (Nat × Nat) :=
  (s.chains.find? (fun c => c.stalls.contains i)).map (fun c => (c.stalls.length, (c.stalls.findIdx? (· == i)).getD 0))

/-- Objects that a generation puts into the T0 of a stall in its role. -/
def State.roleObjs (s : State) (i : Nat) (g : Gen) : List T0Obj :=
  match s.cfg? (s.rd .stlRolePitch i), s.rd .stlRoleRole i, s.stageIn i with
  | some c, 1, _ => g.spreadObjs c
  | some c, 2, some (n, st) => g.stageObjs c n st
  | _, _, _ => []

/-- Tiles of a candidate that a stall's role holds. -/
def State.candObjs (s : State) (i m : Nat) (ts : List Tile) : List T0Obj :=
  let p := s.rd .stlRolePitch i
  let g := s.genNow p
  (s.roleObjs i (g.withTiles p m ts)).filter (fun o => match o with
    | .tile t _ => t.model == m && !g.holds t
    | .table _ _ _ _ => false)

/-- Tiles of staged candidates that a stall's role holds. -/
def State.roleCands (s : State) (i : Nat) : List T0Obj :=
  (s.stagedCands.filter (·.1 == s.rd .stlRolePitch i)).flatMap (fun c => s.candObjs i c.2.1 c.2.2)

/-- Stream requests in flight on a stall's chain. -/
def State.streamsAt (s : State) (i : Nat) : Nat :=
  (s.reqs.filter (fun r => r.kind == 2 && (match s.stream? r.pitch r.session, s.chains.find? (fun c => c.stalls.contains i) with
    | some x, some c => x.pitch == c.pitch && x.chain == c.idx
    | _, _ => false))).length

/-- Bytes of T0 counted against a stall (R259): the objects of its role in every generation held or staged, its staging area, the
working space of its requests, and on a stage the state slices of CHAIN_SESSIONS sessions. -/
def State.t0Used (s : State) (i : Nat) : Nat :=
  let p := s.rd .stlRolePitch i
  if !s.t0Held i || s.rd .stlRoleRole i == 0 then 0 else
  let gs := s.gensOf p ++ (s.amdStaged.toList.filter (·.1 == p)).map (·.2)
  objBytes ((gs.flatMap (s.roleObjs i) ++ s.roleCands i).eraseDups) + 262144
    + Config.workBytes * (s.intakesOn i + (if s.rd .stlRoleRole i == 2 then s.streamsAt i else 0))
    + (if s.rd .stlRoleRole i == 2 then sliceBytes (s.genNow p) p (s.rd .tollPitCfgChainSessions p) else 0)

/-- The PREFER_T1 tiles that stay in a stall's T0: the most recently used that what is counted leaves room for (R259). -/
def State.keptFit (s : State) (i : Nat) : List KeptTile :=
  let mine := s.tier.kept.filter (fun k => k.stall == i && (s.gensOf k.tile.pitch).any (·.holds k.tile))
  let room := 4 * 2 ^ 20 - s.t0Used i
  (mine.foldr (fun k (a : List KeptTile × Nat) => if a.2 + k.bytes ≤ room then (k :: a.1, a.2 + k.bytes) else (a.1, room + 1)) ([], 0)).1

/-- Kept tiles that no longer fit go, least recently used first. -/
def State.trimKept (s : State) (i : Nat) : State :=
  { s with tier := { s.tier with kept := s.tier.kept.filter (·.stall != i) ++ s.keptFit i } }

/-- A tile comes to be kept in a stall's T0, or is used there once more. -/
def State.keep (s : State) (i : Nat) (t : TileId) (bytes : Nat) : State :=
  State.trimKept { s with tier := { s.tier with
    kept := s.tier.kept.filter (fun k => !(k.stall == i && k.tile == t)) ++ [⟨i, t, bytes⟩] } } i

def State.isKept (s : State) (i : Nat) (t : TileId) : Bool := s.tier.kept.any (fun k => k.stall == i && k.tile == t)

/-! ### The stream prefetcher (R261) -/

/-- The tiles an intake request's prefetcher walks, in the order the engine consumes them, with their bytes: every tile of its
model in its generation but those held in T0. -/
def State.walkList (s : State) (r : Req) : List (TileId × Nat) :=
  match s.modelOf r with
  | none => []
  | some m => ((List.range m.nlayer).filter (fun l => !(s.genAt r.pitch r.epoch).inT0 r.pitch m.model l)).flatMap (fun l =>
      (m.columns l).flatMap (fun c => c.map (fun t => (t.name r.pitch, t.len))))

/-- Reads into a stall's staging area that have not completed. -/
def State.aheadOn (s : State) (i : Nat) : List TileId := (s.reqs.filter (fun r => r.stall == some i)).flatMap (·.fetch)

/-- Bytes of a tile revision held. -/
def State.tileLen (s : State) (t : TileId) : Nat :=
  (((s.gensOf t.pitch).filterMap (fun g => g.tile? t.pitch t.model t.layer t.trow t.tcol)).find? (fun x => x.bseq == t.bseq)).map (·.len) |>.getD 0

/-- A request's reads go on while the stall's staging area has room: at most 32 tiles or 256 KiB. A tile kept in T0 is not read
again. -/
def State.fetchMore (s : State) (i p sess tag : Nat) : Nat → State
  | 0 => s
  | n + 1 =>
    match s.req? p sess tag with
    | none => s
    | some r =>
      let list := s.walkList r
      match list[r.walk % list.length]? with
      | none => s
      | some (t, len) =>
        let step (a : State) (f : List TileId) : State := a.updReq p sess tag (fun q => { q with walk := q.walk + 1, fetch := q.fetch ++ f })
        if s.isKept i t then (step (s.keep i t len) []).fetchMore i p sess tag n
        else if 32 ≤ (s.aheadOn i).length || 262144 < ((s.aheadOn i).map s.tileLen).sum + len then s
        else (step s [t]).fetchMore i p sess tag n

/-- The prefetcher of a stall goes on for the requests whose encoder is at work, pass after pass over their tile lists. -/
def State.refill (s : State) (i : Nat) : State :=
  (s.reqs.filter (fun r => r.kind == 0 && r.stall == some i && !r.decided && Desc.totalLen r.desc != 0)).foldl (fun (a : State) r =>
    a.fetchMore i r.pitch r.session r.tag ((s.walkList r).length + 32)) s

/-! ### Home areas (R257, R258) -/

/-- Tiles of a pitch that an area holds, in order of model, layer, TROW and TCOL, with their offsets. -/
def Gen.homeTiles (g : Gen) (p : Nat) (src : HomeSrc) : List (Tile × Nat) :=
  let want (m : ModelObj) (t : Tile) : Bool :=
    let h := g.hint m t.layer
    match src with
    | .t2 => h.1 == 2
    | .t3 => h.1 == 3
    | .mirror => (h.1 == 2 || h.1 == 3) && h.2
    | .device => false
  let ms := sortBy (fun a b => decide (a.model ≤ b.model)) (g.models.filter (·.pitch == p))
  let ts := ms.flatMap (fun m => sortBy (fun a b =>
    decide (a.layer < b.layer ∨ (a.layer = b.layer ∧ (a.trow < b.trow ∨ (a.trow = b.trow ∧ a.tcol ≤ b.tcol))))) (m.tiles.filter (want m)))
  (ts.foldl (fun (a : List (Tile × Nat) × Nat) t => (a.1 ++ [(t, a.2)], a.2 + ceilDiv t.len 256 * 256)) ([], 0)).1

/-- Bytes an area's tiles take. -/
def Gen.homeLen (g : Gen) (p : Nat) (src : HomeSrc) : Nat :=
  ((g.homeTiles p src).map (fun x => ceilDiv x.1.len 256 * 256)).sum

/-- Base address and size in MiB of a pitch's tile home area. -/
def State.homeArea (s : State) (p : Nat) (src : HomeSrc) : Nat × Nat :=
  match src with
  | .t2 => (s.addrPair .tierPitT2LoAddr .tierPitT2HiAddr p, s.rd .tierPitT2SizeMib p)
  | .t3 => (s.addrPair .tierPitT3LoAddr .tierPitT3HiAddr p, s.rd .tierPitT3CfgMib p)
  | .mirror => (s.addrPair .tierPitMrLoAddr .tierPitMrHiAddr p, s.rd .tierPitMrCfgMib p)
  | .device => (0, 0)

def State.homePool (s : State) (p : Nat) (src : HomeSrc) : Nat :=
  if src == .mirror then s.rd .tierPitMrCfgPool p else s.rd .tierPitT3CfgPool p

/-- Bytes of a tile written to a home area at an offset. -/
def State.writeHome (s : State) (p : Nat) (src : HomeSrc) (t : Tile) (off : Nat) : State :=
  let a := (s.homeArea p src).1 + off
  if src == .t2 then s.emit (.t2Write p a t.bytes) else s.poolWrite p 0 (s.homePool p src) a t.bytes

/-- The generation whose tiles the home areas of a pitch hold: that of a STAGED amendment, or the one in force, under the revisions
that candidates have staged (R223, R342). -/
def State.homeGen (s : State) (p : Nat) : Gen :=
  let g := match s.amdStaged with
    | some (q, g) => if q == p && s.rd .chrAmdStatusState == 4 then g else s.genNow p
    | none => s.genNow p
  (s.stagedCands.filter (·.1 == p)).foldl (fun (a : Gen) c => a.withTiles p c.2.1 c.2.2) g

/-- The home areas of a pitch go from one generation's layout to another's: every tile whose revision or place differs is written
(R223, R258). -/
def State.rewriteHomes (s : State) (p : Nat) (old new : Gen) : State :=
  [HomeSrc.t2, .t3, .mirror].foldl (fun (a : State) src =>
    ((new.homeTiles p src).filter (fun x => !(old.homeTiles p src).contains x)).foldl (fun (b : State) x => b.writeHome p src x.1 x.2) a) s

/-- A change after which the home areas of an enabled pitch hold what they hold by `homeGen` (R223, R258): a staged revision goes
in, one that is dropped gives way to the revision in force. A pitch that is not enabled has its home copies written when it is. -/
def State.withHomes (s : State) (p : Nat) (f : State → State) : State :=
  let t := f s
  if t.rd .pitStatusEnabled p == 1 then t.rewriteHomes p (s.homeGen p) (t.homeGen p) else t

/-- The tile home areas hold what a generation places in them (R258). -/
def State.homesFit (s : State) (p : Nat) (g : Gen) : Bool :=
  [HomeSrc.t2, .t3, .mirror].all (fun h => g.homeLen p h ≤ (s.homeArea p h).2 * 2 ^ 20)
    && !(s.rd .tierPitMrCfgMib p != 0 && s.rd .tierPitT3CfgMib p != 0 && s.rd .tierPitMrCfgPool p == s.rd .tierPitT3CfgPool p)

/-- Tier number of a source; the charter device lies in none of the four tiers. -/
def HomeSrc.tier (h : HomeSrc) : Option Nat :=
  match h with
  | .t2 => some 2
  | .t3 | .mirror => some 3
  | .device => none

/-- The tile, with its offset, that a home area holds at a place. -/
def State.homeTile? (s : State) (t : TileId) (src : HomeSrc) : Option (Tile × Nat) :=
  ((s.homeGen t.pitch).homeTiles t.pitch src).find? (fun x => x.1.model == t.model && x.1.at t.layer t.trow t.tcol)

/-- A source holds this revision (R257, R271): a home area of an enabled pitch as it stands, the charter device where the tile is the
charter's. -/
def State.srcHolds (s : State) (g : Gen) (t : TileId) (src : HomeSrc) : Bool :=
  let mine := g.tile? t.pitch t.model t.layer t.trow t.tcol
  match src with
  | .device => mine.isSome && s.chr.charterGen.tile? t.pitch t.model t.layer t.trow t.tcol == mine
  | _ => s.rd .pitStatusEnabled t.pitch == 1 && mine.isSome && (s.homeTile? t src).map (·.1) == mine

/-- Sources a lost T1 copy is restored from, in order (R257, R269), by the placement of the generation that holds it (R256). -/
def State.homeSrcs (s : State) (t : TileId) : List HomeSrc :=
  let gs := s.genNow t.pitch :: s.gensOf t.pitch
  match gs.find? (·.holds t) with
  | none => []
  | some g =>
    match g.model? t.pitch t.model with
    | none => []
    | some m =>
      let h := g.hint m t.layer
      let all : List HomeSrc := if h.1 == 2 then .t2 :: (if h.2 then [.mirror] else [])
        else if h.1 == 3 then .t3 :: (if h.2 then [.mirror] else []) else [.device]
      all.filter (s.srcHolds g t)

/-- The read of a restore is issued. -/
def State.readHome (s : State) (t : TileId) (src : HomeSrc) : State :=
  let at? := s.homeTile? t src
  let a := (s.homeArea t.pitch src).1 + ((at?.map (·.2)).getD 0)
  let len := (at?.map (fun x => x.1.len)).getD 0
  match src with
  | .t2 => s.emit (.t2Read t.pitch a len)
  | .t3 | .mirror => s.poolRead t.pitch 0 (s.homePool t.pitch src) a len true
  | .device => s.emit (.deviceTile t.pitch t.model t.layer t.trow t.tcol)

end Sys2Proof.Machine
end

