-- ==== Sys2Proof/Machine/Assize.lean ====
section
/-! DEFINITION. The Assize: windows, training steps, shadow evaluation, staging, commits and the export (09_assize.md). -/

namespace Sys2Proof.Machine

/-! ### Models, slots and samples -/

def State.asz? (s : State) (p m : Nat) : Option AszModel := s.asz.find? (fun a => a.pitch == p && a.model == m)

/-- Slots of a model in force, with their register index (R208). -/
def State.slotsOf (s : State) (p m : Nat) : List (Nat × CalibSlot) :=
  ((s.genNow p).calib.filter (fun c => c.pitch == p && c.model == m)).filterMap (fun c => (s.slotOf p m c.layer).map (fun i => (i, c)))

/-- Samples of a kind of a model. -/
def State.samplesOf (s : State) (p m : Nat) (train : Bool) : List Sample :=
  s.samples.filter (fun x => x.pitch == p && x.model == m && x.train == train)

/-- A cycle is under way, as ASZ_STATUS.BUSY reports it: TRAIN to READY, DESIGN CHOICE (notes/assumptions/122.md). -/
def AszState.cycling (x : AszState) : Bool := x == .train || x == .shadow || x == .staging || x == .ready

/-- The final tile of a tile column. -/
def ModelObj.finalOf (m : ModelObj) (l j : Nat) : Option Tile := (m.column l j).find? (·.final)

/-- Tile columns of a layer that share one SCALE and one ZP: pairs when the consuming group is 128 (R166, R214). -/
def ModelObj.scaleHeads (m : ModelObj) (l : Nat) : List Nat :=
  (List.range (m.columns l).length).filter (fun j => !(groupSize (m.consumer l) == 128 && j % 2 == 1))

def ModelObj.headOf (m : ModelObj) (l j : Nat) : Nat := if groupSize (m.consumer l) == 128 then j / 2 * 2 else j

/-! ### Master values (R214, R215) -/

/-- The number an F32 stands for; 0 for a NaN or an infinity. -/
def dyOf (x : F32) : Dy := ((f32Val x).dy?).getD .zero

/-- log2 of a positive BF16, rounded to F32. -/
def log2F32 (code : Nat) : F32 :=
  match (bf16Val code).dy? with
  | some v => f32DivDy ⟨(fxLn v).natAbs, 0⟩ ⟨fxLn2, 0⟩ (fxLn v < 0)
  | none => f32NaN

/-- 2^u as a BF16. -/
def pow2Bf16 (u : F32) : Nat :=
  match (f32Val u).dy? with
  | some d => fmtBF16.roundDy (expDy ⟨d.m * fxLn2, d.e - fxP⟩)
  | none => 0

/-- Real bias of an output column: Q-acc units × 2^−F on the integer path, F32 on the others. -/
def biasReal (t : Tile) (n : Nat) : F32 :=
  let b := (t.out.getD n ⟨0, 0, 0, 0⟩).bias
  if isIntFmt t.wfmt then f32OfDy ⟨signedOf 64 b, -(t.qfrac : Int)⟩ else BitVec.ofNat 32 (b % 2 ^ 32)

/-- M_OUT and SH_OUT of an ASCALE on a binary point F (R215). -/
def outScale (ascale F : Nat) : Nat × Int :=
  let ma := 128 + ascale % 128
  let ea : Int := (bits ascale 7 8 : Int) - 127
  let k : Nat := if ma == 128 then 38 else 39
  (rneDiv (2 ^ k) ma, (k : Int) - 7 + ea + F)

/-- Parameters of a slot from the tiles in force and the tiles of the charter, in Table 9-2 order. -/
def slotParams (i : Nat) (c : CalibSlot) (m m0 : ModelObj) : List AszParam :=
  let now (j : Nat) : Option Tile := m.finalOf c.layer j
  let was (j : Nat) : Tile := (m0.finalOf c.layer j).getD ((now j).getD (tileRead []))
  let heads := (m.scaleHeads c.layer).filterMap (fun j => (now j).map (fun t => (j, t)))
  let all := (List.range (m.columns c.layer).length).filterMap (fun j => (now j).map (fun t => (j, t)))
  (if c.scale then heads.map (fun x => { slot := i, kind := .scale, tcol := x.1, u := log2F32 x.2.ascale, u0 := log2F32 (was x.1).ascale }) else [])
  ++ (if c.zp then heads.map (fun x => { slot := i, kind := .zp, tcol := x.1, u := f32OfInt x.2.zout, u0 := f32OfInt (was x.1).zout }) else [])
  ++ (if c.bias then all.flatMap (fun x => (List.range x.2.nValid).map (fun n =>
      { slot := i, kind := .bias, tcol := x.1, col := n, u := biasReal x.2 n, u0 := biasReal (was x.1) n })) else [])

/-- A QSTEP of a tile column may be made (R214). -/
def qstepOk (f : Tile) : Bool := f.qfrac != 0 && (List.range f.nValid).all (fun n => (f.out.getD n ⟨0, 0, 0, 0⟩).shOut != 0)

/-- One output-block entry after a QSTEP, a new ASCALE and a new BIAS. -/
def newEntry' (f : Tile) (lower : Bool) (scale : Option Nat) (bias : Option F32) (n : Nat) : OutEnt :=
  let e := f.out.getD n ⟨0, 0, 0, 0⟩
  if f.nValid ≤ n then e else
  let F := f.qfrac - b2n lower
  let e1 : OutEnt := match scale with
    | some a => { e with mOut := (outScale a F).1, shOut := (outScale a F).2.toNat }
    | none => { e with shOut := e.shOut - b2n lower }
  let b := match bias with
    | some u =>
      if isIntFmt f.wfmt then (match (f32Val u).dy? with
        | some d => (satInt ((d.scale F).rneToInt) 64 % 2 ^ 64).toNat
        | none => e.bias)
      else u.toNat
    | none => if lower && isIntFmt f.wfmt then (rneInt (signedOf 64 e.bias) 1 % 2 ^ 64).toNat else e.bias
  { e1 with bias := b }

/-- A tile of a slot's layer under the master values (R214, R215). -/
def candTile (c : CalibSlot) (i : Nat) (m : ModelObj) (ps : List AszParam) (lower : Bool) (t : Tile) : Tile :=
  match m.finalOf c.layer t.tcol with
  | none => t
  | some f =>
    let mine (k : ParamKind) (j n : Nat) : Option F32 :=
      (ps.find? (fun p => p.slot == i && p.kind == k && p.tcol == j && p.col == n)).map (·.u)
    let low := lower && qstepOk f
    let t1 := { t with qfrac := t.qfrac - b2n low }
    if !t.final then t1 else
    let h := m.headOf c.layer t.tcol
    let sc := (mine .scale h 0).map pow2Bf16
    let z := match mine .zp h 0, intRange t.ofmt with
      | some u, some (lo, hi) => ((f32Val u).dy?.map (fun d => clampInt d.rneToInt lo hi)).getD t.zout
      | _, _ => t.zout
    { t1 with ascale := sc.getD t.ascale, zout := z
              out := (List.range t.out.length).map (fun n => newEntry' f low sc (mine .bias t.tcol n) n) }

/-- The model under a cycle's master values, BSEQ as in force. -/
def candModel (slots : List (Nat × CalibSlot)) (ps : List AszParam) (lower : List Nat) (m : ModelObj) : ModelObj :=
  { m with tiles := m.tiles.map (fun t => match slots.find? (fun x => x.2.layer == t.layer) with
      | some (i, c) => candTile c i m ps (lower.contains i) t
      | none => t) }

/-! ### Passes, loss and gradients (R217, R218) -/

/-- num / den rounded to an integer, ties to even. -/
def rneQ (num den : Int) : Int :=
  let q := rneDiv num.natAbs den.natAbs
  if (num < 0) == (den < 0) then q else -q

/-- One element: its column, pre-requantisation value, ŷ − y_ref, and the derivatives by ASCALE × ASCALE, by ZOUT and by
BIAS (Table 9-3). -/
structure ElGrad where
  tcol : Nat
  col : Nat
  y : Dy
  err : Dy
  dsS : Dy
  dz : Dy
  dy : Dy
  deriving DecidableEq, Repr

/-- Table 9-3 for one element under a tile; a group under the constant marker yields its c. -/
def elGrad (f : Tile) (konst : Option Nat) (e : BenchEl) : ElGrad :=
  let y := e.y
  let ref := dyOf e.yref
  match intRange f.ofmt, konst with
  | none, _ => ⟨e.tcol, e.col, y, (e.hat.getD .zero).sub ref, .zero, .zero, .ofInt 1⟩
  | some _, some c => ⟨e.tcol, e.col, y, (((bf16Val c).dy?).getD .zero).sub ref, .zero, .zero, .zero⟩
  | some (lo, hi), none =>
    let s : Dy := ((bf16Val f.ascale).dy?).getD .zero
    let z := f.zout
    let b := min y.e s.e
    let x := satInt (rneQ (y.at b + z * s.at b) (s.at b)) 64
    let xc := clampInt x lo hi
    let hat := s.mul (.ofInt (xc - z))
    if x == xc then ⟨e.tcol, e.col, y, hat.sub ref, (s.mul (.ofInt (x - z))).sub y, .zero, .ofInt 1⟩
    else ⟨e.tcol, e.col, y, hat.sub ref, s.mul (.ofInt (xc - z)), s.neg, .zero⟩

/-- Both passes of a model over samples, those that yield a NaN left out (R218). -/
def benchRuns (g : Gen) (m : ModelObj) (xs : List Sample) : List BenchAcc := (xs.map (benchRun g m)).filter (fun r => !r.nan)

/-- The elements of a slot's layer over the passes of a batch. -/
def slotEls (g : Gen) (m : ModelObj) (c : CalibSlot) (rs : List BenchAcc) : List ElGrad :=
  rs.flatMap (fun r => (r.els.filter (·.1 == c.layer)).filterMap (fun e =>
    (m.finalOf c.layer e.2.tcol).map (fun f =>
      elGrad f (g.marker m c.layer ((64 * e.2.tcol + e.2.col) / groupSize (m.consumer c.layer))) e.2)))

/-- A sum of squares over a count: a slot's loss as numerator and denominator (R218). -/
def slotLoss (els : List ElGrad) : Dy × Nat := ((els.map (fun e => e.err.mul e.err)).foldl Dy.add .zero, els.length)

/-- The model's loss: the sum of its slots' means, rounded once to F32. -/
def modelLoss (ls : List (Dy × Nat)) : F32 :=
  let t := (ls.filter (fun x => x.2 != 0)).foldl (fun (a : Dy × Nat) x =>
    ((a.1.mul (.ofInt x.2)).add (x.1.mul (.ofInt a.2)), a.2 * x.2)) (.zero, 1)
  f32DivDy t.1 (.ofInt t.2) false

/-- ∂L/∂u of a parameter, rounded once to F32 (R218). -/
def paramGrad (m : ModelObj) (c : CalibSlot) (els : List ElGrad) (p : AszParam) : F32 :=
  let n := els.length
  let mine := els.filter (fun e => match p.kind with
    | .bias => e.tcol == p.tcol && e.col == p.col
    | _ => m.headOf c.layer e.tcol == p.tcol)
  let term (e : ElGrad) : Dy := e.err.mul (match p.kind with
    | .scale => e.dsS
    | .zp => e.dz
    | .bias => e.dy)
  let sum := (mine.map term).foldl Dy.add .zero
  let num : Dy := match p.kind with
    | .scale => (sum.scale 1).mul ⟨fxLn2, -fxP⟩
    | _ => sum.scale 1
  if n == 0 then 0#32 else f32DivDy ⟨num.m.natAbs, num.e⟩ (.ofInt n) (num.m < 0)

/-! ### The update step (R219) -/

/-- The smallest exponent e ≥ −127 with top × 2^−e ≤ bound. -/
def blockExpGo (top : Dy) (bound : Int) : Nat → Int → Int
  | 0, e => e
  | k + 1, e => if (top.scale (-e)).le (.ofInt bound) then e else blockExpGo top bound k (e + 1)

def blockExp (top : Dy) (bound : Int) : Int := blockExpGo top bound 300 (-127)

/-- The gradients of a block as their E5M2 values times the block's exponent (R219). That exponent is as the formula has it, not
held to the range of an int8, DESIGN CHOICE (notes/assumptions/122.md). -/
def blockGrads (gs : List F32) : List Dy :=
  let abs (x : F32) : Dy := let d := dyOf x; ⟨d.m.natAbs, d.e⟩
  let top := (gs.map abs).foldl (fun a b => if a.lt b then b else a) .zero
  if top.m == 0 then gs.map (fun _ => Dy.zero) else
  let ge : Int := top.e + top.m.natAbs.log2 - 14
  gs.map (fun g => (((fmtE5M2.decode (fmtE5M2.roundDy ((dyOf g).scale (-ge)))).dy?).getD .zero).scale ge)

/-- Settings of a step: B1, B2, EPS of the pitch, LR of the slot. -/
structure StepCfg where
  b1 : Nat
  b2 : Nat
  eps : Nat
  lr : Nat

/-- Bounds of log2(ASCALE) that keep ASCALE a normal BF16 and SH_OUT (R215) within 0 to 63 on a binary point F: the greatest
ASCALE is 2^(32 − F), the least 129 × 2^(−39 − F), which is the BF16 of code (95 − F) × 128 + 1. -/
def scaleRange (F : Nat) : F32 × F32 :=
  let lo : F32 := f32OfInt (-126)
  let lo' : F32 := if F < 95 then log2F32 ((95 - F) * 128 + 1) else lo
  let hi : F32 := log2F32 0x7F7F
  let hi' : F32 := f32OfInt (32 - (F : Int))
  (if f32Lt lo lo' then lo' else lo, if f32Lt hi' hi then hi' else hi)

/-- Bounds of a parameter (R214), a SCALE's narrowed by the binary points of every tile column it stands for. -/
def paramBounds (c : CalibSlot) (Fs : List Nat) (p : AszParam) : F32 × F32 :=
  let u0 := dyOf p.u0
  let around (d : Dy) : F32 × F32 := (f32OfDy (u0.sub d), f32OfDy (u0.add d))
  match p.kind with
  | .zp => around (.ofInt c.zpSpan)
  | .bias => around (dyOf c.biasSpan)
  | .scale => (Fs.map scaleRange).foldl (fun (b : F32 × F32) r =>
      (if f32Lt b.1 r.1 then r.1 else b.1, if f32Lt r.2 b.2 then r.2 else b.2)) (around ⟨c.span, -4⟩)

/-- One parameter of a block: new first moment, root mean square, master value, and whether a bound held it. -/
def paramStep (k : StepCfg) (bnd : F32 × F32) (g : Dy) (p : AszParam) : F32 × F32 × F32 × Bool :=
  let m0 := dyOf p.m
  let r0 := dyOf p.r
  let mv := f32OfDy (m0.add ((g.sub m0).scale (-(k.b1 : Int))))
  let r2 := r0.mul r0
  let v := f32OfDy (r2.add (((g.mul g).sub r2).scale (-(k.b2 : Int))))
  let rv := f32Sqrt v
  let floor : Dy := ⟨1, -(k.eps : Int)⟩
  let den := if (dyOf rv).lt floor then floor else dyOf rv
  let q := dyOf (f32DivDy ⟨(dyOf mv).m.natAbs, (dyOf mv).e⟩ den ((dyOf mv).m < 0))
  let one : Dy := .ofInt 1
  let d := (if one.lt q then one else if q.lt one.neg then one.neg else q).scale (-(k.lr : Int))
  let u := f32OfDy ((dyOf p.u).sub d)
  let cl := if f32Lt u bnd.1 then bnd.1 else if f32Lt bnd.2 u then bnd.2 else u
  (mv, rv, cl, cl != u)

/-- step(blk) of R219, and how many updates a bound held. -/
def blockStep (k : StepCfg) (bnd : AszParam → F32 × F32) (ps : List AszParam) (gs : List F32) : List AszParam × Nat :=
  let xs := (ps.zip (blockGrads gs)).map (fun x => (x.1, paramStep k (bnd x.1) x.2 x.1))
  let absMax (f : F32 × F32 × F32 × Bool → F32) : Dy := (xs.map (fun x => let d := dyOf (f x.2)
                                                                      (⟨d.m.natAbs, d.e⟩ : Dy))).foldl (fun a b => if a.lt b then b else a) .zero
  let me := blockExp (absMax (·.1)) 127
  let re := blockExp (absMax (·.2.1)) 255
  (xs.map (fun x => { x.1 with
      u := x.2.2.2.1
      m := f32OfDy ⟨clampInt (((dyOf x.2.1).scale (-me)).rneToInt) (-128) 127, me⟩
      r := f32OfDy ⟨clampInt (((dyOf x.2.2.1).scale (-re)).rneToInt) 0 255, re⟩ }),
    (xs.filter (fun x => x.2.2.2.2)).length)

/-- Tile columns a SCALE or a ZP stands for: one, or a pair. -/
def ModelObj.colsOf (m : ModelObj) (l head : Nat) : List Nat :=
  (List.range (m.columns l).length).filter (fun j => m.headOf l j == head)

/-- QFRAC of the tile columns a parameter stands for, as the candidate has it. -/
def slotFracs (m : ModelObj) (c : CalibSlot) (lower : Bool) (p : AszParam) : List Nat :=
  (m.colsOf c.layer p.tcol).filterMap (fun j => (m.finalOf c.layer j).map (fun f => f.qfrac - b2n (lower && qstepOk f)))

/-- One slot's parameters after a step, in blocks of 32. -/
def slotStep (m : ModelObj) (c : CalibSlot) (lower : Bool) (k : StepCfg) (els : List ElGrad) (ps : List AszParam) : List AszParam × Nat :=
  ((chunks 32 (ceilDiv ps.length 32) ps).map (fun b =>
    blockStep k (fun p => paramBounds c (slotFracs m c lower p) p) b (b.map (paramGrad m c els)))).foldl
      (fun (a : List AszParam × Nat) r => (a.1 ++ r.1, a.2 + r.2)) ([], 0)

/-- Least and greatest output of each produced group gathered (R216). -/
def noteGroups (slot G : Nat) (els : List ElGrad) (xs : List (Nat × Nat × Dy × Dy)) : List (Nat × Nat × Dy × Dy) :=
  els.foldl (fun a e =>
    let j := (64 * e.tcol + e.col) / G
    if a.any (fun x => x.1 == slot && x.2.1 == j) then
      a.map (fun x => if x.1 == slot && x.2.1 == j then
        (slot, j, if e.y.lt x.2.2.1 then e.y else x.2.2.1, if x.2.2.2.lt e.y then e.y else x.2.2.2) else x)
    else a ++ [(slot, j, e.y, e.y)]) xs

/-! ### Bench steps (R199, R200, R222) -/

/-- The stall of a pitch's Bench group that a tile column of a model is dealt to (R199): TCOL mod the number of shards. -/
def State.benchShard (s : State) (p j : Nat) : Option Nat := (s.stepStalls p)[j % (s.stepStalls p).length]?

/-- What the engines of a Bench group count of some passes (Table 7-6): each shard the rows of its tile columns, and the format
of the last tile it ran. -/
def State.countBench (s : State) (p : Nat) (m : ModelObj) (rs : List BenchAcc) : State :=
  let on (a : State) (j : Nat) (f : State → Nat → State) : State := match a.benchShard p j with
    | some i => f a i
    | none => a
  let s : State := (rs.flatMap (·.counts)).foldl (fun (a : State) c => on a c.1 (fun b i => b.countEngine i c.2)) s
  let s : State := (rs.flatMap (·.mults)).foldl (fun (a : State) c => on a c.1 (fun b i => b.bump .mxeRowsCount i c.2)) s
  if rs.isEmpty then s else
  (List.range (s.stepStalls p).length).foldl (fun (a : State) k =>
    let mine := (List.range m.nlayer).flatMap (fun l =>
      ((m.columns l).zipIdx.filter (fun c => c.2 % (s.stepStalls p).length == k)).flatMap (·.1))
    (on a k (fun b i => (b.noteTile i mine.getLast?).bump .mxeTilesCount i b.freeNat)).tookFree) s

/-- One slot trained on the passes of a batch: its parameters and the groups seen. -/
def State.trainSlot (s : State) (p : Nat) (m : ModelObj) (rs : List BenchAcc) (a : AszModel × Nat) (x : Nat × CalibSlot) : AszModel × Nat :=
  let els := slotEls (s.genNow p) m x.2 rs
  if els.isEmpty then a else
  let k : StepCfg := ⟨s.rd .aszPitCfgB1 p, s.rd .aszPitCfgB2 p, s.rd .aszPitCfgEps p, x.2.lr⟩
  let r := slotStep m x.2 (a.1.lower.contains x.1) k els (a.1.params.filter (·.slot == x.1))
  let ps := (a.1.params.filter (·.slot != x.1)) ++ r.1
  ({ a.1 with params := ps, seenY := if x.2.const then noteGroups x.1 (groupSize (m.consumer x.2.layer)) els a.1.seenY else a.1.seenY },
    a.2 + r.2)

/-- A step over the passes of a batch (R218, R219): the parameters, the counts of steps and of bounds met; after STEPS_MAX steps
the cycle goes on to SHADOW. -/
def State.trainWith (s : State) (p m : Nat) (a : AszModel) (cm : ModelObj) (rs : List BenchAcc) : State :=
  let r := (s.slotsOf p m).foldl (s.trainSlot p cm rs) (a, 0)
  let n := a.steps + 1
  let s : State := s.bump .aszStepsCount
  let s : State := s.bump .aszBoundCount 0 r.2
  s.updAsz p m (fun _ => { r.1 with steps := n, state := if s.rd .aszPitCfg2StepsMax p ≤ n then .shadow else .train })

/-- A Bench step of a pitch ends, and its next one begins when it may (R200, R222). -/
def State.nextStep (s : State) (p : Nat) : State := (s.endStep p).beginStep p

/-- TRAIN_STEP_COMPLETE (R217 to R220, R222): the training step under way ends. A step in which every sample is left out changes
nothing (R218). -/
def trainStep (p m : Nat) (s : State) : State :=
  match s.asz? p m, (s.genNow p).model? p m, (s.pit p).step with
  | some a, some mo, some (_, true) =>
    if a.state != .train then s else
    let xs := (rotate s.freeNat (s.samplesOf p m true)).take (s.rd .aszPitCfg2Batch p)
    let cm := candModel (s.slotsOf p m) a.params a.lower mo
    let rs := benchRuns (s.genNow p) cm xs
    let s : State := s.tookFree.countBench p cm rs
    (if rs.isEmpty then s else s.trainWith p m a cm rs).nextStep p
  | _, _, _ => s

/-- BENCH_STEP_TIMEOUT (R200, R265): once BENCH_STEP has passed the step's results go, and the next one starts from the same
master values; its energy was charged at its start. -/
def benchTimeoutStep (p : Nat) (s : State) : State :=
  match (s.pit p).step, s.role? p with
  | some (t, _), some rc => if t + usTicks rc.benchStep ≤ s.clk.ticks then s.nextStep p else s
  | _, _ => s

/-! ### Candidates (R216, R217, R221) -/

/-- ulp(c) of R216. -/
def ulpBf16 (c : Nat) : Dy := if bits c 7 8 == 0 then ⟨1, -133⟩ else ⟨1, (bits c 7 8 : Int) - 127 - 7⟩

/-- The marker of a produced group after a cycle (R216). -/
def newMarker (old : Option Nat) (lo hi : Dy) : Option Nat :=
  let c := fmtBF16.roundDy lo
  let span := hi.sub lo
  match old with
  | none => if span.m == 0 then some c else none
  | some o =>
    let d := lo.sub (((bf16Val o).dy?).getD .zero)
    let far : Dy := ⟨d.m.natAbs, d.e⟩
    if !(span.le (ulpBf16 o)) then none
    else if far.le (ulpBf16 o) then some o else some c

/-- Constant lists of a model in force: layer, group, c. -/
def Gen.constsOf (g : Gen) (p m : Nat) : List (Nat × Nat × Nat) :=
  (g.consts.filter (fun c => c.1 == p && c.2.1 == m)).map (fun c => c.2.2)

/-- The constant lists after a cycle, groups ascending in each layer. -/
def candConsts (g : Gen) (p m : Nat) (slots : List (Nat × CalibSlot)) (seen : List (Nat × Nat × Dy × Dy)) : List (Nat × Nat × Nat) :=
  let old := g.constsOf p m
  let layerOf (i : Nat) : Nat := ((slots.find? (·.1 == i)).map (·.2.layer)).getD 0
  let touched := seen.map (fun x => (layerOf x.1, x.2.1))
  let kept := old.filter (fun c => !touched.contains (c.1, c.2.1))
  let new := seen.filterMap (fun x =>
    let l := layerOf x.1
    let o := (old.find? (fun c => c.1 == l && c.2.1 == x.2.1)).map (·.2.2)
    (newMarker o x.2.2.1 x.2.2.2).map (fun c => (l, x.2.1, c)))
  sortBy (fun a b => decide (a.1 < b.1 ∨ (a.1 = b.1 ∧ a.2.1 ≤ b.2.1))) (kept ++ new)

/-- A generation with the Assize's constant lists of one model replaced. -/
def Gen.withConsts (g : Gen) (p m : Nat) (cs : List (Nat × Nat × Nat)) : Gen :=
  { g with consts := g.consts.filter (fun c => !(c.1 == p && c.2.1 == m)) ++ cs.map (fun c => (p, m, c)) }

/-- Tiles of a candidate that differ from those in force, with BSEQ raised (R223). -/
def changedTiles (m cm : ModelObj) : List Tile :=
  ((m.tiles.zip cm.tiles).filter (fun x => x.1 != x.2)).map (fun x => { x.2 with bseq := (x.1.bseq + 1) % 65536 })

/-- The cycle leaves its state, its work dropped. -/
def AszModel.clear (a : AszModel) (st : AszState) : AszModel :=
  { a with state := st, steps := 0, waited := 0, params := [], lower := [], seenY := [], cand := none, revertStaged := false }

/-- Q-acc saturations of some passes. -/
def benchSat (rs : List BenchAcc) : Nat := (rs.flatMap (fun r => r.counts.map (·.2.qsat))).sum

/-- The loss of a model over passes (R218). -/
def lossOf (g : Gen) (m : ModelObj) (slots : List (Nat × CalibSlot)) (rs : List BenchAcc) : F32 :=
  modelLoss (slots.map (fun x => slotLoss (slotEls g m x.2 rs)))

/-- QSTEPS of the slots some column of which a cycle lowers (R211, R214). -/
def State.qstepsAfter (s : State) (m : ModelObj) (slots : List (Nat × CalibSlot)) (lower : List Nat) : List (Nat × Nat) :=
  slots.filterMap (fun x =>
    if lower.contains x.1 && (List.range (m.columns x.2.layer).length).any (fun j => ((m.finalOf x.2.layer j).map qstepOk).getD false)
      then some (x.1, s.rd .aszSlotStateQsteps x.1 + 1) else none)

/-- SHADOW_EVAL_COMPLETE (R221). The evaluation takes no energy (notes/assumptions/122.md). -/
def shadowStep (p m : Nat) (s : State) : State :=
  match s.asz? p m, (s.genNow p).model? p m with
  | some a, some mo =>
    if a.state != .shadow || (s.pit p).step.isNone then s else
    let g := s.genNow p
    let slots := s.slotsOf p m
    let xs := (rotate s.freeNat (s.samplesOf p m false)).take (2 * s.rd .aszPitCfg2Batch p)
    let cm := candModel slots a.params a.lower mo
    let cs := candConsts g p m slots a.seenY
    let gc := g.withConsts p m cs
    let now := benchRuns g mo xs
    let cand := benchRuns gc cm xs
    let s : State := (s.tookFree.countBench p mo now).countBench p cm cand
    let lCur := lossOf g mo slots now
    let lCand := lossOf gc cm slots cand
    let gain := (slots.map (fun x => x.2.gainMin)).foldl max 0
    let better := ((dyOf lCand).mul (.ofInt 65536)).le ((dyOf lCur).mul (.ofInt (65536 - (gain : Int))))
    let qOnly := candModel slots a.params [] mo == mo && cs == g.constsOf p m
    let s : State := if better || (qOnly && benchSat cand < benchSat now) then
        s.updAsz p m (fun a => { a with state := .staging, waited := 0
                                        cand := some ⟨changedTiles mo cm, cs, s.qstepsAfter mo slots a.lower⟩ })
      else
        let s : State := (s.bump .aszRejectsCount).day 0x2003 p m lCand.toNat lCur.toNat
        s.updAsz p m (fun a => { (a.clear .idle) with holdoff := s.rd .aszPitCfg2Holdoff p })
    s.nextStep p
  | _, _ => s

/-! ### Staging, discards -/

/-- A model's cycle is dropped: its revisions leave the homes, and with no cycle of the pitch left to run on the Bench group the
step under way is discarded. -/
def State.dropCycle (s : State) (p m : Nat) (f : AszModel → AszModel) : State :=
  let s : State := s.withHomes p (fun s => s.updAsz p m f)
  if s.aszIn p .train || s.aszIn p .shadow then s else s.endStep p

/-- A cycle of a model is dropped with CALIB_DISCARD (R223, R225). -/
def State.discard (s : State) (a : AszModel) (reason : Nat) : State :=
  (s.dropCycle a.pitch a.model (fun a =>
    { (a.clear .idle) with holdoff := if reason == 1 then s.rd .aszPitCfg2Holdoff a.pitch else a.holdoff })).day
    0x2005 a.pitch a.model reason 0

/-- Every cycle of some models not yet committed is dropped (R225). -/
def State.discardAll (s : State) (which : AszModel → Bool) (reason : Nat) : State :=
  (s.asz.filter (fun a => which a && a.state.cycling)).foldl (fun (t : State) a => t.discard a reason) s

/-- A cycle, or a FROZEN model's revert, is abandoned with CALIB_LOST (R225, R271, R272). -/
def State.calibLost (s : State) (p m bank : Nat) : State :=
  ((s.dropCycle p m (fun a => a.clear (if a.state == .frozen then .frozen else .idle))).wr .aszStatusWsUncorr 0 1).day 0x2006 p m bank 0

/-- An uncorrectable error in a model's working set: the cycle under way on it is abandoned (R225). -/
def State.loseSet (s : State) (p m bank : Nat) : State :=
  if ((s.asz? p m).map (·.state.cycling)).getD false then s.calibLost p m bank else s

/-- Both revisions of a candidate's tiles have room: in T0 of every stall whose role holds them, and in the tile region (R205,
R223). -/
def State.candFits (s : State) (p m : Nat) (ts : List Tile) : Bool :=
  s.tileBytes + (ts.map (fun t => granules t.len)).sum ≤ s.tileCap * 2 ^ 20
  && (List.range 64).all (fun i => s.rd .stlRolePitch i != p || !s.t0Held i
      || s.t0Used i + objBytes (s.candObjs i m ts) ≤ 4 * 2 ^ 20)

/-- A model has a candidate, or a revert, still to be staged (R223, R226). -/
def AszModel.toStage (a : AszModel) : Bool := a.state == .staging || (a.state == .frozen && !a.revertStaged)

/-- CALIB_STAGED (R223): once there is room, every tier that holds a copy has the new revisions. -/
def calibStagedStep (p m : Nat) (s : State) : State :=
  match s.asz? p m with
  | none => s
  | some a =>
    match a.cand with
    | none => s
    | some c =>
      if !a.toStage || !s.candFits p m c.tiles then s else
      let s : State := s.withHomes p (fun s => s.updAsz p m (fun a =>
        if a.state == .frozen then { a with revertStaged := true } else { a with state := .ready }))
      (List.range 64).foldl State.trimKept s

/-! ### Cycles start -/

/-- A model in IDLE starts a cycle when the pool holds a batch of training samples (R220); that these are the model's own, on which
alone it can train, is a DESIGN CHOICE (notes/assumptions/122.md). -/
def State.startCycle (s : State) (p m : Nat) : State :=
  match s.asz? p m, (s.genNow p).model? p m with
  | some a, some mo =>
    if !(a.state == .idle && s.aszRuns p && s.rd .aszPitCfg2Batch p ≤ (s.samplesOf p m true).length) then s else
    let m0 := (s.chr.baseGen.model? p m).getD mo
    let slots := s.slotsOf p m
    let low := (slots.filter (fun x => x.2.qstep && a.saturated.contains x.1 && s.rd .aszSlotStateQsteps x.1 < x.2.qstepMax)).map (·.1)
    (s.updAsz p m (fun a => { (a.clear .train) with params := slots.flatMap (fun x => slotParams x.1 x.2 mo m0), lower := low })).beginStep p
  | _, _ => s

/-- KICK written 1 (R220). -/
def State.kick (s : State) (p : Nat) : State :=
  ((s.asz.filter (·.pitch == p)).map (·.model)).foldl (fun (t : State) m => t.startCycle p m) s

/-- ASSIZE_KICK. -/
def kickStep (acc : Accessor) (p : Nat) (s : State) : State :=
  match s.gate acc .aszPitCtrlKick p with
  | .inl t => t
  | .inr s => s.kick p

/-- FREEZE set or cleared (R225). -/
def State.setFreeze (s : State) (p : Nat) (b : Bool) : State :=
  let s : State := s.wrB .aszPitCtrlFreeze p b
  if b then s.discardAll (fun a => a.pitch == p) 4 else s

/-- ASSIZE_FREEZE: FREEZE is set. -/
def freezeStep (acc : Accessor) (p : Nat) (s : State) : State :=
  match s.gate acc .aszPitCtrlFreeze p with
  | .inl t => t
  | .inr s => s.setFreeze p true

/-- ENABLE written (R225). -/
def State.setAssize (s : State) (b : Bool) : State :=
  let s : State := s.wrB .aszCtrlEnable 0 b
  if b then s else s.discardAll (fun _ => true) 4

/-- ASSIZE_ENABLE. -/
def assizeEnableStep (acc : Accessor) (b : Bool) (s : State) : State :=
  match s.gate acc .aszCtrlEnable 0 with
  | .inl t => t
  | .inr s => s.setAssize b

/-! ### Windows (R210, R211, R226) -/

/-- Clipped share of a slot's counts. -/
def SlotCount.share (c : SlotCount) : Nat := c.nClip * 65536 / c.nOut

/-- Used span of a slot's counts: the least over its tile columns, none for a floating OFMT. -/
def SlotCount.span (c : SlotCount) (width : Int) : Option Nat :=
  (c.spans.map (fun x => ((x.2.2 - x.2.1) * 65536 / width).toNat)).foldl (fun (a : Option Nat) v => match a with
    | none => some v
    | some b => some (min b v)) none

/-- hi − lo of a slot's output format. -/
def State.gridWidth (s : State) (p : Nat) (c : CalibSlot) : Int :=
  (((s.genNow p).model? p c.model).bind (fun m => (m.tiles.find? (fun t => t.layer == c.layer && t.final)).bind (fun t => intRange t.ofmt))).elim 1 (fun r => r.2 - r.1)

/-- An evaluated slot trips (R211). -/
def slotTrips (c : CalibSlot) (k : SlotCount) (width : Int) : Bool :=
  (c.clipTrig != 0 && c.clipTrig < k.share)
  || (c.spanTrig != 0 && (match k.span width with | some v => v < c.spanTrig | none => false))

/-- One slot at a window's end; the flag tells whether it trips. -/
def State.evalSlot (s : State) (p : Nat) (i : Nat) (c : CalibSlot) : State × Bool :=
  let k : SlotCount := ((s.aszCount.find? (·.1 == i)).map (·.2)).getD {}
  if k.nOut < 65536 then (s, false) else
  let w := s.gridWidth p c
  let s : State := { s with aszCount := s.aszCount.filter (·.1 != i) }
  let s : State := ((s.wr .aszSlotClipShare i (min 65535 k.share)).wr .aszSlotClipSpan i (min 65535 ((k.span w).getD 0))).wr .aszSlotSatCount i k.nSat
  let sat := c.satLimit != 0 && c.satLimit ≤ k.nSat
  let s : State := s.updAsz p c.model (fun a => { a with saturated := a.saturated.filter (· != i) ++ (if sat then [i] else []) })
  let s : State := if sat then (s.bump .aszSatwinCount).day 0x2001 p (c.model + c.layer * 65536) i 0 else s
  (s, slotTrips c k w)

/-- What a commit replaced, as a candidate for the model in force (R226). -/
def revertOf (m : ModelObj) (prev : Candidate) : Candidate :=
  { prev with tiles := prev.tiles.filterMap (fun t =>
      (m.tiles.find? (·.at t.layer t.trow t.tcol)).map (fun u => { t with bseq := (u.bseq + 1) % 65536 })) }

/-- The end of a WATCH window (R226, R78 rule 1); the measured figure is open. -/
def State.endWatch (s : State) (a : AszModel) (m : ModelObj) : State :=
  let t := s.freeNat
  let s : State := s.tookFree
  if t ≤ m.tokCyc then s.updAsz a.pitch a.model (fun a => a.clear .idle) else
  let s : State := match s.mdl? a.pitch a.model with
    | some i => s.lowerFactor i (max 1 (min (s.rd .tollMdlLoFactor i) (256 * m.tokCyc / t)))
    | none => s
  let s : State := s.day 0x2004 a.pitch a.model t m.tokCyc
  s.updAsz a.pitch a.model (fun a => { (a.clear .frozen) with cand := a.prev.map (revertOf m) })

/-- A model at its pitch's window end: a WATCH ends, a staging without room at the ends of 8 windows running is dropped, a trip
starts a cycle. -/
def State.windowModel (s : State) (p m : Nat) (trip : Bool) : State :=
  match s.asz? p m with
  | none => s
  | some a =>
    match a.state with
    | .watch => (match (s.genNow p).model? p m with
      | some mo => s.endWatch a mo
      | none => s)
    | .staging =>
      if s.candFits p m ((a.cand.map (·.tiles)).getD []) then s.updAsz p m (fun a => { a with waited := 0 })
      else if 8 ≤ a.waited + 1 then s.discard a 1 else s.updAsz p m (fun a => { a with waited := a.waited + 1 })
    | .idle =>
      if a.holdoff != 0 then s.updAsz p m (fun a => { a with holdoff := a.holdoff - 1 })
      else if trip then s.startCycle p m else s
    | _ => s

/-- ASSIZE_WINDOW_END. With the Assize off, a model in WATCH still completes its window (Table 9-5). -/
def windowStep (p : Nat) (s : State) : State :=
  if s.rd .aszPitCfg2WindowMs p == 0 || s.clk.ticks < (s.pit p).winTick + msTicks (s.rd .aszPitCfg2WindowMs p) then s else
  let s : State := s.updPit p (fun x => { x with winTick := s.clk.ticks })
  if s.rd .aszCtrlEnable == 0 then
    ((s.asz.filter (fun a => a.pitch == p && a.state == .watch)).map (·.model)).foldl
      (fun (t : State) m => t.windowModel p m false) s
  else
  let ms := (s.asz.filter (·.pitch == p)).map (·.model)
  let r : State × List Nat := (ms.flatMap (s.slotsOf p)).foldl (fun (a : State × List Nat) x =>
    let e := a.1.evalSlot p x.1 x.2
    (e.1, if e.2 then a.2 ++ [x.2.model] else a.2)) (s, [])
  ms.foldl (fun (t : State) m => t.windowModel p m (r.2.contains m)) r.1

/-! ### Commits (R224) -/

/-- What a candidate's commit replaces. -/
def State.prevOf (s : State) (g : Gen) (p m : Nat) (c : Candidate) : Candidate :=
  { tiles := c.tiles.filterMap (fun t => g.tile? p m t.layer t.trow t.tcol), consts := g.constsOf p m
    qsteps := c.qsteps.map (fun q => (q.1, s.rd .aszSlotStateQsteps q.1)) }

/-- One candidate committed into a generation that starts at an epoch: CALIB_COMMIT, the slot registers, WATCH. -/
def State.commitOne (x : State × Gen) (a : AszModel) (epoch : Nat) : State × Gen :=
  match a.cand with
  | none => x
  | some c =>
    let (s, g) := x
    let g' := (g.withTiles a.pitch a.model c.tiles).withConsts a.pitch a.model c.consts
    let s : State := (s.bump .aszCommitsCount).day 0x2002 a.pitch a.model epoch c.tiles.length
    let prev := s.prevOf g a.pitch a.model c
    let s : State := c.qsteps.foldl (fun (t : State) q => t.wr .aszSlotStateQsteps q.1 q.2) s
    let s : State := (s.slotsOf a.pitch a.model).foldl (fun (t : State) y =>
      t.wr .aszSlotStateConst y.1 ((c.consts.filter (·.1 == y.2.layer)).length)) s
    let s : State := s.updAsz a.pitch a.model (fun b =>
      if b.state == .frozen then b.clear .frozen else { (b.clear .watch) with prev := some prev })
    (s, g')

/-- Every candidate of a pitch in READY, and every revert staged, commits. -/
def State.commitAll (s : State) (p epoch : Nat) (g : Gen) : State × Gen :=
  (s.asz.filter (fun a => a.pitch == p && a.staged)).foldl
    (fun x a => State.commitOne x a epoch) (s, g)

/-! ### Export (R227) -/

/-- Tile revisions of a pitch in force that the Assize has changed. -/
def State.revised (s : State) (p : Nat) : List Tile :=
  ((s.genNow p).models.filter (·.pitch == p)).flatMap (fun m => m.tiles.filter (fun t =>
    ((s.chr.baseGen.tile? p m.model t.layer t.trow t.tcol).map (·.bseq)) != some t.bseq))

/-- The export's bytes. -/
def State.exportBytes (s : State) (p : Nat) : List Byte :=
  let ts := s.revised p
  let cs := ((s.genNow p).consts.filter (·.1 == p))
  let body := ts.flatMap Tile.bytes ++ cs.flatMap (fun c =>
    leBytes 8 (c.2.1 + c.2.2.1 * 2 ^ 12 + c.2.2.2.1 * 2 ^ 32 + c.2.2.2.2 * 2 ^ 48))
  fill 64 (leBytes 4 (64 + body.length) ++ leBytes 4 ts.length ++ leBytes 4 cs.length ++ leBytes 4 (s.epoch p)) ++ body

/-- The export is begun, or found too long. -/
def State.startExport (s : State) (p : Nat) : State :=
  if s.rd .aszPitExpStatBusy p == 1 then s else
  let b := s.exportBytes p
  if s.rd .aszPitExpSizeBytes p < b.length then s.wr .aszPitExpStatShort p 1
  else (s.wr .aszPitExpStatBusy p 1).emit (.t2Write p (s.addrPair .aszPitExpLoAddr .aszPitExpHiAddr p) b)

/-- ASSIZE_EXPORT. -/
def exportStep (acc : Accessor) (p : Nat) (s : State) : State :=
  match s.gate acc .aszPitCtrlExport p with
  | .inl t => t
  | .inr s => s.startExport p

/-- EXPORT_COMPLETE. -/
def exportDoneStep (p : Nat) (s : State) : State :=
  if s.rd .aszPitExpStatBusy p == 1 then (s.wr .aszPitExpStatBusy p 0).wr .aszPitExpStatDone p 1 else s

def execAssizeWindowEnd (pitch : Fin 64) (s : State) : Result := .next (s.whileUp (windowStep pitch))
def execTrainStepComplete (pitch : Fin 64) (model : BitVec 12) (s : State) : Result := .next (s.whileUp (trainStep pitch model.toNat))
def execBenchStepTimeout (pitch : Fin 64) (s : State) : Result := .next (s.whileUp (benchTimeoutStep pitch))
def execShadowEvalComplete (pitch : Fin 64) (model : BitVec 12) (s : State) : Result := .next (s.whileUp (shadowStep pitch model.toNat))
def execCalibStaged (pitch : Fin 64) (model : BitVec 12) (s : State) : Result := .next (s.whileUp (calibStagedStep pitch model.toNat))
def execAssizeKick (acc : Accessor) (pitch : Fin 64) (s : State) : Result := .next (kickStep acc pitch s)
def execAssizeFreeze (acc : Accessor) (pitch : Fin 64) (s : State) : Result := .next (freezeStep acc pitch s)
def execAssizeEnable (acc : Accessor) (enable : Bool) (s : State) : Result := .next (assizeEnableStep acc enable s)
def execAssizeExport (acc : Accessor) (pitch : Fin 64) (s : State) : Result := .next (exportStep acc pitch s)
def execExportComplete (pitch : Fin 64) (s : State) : Result := .next (s.whileUp (exportDoneStep pitch))

end Sys2Proof.Machine
end

