-- ==== Sys2Proof/Machine/Amend.lean ====
section
/-! DEFINITION. Amendments as they are submitted, checked, refused and fitted (14_charter_startup.md R339 to R344), and the
tables of models and slots a generation gives (R82, R208). -/

namespace Sys2Proof.Machine

/-! ### Model table and slot table -/

/-- A model-table entry takes a model. -/
def State.putMdl (s : State) (i : Nat) (m : ModelObj) : State :=
  let s : State := (s.wr .tollMdlLoModel i m.model).wr .tollMdlLoPitch i m.pitch
  ((s.wrB .tollMdlLoFallback i m.fallback).wrB .tollMdlLoStream i (m.cls == 2)).wr .tollMdlLoValid i 1

/-- A slot register takes a calibration slot. -/
def State.putSlot (s : State) (i : Nat) (c : CalibSlot) : State :=
  let s : State := (s.wr .aszSlotIdModel i c.model).wr .aszSlotIdLayer i c.layer
  (s.wr .aszSlotIdPitch i c.pitch).wr .aszSlotIdValid i 1

/-- Every field of one entry of a register run takes its reset value. -/
def State.dropEntryRegs (s : State) (lo hi i : Nat) : State :=
  { s with regs := regsDrop s.regs (fun f k => lo ≤ f.desc.base && f.desc.base < hi && k == i) }

/-- The lowest copy of a VALID field that is 0. -/
def State.freeCopy (s : State) (f : Fld) : Nat :=
  ((List.range f.desc.count).find? (fun i => s.rd f i == 0)).getD 0

/-- The model table of a pitch follows a generation: entries of models gone are freed, new models take the lowest free
entries. -/
def State.syncMdls (s : State) (p : Nat) (g : Gen) : State :=
  let mine := (s.copiesSet .tollMdlLoValid).filter (fun i => s.rd .tollMdlLoPitch i == p)
  let s : State := mine.foldl (fun (a : State) i =>
    if (g.model? p (a.rd .tollMdlLoModel i)).isNone then a.dropEntryRegs 0x14000 0x16000 i else a) s
  (g.models.filter (·.pitch == p)).foldl (fun (a : State) m =>
    a.putMdl ((a.mdl? p m.model).getD (a.freeCopy .tollMdlLoValid)) m) s

/-- The slot table of a pitch follows a generation. -/
def State.syncSlots (s : State) (p : Nat) (g : Gen) : State :=
  let mine := (s.copiesSet .aszSlotIdValid).filter (fun i => s.rd .aszSlotIdPitch i == p)
  let has (m l : Nat) : Bool := g.calib.any (fun c => c.pitch == p && c.model == m && c.layer == l)
  let gone := mine.filter (fun i => !has (s.rd .aszSlotIdModel i) (s.rd .aszSlotIdLayer i))
  let s : State := gone.foldl (fun (a : State) i => a.dropEntryRegs 0x54000 0x60000 i) s
  let s : State := { s with aszCount := s.aszCount.filter (fun x => !gone.contains x.1) }
  (g.calib.filter (·.pitch == p)).foldl (fun (a : State) c =>
    a.putSlot ((a.slotOf p c.model c.layer).getD (a.freeCopy .aszSlotIdValid)) c) s

/-- The Assize's models of a pitch follow a generation: those with a slot, kept where they were. -/
def State.syncAsz (s : State) (p : Nat) (g : Gen) : State :=
  let ms := ((g.calib.filter (·.pitch == p)).map (·.model)).eraseDups
  let keep := s.asz.filter (fun a => a.pitch != p || ms.contains a.model)
  let new := (ms.filter (fun m => (s.asz? p m).isNone)).map (fun m => ({ pitch := p, model := m } : AszModel))
  { s with asz := keep ++ new }

/-! ### What an amendment names -/

/-- The amendment names an object of a type and id. -/
def namesObj (ds : List DirEnt) (t id : Nat) : Bool := ds.any (fun e => e.type == t && e.id == id)

/-- Stock tables an ensemble binds. -/
def Ensemble.stockIds (e : Ensemble) : List Nat := e.binds.filterMap (fun b => b.map (·.stockId))

/-- The amendment changes a model of its pitch: its entry, a tile, or the ensemble image it names (Table 9-5). -/
def changesModel (ds : List DirEnt) (m : ModelObj) : Bool :=
  namesObj ds 0x05 m.model || namesObj ds 0x06 m.model || (m.cls != 2 && namesObj ds 0x09 m.ensId)

/-- A request kind of a pitch, served by a model, uses an object the amendment names (R344). -/
def State.usesNamed (s : State) (ds : List DirEnt) (p kind serving epoch : Nat) : Bool :=
  let g := s.genAt p epoch
  let cfg := s.cfg? p
  match g.model? p serving with
  | none => false
  | some m =>
    namesObj ds 0x05 m.model || namesObj ds 0x06 m.model
    || (if kind == 0 then
        (cfg.map (fun c => namesObj ds 0x07 c.inTable)).getD false
        || namesObj ds 0x08 (Config.intakeSieve p 0) || namesObj ds 0x08 (Config.intakeSieve p 1) || namesObj ds 0x09 m.ensId
        || (((g.ens? m.ensId).map (·.stockIds)).getD []).any (namesObj ds 0x0A)
      else (cfg.map (fun c => namesObj ds 0x07 c.outTable)).getD false
        || namesObj ds 0x08 m.stopId || namesObj ds 0x08 m.banId || namesObj ds 0x08 m.forceId)

/-- Some admission, request or stream of the amended pitch uses an object the amendment names. -/
def State.amendInUse (s : State) (ds : List DirEnt) (p : Nat) : Bool :=
  (s.admsOf p).any (fun a => s.usesNamed ds p a.kind a.serving a.epoch)
  || (s.reqsOf p).any (fun r => s.usesNamed ds p r.kind r.serving r.epoch)
  || s.streams.any (fun x => x.pitch == p && s.usesNamed ds p 1 x.serving x.epoch)

/-! ### Scope (R341) -/

/-- Registers a REG_VALUES section of an amendment may name. -/
def amendable (f : Fld) : Bool :=
  match f with
  | .pitDelayTokenDelay | .pitOptsGradeEmpty | .pitAdmitTtlUsec | .tollPitCfgIntakeDepth | .tollPitCfgChainTokens
  | .tollPitCfgChainSessions | .tollPitCfgOrdMax | .tollPitCfg2ConMax | .ldgPitPfHoldUsec | .aszPitCfgSampleShift
  | .aszPitCfgB1 | .aszPitCfgB2 | .aszPitCfgEps | .aszPitCfg2WindowMs | .aszPitCfg2Batch | .aszPitCfg2StepsMax
  | .aszPitCfg2Holdoff | .aszPitCfg3Pool | .aszPitCfg3StepUj | .tollMdlHiEnergyNj => true
  | _ => false

/-- A Sieve table that another pitch names. -/
def State.namedSieve (s : State) (p id : Nat) : Bool :=
  let others := s.chr.cfgs.filter (·.pitch != p)
  let ms := others.flatMap (fun c => (s.genNow c.pitch).models.filter (·.pitch == c.pitch))
  others.any (fun c => Config.intakeSieve c.pitch 0 == id || Config.intakeSieve c.pitch 1 == id)
    || ms.any (fun m => m.cls == 2 && (m.stopId == id || m.banId == id || m.forceId == id))

/-- A block-scope table that another pitch names. -/
def State.namedElsewhere (s : State) (p t id : Nat) : Bool :=
  let g := s.genNow p
  let others := s.chr.cfgs.filter (·.pitch != p)
  let ms := others.flatMap (fun c => (s.genNow c.pitch).models.filter (·.pitch == c.pitch))
  match t with
  | 0x07 => others.any (fun c => c.inTable == id || c.outTable == id)
      || (g.sieves.filter (fun v => v.textTable == id && v.kind != 0 && v.kind != 2)).any (fun v => s.namedSieve p v.id)
  | 0x08 => s.namedSieve p id
  | 0x09 => ms.any (fun m => m.cls != 2 && m.ensId == id)
  | _ => false

/-- The stall moves of a STALL_ALLOC section: stall, old and new byte. -/
def State.stallMoves (s : State) (a : List Nat) : List (Nat × Nat × Nat) :=
  ((List.range 64).map (fun i => (i, s.chr.alloc.getD i 0, a.getD i 0))).filter (fun x => x.2.1 != x.2.2)

/-- R341 for one section. -/
def State.scopeOk (s : State) (img : List Byte) (p : Nat) (e : DirEnt) : Bool :=
  let b := e.body img
  e.pitch == p
  && (match e.type with
    | 0x01 => !e.block && (List.range (b.length / 8)).all (fun i =>
        let fs := fieldsAt (getLe b (8 * i) 4)
        fs.any (fun x => amendable x.1) && fs.all (fun x => amendable x.1 || !x.1.desc.charter)
        && fs.all (fun x => rowPitch x.1 x.2 == some p || (x.1 == .tollMdlHiEnergyNj && s.ownerOf x.1 x.2 == some p)
            || (x.1 == .tollMdlHiEnergyNj && s.rd .tollMdlLoValid x.2 == 0)))
    | 0x03 => b.length == 64 && (match readAlloc b with
        | some a => (s.stallMoves a).all (fun x => (x.2.1 == 0 || x.2.1 == 128 + p) && (x.2.2 == 0 || x.2.2 == 128 + p)
            && !s.chains.any (·.stalls.contains x.1))
        | none => true)
    | 0x07 | 0x08 | 0x09 => !s.namedElsewhere p e.type e.id
    | 0x05 | 0x06 | 0x0A | 0x0B | 0x0C => true
    | _ => false)

/-! ### Fit (R343) -/

/-- Register values once an amendment's REG_VALUES apply. -/
def State.valWith (s : State) (regs : List (Nat × Nat)) (f : Fld) (i : Nat) : Nat :=
  if regs.any (fun r => r.1 == f.desc.addr i) then regValue regs f i else s.rd f i

/-- How a new generation of a pitch fits. -/
inductive AmdFit where
  | beside | alone | no
  deriving DecidableEq, Repr

/-- Bytes of T0 that the objects of the pitch's generations held, but not in a new one, take beside it: on a Spread stall, and on the
fullest stage. -/
def State.besideBytes (s : State) (g : Gen) (c : PitchCfg) (r : RoleCfg) : Nat × Nat :=
  let extra (f : Gen → List T0Obj) : Nat := objBytes (((s.gensOf c.pitch).flatMap f).eraseDups.filter (fun o => !(f g).contains o))
  let stages := r.chains.flatMap (fun ch => (List.range ch.length).map (fun st => extra (fun h => h.stageObjs c ch.length st)))
  (extra (fun h => h.spreadObjs c), stages.foldl max 0)

/-- The fit of a new generation (R343): in T0 beside what is held or without it, in the tile region likewise, and, for an enabled
pitch, in its tile home areas; that one which outgrows these does not fit is a DESIGN CHOICE (notes/assumptions/126.md). -/
def State.amendFit (s : State) (p : Nat) (g : Gen) (regs : List (Nat × Nat)) : AmdFit :=
  match s.cfg? p, s.role? p with
  | some c, some r =>
    let x := s.besideBytes g c r
    let cap := s.tileCap * 2 ^ 20
    let cands := ((s.stagedCands.flatMap (·.2.2)).map (fun t => granules t.len)).sum
    let val := s.valWith regs
    if s.rd .pitStatusEnabled p == 1 && !s.homesFit p g then .no
    else if fitOk g val c r x.1 x.2 && regionBytes (s.heldBy ++ [(p, g)]) + cands ≤ cap then .beside
    else if fitOk g val c r 0 0 && regionBytes (s.heldBy.filter (·.1 != p) ++ [(p, g)]) + cands ≤ cap then .alone
    else .no
  | _, _ => .no

/-! ### States (R339, R345) -/

def State.amdState (s : State) : Nat := s.rd .chrAmdStatusState
def State.amdPitch (s : State) : Nat := s.rd .chrAmdStatusPitch

/-- An amendment is in progress. -/
def State.amdBusy (s : State) : Bool := 1 ≤ s.amdState && s.amdState ≤ 5

/-- The amendment is refused with a code and a detail; row 7 stops applying. -/
def State.amdRefuse (s : State) (code detail : Nat) : State :=
  let p := s.amdPitch
  let seq := (s.amd.hdr.map (·.amdSeq)).getD 0
  let s : State := (s.wr .chrAmdErrCode 0 code).wr .chrAmdErrDetail 0 detail
  let s : State := s.withHomes p (fun s => { s.wr .chrAmdStatusState 0 7 with amd := {} })
  (s.updPit p (fun x => { x with amending := false })).day 0x3602 p code detail seq

/-- A reset of the amended pitch, or zeroisation, refuses an amendment in progress (Table 14-8). -/
def State.amdReset (s : State) (which : Nat → Bool) : State :=
  if s.amdBusy && which s.amdPitch then s.amdRefuse 0x26 0 else s

/-- The build of an amendment's sections over a generation; the code and offset of the first that fails its own checks. -/
def amdBuild (img : List Byte) (g : Gen) : Except (Nat × Nat) Build := takeAll img { gen := g }

/-- The pitch's new generation over the one in force; a model whose tiles it replaces loses its constant lists. -/
def amdGen (img : List Byte) (p : Nat) (g : Gen) : Gen :=
  match amdBuild img g with
  | .ok u => { u.gen with consts := u.gen.consts.filter (fun c => !(c.1 == p && namesObj (readDir img) 0x06 c.2.1)) }
  | .error _ => g

/-- REG_VALUES entries of an amendment. -/
def amdRegs (img : List Byte) : List (Nat × Nat) :=
  ((readDir img).filter (·.type == 1)).flatMap (fun e => (readRegs (e.body img)).getD [])

/-- Checks 2 to 4 of R331, and those R340 adds. -/
def State.amdKeyErr (s : State) (b : List Byte) : Option Nat :=
  let h := readHdr b
  let key := (sigBlock b).take 96
  if !(bit s.fuse.programmed h.keyslot && !bit s.fuse.revoked h.keyslot
      && s.fuse.keyHash.getD h.keyslot [] == sha384 key) then some 4
  else if !signatureOk b then some 5
  else if h.svn < s.fuse.svn then some 6
  else match s.chr.hdr with
    | none => some 0x20
    | some c =>
      if h.keyslot != c.keyslot || h.svn < c.svn || h.base != leNat (s.chr.digest.take 16) then some 0x20
      else if h.amdSeq != (s.rd .chrPitAmdSeq h.apitch + 1) % 2 ^ 32 then some 0x21 else none

/-- What the pitch's own configuration asks of its new generation: its text tables, and the depth of its chains (R84, R193). -/
def State.amdPitchErr (s : State) (p : Nat) (g : Gen) : Option Nat :=
  if !((s.cfg? p).map (fun c => (g.text? c.inTable).isSome && (g.text? c.outTable).isSome)).getD true then some 0x09
  else if !((s.role? p).map (depthOk g)).getD true then some 0x0A else none

/-- A generation with a pitch's own objects taken from another. -/
def Gen.withPitch (g : Gen) (q : Nat) (h : Gen) : Gen :=
  { g with models := g.models.filter (·.pitch != q) ++ h.models.filter (·.pitch == q)
           stocks := g.stocks.filter (·.1 != q) ++ h.stocks.filter (·.1 == q)
           calib := g.calib.filter (·.pitch != q) ++ h.calib.filter (·.pitch == q)
           place := g.place.filter (·.pitch != q) ++ h.place.filter (·.pitch == q) }

/-- The generation of a pitch with every other pitch's objects as they are in force: what the limits of the block count (R137,
R208). -/
def State.blockGen (s : State) (p : Nat) : Gen :=
  (s.chr.cfgs.filter (·.pitch != p)).foldl (fun (g : Gen) c => g.withPitch c.pitch (s.genNow c.pitch)) (s.genNow p)

/-- The whole of an amendment's checks: the first code, or its new generation. -/
def State.amdCheck (s : State) (b : List Byte) : Nat ⊕ Gen :=
  match hdrChk b 1 with
  | some e => .inl e.1
  | none =>
    let p := (readHdr b).apitch
    match s.amdKeyErr b with
    | some c => .inl c
    | none =>
      match dirChk b true with
      | some e => .inl e.1
      | none =>
        if !(readDir b).all (s.scopeOk b p) || (s.cfg? p).isNone then .inl 0x22 else
        match amdBuild b (s.blockGen p) with
        | .error e => .inl e.1
        | .ok u =>
          let own (i : Nat) : Option Nat := if s.rd .tollMdlLoValid i == 1 then some (s.rd .tollMdlLoPitch i) else some p
          if !u.regs.all (fun r => regEntryOk (some p) own r.1 r.2) then .inl 8 else
          match genChk u.gen, s.amdPitchErr p u.gen with
          | some e, _ => .inl e.1
          | none, some c => .inl c
          | none, none => .inr (amdGen b p (s.genNow p))

/-- Models of the block once a pitch's generation is replaced (R83). -/
def State.mdlCount (s : State) (p : Nat) (g : Gen) : Nat :=
  ((s.copiesSet .tollMdlLoValid).filter (fun i => s.rd .tollMdlLoPitch i != p)).length + (g.models.filter (·.pitch == p)).length

/-- Staging, the wait, or a refusal, as the fit decides (R343, R344). -/
def State.amdPlace (s : State) (p : Nat) (g : Gen) (regs : List (Nat × Nat)) : State :=
  if 1024 < s.mdlCount p g then s.amdRefuse 0x23 4 else
  match s.amendFit p g regs with
  | .beside => s.wr .chrAmdStatusState 0 3
  | .alone =>
    let s : State := s.wr .chrAmdStatusState 0 5
    let s : State := s.updPit p (fun x => { x with amending := true })
    { s with amd := { s.amd with waitTick := s.clk.ticks } }
  | .no => s.amdRefuse 0x23 1

/-- A retired bank while the amendment stages or waits: R343 decides anew (Table 14-8). -/
def State.amdRefit (s : State) : State :=
  match s.amd.gen with
  | some g => if s.amdState == 3 || s.amdState == 5 then
      (match s.amendFit s.amdPitch g (amdRegs s.amd.image) with
        | .beside => s
        | .alone => if s.amdState == 5 then s else s.amdPlace s.amdPitch g (amdRegs s.amd.image)
        | .no => s.amdRefuse 0x23 1)
    else s
  | none => s

/-- A write of CHR_AMD_CTRL (R339, Table 14-8): CANCEL acts on the amendment in progress, then SUBMIT starts one. -/
def State.amdCtrl (s : State) (w : Nat) : State :=
  let s : State := if bit w 2 && s.amdBusy then s.amdRefuse 0x25 0 else s
  if !bit w 0 then s
  else if s.amdBusy then s.wr .chrAmdStatusBusyErr 0 1
  else
    let s : State := ((s.wr .chrAmdStatusState 0 1).wr .chrAmdErrCode 0 0).wr .chrAmdErrDetail 0 0
    let s : State := { s.wr .chrAmdStatusPitch 0 0 with amd := { apply := bit w 1 } }
    s.emit (.t2Read 0x40 (s.addrPair .chrAmdAddrLoAddr .chrAmdAddrHiAddr 0) (s.rd .chrAmdLenBytes))

/-- AMEND_SUBMIT. -/
def amdSubmitStep (acc : Accessor) (w : Word) (s : State) : State :=
  match s.gate acc .chrAmdCtrlSubmit 0 with
  | .inl t => t
  | .inr s => s.amdCtrl w.toNat

/-- AMEND_CANCEL. -/
def amdCancelStep (acc : Accessor) (s : State) : State :=
  match s.gate acc .chrAmdCtrlCancel 0 with
  | .inl t => t
  | .inr s => s.amdCtrl 4

/-- AMEND_READ_COMPLETE. -/
def amdReadStep (data : ReadData) (s : State) : State :=
  if s.amdState != 1 then s else
  match data with
  | .error => s.amdRefuse 0x24 0
  | .ok b =>
    let h := readHdr b
    let s : State := s.wr .chrAmdStatusPitch 0 h.apitch
    let s : State := { s.wr .chrAmdStatusState 0 2 with amd := { s.amd with hdr := some h } }
    match s.amdCheck b with
    | .inl c => s.amdRefuse c 0
    | .inr g => { s with amd := { s.amd with image := b, gen := some g } }.amdPlace h.apitch g (amdRegs b)

/-- AMEND_WAIT_END (R344): what it replaces is out of use; the new objects are staged, and the epoch will be raised whatever
APPLY holds. -/
def amdWaitEndStep (s : State) : State :=
  if s.amdState != 5 || s.amendInUse (readDir s.amd.image) s.amdPitch then s else
  { s.wr .chrAmdStatusState 0 3 with amd := { s.amd with apply := true } }

/-- AMEND_WAIT_TIMEOUT. -/
def amdTimeoutStep (s : State) : State :=
  if s.amdState == 5 && s.amd.waitTick + msTicks (s.rd .chrAmdWaitMs) ≤ s.clk.ticks then s.amdRefuse 0x23 2 else s

def execAmendSubmit (acc : Accessor) (value : Word) (s : State) : Result := .next (amdSubmitStep acc value s)
def execAmendCancel (acc : Accessor) (s : State) : Result := .next (amdCancelStep acc s)
def execAmendReadComplete (data : ReadData) (s : State) : Result :=
  .next (s.whileUp (amdReadStep (fitRead (s.rd .chrAmdLenBytes) data)))
def execAmendWaitEnd (s : State) : Result := .next (s.whileUp amdWaitEndStep)
def execAmendWaitTimeout (s : State) : Result := .next (s.whileUp amdTimeoutStep)

end Sys2Proof.Machine
end

