-- ==== Sys2Proof/Machine/Daybook.lean ====
section
/-! DEFINITION. The Daybook: the store, flushes, the 66 views, and clearing (16_faults_daybook.md R381 to R392, R349). -/

namespace Sys2Proof.Machine

/-! ### The store (R384 to R388) -/

/-- Slots of the record area. -/
def State.nslot (s : State) : Nat := s.rd .dbkNslotCount

/-- Slot `k` places after BASE. -/
def State.slotAt (s : State) (k : Nat) : Nat := (s.rd .dbkBasePos + k) % s.nslot

/-- How far a slot lies past BASE. -/
def State.pastBase (s : State) (pos : Nat) : Nat := (pos + s.nslot - s.rd .dbkBasePos) % s.nslot

/-- A slot holds a live record. -/
def State.slotLive (s : State) (pos : Nat) : Bool := s.pastBase pos < s.rd .dbkLiveCount

/-- The store takes records: it is in use and not full (R384, R388). -/
def State.storeOpen (s : State) : Bool := s.rd .dbkStatusNvOff == 0 && s.nslot != 0 && s.rd .dbkLiveCount < 65536

/-- A record programmed at TOP; one left open keeps its REPEAT erased (R387). -/
def State.programOne (s : State) (r : DRec) (isOpen : Bool) : State :=
  let pos := s.rd .dbkTopPos
  let rep := if isOpen then 0xFFFF else r.rep
  let s : State := s.emit (.program (slotOffset pos) (r.bytes rep))
  let s : State := { s with dbk := { s.dbk with
      store := s.dbk.store.filter (fun x => x.1 != pos) ++ [(pos, some { r with rep })]
      lastPos := if isOpen then some pos else s.dbk.lastPos } }
  let s : State := (s.wr .dbkTopPos 0 ((pos + 1) % s.nslot)).wr .dbkLiveCount 0 (s.rd .dbkLiveCount + 1)
  if 65536 ≤ s.rd .dbkLiveCount then s.wr .dbkStatusFull 0 1 else s

/-- The oldest buffered record leaves for the store. -/
def State.programHead (s : State) (flushed : Bool) : State :=
  match s.dbk.buffer with
  | [] => s
  | r :: rest =>
    let isOpen := rest.isEmpty && s.dbk.last.isSome && s.dbk.lastPos.isNone
    let s : State := { s with dbk := { s.dbk with buffer := rest } }
    s.programOne { r with flushed := r.flushed || flushed } isOpen

/-- The first `n` buffered records leave while the store takes them. -/
def State.programN (s : State) (flushed : Bool) : Nat → State
  | 0 => s
  | n + 1 => if s.storeOpen && !s.dbk.buffer.isEmpty then (s.programHead flushed).programN flushed n else s

/-- DAYBOOK_PROGRAM_COMPLETE: up to 8 records on their 256-byte page. -/
def programStep (s : State) : State :=
  match s.pwr.hold with
  | .none => s.programN false (8 - s.rd .dbkTopPos % 8)
  | _ => s

/-- The newest counter slot (R349); the region must have room for its two sectors. -/
def State.saveSlot (s : State) (clean : Bool) : State :=
  if s.dbk.regionLen < 8192 || s.rd .chrXspiDbkFail == 1 then s else
  let seq := ((s.dbk.slot.map (·.seq)).getD 0 + 1) % 2 ^ 32
  let c : CounterSlot := ⟨s.clk.optime, s.rd .wchPcycCount, clean, seq⟩
  let s : State := { s.emit (.slotSave c.optime c.pcyc seq) with dbk := { s.dbk with slot := some c } }
  s.wr .wchSlotSeqSeq 0 seq

/-- A flush (R360 step 5, R375, R389): the counter slot, then a fault's own record, if any, and the buffer; the open record
closes. A record that a full store does not take is lost with the rest. -/
def State.flushDbk (s : State) (lead : Option DRec) : State :=
  if s.rd .chrXspiDbkFail == 1 then s else
  let s : State := s.dbkClose.saveSlot true
  let s : State := match lead with
    | some r => if s.storeOpen then s.programOne { r with flushed := true } false else s
    | none => s
  s.programN true s.dbk.buffer.length

/-- Sectors of the record area with written slots and no live record (R385, R392). -/
def State.deadSectors (s : State) : List Nat :=
  if s.nslot == 0 then [] else
  (((s.dbk.store.map (fun x => x.1 / 128)).eraseDups).filter (fun k =>
    !s.dbk.store.any (fun x => x.1 / 128 == k && s.slotLive x.1)))

/-- SECTOR_ERASE_COMPLETE. -/
def eraseStep (s : State) : State :=
  if s.rd .dbkStatusNvOff == 1 then s else
  match s.deadSectors with
  | [] => s
  | k :: _ => { s.emit (.sectorErase (k + 2)) with dbk := { s.dbk with store := s.dbk.store.filter (fun x => x.1 / 128 != k) } }

/-! ### Reading (R390) -/

/-- A record a view may show: position, the record or none when its CRC fails, whether it is at hand in the buffer. -/
structure Shown where
  pos : Nat
  what : Option DRec
  buffered : Bool
  deriving DecidableEq, Repr

/-- Every record from BASE forward, the buffer included. -/
def State.allShown (s : State) : List Shown :=
  let buf := s.dbk.buffer.zipIdx
  if s.rd .dbkStatusNvOff == 1 || s.nslot == 0 then buf.map (fun x => ⟨x.2, some x.1, true⟩) else
  (List.range (s.rd .dbkLiveCount)).map (fun k =>
      ⟨s.slotAt k, ((s.dbk.store.find? (fun x => x.1 == s.slotAt k)).map (·.2)).getD none, false⟩)
    ++ buf.map (fun x => ⟨(s.rd .dbkTopPos + x.2) % s.nslot, some x.1, true⟩)

/-- A view shows a record (R307, R390). -/
def viewShows (v : Nat) (x : Shown) : Bool :=
  if 64 ≤ v then true else
  match x.what with
  | some r => r.pscope && r.pitch == v
  | none => false

/-- Records at or after a cursor. -/
def State.fromCursor (s : State) (c : Option Nat) : List Shown :=
  match c with
  | none => s.allShown
  | some p =>
    if s.rd .dbkStatusNvOff == 1 || s.nslot == 0 then s.allShown.filter (fun x => decide (p ≤ x.pos))
    else s.allShown.filter (fun x => decide (s.pastBase p ≤ s.pastBase x.pos))

def State.view (s : State) (v : Nat) : View := s.dbk.views.getD v {}
def State.updView (s : State) (v : Nat) (f : View → View) : State := { s with dbk := { s.dbk with views := s.dbk.views.modify v f } }

/-- The record at a position is the open one. -/
def State.isOpenAt (s : State) (x : Shown) : Bool :=
  s.dbk.last.isSome && (if x.buffered then s.dbk.lastPos.isNone && s.dbk.buffer.getLast? == x.what else s.dbk.lastPos == some x.pos)

/-- A record is latched: its 32 bytes, CRC_BAD, OPEN and SKIPPED. The bytes of a slot whose CRC fails are open. -/
def State.latch (s : State) (v : Nat) (x : Shown) : State :=
  let word (j : Nat) : Nat := match x.what with
    | some r => getLe (r.bytes r.rep) (4 * j) 4
    | none => Config.freeValue (s.free + j)
  let s' : State := (List.range 8).foldl (fun (a : State) j => a.wr .dbkVDataBytes (8 * v + j) (word j)) s
  let s' : State := (s'.wrB .dbkVStatCrcBad v x.what.isNone).wrB .dbkVStatOpen v (s.isOpenAt x)
  let s' : State := s'.wrB .dbkVStatSkipped v (s.view v).skipped
  let s' : State := if x.what.isNone then { (s'.wr .dbkStatusCrcSeen 0 1) with free := s.free + 8 } else s'
  s'.updView v (fun w => { w with cursor := some (x.pos + 1), ready := none, fetching := none, skipped := false })

/-- The cursor moved (R390): the value the read returns, and the state after it. -/
def State.moveView (s : State) (v : Nat) : Nat × State :=
  let w := s.view v
  let ahead := s.fromCursor w.cursor
  match w.ready.bind (fun p => ahead.find? (fun x => x.pos == p)), w.fetching with
  | some x, _ => (x.pos, s.latch v x)
  | none, some _ => (0xFFFFFFFE, s)
  | none, none =>
    match ahead.find? (viewShows v) with
    | none => (0xFFFFFFFF, s)
    | some x =>
      if x.buffered then (x.pos, s.latch v x)
      else (0xFFFFFFFE, s.updView v (fun w => { w with fetching := some x.pos, ready := none }))

/-- A view's own accessor (R390). -/
def viewOwner (v : Nat) (acc : Accessor) : Bool := acc.toNat == (if v < 64 then v else v - 64 + 0x40)

/-- A read with an effect: granted, refused, or another accessor's, which reads 0 (R305, R390, R405). -/
def State.viewRead (s : State) (acc : Accessor) (f : Fld) (v : Nat) (eff : State → Nat × State) : State :=
  let a := f.desc.addr v
  if !s.windowLive a false then s.emit (.readData acc.toNat a 0)
  else if !s.mayRead (roleOf acc) [(f, v)] then (s.deny acc false a).emit (.readData acc.toNat a 0)
  else if !viewOwner v acc then s.emit (.readData acc.toNat a 0)
  else
    let r := eff s
    r.2.emit (.readData acc.toNat a r.1)

/-- VIEW_NEXT. -/
def viewNextStep (acc : Accessor) (v : Nat) (s : State) : State := s.viewRead acc .dbkVPosPos v (fun t => t.moveView v)

/-- VIEW_FETCH_COMPLETE. -/
def viewFetchStep (v : Nat) (s : State) : State :=
  match (s.view v).fetching with
  | some p => s.updView v (fun w => { w with fetching := none, ready := some p })
  | none => s

/-- VIEW_REWIND. -/
def viewRewindStep (acc : Accessor) (v : Nat) (s : State) : State :=
  s.viewRead acc .dbkVRewindBase v (fun t =>
    (t.rd .dbkBasePos, t.updView v (fun w => { w with cursor := none, fetching := none, ready := none })))

/-! ### Clearing (R391, R392) -/

/-- A clearing is refused with a code (R392). -/
def State.clearRefused (s : State) (code count : Nat) : State :=
  (s.wr .dbkClrStatErr 0 code).day 0xF002 0 code count (s.rd .dbkBasePos)

/-- GO written. -/
def State.submitClear (s : State) : State :=
  if s.rd .dbkClrStatState == 1 || s.dbk.clear.isSome then s.clearRefused 9 0
  else if s.rd .dbkStatusNvOff == 1 then (s.clearRefused 10 0).wr .dbkClrStatState 0 3
  else ((s.wr .dbkClrStatState 0 1).wr .dbkClrStatErr 0 0).emit
    (.t2Read 0x40 (s.addrPair .dbkClrAddrLoAddr .dbkClrAddrHiAddr 0) 320)

/-- DBK_CLR_CTRL written. -/
def State.writeClear (s : State) (w : Nat) : State := if bit w 0 then s.submitClear else s

/-- CLEAR_ORDER_SUBMIT. -/
def clearSubmitStep (acc : Accessor) (w : Word) (s : State) : State :=
  match s.gate acc .dbkClrCtrlGo 0 with
  | .inl t => t
  | .inr s => s.writeClear w.toNat

/-- The device tag the four registers show (R391). -/
def State.devTag (s : State) : Nat := (List.range 4).foldl (fun a i => a + s.rd .dbkDevtagBits i * 2 ^ (32 * i)) 0

/-- The key of a signature is that of the active, unrevoked slot (R314, R392). -/
def State.orderKeyOk (s : State) (b : List Byte) : Bool :=
  let k := bits (getLe b 6 1) 0 2
  k == s.rd .glbFuseKeyslotActive && bit s.fuse.programmed k && !bit s.fuse.revoked k
    && s.fuse.keyHash.getD k [] == sha384 ((b.drop 64).take 96)

/-- The first failing check of an order (R392). -/
def State.orderErr (s : State) (b : List Byte) : Option Nat :=
  let count := getLe b 40 4
  if !(getLe b 0 4 == 0x44424B43 && getLe b 4 2 == 1 && getLe b 6 1 < 4 && zeroRun b 7 9 && zeroRun b 35 1 && zeroRun b 44 20
      && zeroRun b 256 64 && 1 ≤ count && count ≤ 65536) then some 1
  else if getLe b 16 16 != s.devTag then some 2
  else if getLe b 32 3 != s.rd .wchPcycCount then some 3
  else if getLe b 36 4 != s.rd .dbkBasePos then some 4
  else if s.rd .dbkLiveCount < count then some 5
  else if !s.orderKeyOk b then some 6
  else if !ecdsaOk ((b.drop 64).take 96) ((b.drop 160).take 96) (sha384 (b.take 64)) then some 7
  else none

/-- CLEAR_ORDER_CHECKED. -/
def clearCheckedStep (data : ReadData) (s : State) : State :=
  if s.rd .dbkClrStatState != 1 then s else
  match data with
  | .error => (s.clearRefused 8 0).wr .dbkClrStatState 0 3
  | .ok b =>
    let count := getLe b 40 4
    match s.orderErr b with
    | some e => (s.clearRefused e count).wr .dbkClrStatState 0 3
    | none =>
      let s : State := (s.wr .dbkClrStatState 0 2).wr .dbkClrStatErr 0 0
      { s with dbk := { s.dbk with clear := some ⟨count, s.slotAt count, getLe (sha384 (b.take 64)) 0 4⟩ } }

/-- Views whose cursor the new base has passed (R390). -/
def State.skipViews (s : State) (count : Nat) : State :=
  (List.range 66).foldl (fun (a : State) v =>
    match (s.view v).cursor with
    | some c => if s.pastBase c < count then
        (a.updView v (fun w => { w with cursor := none, fetching := none, ready := none, skipped := true })).wr .dbkVStatSkipped v 1
      else a
    | none => a) s

/-- CLEAR_COMMIT (R392): the CLEARED record is verified in the store. -/
def clearCommitStep (s : State) : State :=
  match s.dbk.clear with
  | none => s
  | some c =>
    let s : State := s.dbkClose
    let r : DRec := { code := 0xF001, pscope := false, pitch := 0, p0 := c.count, p1 := c.newBase, p2 := c.digest
                      optime := s.clk.optime, pcyc := s.rd .wchPcycCount }
    let s : State := (s.programOne r false).skipViews c.count
    let s : State := (s.wr .dbkBasePos 0 c.newBase).wr .dbkLiveCount 0 (s.rd .dbkLiveCount - c.count)
    let s : State := s.wrB .dbkStatusFull 0 (decide (65536 ≤ s.rd .dbkLiveCount))
    { s with dbk := { s.dbk with clear := none } }

abbrev DbkResult := Host.Outcome State Fault Refusal

def execDaybookProgramComplete (s : State) : DbkResult := .next (programStep s)
def execSectorEraseComplete (s : State) : DbkResult := .next (s.whileUp eraseStep)
def execViewNext (acc : Accessor) (view : Fin 66) (s : State) : DbkResult := .next (viewNextStep acc view s)
def execViewFetchComplete (view : Fin 66) (s : State) : DbkResult := .next (viewFetchStep view s)
def execViewRewind (acc : Accessor) (view : Fin 66) (s : State) : DbkResult := .next (viewRewindStep acc view s)
def execClearOrderSubmit (acc : Accessor) (value : Word) (s : State) : DbkResult := .next (clearSubmitStep acc value s)
def execClearCommit (s : State) : DbkResult := .next (clearCommitStep s)

/-- A clearing order is 320 bytes. -/
def execClearOrderChecked (data : ReadData) (s : State) : DbkResult :=
  .next (s.whileUp (clearCheckedStep (fitRead 320 data)))

end Sys2Proof.Machine
end

