-- ==== Sys2Proof/Machine/Tiers.lean ====
section
/-! DEFINITION. Memory tiers: late tiles, poisoned copies, restores, table and stock reloads (11_memory_tiers.md, R106, R130,
R154). -/

namespace Sys2Proof.Machine

/-! ### Errors -/

/-- E_TIER_UNCORR of a request: its model and the tier; a STREAM_TOKEN's record keeps its stream's order. -/
def State.failTier (s : State) (r : Req) (tier : Nat) : State :=
  let e : EndErr := ⟨0x43, r.serving, tier⟩
  if r.kind == 2 then s.failTok r e else s.failReq r e

/-! ### Slack (R263) -/

/-- The chain row of a pitch's per-token delay, in ns (R196). -/
def State.chainNs (s : State) (p : Nat) : Nat :=
  ((s.role? p).map (fun rc => ceilDiv (chainRow (s.genNow p) rc (s.rd .tollPitCfgChainTokens p) * 10) 27)).getD 0

/-- HP_CLK cycles of the hold row of a request: what its delay leaves over the budgets of its other rows (Tables 2-12, 2-13, 5-9). -/
def State.holdRow (s : State) (r : Req) : Nat :=
  match r.kind with
  | 0 => s.hpCycles 12000 - s.hpCycles 11100
  | 2 => s.hpCycles (100 * s.rd .pitDelayTokenDelay r.pitch) - s.hpCycles (1200 + s.chainNs r.pitch)
  | _ => 0

/-- What a request that has arrived lacks: after how many ns of its budgets its work comes to need each thing, and the cycle since
which that is missing (R106, R130, R154, R242, R264, R268). -/
def State.lacks (s : State) (r : Req) : List (Nat × Nat) :=
  let a := r.arrival.getD 0
  match r.kind with
  | 0 => if r.decided then [] else
      r.waits.map (fun w => (0, w.since))
      ++ (s.intakeReloads r).map (fun x => (if x.type == 0x09 then 8700 else 0, x.since))
      ++ (s.stockLines r).map (fun x => (8700, x.since))
      ++ (if r.remote.isNone && (s.entry? r.pitch r.session).isNone then [(if s.graded r then 8700 else 11000, a)] else [])
  | 2 => if r.resolve.isSome || r.failed.isSome then [] else
      (s.tokReloads r).map (fun x => (300 + s.chainNs r.pitch + (if r.pass.isSome then 600 else 0), x.since))
  | 3 => (if r.wantEntry then [(300, a)] else []) ++ (s.tokReloads r).map (fun x => (800, x.since))
      ++ (if (s.orderedWait r.pitch r.session).isSome then [(1200, a)] else [])
  | _ => []

/-- The cycle from which a request waits: its work, which goes on at the pace of its budgets whenever it does not wait
(notes/assumptions/124.md), has come to need something that is missing. -/
def State.waitFrom (s : State) (r : Req) : Option Nat :=
  let t0 := r.arrival.getD 0 + r.waited
  (if r.arrival.isNone then [] else s.lacks r).foldl (fun (m : Option Nat) x =>
    let b := max (max x.2 r.counted) (t0 + s.hpCycles x.1)
    match m with
    | none => some b
    | some c => some (min b c)) none

/-- Cycles of the wait under way. -/
def State.waitNow (s : State) (r : Req) : Nat := ((s.waitFrom r).map (s.clk.hp - ·)).getD 0

/-- A request's slack: its delivery point less the projected end of its remaining work. Every cycle it waits takes one. -/
def State.slack (s : State) (r : Req) : Nat := s.holdRow r - r.waited - s.waitNow r

/-- The waits under way are counted, before a command that may end some of them. -/
def State.account (s : State) : State :=
  { s with reqs := s.reqs.map (fun r => if s.waitNow r == 0 then r else { r with waited := r.waited + s.waitNow r, counted := s.clk.hp }) }

/-- A request's slack is gone: it waits, and has none left; a decided or resolved one waits on a write-back to its delivery point
(R59). A STREAM_OPEN has no table of budgets, and no slack is measured for it (notes/assumptions/124.md). -/
def State.slackGone (s : State) (r : Req) : Bool :=
  if r.kind == 1 then r.wantEntry || (s.orderedWait r.pitch r.session).isSome
  else if (r.kind == 0 && r.decided) || (r.kind == 2 && r.resolve.isSome) then
    (s.orderedWait r.pitch r.session).isSome && (r.due.map (fun c => decide (c ≤ s.clk.hp))).getD false
  else ((s.waitFrom r).map (fun c => decide (c ≤ s.clk.hp))).getD false && s.slack r == 0

/-! ### Late tiles (R262 to R266) -/

/-- The tile a request of a stall reads at a place, in its own generation. -/
def State.tileOf (s : State) (r : Req) (layer trow tcol : Nat) : Option Tile :=
  (s.genAt r.pitch r.epoch).tile? r.pitch r.serving layer trow tcol

def State.badTile? (s : State) (t : TileId) : Option BadTile := s.tier.bad.find? (·.tile == t)

/-- A wait is on a tile revision. -/
def State.waitIs (s : State) (r : Req) (t : TileId) (w : TileWait) : Bool :=
  r.pitch == t.pitch && r.serving == t.model && w.layer == t.layer && w.trow == t.trow && w.tcol == t.tcol
    && ((s.tileOf r w.layer w.trow w.tcol).map (·.bseq)) == some t.bseq

/-- Requests that wait on a tile revision. -/
def State.waitersOn (s : State) (t : TileId) : List Req := s.reqs.filter (fun r => r.waits.any (s.waitIs r t))

def State.mapWaits (s : State) (t : TileId) (f : TileWait → TileWait) : State :=
  { s with reqs := s.reqs.map (fun r => { r with waits := r.waits.map (fun w => if s.waitIs r t w then f w else w) }) }

/-- The next tile of a request has not come: the oldest of its reads, or one whose T0 copy is poisoned and being read again (R261,
R262, R268). -/
def State.tileMissing (s : State) (i : Nat) (r : Req) (t : TileId) : Bool := r.fetch.head? == some t || s.tier.t0bad.contains (i, t)

/-- TILE_DEADLINE (R262, R264): the tile is late; a tile with no source left ends the request at once (R270). -/
def tileDeadlineStep (i p sess tag layer trow tcol : Nat) (s : State) : State :=
  match s.req? p sess tag with
  | none => s
  | some r =>
    match s.tileOf r layer trow tcol with
    | none => s
    | some x =>
      let t : TileId := { x.name p with model := r.serving }
      if !(r.kind == 0 && r.stall == some i && !r.decided && s.tileMissing i r t) || r.waits.any (s.waitIs r t) then s else
      match (s.badTile? t).map (fun b => (b.src.isNone, b.tier)) with
      | some (true, tier) => s.failTier r tier
      | b => s.updReq p sess tag (fun q => { q with
          waits := q.waits ++ [{ layer, trow, tcol, tier := 1, uncorr := b.isSome, since := s.clk.hp
                                 slack := if r.arrival.isSome then some (s.slack r) else none }] })

/-- CLK_ARITH cycles (2.7 GHz) in a span of HP_CLK cycles; the edge within the last cycle is open. -/
def State.arithSpan (s : State) (hp : Nat) : Nat := hp * 2700 / max 1 (s.rd .glbHpClkMhz) + s.freeNat % 4

/-- The waits of a stall's requests on a tile end (R264). -/
def State.endWaits (s : State) (i : Nat) (t : TileId) : State :=
  let on (r : Req) : Bool := r.stall == some i
  let longest := ((s.reqs.filter on).flatMap (fun r => (r.waits.filter (s.waitIs r t)).map (fun w => s.clk.hp - w.since))).foldl max 0
  let s : State := if longest == 0 then s else (s.wrMax .tierStlWaitMaxCycles i (s.arithSpan longest)).tookFree
  { s with reqs := s.reqs.map (fun r => if on r then { r with waits := r.waits.filter (fun w => !s.waitIs r t w) } else r) }

/-! ### Models DEFERRED and DOWN (R79, R269, R270) -/

/-- A poisoned tile revision of the generation in force that is being restored. -/
def State.restoringModel (s : State) (p m : Nat) : Bool :=
  s.tier.bad.any (fun b => b.src.isSome && b.tile.pitch == p && b.tile.model == m && (s.genNow p).holds b.tile)

/-- DEFERRED of a model follows its poisoned tiles (R269, R272). -/
def State.noteDeferred (s : State) (p m : Nat) : State :=
  match s.mdl? p m with
  | none => s
  | some i => s.wrB .tollMdlLoDeferred i (s.restoringModel p m && s.rd .tollMdlLoDown i == 0)

/-- A model is marked DOWN (R79, R270). -/
def State.markDown (s : State) (p m : Nat) : State :=
  match s.mdl? p m with
  | none => s
  | some i => (s.wr .tollMdlLoDown i 1).wr .tollMdlLoDeferred i 0

/-- The tier of a source; for the charter device, which lies in no tier, an open value. -/
def State.srcTier (s : State) (h : HomeSrc) : Nat × State :=
  match h.tier with
  | some t => (t, s)
  | none => (s.freeNat, s.tookFree)

def State.setBad (s : State) (b : BadTile) : State :=
  { s with tier := { s.tier with bad := s.tier.bad.filter (fun x => x.tile != b.tile) ++ [b] } }

/-- Every source of a tile has failed (R270, R271). -/
def State.homeLost (s : State) (b : BadTile) : State :=
  let t := b.tile
  let s : State := s.setBad { b with src := none }
  let s : State := (s.waitersOn t).foldl (fun (a : State) r => a.failTier r b.tier) s
  if !((s.genNow t.pitch).holds t) then s else
  let s : State := (s.markDown t.pitch t.model).wr .tierStatusHomeLost 0 1
  s.day 0x1406 0 (t.model + t.layer * 65536) (t.trow + t.tcol * 65536) b.tier

/-- A restore goes on from the next of its sources (R269, R270). -/
def State.restoreFrom (s : State) (b : BadTile) : List HomeSrc → State
  | [] => s.homeLost b
  | h :: _ => (s.setBad { b with src := some h, since := s.clk.ticks }).readHome b.tile h

/-- Sources after the present one. -/
def State.srcsAfter (s : State) (b : BadTile) : List HomeSrc :=
  let all := s.homeSrcs b.tile
  match b.src with
  | none => []
  | some h => (all.dropWhile (· != h)).drop 1

/-- A revision that the Assize has staged, or is staging, and has not committed (R271). -/
def State.stagedTile (s : State) (t : TileId) : Bool :=
  ((s.asz? t.pitch t.model).map (fun a => (a.toStage || a.staged)
    && ((a.cand.map (·.tiles)).getD []).any (fun x => x.at t.layer t.trow t.tcol && x.bseq == t.bseq))).getD false

/-- The T1 copy of a tile revision is poisoned (R269, R271). -/
def State.poisonTile (s : State) (t : TileId) (bank : Nat) : State :=
  if s.stagedTile t then s.calibLost t.pitch t.model bank
  else if (s.badTile? t).isSome || !((s.gensOf t.pitch).any (·.holds t)) then s
  else
    let s : State := s.mapWaits t (fun w => { w with uncorr := true })
    let s : State := s.restoreFrom { tile := t, bank, src := none } (s.homeSrcs t)
    s.noteDeferred t.pitch t.model

/-! ### A tile read into T0 (R164, R261, R264, R266) -/

/-- A bank test is queued, and the bank's fault counted (R372). -/
def State.queueBank (s : State) (b : Nat) : State :=
  { s with tier := { s.tier with bankTest := s.tier.bankTest ++ [b], bankFaults := (b, s.clk.optime) :: s.tier.bankFaults } }

/-- An uncorrectable T1 error is seen and counted, and its bank gets the targeted test (R267, R269, R368). -/
def State.t1Error (s : State) (bank : Nat) : State :=
  (((s.wr .tierStatusT1Uncorr 0 1).bump .tierUncorrCount).bump .glbFaultsCount).queueBank bank

/-- A stall has a read of a tile under way: for a request, for a poisoned T0 copy, or for the Bench step (R261, R265, R268). -/
def State.reading (s : State) (i : Nat) (t : TileId) : Bool :=
  (s.aheadOn i).contains t || s.tier.t0bad.contains (i, t)
    || (s.rd .stlRoleRole i == 3 && (s.pit t.pitch).step.isSome && (s.genNow t.pitch).holds t)

/-- A read of a tile is over: it leaves the requests' reads of the stall. -/
def State.endFetch (s : State) (i : Nat) (t : TileId) : State :=
  { s with reqs := s.reqs.map (fun r => if r.stall == some i then { r with fetch := r.fetch.erase t } else r) }

/-- A late tile arrives with less than a tenth of the slack left that some request had at its deadline (R266). -/
def State.arrivesLate (s : State) (i : Nat) (t : TileId) : Bool :=
  s.reqs.any (fun r => r.stall == some i && r.waits.any (fun w => s.waitIs r t w && (w.slack.map (fun k => decide (10 * s.slack r < k))).getD false))

/-- A tile that came well: waits on it end, the engine has it, a PREFER_T1 tile stays while space allows, and the prefetcher goes
on. -/
def State.tileGood (s : State) (i : Nat) (t : TileId) : State :=
  let late := s.arrivesLate i t
  let len := s.tileLen t
  let s : State := s.account.endWaits i t
  let s : State := State.endFetch { s with tier := { s.tier with t0bad := s.tier.t0bad.filter (fun x => x != (i, t)) } } i t
  let hint := ((s.gensOf t.pitch).find? (·.holds t)).map (fun g => g.hintOf t.pitch t.model t.layer)
  let s : State := State.refill (if hint == some 1 && s.rd .stlRoleRole i == 1 then s.keep i t len else s) i
  if late then (s.bump .tierStlLateCount i).lateReport t.pitch t.model else s

/-- A malformed tile ends the requests of the stall that it was read for (R62, R164). -/
def State.tileMalformed (s : State) (i : Nat) (t : TileId) : State :=
  let s : State := s.wr .mxeStatusTileErr i 1
  (s.reqs.filter (fun r => r.stall == some i && (r.fetch.contains t || r.waits.any (s.waitIs r t)))).foldl
    (fun (a : State) r => a.failReq r (eDesc 10 t.trow)) s

/-- The bank in which a tile's T1 copy has failed: one that holds a granule of it; which, is open. -/
def State.failedBank (s : State) (t : TileId) : Nat :=
  (rotate s.freeNat (s.tileBanks.filter (fun b => s.tileIn b t (granules (s.tileLen t))))).headD (s.freeNat % 64)

/-- TILE_ARRIVAL: the T1 words the read has corrected are counted (R267); a copy that fails its check is one poisoned in T1, as one
with an uncorrectable error is (R269). -/
def tileArrivalStep (i m layer trow tcol bseq : Nat) (data : ReadData) (corrected : Nat) (s : State) : State :=
  let t : TileId := ⟨s.rd .stlRolePitch i, m, layer, trow, tcol, bseq⟩
  if !s.reading i t then s else
  let s : State := (s.bump .tierStlFetchCount i).bump .tierCorrCount 0 corrected
  let chk : TileCheck := match data with
    | .ok b => tileCheck b m layer trow tcol bseq
    | .error => .poisoned
  match chk with
  | .good => s.tileGood i t
  | .malformed => s.tileMalformed i t
  | .poisoned =>
    let s : State := if data = .error then s else (s.wr .mxeStatusCrcErr i 1).bump .mxeCrcCount i
    let bank := s.failedBank t
    (s.tookFree.t1Error bank).poisonTile t bank

/-! ### Slack exhausted (R263 to R266, R269) -/

/-- Tier of the revive a request waits for. -/
def State.reviveTier (s : State) (r : Req) : Nat :=
  ((s.revives.find? (fun x => x.pitch == r.pitch && x.session == r.session)).map (·.tier)).getD 0

/-- A request whose wait has gone on too long ends: for a tile, a table, a stock line, a revive or an ordered write-back. -/
def State.endWaiting (s : State) (r : Req) : State :=
  match r.waits with
  | w :: _ => if w.uncorr then s.failTier r 1 else s.failLate r w.tier w.trow w.tcol
  | [] =>
    if r.kind == 0 && !r.decided && s.intakeTableWait r then s.failTier r 0
    else if (r.kind == 2 || r.kind == 3) && r.resolve.isNone && s.tokTableWait r then s.failTier r 0
    else if r.kind == 0 && !r.decided && s.stockWait r then s.failTier r 1
    else if r.wantEntry then s.failLate r (s.reviveTier r) 0 0
    else match s.orderedWait r.pitch r.session with
      | none => s
      | some t =>
        match r.kind, r.resolve with
        | 2, some res => if s.earlierAll r (fun _ => false) then s.releaseFail r res (some t) else s
        | 2, none => s
        | _, _ => s.failLate r t 0 0

/-- SLACK_EXHAUSTED: of a request that has arrived, or a STREAM_OPEN. -/
def slackExhaustedStep (p sess tag : Nat) (s : State) : State :=
  match s.req? p sess tag with
  | none => s
  | some r => if s.slackGone r then s.endWaiting r else s

/-- PRETAIL_TIMEOUT (R265): an intake request before its hold point has waited PRETAIL_MAX on a tile. -/
def pretailStep (p sess tag : Nat) (s : State) : State :=
  match s.req? p sess tag with
  | none => s
  | some r =>
    match r.waits with
    | w :: _ =>
      if r.kind == 0 && r.arrival.isNone && w.since + s.hpCycles (1000 * s.rd .tierCfgPretailMax) ≤ s.clk.hp then s.endWaiting r else s
    | [] => s

/-! ### Uncorrectable errors in T1 (R106, R154, R249, R269) -/

/-- Record code of a table's section type. -/
def reloadCode (type : Nat) : Nat := if type == 0x07 then 0x1401 else if type == 0x08 then 0x1402 else 0x1403

/-- The bit of a stall that reports an uncorrectable table error: TKN_STATUS, SVE_STATUS or GRD_STATUS. -/
def uncorrBit (type : Nat) : Fld := if type == 0x07 then .tknStatusUncorr else if type == 0x08 then .sveStatusUncorr else .grdStatusUncorr

/-- DIGEST of a table's section in a generation (Table 14-5). -/
def Gen.digestOf (g : Gen) (type id : Nat) : List Byte :=
  let d : Option (List Byte) := match type with
    | 0x07 => (g.text? id).map (·.digest)
    | 0x08 => (g.sieves.find? (fun t => t.id == id)).map (·.digest)
    | _ => (g.ens? id).map (·.digest)
  d.getD []

/-- A table of a stall is reloaded, from T1 for a bad T0 copy and from the charter device for a bad T1 copy. -/
def State.reloadTable (s : State) (i type id tier : Nat) : State :=
  let same (x : Reload) : Bool := x.stall == i && x.type == type && x.id == id
  let since := ((s.tier.reloads.find? same).map (·.since)).getD s.clk.hp
  let x : Reload := { stall := i, type, id, tier, digest := (s.genNow (s.rd .stlRolePitch i)).digestOf type id, since }
  let s : State := { s with tier := { s.tier with reloads := s.tier.reloads.filter (fun x => !same x) ++ [x] } }
  let s : State := (s.wr (uncorrBit type) i 1).day (reloadCode type) 0 i id tier
  if tier == 1 then s.emit (.deviceTable type id) else s

/-- GRD_STATUS.UNCORR of the stalls whose requests need a poisoned stock line (R155). -/
def State.markStockStalls (s : State) : State :=
  (s.reqs.filter (fun r => r.kind == 0 && s.stockWait r)).foldl (fun (a : State) r => match r.stall with
    | some i => a.wr .grdStatusUncorr i 1
    | none => a) s

/-- The stock table of a pitch in force. -/
def State.stockNow (s : State) (p id : Nat) : Option StockTable := (s.genNow p).stock? p id

/-- A stock line is poisoned and re-read (R154). -/
def State.poisonStock (s : State) (p id off bank : Nat) : State :=
  let line := off / 4096
  let s : State := s.day 0x1404 0 id bank off
  if s.tier.stockBad.any (fun x => x.pitch == p && x.id == id && x.line == line) then s else
  let x : BadLine := { pitch := p, id, line, crc := ((s.stockNow p id).map (fun t => t.crcs.getD line 0)).getD 0, since := s.clk.hp }
  State.markStockStalls
    { s.emit (.deviceStock p id line) with tier := { s.tier with stockBad := s.tier.stockBad ++ [x] } }

/-- A resident entry whose copy in some area is current returns to PARKED there (R249). -/
def State.backToPark (s : State) (e : Entry) : State :=
  (s.writeWays { e with copies := e.copies.filter (fun c => c.seq == e.ckptSeq) }
    (fun c => ⟨e.session, 1, e.wt, e.mirror, c.seq, e.ownEpoch⟩)).freeEntry e.pitch e.session

/-- The tier that a loss names (Table 10-2): that of the stale copy; with none, the tier the entry would be parked to, or 2 or 3,
which is open (notes/assumptions/125.md). -/
def State.lossTier (s : State) (e : Entry) : Nat :=
  match e.copies.head? with
  | some c => areaTier c.area (c.area == 4)
  | none => (s.parkTier e.pitch).getD (2 + s.freeNat % 2)

/-- A resident entry is lost in T1 (R248, R249): its requests end, its stream is cut, and the entry goes back to its current
copies or is made cold. The CKPT_SEQ of the record, with no way to take it from, is open. -/
def State.loseEntry (s : State) (p sess : Nat) : State :=
  match s.entry? p sess with
  | none => s
  | some e =>
    let mine (r : Req) : Bool := r.pitch == p && r.session == sess
    let any := s.reqs.any mine
    let s : State := (s.reqs.filter mine).foldl (fun (a : State) r => a.failTier r 1) s
    let s : State := match s.stream? p sess with
      | some x => s.cutStream x
      | none => s
    let s : State := { s with parks := s.parks.filter (fun k => !k.isOf p sess), wbs := s.wbs.filter (fun w => !w.isOf p sess) }
    if e.current then s.backToPark e else
    let tier := s.lossTier e
    let ckpt := (e.copies.head?.map (·.seq)).getD s.freeNat
    let s : State := (s.tookFree.bump .ldgLostCount).day 0x5401 p (sess % 2 ^ 32) tier ckpt
    s.updEntry p sess (fun _ => { newEntry p sess with cold := true, lost := !any, lostTier := if any then 0 else tier })

/-- T1_UNCORR_ERROR (R225, R267, R269, R368). -/
def t1UncorrStep (bank : Nat) (part : T1Part) (s : State) : State :=
  if s.banksOut.contains bank then s else
  let s : State := s.t1Error bank
  match part with
  | .tile t => s.poisonTile ⟨t.pitch, t.model.toNat, t.layer.toNat, t.trow.toNat, t.tcol.toNat, t.bseq.toNat⟩ bank
  | .table i type id => s.reloadTable i type.toNat id.toNat 1
  | .stock p id off => s.poisonStock p id off.toNat bank
  | .entry p sess => (s.wr .ldgStatusUncorr 0 1).loseEntry p sess.toNat
  | .workingSet p m => s.loseSet p m.toNat bank

/-- PATROL_SCRUB (R267): words corrected are counted; an uncorrectable one comes as T1_UNCORR_ERROR. -/
def patrolStep (n : Nat) (s : State) : State := s.bump .tierCorrCount 0 n

/-! ### Restores (R269 to R271) -/

/-- A restored copy is in place. -/
def State.restored (s : State) (b : BadTile) (h : HomeSrc) (bytes : List Byte) : State :=
  let t := b.tile
  let (tier, s) := s.srcTier h
  let s : State := { s with tier := { s.tier with bad := s.tier.bad.filter (fun x => x.tile != t) } }
  let s : State := s.mapWaits t (fun w => { w with uncorr := false, tier := (h.tier).getD w.tier })
  let s : State := (s.bump .tierRestoresCount).day 0x1405 0 b.bank (t.model + t.layer * 65536) tier
  let s : State := if h == .mirror then
      ((s.homeSrcs t).take 1).foldl (fun (a : State) src =>
        match a.homeTile? t src with
        | some x => a.writeHome t.pitch src { tileRead bytes with len := x.1.len } x.2
        | none => a) s
    else s
  s.noteDeferred t.pitch t.model

/-- The read of a restore's source has failed: the next one is tried (R270). -/
def State.restoreFail (s : State) (b : BadTile) : State :=
  match b.src with
  | none => s
  | some h =>
    let (tier, s) := s.srcTier h
    (s.restoreFrom { b with tier } (s.srcsAfter b)).noteDeferred b.tile.pitch b.tile.model

/-- TILE_RESTORE_COMPLETE. -/
def restoreStep (t : TileId) (data : ReadData) (s : State) : State :=
  match s.badTile? t with
  | none => s
  | some b =>
    match b.src, data with
    | none, _ => s
    | some _, .error => s.restoreFail b
    | some h, .ok x =>
      if tileCheck x t.model t.layer t.trow t.tcol t.bseq == .good then s.restored b h x else s.restoreFail b

/-- A restore that reads a home area in a pool. -/
def State.restoresIn (s : State) (pool : Nat) (b : BadTile) : Bool :=
  match b.src with
  | some .t3 => s.homePool b.tile.pitch .t3 == pool
  | some .mirror => s.homePool b.tile.pitch .mirror == pool
  | _ => false

/-- POOL_TIMEOUT (R241, R248, R249, R267): every transfer of the pool, and every read of a tile's home copy there, that has waited
LDG_CFG.POOL_TMO counts as failed. -/
def poolTimeoutStep (pool : Nat) (s : State) : State :=
  let s : State := ledgerTimeoutStep pool s.account
  (s.tier.bad.filter (fun b => s.restoresIn pool b && b.since + s.rd .ldgCfgPoolTmo ≤ s.clk.ticks)).foldl State.restoreFail s

/-! ### Tables and stock lines (R106, R154, R338) -/

/-- Models of a pitch that use a table. -/
def State.tableUsers (s : State) (p type id : Nat) : List Nat :=
  let g := s.genNow p
  let ms := g.models.filter (·.pitch == p)
  let uses (m : ModelObj) : Bool := match type with
    | 0x07 => ((s.cfg? p).map (fun c => if m.cls == 2 then c.outTable == id else m.cls == 0 && c.inTable == id)).getD false
    | 0x08 => if m.cls == 2 then m.stopId == id || m.banId == id || m.forceId == id
              else m.cls == 0 && (id == Config.intakeSieve p 0 || id == Config.intakeSieve p 1)
    | _ => m.cls != 2 && m.ensId == id
  (ms.filter uses).map (·.model)

/-- Requests that wait for a table being reloaded. -/
def State.tableWaiters (s : State) (x : Reload) : List Req :=
  s.reqs.filter (fun r => if r.kind == 0 then !r.decided && (s.intakeReloads r).contains x
    else (r.kind == 2 || r.kind == 3) && r.resolve.isNone && r.failed.isNone && (s.tokReloads r).contains x)

/-- A reload is over. -/
def State.dropReload (s : State) (x : Reload) : State := { s with tier := { s.tier with reloads := s.tier.reloads.filter (· != x) } }

/-- TABLE_RELOAD_COMPLETE: the image is checked against its digest (R253). A bad T1 copy is re-read from the charter device; a bad
re-read leaves no copy, and the models that use the table are DOWN (R79, R257). -/
def tableReloadStep (i type id : Nat) (data : ReadData) (s : State) : State :=
  match s.tier.reloads.find? (fun x => x.stall == i && x.type == type && x.id == id) with
  | none => s
  | some x =>
    let good := match data with
      | .ok b => (sha384 b).take 16 == x.digest
      | .error => false
    if good then s.account.dropReload x
    else if x.tier == 0 then ((s.wr .tierStatusT1Uncorr 0 1).bump .tierUncorrCount).reloadTable i type id 1
    else
      let p := s.rd .stlRolePitch i
      let s : State := (s.tableWaiters x).foldl (fun (a : State) r => a.failTier r 0) s.account
      let s : State := (s.tableUsers p type id).foldl (fun (a : State) m => a.markDown p m) s
      (s.dropReload x).wr .tierStatusHomeLost 0 1

/-- Models of a pitch whose image binds a stock table. -/
def State.stockUsers (s : State) (p id : Nat) : List Nat :=
  let g := s.genNow p
  ((g.models.filter (fun m => m.pitch == p && m.cls != 2 && (match g.ens? m.ensId with
    | some e => e.binds.any (fun b => (b.map (fun b => b.stockId == id)).getD false)
    | none => false)))).map (·.model)

/-- A stock line's re-read is over. -/
def State.dropLine (s : State) (x : BadLine) : State := { s with tier := { s.tier with stockBad := s.tier.stockBad.filter (· != x) } }

/-- STOCK_REREAD_COMPLETE: the line is checked by its ECC word (R253). A stock table has no restore source beside the charter
device (R257). -/
def stockRereadStep (p id line : Nat) (data : ReadData) (s : State) : State :=
  match s.tier.stockBad.find? (fun x => x.pitch == p && x.id == id && x.line == line) with
  | none => s
  | some x =>
    let good := match data with
      | .ok b => crc32c b == x.crc
      | .error => false
    if good then s.account.dropLine x else
    let s : State := (s.reqs.filter (fun r => r.pitch == p && r.kind == 0 && !r.decided && (s.stockLines r).contains x)).foldl
      (fun (a : State) r => a.failTier r 1) s.account
    ((s.stockUsers p id).foldl (fun (a : State) m => a.markDown p m) s).wr .tierStatusHomeLost 0 1

/-- Bytes of a 4 KiB line of a stock table. -/
def State.lineLen (s : State) (p id line : Nat) : Nat := min 4096 (((s.stockNow p id).map (·.len)).getD 0 - 4096 * line)

def execReviveComplete (pitch : Fin 64) (session : Session) (bucket slot : ReadData) (s : State) : Result :=
  .next (reviveStep pitch session.toNat (fitRead 128 bucket) (fitRead (s.entrySize pitch + 64) slot) s.account)

def execWriteBackComplete (pitch : Fin 64) (session : Session) (bucket mirrorBucket : ReadData) (s : State) : Result :=
  .next (writeBackStep pitch session.toNat (fitRead 128 bucket) (fitRead 128 mirrorBucket) s.account)

def execPoolTimeout (pool : BitVec 8) (s : State) : Result := .next (s.whileUp (poolTimeoutStep pool.toNat))

def execTileDeadline (stall pitch : Fin 64) (session : Session) (tag : Tag) (layer trow tcol : BitVec 16) (s : State) : Result :=
  .next (tileDeadlineStep stall pitch session.toNat tag.toNat layer.toNat trow.toNat tcol.toNat s)

def execTileArrival (stall : Fin 64) (model : BitVec 12) (layer trow tcol bseq : BitVec 16) (data : ReadData)
    (corrected : BitVec 32) (s : State) : Result :=
  .next (s.whileUp (tileArrivalStep stall model.toNat layer.toNat trow.toNat tcol.toNat bseq.toNat data corrected.toNat))

def execSlackExhausted (pitch : Fin 64) (session : Session) (tag : Tag) (s : State) : Result :=
  .next (slackExhaustedStep pitch session.toNat tag.toNat s)

def execPretailTimeout (pitch : Fin 64) (session : Session) (tag : Tag) (s : State) : Result :=
  .next (pretailStep pitch session.toNat tag.toNat s)

def execT1UncorrError (bank : Fin 64) (part : T1Part) (s : State) : Result := .next (s.whileUp (t1UncorrStep bank part))

def execPatrolScrub (corrected : BitVec 32) (s : State) : Result := .next (s.whileUp (patrolStep corrected.toNat))

def execTileRestoreComplete (tile : TileName) (data : ReadData) (s : State) : Result :=
  .next (s.whileUp (restoreStep ⟨tile.pitch, tile.model.toNat, tile.layer.toNat, tile.trow.toNat, tile.tcol.toNat, tile.bseq.toNat⟩ data))

def execTableReloadComplete (stall : Fin 64) (type id : BitVec 8) (data : ReadData) (s : State) : Result :=
  .next (s.whileUp (tableReloadStep stall type.toNat id.toNat data))

def execStockRereadComplete (pitch stock : Fin 64) (line : Word) (data : ReadData) (s : State) : Result :=
  .next (s.whileUp (stockRereadStep pitch stock line.toNat (fitRead (s.lineLen pitch stock line.toNat) data)))

end Sys2Proof.Machine
end

