-- ==== Sys2Proof/Machine/Faults.lean ====
section
/-! DEFINITION. Faults of stalls, quadrants, cellar banks and shared units, targeted tests and retirement
(16_faults_daybook.md R368 to R377, R272). -/

namespace Sys2Proof.Machine

/-! ### Fault counts (R370) -/

/-- The window of GLB_FAULT_CFG in units of operating time. -/
def State.faultWindow (s : State) : Nat := s.rd .glbFaultCfgTransWinS * 1024

/-- Faults of a list that lie within the window. -/
def State.inWindow (s : State) (ts : List Nat) : Nat := (ts.filter (fun t => decide (s.clk.optime ≤ t + s.faultWindow))).length

/-- A fault of a stall is counted: unit, cause, the counters and the window (Table 16-9). -/
def State.countFault (s : State) (i unit cause : Nat) : State :=
  let s : State := ((s.bump .glbFaultsCount).bump .stlFaultsCount i).updStl i (fun x => { x with faults := s.clk.optime :: x.faults })
  let s : State := (s.wr .stlFaultUnit i unit).wr .stlFaultCause i cause
  s.wr .stlTransCount i (min 15 (s.inWindow (s.stl i).faults))

/-- The count makes a fault of the stall lasting (R370). -/
def State.tooMany (s : State) (i : Nat) : Bool := s.rd .glbFaultCfgTransMax ≤ s.rd .stlTransCount i

/-! ### The targeted test of a stall (R369) -/

/-- The stall is reset and its test begins: STALL_RESET with source 1. -/
def State.beginTest (s : State) (i : Nat) : State :=
  let s : State := (s.resetStall i).updStl i (fun x => { x with testing := true, forceFail := false, quadWait := false, power := .awake })
  (s.wr .stlFaultTesting i 1).day 0x0010 0 i 1

/-- STALL_FAULT (R308, R369, R376). An isolation fault writes its own record as well. -/
def stallFaultStep (i unit cause tagPitch : Nat) (s : State) : State :=
  if s.rd .stlFaultRetired i == 1 then s else
  let iso (a : State) : State := if cause == 5 then a.day 0x3202 0 unit tagPitch (a.rd .stlRolePitch i) else a
  if (s.stl i).testing then (iso s).updStl i (fun x => { x with forceFail := true }) else
  let r := s.stopStalls [i]
  let s : State := iso (r.1.countFault i unit cause)
  (((s.day 0x1001 0 i unit cause).beginTest i).trimSteps).dayChains r.2

/-- Cycles of a pitch whose role has no stall left to hold the staged revisions are dropped (R225). -/
def State.dropStranded (s : State) (p : Nat) : State :=
  s.discardAll (fun a => a.pitch == p && (a.state == .staging || a.state == .ready)
    && (match (s.genNow p).model? p a.model with
      | some m => if m.cls == 2 then (s.chains.filter (fun c => c.pitch == p && !c.dissolved)).isEmpty else s.stallsOf p 1 == []
      | none => false)) 5

/-- A stall is retired (R206, R376): its chains stay inactive. -/
def State.retire (s : State) (i : Nat) : State :=
  let s : State := (s.wr .stlFaultRetired i 1).wr .stlFaultTesting i 0
  let s : State := s.updStl i (fun x => { x with testing := false, quadWait := false, giveBack := false, goal := none, power := .awake })
  let s : State := ((s.wr .stlRoleRole i 0).wr .stlRoleStage i 0).wr .stlRoleChain i 0
  let s : State := s.bump .glbRetiredCount
  let s : State := { s with chains := s.chains.map (fun c => if c.stalls.contains i then { c with dissolved := true } else c) }
  (s.trimSteps).dropStranded (s.rd .stlRolePitch i)

/-- STALL_RETIRED with its step (R370). -/
def State.retireBy (s : State) (i step : Nat) : State := (s.day 0x1003 0 i (s.rd .stlFaultUnit i) step).retire i

/-- STALL_TEST_COMPLETE (R369, R370): step 0 is a pass. A check that failed during the test fails the step then under way,
which is open. -/
def stallTestStep (i step : Nat) (s : State) : State :=
  if !(s.stl i).testing || (s.stl i).quadWait then s else
  let forced := (s.stl i).forceFail && step == 0
  let st := if forced then s.freeNat % 8 + 1 else min step 8
  let s : State := if forced then s.tookFree else s
  let s : State := (s.wrB .stlTestLastPass i (st == 0)).wr .stlTestLastStep i st
  if st != 0 || s.tooMany i then s.retireBy i st
  else
    let s : State := (s.wr .stlFaultTesting i 0).updStl i (fun x => { x with testing := false, idleSince := s.clk.ticks })
    s.day 0x1002 0 i (s.rd .stlFaultUnit i) (s.rd .stlTransCount i)

/-! ### T0 errors (R106, R130, R154, R178, R268) -/

/-- What the error touched is handled. -/
def State.t0Data (s : State) (i : Nat) : T0Part → State
  | .word => s
  | .tile t =>
    let x : TileId := ⟨t.pitch, t.model.toNat, t.layer.toNat, t.trow.toNat, t.tcol.toNat, t.bseq.toNat⟩
    let s : State := s.wr .tierStlStatusPoison i 1
    let kept := s.tier.kept.filter (fun k => !(k.stall == i && k.tile == x))
    if s.tier.t0bad.contains (i, x) then s else { s with tier := { s.tier with t0bad := s.tier.t0bad ++ [(i, x)], kept } }
  | .table type id => s.reloadTable i type.toNat id.toNat 0
  | .activation sess tag =>
    let s : State := s.wr .mxeStatusUncorr i 1
    match s.req? (s.rd .stlRolePitch i) sess.toNat tag.toNat with
    | some r => s.failTier r 0
    | none => s

/-- T0_CORRECTED_FAULT (R267, R268, R368): a corrected word is only counted; otherwise data first, then one transient fault of
the stall, or its retirement by count. -/
def t0FaultStep (i : Nat) (part : T0Part) (s : State) : State :=
  if !s.inService i then s else
  if part = .word then s.bump .tierStlT0CorrCount i else
  let s : State := (s.t0Data i part).countFault i 8 1
  if s.tooMany i then
    let r := s.stopStalls [i]
    (r.1.retireBy i 0).dayChains r.2
  else s.day 0x1002 0 i 8 (s.rd .stlTransCount i)

/-! ### Quadrants (R16, R374) -/

/-- Stalls of a quadrant that are not retired. -/
def State.quadStalls (s : State) (q : Nat) : List Nat :=
  (List.range 16).map (16 * q + ·) |>.filter (fun i => s.rd .stlFaultRetired i == 0)

/-- The fault of one stall of a quadrant: its unit is open, its cause is 6. -/
def State.quadStall (s : State) (cause i : Nat) : State :=
  let unit := s.freeNat % 16
  let s : State := (s.tookFree.countFault i unit 6).updStl i (fun x =>
    { x with testing := true, forceFail := false, quadWait := true, quadCause := cause, stoppedAt := s.clk.ticks })
  s.day 0x1001 0 i unit 6

/-- A quadrant's PLL (1) or rail (2) is lost: all its stalls stop and wait for both (R374, Table 16-6). -/
def State.quadFault (s : State) (q cause : Nat) : State :=
  let is := s.quadStalls q
  if is.any (fun i => (s.stl i).quadWait) then s else
  let r := s.stopStalls is
  ((is.foldl (fun (a : State) i => a.quadStall cause i) r.1).trimSteps).dayChains r.2

/-- Cause of a quadrant's present wait. -/
def State.quadCause (s : State) (q : Nat) : Option Nat :=
  ((s.quadStalls q).find? (fun i => (s.stl i).quadWait)).map (fun i => (s.stl i).quadCause)

/-- QUADRANT_RECOVERED: the tests of all 16 begin. -/
def quadRecoveredStep (q : Nat) (s : State) : State :=
  match s.quadCause q with
  | none => s
  | some c =>
    let s : State := s.day 0x1004 0 q c 0
    ((s.quadStalls q).filter (fun i => (s.stl i).quadWait)).foldl (fun (a : State) i => a.beginTest i) s

/-- QWAIT_TIMEOUT: all 16 are retired untested. -/
def qwaitStep (q : Nat) (s : State) : State :=
  match s.quadCause q with
  | none => s
  | some c =>
    let is := (s.quadStalls q).filter (fun i => (s.stl i).quadWait)
    if is.any (fun i => decide (s.clk.ticks < (s.stl i).stoppedAt + msTicks (s.rd .glbFaultCfgQwaitMs))) then s else
    let s : State := s.day 0x1004 0 q c 1
    let s : State := is.foldl (fun (a : State) i => a.retire i) s
    s.wr .glbFaultStatusQuadOut 0 (s.rd .glbFaultStatusQuadOut ||| 2 ^ q)

/-! ### Cellar banks (R272, R372) -/

/-- Models of the generations in force, highest model id first, then descending pitch (R272), those DOWN left out. -/
def State.modelsDown (s : State) : List (Nat × Nat) :=
  sortBy (fun a b => decide (b.1 < a.1 ∨ (a.1 = b.1 ∧ b.2 ≤ a.2)))
    (((s.copiesSet .tollMdlLoValid).filter (fun i => s.rd .tollMdlLoDown i == 0)).map (fun i => (s.rd .tollMdlLoModel i, s.rd .tollMdlLoPitch i)))

/-- Bytes the generations in force need, but for the tiles of models that are DOWN. -/
def State.bytesNow (s : State) : Nat :=
  let down (p m : Nat) : Bool := ((s.mdl? p m).map (fun i => s.rd .tollMdlLoDown i == 1)).getD false
  regionBytes (s.chr.cfgs.map (fun c =>
    (c.pitch, { s.genNow c.pitch with models := (s.genNow c.pitch).models.filter (fun m => !down c.pitch m.model) })))

/-- Models are marked DOWN until the rest fit, each with TILE_REGION_SHORT (R272). -/
def State.shedModels (s : State) : List (Nat × Nat) → State
  | [] => s
  | (m, p) :: rest =>
    if s.bytesNow ≤ s.tileCap * 2 ^ 20 then s else
    let short := s.bytesNow - s.tileCap * 2 ^ 20
    ((s.markDown p m).day 0x1407 0 p m short).shedModels rest

/-- Cycles under way whose working sets a retired bank has taken, or whose room is needed, are abandoned (R225, R272). -/
def State.loseSets (s : State) (bank : Nat) (which : AszModel → Bool) : State :=
  (s.asz.filter (fun a => a.state.cycling && which a)).foldl (fun (t : State) a => t.loseSet a.pitch a.model bank) s

/-- The tile region holds every copy, or is made to (R272): working sets go first, then models; revisions of older
generations go as their requests end. -/
def State.fitRegion (s : State) (bank : Nat) : State :=
  if s.tileBytes ≤ s.tileCap * 2 ^ 20 then s else
  let s : State := s.loseSets bank (fun _ => true)
  let s : State := { s with samples := [] }
  s.shedModels s.modelsDown

/-- A bank is retired: its region shrinks, what it held is lost or restored, and an amendment being
staged is placed again (R21, R249, R272, Table 14-8). -/
def State.retireBank (s : State) (b : Nat) : State :=
  let led := s.ledgerBank b
  let staged := s.stagedCands.flatMap (fun c => c.2.2.map (fun t => (t.name c.1, granules t.len)))
  let hit := ((s.tileSet ++ staged).filter (fun t => s.tileIn b t.1 t.2)).map (·.1)
  let f : Fld := if b < 32 then .tierBankOutLoMap else .tierBankOutHiMap
  let s : State := (s.wr f 0 (s.rd f ||| 2 ^ (b % 32))).bump .tierStatusBanksOut
  let s : State := ((s.bump .glbRetiredCount).day 0x1012 0 b (if led then 0 else 1) 16)
  let s : State := { s with tier := { s.tier with bankTest := s.tier.bankTest.filter (· != b) } }
  if led then
    let s : State := { s with adms := s.adms.map (fun a => { a with lostBanks := a.lostBanks + 1 }) }
    (s.entries.filter (fun e => Config.entryInBank b e.pitch e.session)).foldl (fun (a : State) e => a.loseEntry e.pitch e.session) s
  else
    let s : State := s.loseSets b (fun a => Config.setInBank b a.pitch a.model)
    ((hit.foldl (fun (a : State) t => a.poisonTile t b) s).fitRegion b).amdRefit

/-- BANK_TEST_COMPLETE (R370, R372): the bank at the head of the queue. -/
def bankTestStep (b : Nat) (pass : Bool) (s : State) : State :=
  match s.tier.bankTest with
  | [] => s
  | h :: rest =>
    if h != b then s else
    let s : State := { s with tier := { s.tier with bankTest := rest } }
    let n := s.inWindow ((s.tier.bankFaults.filter (·.1 == b)).map (·.2))
    if !pass || s.rd .glbFaultCfgTransMax ≤ n then s.retireBank b else s.day 0x1011 0 b n 0

/-! ### Shared units (R375) -/

/-- Nothing in flight is left: every request, stream, revive, park and Bell ends without a record (R61, R360, R375). -/
def State.endAll (s : State) : State :=
  { s with reqs := [], dups := [], streams := [], toks := [], adms := [], revives := [], parks := [], wbs := [], toll := {}
           pits := s.pits.map (fun x => { amendedFrom := x.amendedFrom, amending := x.amending, winTick := x.winTick }) }

/-- SHARED_FAULT. Its record leads the flush. -/
def sharedFaultStep (unit synd : Nat) (s : State) : State :=
  match s.pwr.hold with
  | .none =>
    let s : State := (s.endAll.bump .glbFaultsCount).wr .glbFaultStatusSharedFault 0 1
    let s : State := (s.wr .glbSharedSyndUnit 0 unit).wr .glbSharedSyndSyndrome 0 synd
    let r : DRec := { code := 0x1101, pscope := false, pitch := 0, p0 := unit, p1 := synd, p2 := 0, optime := s.clk.optime
                      pcyc := s.rd .wchPcycCount }
    let s : State := { s with dbk := { s.dbk with clear := none }, pwr := { s.pwr with hold := .shared } }
    (s.wr .tollStatusReady 0 0).flushDbk (some r)
  | _ => s

def execStallFault (stall : Fin 64) (unit cause : BitVec 4) (tagPitch : Fin 64) (s : State) : Result :=
  .next (s.whileUp (stallFaultStep stall unit.toNat cause.toNat tagPitch))
def execStallTestComplete (stall : Fin 64) (step : BitVec 4) (s : State) : Result := .next (s.whileUp (stallTestStep stall step.toNat))
def execT0CorrectedFault (stall : Fin 64) (part : T0Part) (s : State) : Result := .next (s.whileUp (t0FaultStep stall part))
def execQuadrantFault (quad : Fin 4) (rail : Bool) (s : State) : Result := .next (s.whileUp (fun t => t.quadFault quad (if rail then 2 else 1)))
def execQuadrantRecovered (quad : Fin 4) (s : State) : Result := .next (s.whileUp (quadRecoveredStep quad))
def execQwaitTimeout (quad : Fin 4) (s : State) : Result := .next (s.whileUp (qwaitStep quad))
def execBankTestComplete (bank : Fin 64) (pass : Bool) (s : State) : Result := .next (s.whileUp (bankTestStep bank pass))
def execSharedFault (unit : BitVec 8) (syndrome : BitVec 24) (s : State) : Result :=
  .next (sharedFaultStep unit.toNat syndrome.toNat s)

end Sys2Proof.Machine
end

