-- ==== Sys2Proof/Machine/Epoch.lean ====
section
/-! DEFINITION. Pitch epochs: the Bell (R60), what a raised epoch commits and applies (R224, R342, R345), and DIGEST frames
(R297, R332). -/

namespace Sys2Proof.Machine

/-! ### Registers loaded from an image (R329) -/

/-- One REG_VALUES entry loaded: its "from charter" fields. -/
def State.loadReg (s : State) (a v : Nat) : State :=
  (fieldsAt a).foldl (fun (t : State) x =>
    if x.1.desc.charter then t.wr x.1 x.2 (bits v x.1.desc.lo x.1.desc.width) else t) s

/-- A stall's allocation byte in the registers that report it (R303). -/
def State.putAlloc (s : State) (i b : Nat) : State :=
  let s : State := (s.wr .glbStlAllocPitch i (bits b 0 6)).wr .glbStlAllocValid i (bits b 7 1)
  (s.wr .stlRolePitch i (bits b 0 6)).wr .stlRoleAlloc i (bits b 7 1)

/-! ### DIGEST frames -/

def State.charterDigest (s : State) (p : Nat) : List Byte := ((s.chr.pitDigest.find? (·.1 == p)).map (·.2)).getD []
def State.amendDigest (s : State) (p : Nat) : List Byte := ((s.chr.amdDigest.find? (·.1 == p)).map (·.2)).getD (List.replicate 16 0#8)

def State.sendDigest (s : State) (p dkind dst : Nat) : State :=
  s.sendFrame { kind := 0x03, dkind, dst, pitch := p, body := fill 16 (s.charterDigest p) ++ fill 16 (s.amendDigest p) }

/-- The digests of a domain pitch sent to the fabric manager, in native mode, and to the other members. -/
def State.sendDigests (s : State) (p : Nat) : State :=
  if s.rd .fabPitCfgDomainEn p == 0 then s else
  let s : State := if s.rd .fabCfgMode == 0 then s.sendDigest p 2 0 else s
  (s.members p).foldl (fun (a : State) d => a.sendDigest p 0 d) s

/-! ### An amendment applied (R341, R342, R345) -/

/-- A stall is Idle, with no role to come. -/
def State.stallIdle (s : State) (i : Nat) : Bool :=
  s.rd .stlRoleRole i == 0 && (s.stl i).goal.isNone && !(s.stl i).testing && s.rd .stlStatusLoading i == 0 && s.rd .stlStatusDraining i == 0

/-- A stall may move: it is Idle, and a retired one goes to no pitch (R303, R376). -/
def State.canMove (s : State) (x : Nat × Nat × Nat) : Bool :=
  s.stallIdle x.1 && !(bit x.2.2 7 && s.rd .stlFaultRetired x.1 == 1)

/-- Allocation bytes an amendment carries, or those in force. -/
def State.amdAlloc (s : State) (img : List Byte) : List Nat :=
  match (readDir img).find? (fun e => e.type == 3 && e.len != 0) with
  | some e => (readAlloc (e.body img)).getD s.chr.alloc
  | none => s.chr.alloc

/-- A stall moves: scrubbed, and STALL_REALLOCATED (R303). -/
def State.moveStall (s : State) (x : Nat × Nat × Nat) : State :=
  let name (b : Nat) : Nat := if bit b 7 then bits b 0 6 else 0xFFFFFFFF
  let s : State := ((s.putAlloc x.1 x.2.2).dropT0 x.1).updStl x.1 (fun y => { y with giveBack := false })
  s.day 0x3501 0 x.1 (name x.2.1) (name x.2.2)

/-- Candidates of changed models are dropped, and a FROZEN model returns to IDLE (Table 9-5). -/
def State.dropChanged (s : State) (p : Nat) : State :=
  let ds := readDir s.amd.image
  let ms := ((s.genNow p).models.filter (fun m => m.pitch == p && changesModel ds m)).map (·.model)
  let s : State := s.discardAll (fun a => a.pitch == p && ms.contains a.model) 2
  { s with asz := s.asz.map (fun a =>
      if a.pitch == p && ms.contains a.model then
        (if a.state == .frozen then { a.clear .idle with prev := none } else { a with prev := none }) else a) }

/-- What a replaced model loses (R79, R176): DOWN and DEFERRED; and, when its tiles are replaced, the steps and markers that the
Assize had committed. -/
def State.freshModel (s : State) (p : Nat) (ds : List DirEnt) (m : ModelObj) : State :=
  if !changesModel ds m then s else
  let s : State := match s.mdl? p m.model with
    | some i => (s.wr .tollMdlLoDown i 0).wr .tollMdlLoDeferred i 0
    | none => s
  if !namesObj ds 0x06 m.model then s else
  (s.copiesSet .aszSlotIdValid).foldl (fun (a : State) i =>
    if a.rd .aszSlotIdPitch i == p && a.rd .aszSlotIdModel i == m.model then (a.wr .aszSlotStateQsteps i 0).wr .aszSlotStateConst i 0 else a) s

/-- The charter's objects under an amendment (R225, R227): a model whose tiles it replaces has them as they are in force. -/
def amdBase (img : List Byte) (p : Nat) (base g : Gen) : Gen :=
  let ds := readDir img
  let b := amdGen img p base
  { b with models := b.models.map (fun m =>
      if m.pitch == p && namesObj ds 0x06 m.model then { m with tiles := ((g.model? p m.model).map (·.tiles)).getD m.tiles } else m) }

/-- The amendment in force at an epoch: registers, stalls, tables, digests and AMEND_APPLIED. -/
def State.amdApplied (s : State) (p e : Nat) (g : Gen) : State :=
  let img := s.amd.image
  let seq := (s.amd.hdr.map (·.amdSeq)).getD 0
  let n := (s.amd.hdr.map (·.nsect)).getD 0
  let alloc := s.amdAlloc img
  let s : State := (s.stallMoves alloc).foldl State.moveStall s
  let s : State := ((s.syncMdls p g).syncSlots p g).syncAsz p g
  let s : State := (g.models.filter (·.pitch == p)).foldl (fun (a : State) m => a.freshModel p (readDir img) m) s
  let s : State := (amdRegs img).foldl (fun (t : State) r => t.loadReg r.1 r.2) s
  let dig := (sha384 (s.amendDigest p ++ imageDigest img)).take 16
  let s : State := { s with chr := { s.chr with alloc, baseGen := amdBase img p s.chr.baseGen g
                                                amdDigest := (p, dig) :: s.chr.amdDigest.filter (·.1 != p) } }
  let s : State := ((s.wr .chrPitAmdSeq p seq).wr .chrPitAdigBits p (getLe dig 0 4)).wr .chrPitAepochEpoch p e
  let s : State := s.updPit p (fun x => { x with amending := false, amendedFrom := x.amendedFrom <|> some e })
  let s : State := { (s.wr .chrAmdStatusState 0 6).day 0x3601 p seq e n with amd := {} }
  s.sendDigests p

/-! ### The epoch raised -/

/-- The new generation of an amendment that is not applied yet follows what the Assize commits under it. -/
def State.followAmd (s : State) (p : Nat) (g : Gen) : State :=
  if s.amd.gen.isSome && s.amdPitch == p then { s with amd := { s.amd with gen := some (amdGen s.amd.image p g) } } else s

/-- An amendment of the pitch is STAGED. -/
def State.stagedOn (s : State) (p : Nat) : Bool := s.amdState == 4 && s.amdPitch == p

/-- A STAGED amendment of the pitch is refused when a stall it moves is not Idle. -/
def State.refuseMoves (s : State) (p : Nat) : State :=
  if s.stagedOn p && !(s.stallMoves (s.amdAlloc s.amd.image)).all (fun x => s.canMove x) then s.amdRefuse 0x23 3 else s

/-- The pitch's epoch rises by one: READY candidates and staged reverts commit, a STAGED amendment of the pitch applies, or is
refused when a stall it moves is not Idle. -/
def State.raiseTo (s : State) (p e : Nat) : State :=
  let s : State := s.refuseMoves p
  let apply := s.stagedOn p
  let old := s.genNow p
  let s : State := if apply then s.dropChanged p else s
  let r := s.commitAll p e old
  let g := if apply then amdGen s.amd.image p r.2 else r.2
  let s : State := if g == old then r.1 else { r.1 with gens := r.1.gens ++ [⟨p, e, g⟩] }
  let s : State := s.wr .pitEpochEpoch p e
  if apply then s.amdApplied p e g else s.followAmd p g

/-- The epoch raised; the home copies of what it drops or replaces follow. -/
def State.raiseEpoch (s : State) (p : Nat) : State := s.withHomes p (fun s => s.raiseTo p ((s.epoch p + 1) % 2 ^ 32))

/-! ### The Bell (R60) -/

/-- A Bell is begun for a pitch that has none outstanding. -/
def State.startBell (s : State) (p : Nat) : State :=
  let s : State := s.raiseEpoch p
  s.updPit p (fun x => { x with bell := some (s.epoch p) })

/-- PIT_BELL.RING written 1. -/
def State.ringBell (s : State) (p : Nat) : State :=
  let s : State := if s.rd .pitStatusEnabled p == 0 || (s.pit p).bell.isSome then s.wr .pitStatusBellOvr p 1 else s.startBell p
  s.emit (.bellDone p (s.epoch p))

/-- BELL_RING. -/
def bellRingStep (acc : Accessor) (p : Nat) (s : State) : State :=
  match s.gate acc .pitBellRing p with
  | .inl t => t
  | .inr s => s.ringBell p

/-- Nothing admitted below an epoch is left, and no write-back it caused. -/
def State.epochDone (s : State) (p e : Nat) : Bool :=
  (s.admsOf p).all (fun a => decide (e ≤ a.epoch)) && (s.reqsOf p ++ s.dups.filter (·.pitch == p)).all (fun r => decide (e ≤ r.epoch))
    && s.wbs.all (fun w => w.pitch != p || decide (e ≤ w.epoch))

/-- The Bell's record (Tables 2-6, 2-7). -/
def bellRecord (p e : Nat) : List Byte := recordBytes 0 0 1 0 0 0 p 0 0 0 (leBytes 4 e)

/-- BELL_COMPLETE. An amendment that waited for the Bell is applied with one of its own (R342). -/
def bellCompleteStep (p : Nat) (s : State) : State :=
  match (s.pit p).bell with
  | none => s
  | some e =>
    if !s.epochDone p e then s else
    let s : State := (s.putRecord p (bellRecord p e)).updPit p (fun x => { x with bell := none })
    if s.amd.bellWait && s.amdState == 4 && s.amdPitch == p then
      { s with amd := { s.amd with bellWait := false } }.startBell p
    else s

/-- A STAGED amendment whose epoch Ngarov raises itself (R342, Table 14-8). -/
def State.afterStaged (s : State) (p : Nat) : State :=
  if s.rd .pitStatusEnabled p == 0 then s.raiseEpoch p
  else if !s.amd.apply then s
  else if (s.pit p).bell.isSome then { s with amd := { s.amd with bellWait := true } }
  else s.startBell p

/-- AMEND_STAGED: every new object is visible, the home copies among them. -/
def amdStagedStep (s : State) : State :=
  if s.amdState != 3 then s else
  let p := s.amdPitch
  (s.withHomes p (fun s => s.wr .chrAmdStatusState 0 4)).afterStaged p

def execBellRing (acc : Accessor) (pitch : Fin 64) (s : State) : Result := .next (bellRingStep acc pitch s)
def execBellComplete (pitch : Fin 64) (s : State) : Result := .next (bellCompleteStep pitch s)
def execAmendStaged (s : State) : Result := .next (s.whileUp amdStagedStep)

end Sys2Proof.Machine
end

