-- ==== Sys2Proof/Machine/HostPort.lean ====
section
/-! DEFINITION. The host port's rings: doorbells, descriptors, segment lists, token buffers, the verdict ring's head and the
interrupt timer (02_requests_verdicts.md R34 to R48, R408). -/

namespace Sys2Proof.Machine

/-! ### Doorbell (R43, R44) -/

/-- Difference of two free-running counts. -/
def cntSub (a b : Nat) : Nat := (a + 2 ^ 32 - b % 2 ^ 32) % 2 ^ 32

/-- A descriptor's read is issued. -/
def State.readDesc (s : State) (p c : Nat) : State :=
  s.emit (.t2Read p (s.addrPair .pitSqBaseLoAddr .pitSqBaseHiAddr p + 64 * (c % s.rd .pitSqSizeEntries p)) 64)

/-- A doorbell of a value that R44 allows or refuses. -/
def State.ringDoorbell (s : State) (p t : Nat) : State :=
  if s.rd .pitStatusEnabled p == 0 then s else
  let head := s.rd .pitSqHeadCount p
  let n := s.rd .pitSqSizeEntries p
  let old := s.rd .pitSqTailCount p
  if n < cntSub t head then (s.wr .pitStatusSqOvf p 1).day 0x5002 p t head n
  else
    let s : State := s.wr .pitSqTailCount p t
    if (s.pit p).draining || cntSub t head < cntSub old head then s
    else (List.range (cntSub t old)).foldl (fun a k => a.readDesc p ((old + k) % 2 ^ 32)) s

/-- DOORBELL. -/
def doorbellStep (acc : Accessor) (p : Nat) (t : Word) (s : State) : State :=
  match s.gate acc .pitSqTailCount p with
  | .inl t' => t'
  | .inr s => s.ringDoorbell p t.toNat

/-- VQ_HEAD_WRITE (R44, R46). -/
def State.setVqHead (s : State) (p h : Nat) : State :=
  if s.rd .pitStatusEnabled p == 0 then s
  else if cntSub (s.rd .pitVqTailCount p) (s.rd .pitVqHeadCount p) < cntSub h (s.rd .pitVqHeadCount p)
    then s.wr .pitStatusVqHeadErr p 1
  else s.wr .pitVqHeadCount p h

def vqHeadStep (acc : Accessor) (p : Nat) (h : Word) (s : State) : State :=
  match s.gate acc .pitVqHeadCount p with
  | .inl t => t
  | .inr s => s.setVqHead p h.toNat

/-! ### Descriptors (R41, R42, R408) -/

/-- The request a descriptor makes, with the admission it matched. -/
def State.mkReq (s : State) (p : Nat) (d : Desc) (a : Option Admission) (slot : Nat) : Req :=
  let x? : Option Stream := if d.kind == 2 then s.stream? p d.session else none
  { pitch := p, session := d.session, tag := d.tag, kind := d.kind, model := d.model
    serving := ((x?.map (·.serving)).orElse (fun _ => a.map (·.serving))).getD d.model
    cost := (a.map (·.cost)).getD d.declCost, epoch := (a.map (·.epoch)).getD (s.epoch p)
    chain := a.bind (·.chain), desc := d, slot }

/-- A sampled request of its model (R212): every 2^SAMPLE_SHIFT-th one while the Assize is on. -/
def State.countSample (s : State) (r : Req) : State × Bool :=
  if s.rd .aszCtrlEnable == 0 || !(s.asz.any (fun a => a.pitch == r.pitch && a.model == r.serving)) then (s, false) else
  let n := ((s.asz.find? (fun a => a.pitch == r.pitch && a.model == r.serving)).map (·.seen)).getD 0 + 1
  (s.updAsz r.pitch r.serving (fun a => { a with seen := n }), n % 2 ^ s.rd .aszPitCfgSampleShift r.pitch == 0)

/-- A stall with work to do leaves Doze (R358). -/
def State.wakeDoze (s : State) (i : Nat) : State :=
  s.updStl i (fun x => if x.power == .doze then { x with power := .awake } else x)

/-- A session's entry is looked for: resident, being revived, or a revive is started now. -/
def State.wantEntry (s : State) (r : Req) (a : Option Admission) : State ⊕ State :=
  if (s.entry? r.pitch r.session).isSome || s.reviving r.pitch r.session then .inr s
  else if s.reviveFree r.pitch then .inr (s.startRevive r.pitch r.session false false)
  else .inl (s.failDesc r ⟨0x47, (a.map (·.lostBanks)).getD 0, 1⟩)

/-- The request goes in flight. -/
def State.putReq (s : State) (r : Req) : State := { s with reqs := s.reqs ++ [r] }

/-- An INTAKE whose descriptor is sound: its stall, its entry, its segment list and payload (R24, R35, R36, R233). One with
TOTAL_LEN 0 arrives with its descriptor (R55), its list, if it has one, being checked all the same. -/
def State.startIntake (s : State) (r : Req) (a : Option Admission) : State :=
  let d : Desc := r.desc
  match s.pickSpread r.pitch with
  | none => s.tookFree.failDesc r ⟨0x47, (a.map (·.lostStalls)).getD 0, 0⟩
  | some i =>
    let s : State := s.tookFree
    let remote : Option Nat := s.remoteFor r.pitch r.session
    let ready : State ⊕ State := if remote.isSome then .inr s else s.wantEntry r a
    match ready with
    | .inl t => t
    | .inr s =>
      let cs : State × Bool := s.countSample r
      let s : State := cs.1.wakeDoze i
      let e? : Option Entry := s.entry? r.pitch r.session
      let r : Req := { r with stall := some i, sampled := cs.2, remote, wantEntry := e?.isNone && remote.isNone
                              feats := ((e?.map (·.feats)).getD []), wantList := d.nseg != 0 }
      let s : State := s.putReq r
      let s : State := if d.totalLen == 0 then s.arriveIntake r else s.refill i
      if d.nseg == 0 then s else s.readMem r.pitch r.session d.segAddr (16 * d.nseg)

/-- The chain a STREAM_OPEN is pinned to when its descriptor is read: the admission's, or another when that one was
dissolved (R377), with the state in which one activated for it loads. -/
def State.openChain (s : State) (r : Req) : Option (Nat × State) :=
  match r.chain.bind (s.chain? r.pitch) with
  | some c => if c.active then some (c.idx, s) else s.chainForPin r.pitch
  | none => s.chainForPin r.pitch

/-- DEPTH of a pitch's chains (R193). -/
def State.depthOf (s : State) (p : Nat) : Nat := ((s.chains.find? (·.pitch == p)).map (·.stalls.length)).getD 0

/-- A STREAM_OPEN whose descriptor is sound (R26, R71). -/
def State.startOpen (s : State) (r : Req) (a : Option Admission) : State :=
  let d : Desc := r.desc
  match s.openChain r with
  | none => s.failDesc r ⟨0x47, s.depthOf r.pitch, 0⟩
  | some (c, s) =>
    match s.wantEntry r a with
    | .inl t => t
    | .inr s =>
      let cs : State × Bool := s.countSample r
      let s : State := cs.1
      let e? : Option Entry := s.entry? r.pitch r.session
      let x : Stream := { pitch := r.pitch, session := r.session, chain := c, model := r.model, serving := r.serving
                          epoch := r.epoch, relAddr := d.relAddr, relSize := d.relSize
                          summary := (e?.map (·.summary)).getD [] }
      let r : Req := { r with chain := some c, sampled := cs.2, wantEntry := e?.isNone }
      let s : State := { s.putReq r with streams := s.streams ++ [x] }
      s.arrive r none

/-- A STREAM_TOKEN whose descriptor is sound (R42, R55). -/
def State.startToken (s : State) (r : Req) : State :=
  let d : Desc := r.desc
  let ended : Option Nat := match s.stream? r.pitch r.session, s.tokStand r.pitch r.session with
    | none, .ended c => some c
    | _, _ => none
  let r : Req := { r with toks := d.inline, afterEnd := ended, wantList := decide (8 < d.ntok) }
  let s : State := s.putReq r
  if 8 < d.ntok then s.readMem r.pitch r.session d.tokAddr (4 * d.ntok) else s.arriveToken r

/-- A sound descriptor goes to work by its kind; a STREAM_TOKEN of a stream that is over is served by no model (R182). -/
def State.startReq (s : State) (r : Req) (a : Option Admission) : State :=
  let r : Req := { r with fallback := r.serving != r.model && (r.kind != 2 || (s.stream? r.pitch r.session).isSome) }
  match r.kind with
  | 0 => s.startIntake r a
  | 1 => s.startOpen r a
  | 2 => s.startToken r
  | _ =>
    let r : Req := { r with wantEntry := (s.entry? r.pitch r.session).isNone && s.reviving r.pitch r.session }
    (s.putReq r).arriveCon r

/-- A descriptor that ends with an error when it is read; a STREAM_TOKEN's record keeps its place in its stream (R58). -/
def State.endDesc (s : State) (r : Req) (e : EndErr) : State :=
  if r.kind != 2 || (s.arrived r.pitch r.session).isEmpty then s.failDesc r e
  else if (s.req? r.pitch r.session r.tag).isNone then ((s.putReq r).arriveToken r).failTok r e
  else s.queueDup r e

/-- A descriptor passed over (R41): dropped without a record. -/
def State.unadmitted (s : State) (p p0 p1 p2 : Nat) : State := (s.bump .pitUnadmitCount p).day 0x5001 p p0 p1 p2

/-- A descriptor that has come (R41, R42, R243, R408). -/
def State.takeDesc (s : State) (p : Nat) (d : Desc) (slot : Nat) : State :=
  let mine (a : Admission) : Bool := a.pitch == p && a.session == d.session && a.tag == d.tag
  let a? : Option Admission := s.adms.find? mine
  if a?.isNone && s.verdictFree p == 0 then s.unadmitted p (d.session % 2 ^ 32) d.tag 0 else
  let err := s.descErr p d a?
  let r := s.mkReq p d a? slot
  let s : State := { s with adms := s.adms.filter (fun a => !mine a) }
  match err with
  | some e => s.endDesc r e
  | none =>
    match s.entry? p d.session with
    | some e => if e.lost then (s.endDesc r ⟨0x44, 0, e.lostTier⟩).updEntry p d.session (fun e => { e with lost := false })
      else s.startReq r a?
    | none => s.startReq r a?

/-- DESCRIPTOR_READ. -/
def descStep (p : Nat) (data : ReadData) (s : State) : State :=
  let head := s.rd .pitSqHeadCount p
  if s.rd .pitStatusEnabled p == 0 || (s.pit p).draining || head == s.rd .pitSqTailCount p then s else
  let s : State := s.bump .pitSqHeadCount p
  match data with
  | .error => s.unadmitted p 0 0 1
  | .ok b => s.takeDesc p (BitVec.ofNat 512 (leNat b)) head

/-! ### Segment list and token buffer (R35, R55) -/

/-- Tier a read of a pitch's address comes from. -/
def State.addrTier (s : State) (p addr : Nat) : Nat := if (s.guildPool p addr).isSome then 3 else 2

/-- SEGMENT_LIST_READ. A list whose read fails ends the request as a payload read does (R53). -/
def segListStep (p sess tag : Nat) (data : ReadData) (s : State) : State :=
  match s.req? p sess tag with
  | none => s
  | some r =>
    let d : Desc := r.desc
    if !(r.kind == 0 && r.wantList) then s else
    match data with
    | .error => s.failReq r ⟨0x43, 0, s.addrTier p d.segAddr⟩
    | .ok b =>
      match s.segErr p d b with
      | some e => s.failReq r e
      | none =>
        let r' : Req := { r with wantList := false, segs := segsOf d.nseg b }
        (s.updReq p sess tag (fun _ => r')).beginPayload r'

/-- TOKEN_BUFFER_READ. A token that had its error before, by its stream's end or its entry's loss, takes its place with it (R58). -/
def tokBufStep (p sess tag : Nat) (data : ReadData) (s : State) : State :=
  match s.req? p sess tag with
  | none => s
  | some r =>
    let d : Desc := r.desc
    if !(r.kind == 2 && r.wantList) then s else
    let s : State := (s.updReq p sess tag (fun q => { q with wantList := false })).arriveToken r
    match r.failed, data with
    | some _, _ => s.flush p sess
    | none, .error => s.failTok r ⟨0x43, 0, s.addrTier p d.tokAddr⟩
    | none, .ok b =>
      let ws := tokWords b
      match bufErr (s.vocab p (s.tokenEpoch p sess r.epoch)) ws with
      | some e => s.failTok r e
      | none => s.updReq p sess tag (fun q => { q with toks := ws })

/-- IRQ_TIMER_EXPIRY (R48). -/
def irqTimerStep (p : Nat) (s : State) : State :=
  match (s.pit p).irqSince with
  | none => s
  | some t =>
    if s.rd .pitIrqModCount p != 0 && s.rd .pitIrqModUsec p != 0 && t + usTicks (s.rd .pitIrqModUsec p) ≤ s.clk.ticks
      then s.sendIrq p else s

/-- HP_FLIT_ERR (Table 16-1): the flit is discarded; what it carried comes as a failed read or not at all. -/
def flitErrStep (chan : Nat) (s : State) : State := s.day 0x1201 0 chan

/-- Bytes a segment list or token buffer read asked for. -/
def State.listLen (s : State) (p sess tag : Nat) : Nat :=
  match s.req? p sess tag with
  | none => 0
  | some r => if r.kind == 0 then 16 * Desc.nseg r.desc else 4 * Desc.ntok r.desc

def execDoorbell (acc : Accessor) (pitch : Fin 64) (tail : Word) (s : State) : Result :=
  .next (doorbellStep acc pitch tail s)

def execVqHeadWrite (acc : Accessor) (pitch : Fin 64) (head : Word) (s : State) : Result :=
  .next (vqHeadStep acc pitch head s)

def execDescriptorRead (pitch : Fin 64) (data : ReadData) (s : State) : Result :=
  .next (s.whileUp (descStep pitch (fitRead 64 data)))

def execSegmentListRead (pitch : Fin 64) (session : Session) (tag : Tag) (data : ReadData) (s : State) : Result :=
  .next (segListStep pitch session.toNat tag.toNat (fitRead (s.listLen pitch session.toNat tag.toNat) data) s)

def execTokenBufferRead (pitch : Fin 64) (session : Session) (tag : Tag) (data : ReadData) (s : State) : Result :=
  .next (tokBufStep pitch session.toNat tag.toNat (fitRead (s.listLen pitch session.toNat tag.toNat) data) s)

def execIrqTimerExpiry (pitch : Fin 64) (s : State) : Result := .next (irqTimerStep pitch s)

def execHpFlitErr (channel : Fin 8) (s : State) : Result := .next (s.whileUp (flitErrStep channel))

end Sys2Proof.Machine
end

