-- ==== Sys2Proof/Machine/PitchCtl.lean ====
section
/-! DEFINITION. Enabling, draining and resetting a pitch (R44, R45, R61, R258, R337). -/

namespace Sys2Proof.Machine

/-! ### Enable -/

/-- A ring size that R44 allows. -/
def ringSizeOk (n : Nat) : Bool := 16 ≤ n && n ≤ 65536 && isPow2 n

/-- Stalls allocated to a pitch. -/
def State.allocated (s : State) (p : Nat) : List Nat :=
  (List.range 64).filter (fun i => s.rd .stlRoleAlloc i == 1 && s.rd .stlRolePitch i == p)

/-- The pitch may be enabled but for its tile home areas (R19, R44, R302, R318, R337). -/
def State.enableOk (s : State) (p : Nat) : Bool :=
  ringSizeOk (s.rd .pitSqSizeEntries p) && ringSizeOk (s.rd .pitVqSizeEntries p) && s.rd .chrStatusLocked == 1
    && !(s.allocated p).isEmpty && (s.cfg? p).isSome && s.rd .glbSecStatusZeroised == 0 && !s.pwr.zeroing

/-- Every home copy of a pitch is written. -/
def State.writeAllHomes (s : State) (p : Nat) : State :=
  [HomeSrc.t2, .t3, .mirror].foldl (fun (a : State) h =>
    ((a.homeGen p).homeTiles p h).foldl (fun (b : State) x => b.writeHome p h x.1 x.2) a) s

/-- Bytes of all home copies of a pitch. -/
def State.homeBytes (s : State) (p : Nat) : Nat := ([HomeSrc.t2, .t3, .mirror].map ((s.homeGen p).homeLen p)).sum

/-- The pitch is enabled. -/
def State.nowEnabled (s : State) (p : Nat) : State :=
  let s : State := (s.wr .tierPitStatusHomeBusy p 0).wr .tierPitHomeUsedMib p (ceilDiv (s.homeBytes p) (2 ^ 20))
  (s.wr .pitCtrlEnable p 1).wr .pitStatusEnabled p 1

/-- PIT_CTRL.ENABLE written 1. -/
def State.enable (s : State) (p : Nat) : State :=
  if s.rd .pitStatusEnabled p == 1 || s.rd .tierPitStatusHomeBusy p == 1 then s
  else if !s.enableOk p then s.wr .pitStatusCfgErr p 1
  else if !s.homesFit p (s.homeGen p) then (s.wr .pitStatusCfgErr p 1).wr .tierPitStatusCfgErr p 1
  else
    let s : State := if s.mirrorBad p then s.wr .ldgPitStatusCfgErr p 1 else s
    if s.homeBytes p == 0 then s.nowEnabled p else (s.writeAllHomes p).wr .tierPitStatusHomeBusy p 1

/-- PITCH_ENABLE. -/
def enableStep (acc : Accessor) (p : Nat) (s : State) : State :=
  match s.gate acc .pitCtrlEnable p with
  | .inl t => t
  | .inr s => s.enable p

/-- HOME_COPIES_WRITTEN (R258). -/
def homesWrittenStep (p : Nat) (s : State) : State := if s.rd .tierPitStatusHomeBusy p == 1 then s.nowEnabled p else s

/-! ### Disable (R45) -/

/-- PIT_CTRL.ENABLE written 0. -/
def State.disable (s : State) (p : Nat) : State :=
  if s.rd .pitStatusEnabled p == 0 || (s.pit p).draining then s else
  let s : State := (s.wr .pitCtrlEnable p 0).updPit p (fun x => { x with draining := true })
  { s with adms := s.adms.filter (·.pitch != p) }

/-- PITCH_DISABLE. -/
def disableStep (acc : Accessor) (p : Nat) (s : State) : State :=
  match s.gate acc .pitCtrlEnable p with
  | .inl t => t
  | .inr s => s.disable p

/-- Streams of a draining pitch with no descriptor in flight end (R45 point 4). -/
def State.endQuietStreams (s : State) (p : Nat) : State :=
  (s.streams.filter (fun x => x.pitch == p && !(s.reqsOf p).any (fun r => r.session == x.session))).foldl
    (fun (a : State) x => a.cutStream x) s

/-- The pitch reads disabled: descriptors passed over are counted, and a STAGED amendment of it applies (Table 14-8). -/
def State.drained (s : State) (p : Nat) : State :=
  let tail := s.rd .pitSqTailCount p
  let s : State := s.bump .pitUnadmitCount p (cntSub tail (s.rd .pitSqHeadCount p))
  let s : State := (s.wr .pitSqHeadCount p tail).wr .pitStatusEnabled p 0
  let s : State := s.updPit p (fun x => { x with draining := false })
  if s.amdState == 4 && s.amdPitch == p then s.raiseEpoch p else s

/-- PITCH_DRAIN_COMPLETE. -/
def drainCompleteStep (p : Nat) (s : State) : State :=
  if !(s.pit p).draining then s else
  let s : State := s.endQuietStreams p
  if (s.reqsOf p).isEmpty && !s.dups.any (·.pitch == p) && !s.streams.any (·.pitch == p) && (s.pit p).bell.isNone then s.drained p else s

/-! ### Pitch reset (R61, Tables 9-5, 10-8, 15-9) -/

/-- Requests, admissions, streams, revives and the Bell of a pitch end without a record; its queued prefetches go. -/
def State.endPitch (s : State) (p : Nat) : State :=
  let s : State := { s with
    reqs := s.reqs.filter (·.pitch != p), dups := s.dups.filter (·.pitch != p), adms := s.adms.filter (·.pitch != p), toks := s.toks.filter (·.pitch != p)
    streams := s.streams.filter (·.pitch != p), revives := s.revives.filter (·.pitch != p)
    entries := s.entries.map (fun e => if e.pitch == p then (if e.isOpen then { e.cutNow with pfHold := none } else { e with pfHold := none }) else e) }
  s.updPit p (fun x => { amendedFrom := x.amendedFrom, amending := x.amending, winTick := s.clk.ticks })

/-- A copy is kept by the pitch's owner through a reset of the class T registers of the pitch. -/
def State.classT (s : State) (p : Nat) (f : Fld) (i : Nat) : Bool := f.desc.kept == .t && s.ownerOf f i == some p

/-- Class T registers of a pitch at their reset values, and its Daybook view before BASE. -/
def State.resetPitchRegs (s : State) (p : Nat) : State :=
  { s with regs := regsDrop s.regs (s.classT p), dbk := { s.dbk with views := s.dbk.views.set p {} } }

/-- Entries of a pitch leave: parked to the default park tier, or dropped with their ways left OUT. -/
def State.clearEntries (s : State) (p : Nat) : State :=
  (s.entries.filter (·.pitch == p)).foldl (fun (a : State) e =>
    match a.parkTier p with
    | some t => a.startPark e t
    | none => a.freeEntry p e.session) s

/-- The Assize's cycles of a pitch are dropped, its pool emptied and its windows restarted; a model in WATCH reads IDLE (Table 9-8:
STATE is of class T), a FROZEN one stays. -/
def State.resetAsz (s : State) (p : Nat) : State :=
  let s : State := s.discardAll (fun a => a.pitch == p) 3
  let mine := (s.copiesSet .aszSlotIdValid).filter (fun i => s.rd .aszSlotIdPitch i == p)
  { s with samples := s.samples.filter (·.pitch != p), aszCount := s.aszCount.filter (fun x => !mine.contains x.1)
           asz := s.asz.map (fun a => if a.pitch == p && a.state == .watch then a.clear .idle else a) }

/-- A pitch reset; the counts go into its record. -/
def State.resetPitch (s : State) (p : Nat) : State :=
  let ended := (s.reqsOf p).length
  let n := (s.entries.filter (·.pitch == p)).length
  let parks := (s.parkTier p).isSome
  let s : State := (((s.endPitch p).resetAsz p).clearEntries p).amdReset (· == p)
  (s.resetPitchRegs p).day 0x5003 p ended (if parks then n else 0) (if parks then 0 else n)

/-- PITCH_RESET. -/
def pitchResetStep (acc : Accessor) (p : Nat) (s : State) : State :=
  match s.gate acc .glbPitResetGo 0 with
  | .inl t => t
  | .inr s => s.resetPitch p

def execPitchEnable (acc : Accessor) (pitch : Fin 64) (s : State) : Result := .next (enableStep acc pitch s)
def execHomeCopiesWritten (pitch : Fin 64) (s : State) : Result := .next (s.whileUp (homesWrittenStep pitch))
def execPitchDisable (acc : Accessor) (pitch : Fin 64) (s : State) : Result := .next (disableStep acc pitch s)
def execPitchDrainComplete (pitch : Fin 64) (s : State) : Result := .next (s.whileUp (drainCompleteStep pitch))
def execPitchReset (acc : Accessor) (pitch : Fin 64) (s : State) : Result := .next (pitchResetStep acc pitch s)

end Sys2Proof.Machine
end

