-- ==== Sys2Proof/Machine/Security.lean ====
section
/-! DEFINITION. Key versions, zeroisation, and the latched read of operating time (R313, R318, R403). -/

namespace Sys2Proof.Machine

/-! ### Key versions (R313) -/

/-- ROTATE written 1. -/
def State.rotateKey (s : State) (p : Nat) : State :=
  let v := s.rd .glbKeyCfgKeyver p
  if v == 255 || s.rd .glbKeyCfgKeyverMin p + 7 < v + 1 then s.wr .glbKeyStatRotErr p 1
  else (s.wr .glbKeyCfgKeyver p (v + 1)).day 0x3301 p (v + 1)

/-- KEY_ROTATE. -/
def keyRotateStep (acc : Accessor) (p : Nat) (s : State) : State :=
  match s.gate acc .glbKeyRotRotate p with
  | .inl t => t
  | .inr s => s.rotateKey p

/-- KEYVER_MIN written; the value in force written again is no change. -/
def State.raiseKeyMin (s : State) (p v : Nat) : State :=
  let old := s.rd .glbKeyCfgKeyverMin p
  if v == old then s
  else if v < old || s.rd .glbKeyCfgKeyver p < v then s.wr .glbKeyStatMinErr p 1
  else (s.wr .glbKeyCfgKeyverMin p v).day 0x3302 p v

/-- KEYVER_MIN_RAISE. -/
def keyMinStep (acc : Accessor) (p v : Nat) (s : State) : State :=
  match s.gate acc .glbKeyCfgKeyverMin p with
  | .inl t => t
  | .inr s => s.raiseKeyMin p v

/-! ### Zeroisation (R318) -/

def zeroiseKey : Nat := 0x2E701A5D

/-- One pitch is reset without parking and without a record of its own. -/
def State.zeroPitch (s : State) (p : Nat) : State :=
  let s : State := (s.endPitch p).resetAsz p
  s.resetPitchRegs p

/-- A charter read in progress is abandoned, and the start with it (Table 13-6). -/
def State.dropImageRead (s : State) : State :=
  match s.pwr.phase with
  | .reading _ => { s.wr .chrStatusState 0 7 with pwr := { s.pwr with phase := .failed } }
  | _ => s

/-- Steps 1 and 2: every pitch ends, every secret goes, and the erasure of memories begins. -/
def State.zeroise (s : State) : State :=
  let s : State := s.dropImageRead
  let s : State := ((List.range 64).foldl State.zeroPitch s).amdReset (fun _ => true)
  let s : State := (List.range 64).foldl (fun (a : State) p => a.wr .glbKeyStatReady p 0) s
  { s with entries := [], parks := [], wbs := [], keys := [], pwr := { s.pwr with zeroing := true } }

/-- GLB_ZEROISE written: only the key acts. -/
def State.writeZeroise (s : State) (key : Nat) : State := if key == zeroiseKey then s.zeroise else s

/-- ZEROISE. -/
def zeroiseStep (acc : Accessor) (key : Word) (s : State) : State :=
  match s.gate acc .glbZeroiseKey 0 with
  | .inl t => t
  | .inr s => s.writeZeroise key.toNat

/-- ZEROISATION_COMPLETE: steps 3 and 4. -/
def zeroisedStep (s : State) : State :=
  if !s.pwr.zeroing then s else
  let s : State := { s with gens := [], samples := [], pwr := { s.pwr with zeroing := false }
                            tier := { s.tier with bad := [], t0bad := [], kept := [], reloads := [], stockBad := [], zeroing := 0 } }
  (s.wr .glbSecStatusZeroised 0 1).day 0x3401

/-! ### WCH_OPTIME_LO (R367, R403) -/

/-- Operating time read, its high bits latched for the accessor. -/
def State.latchTime (s : State) (acc : Accessor) : State :=
  let hi := s.clk.optime / 2 ^ 32
  { s with clk := if acc.toNat == 0x40 then { s.clk with latchOp := hi } else { s.clk with latchAud := hi } }

/-- OPTIME_READ. -/
def optimeReadStep (acc : Accessor) (s : State) : State :=
  let a := Fld.wchOptimeLoTime.desc.addr 0
  if !s.windowLive a false then s.emit (.readData acc.toNat a 0)
  else if !s.mayRead (roleOf acc) [(.wchOptimeLoTime, 0)] then (s.deny acc false a).emit (.readData acc.toNat a 0)
  else (s.latchTime acc).emit (.readData acc.toNat a (s.clk.optime % 2 ^ 32))

def execKeyRotate (acc : Accessor) (pitch : Fin 64) (s : State) : Result := .next (keyRotateStep acc pitch s)
def execKeyverMinRaise (acc : Accessor) (pitch : Fin 64) (value : BitVec 8) (s : State) : Result :=
  .next (keyMinStep acc pitch value.toNat s)
def execZeroise (acc : Accessor) (key : Word) (s : State) : Result := .next (zeroiseStep acc key s)
def execZeroisationComplete (s : State) : Result := .next (s.whileUp zeroisedStep)
def execOptimeRead (acc : Accessor) (s : State) : Result := .next (optimeReadStep acc s)

end Sys2Proof.Machine
end

