-- ==== Sys2Proof/Machine/Reset.lean ====
section
/-! DEFINITION. Power-on and warm reset: what they end and what they keep (15_power_clocks_resets.md R363 to R365,
Table 15-9). -/

namespace Sys2Proof.Machine

/-- Causes of WCH_RESET_CAUSE.LAST (Table 15-12). -/
def causePowerOn : Nat := 0
def causePin : Nat := 1
def causeKey : Nat := 2
def causeWake : Nat := 3
def causePower : Nat := 4
def causeHpClk : Nat := 5
def causeCelPll : Nat := 6

/-- The Daybook after a reset: the store and its newest slot stay; the buffer stays but for a power-on; no record is open. -/
def DbkSt.afterReset (d : DbkSt) (power : Bool) : DbkSt :=
  { buffer := if power then [] else d.buffer, dropMark := !power && d.dropMark, store := d.store, slot := d.slot }

/-- The clocks after a reset: the Watchman runs on; a power-on starts the counters and the crystal anew. -/
def Clocks.afterReset (c : Clocks) (power : Bool) : Clocks :=
  if power then { hp := c.hp, ticks := c.ticks } else { c with parkCtr := 0, levelFrac := 0, levelOver := 0 }

/-- Registers after a reset: classes W, T, S and N are at their reset values; class P only after a power-on. -/
def regsAfterReset (r : List RegCell) (power : Bool) : List RegCell :=
  if power then [] else regsDrop r (fun f _ => f.desc.kept != .p)

/-- The block as a power-on or a warm reset leaves it, held before its start-up. Waiting commands, what has been sent, the
fuses and the Daybook store are outside it. -/
def State.blockReset (s : State) (power : Bool) : State :=
  let s : State := if power then s else s.dbkClose
  { State.reset with
    pending := s.pending, outbox := s.outbox, fuse := s.fuse, free := s.free
    keys := if power then [] else s.keys
    regs := regsAfterReset s.regs power, clk := s.clk.afterReset power, dbk := s.dbk.afterReset power
    pwr := { powerOn := power, restore := power || s.pwr.restore, slotDue := power || s.pwr.slotDue } }

/-- A warm reset with its cause and record (R363). -/
def State.warmReset (s : State) (cause : Nat) : State :=
  ((s.blockReset false).wr .wchResetCauseLast 0 cause).day 0x0002 0 cause

end Sys2Proof.Machine
end

