-- ==== Sys2Proof/Machine/Charter.lean ====
section
/-! DEFINITION. Start-up, the charter's verification and loading, and the charter lock (14_charter_startup.md R322 to R337,
15 R349 to R351, 16 R384, R385). -/

namespace Sys2Proof.Machine

/-! ### Location block (Table 14-2) -/

/-- A location block. -/
structure LocBlock where
  alt : Nat
  dbkLen : Nat
  dbkCs : Nat
  deriving DecidableEq, Repr

/-- A copy of the location block, when it is valid (R324). -/
def readLoc (b : List Byte) : Option LocBlock :=
  guardOk (b.length == 64 && getLe b 0 4 == 0x4C4F4342 && getLe b 4 2 == 1 && crc32c (b.take 60) == getLe b 60 4
      && zeroRun b 6 2 && getLe b 24 1 < 2 && zeroRun b 25 35)
    { alt := getLe b 12 4, dbkLen := getLe b 20 4, dbkCs := getLe b 24 1 }

/-! ### Counters (R350, R351) -/

/-- The device may hold counter slots. -/
def State.slotsUsable (s : State) : Bool := 8192 ≤ s.dbk.regionLen && s.rd .chrXspiDbkFail == 0

/-- The valid slot of highest SEQ, where the device can be read. -/
def State.readSlot (s : State) : Option CounterSlot := if s.slotsUsable then s.dbk.slot else none

/-- Both counters take values; time since the power-on is added to the saved time. -/
def State.setCounters (s : State) (optime pcyc seq : Nat) : State :=
  let s : State := { s with clk := { s.clk with optime := (optime + s.clk.optime) % 2 ^ 40 } }
  (s.wr .wchPcycCount 0 pcyc).wr .wchSlotSeqSeq 0 seq

/-- The counters are lost (R351). -/
def State.lostCounters (s : State) (cause : Nat) : State := (s.wr .wchStatusCntLost 0 1).day 0x0006 0 cause

/-- The counters are restored at power-on, once. -/
def State.restoreCounters (s : State) : State :=
  if !s.pwr.restore then s else
  let s : State := { s with pwr := { s.pwr with restore := false } }
  match s.readSlot with
  | some c =>
    if c.pcyc == 0xFFFFFF then (s.setCounters c.optime c.pcyc c.seq).lostCounters 3
    else s.setCounters (c.optime + if c.clean then 1 else 1048576) (c.pcyc + 1) c.seq
  | none => (s.setCounters 0 0 0).lostCounters (if s.rd .chrXspiDbkFail == 1 then 2 else 1)

/-! ### STARTUP (Table 14-7 to the location block) -/

/-- The start fails (R334, R335). -/
def State.startFailed (s : State) : State := { s.wr .chrStatusState 0 7 with pwr := { s.pwr with phase := .failed } }

def State.chrErr (s : State) (code off : Nat) : State := (s.wr .chrErrCode 0 code).wr .chrErrOffOffset 0 off

/-- An image is read. -/
def State.readImage (s : State) (alt : Bool) : State :=
  let s : State := (s.wr .chrStatusState 0 1).wrB .chrStatusImage 0 alt
  { s with pwr := { s.pwr with phase := .reading alt } }.emit (.imageRead alt)

/-- The location block is taken, and the primary image read begins. The device's dummy cycles are its own. -/
def State.useLoc (s : State) (l : LocBlock) (dbkDev : Bool) : State :=
  let s : State := (s.wr .chrXspiDbkDev 0 l.dbkCs).wrB .chrXspiDbkFail 0 (l.dbkCs == 1 && !dbkDev)
  let s : State := (s.wr .chrXspiDummy 0 (s.freeNat % 256)).tookFree
  let s : State := { s with dbk := { s.dbk with regionLen := l.dbkLen }, pwr := { s.pwr with altPresent := l.alt != 0 } }
  s.restoreCounters.readImage false

/-- The device tag is formed: the first 128 bits of the HMAC under DUK of its label (R391). -/
def State.formDevTag (tag : List Byte) (s : State) : State :=
  (List.range 4).foldl (fun a i => a.wr .dbkDevtagBits i (getLe tag (4 * i) 4)) s

/-- STARTUP: failing algorithm of the known-answer tests or 0, R323 passed by the charter device and by the Daybook's, the
two copies of the location block. -/
def startStep (kat : Nat) (xspi dbkDev : Bool) (loc0 loc1 : List Byte) (s : State) : State :=
  if s.pwr.phase != .reset || !(s.pwr.hold == .none || s.pwr.hold == .clkLoss) then s else
  let s : State := { s with pwr := { s.pwr with hold := .none, startTick := s.clk.ticks } }
  if kat != 0 then
    { (s.wr .glbSecStatusKatFail 0 1).day 0x3001 0 kat with pwr := { s.pwr with phase := .katFail } }
  else
    let s : State := (s.wr .glbSecStatusKatOk 0 1).formDevTag (hmac Config.duk (labelBytes "NGV-DEVTAG"))
    if !xspi then (s.chrErr 1 0).startFailed else
    match (readLoc loc0).orElse (fun _ => readLoc loc1) with
    | none => (s.chrErr 2 0).startFailed
    | some l => s.useLoc l dbkDev

/-! ### The record area's bounds (R384, R385) -/

def State.written (s : State) (n pos : Nat) : Bool := s.dbk.store.any (fun x => x.1 == pos % n)

/-- TOP: the slot after a written one that 256 erased slots follow. -/
def State.findTop (s : State) (n : Nat) : Option Nat :=
  if s.dbk.store.isEmpty then some 0 else
  ((s.dbk.store.map (fun x => x.1 + 1)).find? (fun t => (List.range 256).all (fun k => !s.written n (t + k)))).map (· % n)

/-- The newest CLEARED record before TOP. -/
def State.lastCleared (s : State) (n top : Nat) : Option DRec :=
  (sortBy (fun a b => decide ((top + n - a.1) % n ≤ (top + n - b.1) % n))
    (s.dbk.store.filter (fun x => (x.2.map (·.code)) == some 0xF001))).head?.bind (·.2)

/-- BASE. -/
def State.findBase (s : State) (n top : Nat) : Nat :=
  match s.lastCleared n top with
  | some r => r.p1 % n
  | none => if s.dbk.store.isEmpty then 0 else
    (((s.dbk.store.map (fun x => (x.1 + n - top) % n)).foldl min n) + top) % n

/-- The record area is scanned. -/
def State.scanStore (s : State) : State :=
  let n := (min s.dbk.regionLen 4194304 - 8192) / 32
  let s : State := s.wr .dbkNslotCount 0 n
  if s.dbk.regionLen < 2117632 || s.rd .chrXspiDbkFail == 1 then s.wr .dbkStatusNvOff 0 1 else
  let top := (s.findTop n).getD (s.freeNat % n)
  let s : State := if (s.findTop n).isNone then s.tookFree else s
  let base := s.findBase n top
  let live := (top + n - base) % n
  let s : State := ((s.wr .dbkTopPos 0 top).wr .dbkBasePos 0 base).wr .dbkLiveCount 0 live
  s.wrB .dbkStatusFull 0 (decide (65536 ≤ live))

/-- The section-check row's work for the Watchman and the Daybook: the scan, and after a power-on the counter slot and
POWER_ON; the park counter is set (R240, R350). -/
def State.slotRow (s : State) : State :=
  let s : State := s.scanStore
  let s : State := if s.pwr.slotDue then
      let s : State := { s.saveSlot false with pwr := { s.pwr with slotDue := false } }
      s.day 0x0001 0 (s.rd .wchPcycCount) (s.clk.optime % 2 ^ 32) (s.rd .wchSlotSeqSeq)
    else s
  { s with clk := { s.clk with parkCtr := s.clk.optime * 2 ^ 17 % 2 ^ 59 } }

/-! ### Verification (R331) -/

/-- Checks 2 to 4. -/
def State.keyChk (s : State) (b : List Byte) : Chk :=
  let h := readHdr b
  chk (bit s.fuse.programmed h.keyslot && !bit s.fuse.revoked h.keyslot
      && s.fuse.keyHash.getD h.keyslot [] == sha384 ((sigBlock b).take 96)) 4 7
  <|> chk (signatureOk b) 5 (b.length - 256)
  <|> chk (decide (s.fuse.svn ≤ h.svn)) 6 20 <|> chk (decide (h.svnBurn ≤ h.svn)) 6 22
  <|> chk (decide (h.revoke < 2 ^ h.keyslot)) 6 7

/-- Offset of the item a cross-check names: the first section whose type the code stands for. -/
def codeOffset (b : List Byte) (code : Nat) : Nat :=
  (((readDir b).find? (fun e => typeCode e.type == code)).map (·.off)).getD 0

/-- Check 8: the secret of every pitch in use; a domain pitch is WRAPPED. -/
def secretsOf (u : Build) : Option (List PitKey) :=
  if !u.cfgs.all (fun c => regValue u.regs .fabPitCfgDomainEn c.pitch == 0 || c.wrapped) then none
  else allSome (u.cfgs.map (fun c => (pitchSecret c).map (fun k => ⟨c.pitch, k⟩)))

/-- What a charter that verifies gives. -/
structure Verified where
  build : Build
  keys : List PitKey
  deriving DecidableEq, Repr

/-- The checks in their order: the first failure, or what the image gives. -/
def State.verify (s : State) (b : List Byte) : (Nat × Nat) ⊕ Verified :=
  match (hdrChk b 0 <|> s.keyChk b <|> dirChk b false : Chk) with
  | some e => .inl e
  | none =>
    match takeAll b {} with
    | .error e => .inl e
    | .ok u =>
      match charterChk u (readDir b) with
      | some e => .inl (e.1, codeOffset b e.1)
      | none =>
        match secretsOf u with
        | none => .inl (0x14, codeOffset b 9)
        | some ks => .inr ⟨u, ks⟩

/-! ### A charter refused (R335) -/

/-- The image fails: the alternate is tried, or the start has failed. -/
def State.rejectImage (s : State) (alt : Bool) (code off : Nat) : State :=
  let s : State := (s.chrErr code off).day 0x3002 0 code off (b2n alt)
  if alt then s.startFailed
  else if s.pwr.altPresent then s.readImage true
  else (s.day 0x3002 0 code off 1).startFailed

/-! ### Fuse orders (R333) -/

/-- Revoke bits and the rollback counter are burnt where an order is still needed. -/
def State.burnFuses (s : State) (h : ImgHdr) : State :=
  let revoked := s.fuse.revoked ||| h.revoke
  let svn := max s.fuse.svn h.svnBurn
  if revoked == s.fuse.revoked && svn == s.fuse.svn then s
  else { s with fuse := { s.fuse with revoked, svn } }.day 0x0102 0 h.revoke svn

/-! ### Loading -/

/-- The value that a copy of a "from charter" field takes: its REG_VALUES value or its default; 0 for a field without a default in
a pitch not in use (R329). -/
def charterValue (regs : List (Nat × Nat)) (used : List Nat) (f : Fld) (i : Nat) : Nat :=
  if f.desc.dflt.isNone && ((rowPitch f i).map (fun p => !used.contains p)).getD false then 0 else regValue regs f i

/-- Every "from charter" field but those of structured sections takes its value (R329). -/
def State.loadRegs (s : State) (regs : List (Nat × Nat)) (used : List Nat) : State :=
  (Fld.all.filter (fun f => f.desc.charter && !mirrorFld f)).foldl (fun (a : State) f =>
    (List.range f.desc.count).foldl (fun (t : State) i => t.wr f i (charterValue regs used f i)) a) s

/-- GLB_KEY_CFG of a pitch in use, and its keys derived (Tables 13-7, 14-5). -/
def State.loadKey (s : State) (c : PitchCfg) : State :=
  let s : State := (s.wrB .glbKeyCfgSrc c.pitch c.wrapped).wr .glbKeyCfgKeyver c.pitch c.keyver
  (s.wr .glbKeyCfgKeyverMin c.pitch c.keyverMin).wr .glbKeyStatReady c.pitch 1

/-- A guild slot (R311). -/
def State.loadGuild (s : State) (x : GuildSlot × Nat) : State :=
  let s : State := (s.wr .glbGuildSlotPitch x.2 x.1.pitch).wrB .glbGuildSlotValid x.2 x.1.valid
  let s : State := (List.range 8).foldl (fun (a : State) w => a.wr .glbGuildPoolsMask (8 * x.2 + w) (getLe x.1.mask (4 * w) 4)) s
  if !x.1.valid then s
  else if x.1.pitch < 32 then s.wr .glbGuildLoMap 0 (s.rd .glbGuildLoMap ||| 2 ^ x.1.pitch)
  else s.wr .glbGuildHiMap 0 (s.rd .glbGuildHiMap ||| 2 ^ (x.1.pitch - 32))

/-- The 128-bit charter digest of a pitch (R332). -/
def pitDigestOf (b : List Byte) (p : Nat) : List Byte :=
  let ds := readDir b
  (sha384 ((ds.filter (fun e => !e.block && e.pitch == p)).flatMap (·.digest)
    ++ (ds.filter (·.type == 4)).flatMap (·.digest))).take 16

/-- Shards and directory of a compatibility-mode SHARD_MAP section (R290). -/
def State.loadShards (s : State) (x : ShardSec) : State :=
  { s with fab := { s.fab with
      shards := s.fab.shards ++ (x.owners.zipIdx).map (fun o => ⟨x.pitch, o.2, o.1, 0⟩)
      dirs := s.fab.dirs ++ [(x.pitch, x.dirBase, x.dirPool, x.dirLog2b)] } }

/-! Initial roles (R201; notes/assumptions/21.md) -/

/-- A role written without a change being counted. -/
def State.initRole (s : State) (i role chain stage : Nat) : State :=
  ((s.wr .stlRoleRole i role).wr .stlRoleStage i stage).wr .stlRoleChain i chain

/-- The stages of a chain active from the start. -/
def State.initChain (s : State) (c : List Nat × Nat) : State :=
  (c.1.zipIdx).foldl (fun (a : State) x => a.initRole x.1 2 c.2 x.2) s

/-- The roles and chains of a pitch at the start: the minimum of active chains, the lowest-numbered; then the minimum of
Spread stalls, those in no declared chain first. -/
def State.initRoles (s : State) (r : RoleCfg) : State :=
  let cs := r.chains.zipIdx
  let on := cs.take r.minChain
  let s : State := on.foldl State.initChain s
  let mine := (s.allocated r.pitch).filter (fun i => !(on.any (fun c => c.1.contains i)))
  let order := mine.filter (fun i => !(r.chains.any (·.contains i))) ++ mine.filter (fun i => r.chains.any (·.contains i))
  let s : State := (order.take r.minSpread).foldl (fun (a : State) i => a.initRole i 1 0 0) s
  { s with chains := s.chains ++ cs.map (fun c => { pitch := r.pitch, idx := c.2, stalls := c.1, active := decide (c.2 < r.minChain) }) }

/-- The charter's registers that report the image in force. -/
def State.reportImage (s : State) (b : List Byte) (h : ImgHdr) : State :=
  let d := imageDigest b
  let s : State := (s.wr .chrSizeBytes 0 h.len).wr .chrSvnSvn 0 h.svn
  let s : State := (List.range 4).foldl (fun (a : State) i => a.wr .chrDigestBits i (getLe d (4 * i) 4)) s
  let s : State := (s.wr .glbHpClkMhz 0 h.hpMhz).wr .glbHpClkTailCyc 0 (12 * h.hpMhz)
  s.wr .glbFuseKeyslotActive 0 h.keyslot

/-- The charter lock is set in the registers row, but after a power-on under LOCK_MODE 1 (R337). -/
def State.lockAtLoad (s : State) (h : ImgHdr) : State :=
  if h.lockMode == 1 && s.pwr.powerOn then s else s.wr .chrStatusLocked 0 1

/-- Everything a verified charter gives is in place (LOADING). -/
def State.loadCharter (s : State) (b : List Byte) (v : Verified) : State :=
  let h := readHdr b
  let u := v.build
  let used := u.cfgs.map (·.pitch)
  let s : State := { s.wr .chrStatusState 0 3 with
    pwr := { s.pwr with phase := .loading, build := some h }
    keys := v.keys
    gens := used.map (fun p => ⟨p, 0, u.gen⟩)
    chr := { hdr := some h, digest := imageDigest b, cfgs := u.cfgs, alloc := u.alloc, roles := u.roles, guild := u.guild
             charterGen := u.gen, baseGen := u.gen, pitDigest := used.map (fun p => (p, pitDigestOf b p)) } }
  let s : State := (s.loadRegs u.regs used).reportImage b h
  let s : State := (u.alloc.zipIdx).foldl (fun (a : State) x => a.putAlloc x.2 x.1) s
  let s : State := u.cfgs.foldl State.loadKey s
  let s : State := (u.guild.zipIdx).foldl State.loadGuild s
  let s : State := (u.gen.models.zipIdx).foldl (fun (a : State) x => a.putMdl x.2 x.1) s
  let s : State := (u.gen.calib.zipIdx).foldl (fun (a : State) x => a.putSlot x.2 x.1) s
  let s : State := used.foldl (fun (a : State) p => a.syncAsz p u.gen) s
  let s : State := u.shards.foldl State.loadShards s
  (u.roles.foldl State.initRoles s).lockAtLoad h

/-- IMAGE_READ_COMPLETE. A read that gave nothing is an image of no bytes. -/
def imageReadStep (data : ReadData) (s : State) : State :=
  match s.pwr.phase with
  | .reading alt =>
    let b := match data with
      | .ok b => b
      | .error => []
    let s : State := if alt then s.wr .chrStatusState 0 2 else (s.wr .chrStatusState 0 2).slotRow
    match s.verify b with
    | .inl e => s.rejectImage alt e.1 e.2
    | .inr v => (s.burnFuses (readHdr b)).loadCharter b v
  | _ => s

/-! ### Toll ready, and the lock -/

/-- In compatibility mode the block of lowest device id is the one that the others of the domain compare with (Table 12-7): it is
admitted as it starts. -/
def State.joinLowest (s : State) (p : Nat) : State :=
  if s.rd .fabPitCfgDomainEn p == 1 && s.rd .fabCfgMode == 1 && (s.members p).all (fun d => decide (s.rd .fabIdDevice < d))
    then s.wr .fabPitStatusJoined p 1 else s

/-- TOLL_READY. -/
def tollReadyStep (s : State) : State :=
  if s.pwr.phase != .loading then s else
  match s.pwr.build with
  | none => s
  | some h =>
    let s : State := (s.wr .tollStatusReady 0 1).wr .chrStatusState 0 4
    let s : State := s.wr .chrStartMsMs 0 (min 65535 (ceilDiv (s.clk.ticks - s.pwr.startTick) 8000))
    let s : State := { s with pwr := { s.pwr with phase := .done, readyTick := some s.clk.ticks, build := none }
                              pits := s.pits.map (fun x => { x with winTick := s.clk.ticks })
                              stalls := s.stalls.map (fun x => { x with idleSince := s.clk.ticks }) }
    let s : State := s.day 0x0101 0 (s.rd .chrStatusImage) h.svn h.len
    (s.chr.cfgs.map (·.pitch)).foldl (fun (a : State) p => (a.joinLowest p).sendDigests p) s

/-- CHR_LOCK written: SET locks the charter's registers (R337). -/
def State.writeLock (s : State) (w : Nat) : State := if bit w 0 then s.wr .chrStatusLocked 0 1 else s

/-- LOCK_SET. -/
def lockSetStep (acc : Accessor) (w : Word) (s : State) : State :=
  match s.gate acc .chrLockSet 0 with
  | .inl t => t
  | .inr s => s.writeLock w.toNat

/-- LOCK_TIMEOUT (R337). -/
def lockTimeoutStep (s : State) : State :=
  match s.chr.hdr, s.pwr.readyTick with
  | some h, some t => if h.lockMode == 1 && t + msTicks h.lockTmo ≤ s.clk.ticks then s.wr .chrStatusLocked 0 1 else s
  | _, _ => s

def execStartup (kat : BitVec 8) (xspi dbkDev : Bool) (loc0 loc1 : List Byte) (s : State) : Result :=
  .next (startStep kat.toNat xspi dbkDev loc0 loc1 s)
def execImageReadComplete (data : ReadData) (s : State) : Result := .next (s.whileUp (imageReadStep data))
def execTollReady (s : State) : Result := .next (s.whileUp tollReadyStep)
def execLockSet (acc : Accessor) (value : Word) (s : State) : Result := .next (lockSetStep acc value s)
def execLockTimeout (s : State) : Result := .next (s.whileUp lockTimeoutStep)

end Sys2Proof.Machine
end

