-- ==== Sys2Proof/Machine/Lanes.lean ====
section
/-! DEFINITION. Lanes and links: flits, replay, credits, link start, lanes that go down and their tests, heartbeats, and the
frames unpacked from flits (12_fabric_domains.md R276 to R282, R298, 16 R373). -/

namespace Sys2Proof.Machine

/-! ### Frames as received (Table 12-3) -/

/-- A frame received. -/
structure RFrame where
  kind : Nat
  src : Nat
  skind : Nat
  dst : Nat
  dkind : Nat
  pitch : Nat
  txn : Nat
  session : Nat
  arg : List Byte
  body : List Byte
  deriving DecidableEq, Repr

def readFrame (b : List Byte) : RFrame :=
  { kind := getLe b 0 1, src := bits (getLe b 4 2) 0 13, skind := bits (getLe b 4 2) 13 2, dst := bits (getLe b 6 2) 0 13
    dkind := bits (getLe b 6 2) 13 2, pitch := bits (getLe b 8 1) 0 6, txn := getLe b 12 4, session := getLe b 16 5
    arg := (b.drop 24).take 8, body := b.drop 32 }

/-- ARG and body of a kind (Table 12-4). A block is no pool: MEM_RD and MEM_WR are none of its kinds. -/
def kindOk (f : RFrame) : Bool :=
  let n := f.body.length
  match f.kind with
  | 0x01 | 0x02 | 0x14 | 0x15 | 0x16 | 0x18 | 0x22 | 0x33 => n == 0
  | 0x03 => n == 32
  | 0x10 => 1 ≤ getLe f.arg 2 2 && getLe f.arg 2 2 ≤ 74 && n == 8 * getLe f.arg 2 2 && getLe f.arg 0 2 + getLe f.arg 2 2 ≤ 1024
      && (List.range (getLe f.arg 2 2)).all (fun k => getLe f.body (8 * k) 4 < 8192)
  | 0x11 => n == 8 && 4 ≤ getLe f.arg 1 1 && getLe f.arg 1 1 ≤ 24
  | 0x12 | 0x13 | 0x17 => n == 8
  | 0x20 => 8 ≤ getLe f.arg 6 2 && getLe f.arg 6 2 ≤ 592 && n == ceilDiv (getLe f.arg 6 2) 8 * 8 && getLe f.arg 3 1 < 16
  | 0x21 => n == 64
  | 0x32 => true
  | _ => false

/-- A frame keeps Tables 12-3 and 12-4, and is for this block (R282, R294). -/
def State.frameOk (s : State) (b : List Byte) : Bool :=
  let f := readFrame b
  let compat := s.rd .fabCfgMode == 1
  b.length == getLe b 2 2 && b.length % 8 == 0 && 32 ≤ b.length && b.length ≤ 624 && getLe b 1 1 == frameVc f.kind
    && getLe b 4 2 < 32768 && getLe b 6 2 < 32768 && getLe b 8 1 < 64 && zeroRun b 9 3 && zeroRun b 21 3 && kindOk f
    && ((f.dkind == 0 && f.dst == s.rd .fabIdDevice) || (f.dkind == 3 && f.dst == 0))
    && (!(f.kind == 0x10 || f.kind == 0x11 || f.kind == 0x13) || f.skind == 2) && (f.kind != 0x17 || compat)
    && (!(f.kind == 0x20 || f.kind == 0x21 || f.kind == 0x22) || !compat)

/-- Least version of the domain (R280). -/
def State.minVer (s : State) : Nat := if s.rd .fabCfgMode == 0 then 3 else 2
def State.maxVer (s : State) : Nat := if s.rd .fabCfgMode == 0 then 3 else 2

/-- A lane whose peer is excluded carries HELLO and HEARTBEAT only. -/
def State.laneExcluded (s : State) (l : Nat) : Bool := (s.lane l).ver < s.minVer

/-- One frame of a good flit: dropped and counted, one of another pitch on a guild pitch's port among them (R282, R299;
notes/assumptions/128.md), passed over, or taken up. -/
def State.frameIn (s : State) (l : Nat) (b : List Byte) : State :=
  let f := readFrame b
  if !s.frameOk b || (f.dkind != 3 && !s.portTakes (l / 4) f.pitch) then s.bump .fabDropCount
  else if s.laneExcluded l && f.kind != 0x01 && f.kind != 0x02 then s
  else
    let s : State := if f.skind == 2 then s.wr .fabStatusMgrSeen 0 1 else s
    { s with fab := { s.fab with inbox := s.fab.inbox ++ [(l, b)] } }

/-- Frames of a flit, from byte 8 up to a PAD or the end. A LEN that cannot be ends the packing with a dropped frame. -/
def unpackFrames : Nat → List Byte → List (List Byte) × Bool
  | 0, _ => ([], false)
  | k + 1, b =>
    if b.length < 8 || getLe b 0 1 == 0 then ([], false) else
    let n := getLe b 2 2
    if n < 32 || n % 8 != 0 || b.length < n then ([], true) else
    let r := unpackFrames k (b.drop n)
    (b.take n :: r.1, r.2)

/-! ### Link start (R280) -/

/-- HELLO: highest and lowest version, mode. -/
def State.sendHello (s : State) (l : Nat) : State :=
  let f : Frame := { kind := 0x01, dkind := 3, dst := 0, arg := [BitVec.ofNat 8 s.maxVer, 2#8, BitVec.ofNat 8 (s.rd .fabCfgMode)] }
  s.laneSend l 0 (f.bytes (s.rd .fabIdDevice))

/-- A link begins anew: sequences, credits and buffers. -/
def LaneSt.fresh (x : LaneSt) : LaneSt :=
  { x with fseqExp := 0, fseqNext := 0, acked := 65535, replay := [], queue := [], credits := [128, 128, 128, 128], missed := 0
           lastRetry := none, replays := 0, ver := 0, up := false }

def State.linkStart (s : State) (l : Nat) : State :=
  (s.updLane l (fun x => { x.fresh with training := false, testing := false })).sendHello l

/-- EQUALISATION_CONVERGED: a lane under test goes on to its test flits. -/
def equalisedStep (l : Nat) (s : State) : State :=
  let x := s.lane l
  if !x.training || x.retired then s
  else if x.testing then s.updLane l (fun x => { x with training := false })
  else s.linkStart l

/-! ### Lanes that go down (R281) -/

/-- Frames sent and not acknowledged. -/
def LaneSt.unacked (x : LaneSt) : List (Nat × Nat × List Byte) :=
  x.replay.filter (fun f => let d := (f.1 + 65536 - x.acked) % 65536
                            0 < d && d ≤ 512)

/-- Another lane for a frame: of the same port and partner, or of a port the route table allows. -/
def State.otherLane (s : State) (l : Nat) (b : List Byte) : Option Nat :=
  let x := s.lane l
  let f := readFrame b
  let ls := s.lanesTo f.dkind f.dst f.pitch
  ((List.range 16).find? (fun k => k != l && k / 4 == l / 4 && (s.lane k).up && (s.lane k).peer == x.peer
      && (s.lane k).peerKind == x.peerKind)).orElse (fun _ =>
    ls[Config.lanePick (if f.session == 0 then f.txn else f.session + 2 ^ 40 * f.pitch) ls.length % ls.length]?)

/-- Frames re-sent elsewhere, those of the link itself left out. -/
def State.resend (s : State) (l : Nat) (fs : List (Nat × List Byte)) : State :=
  fs.foldl (fun (a : State) x =>
    if (readFrame x.2).dkind == 3 then a else
    match a.otherLane l x.2 with
    | some k => a.laneSend k x.1 x.2
    | none => a) s

/-- A lane goes down: LANE_DOWN, its frames re-sent elsewhere, retraining and its test (R281, R373). -/
def State.laneDown (s : State) (l cause : Nat) : State :=
  let x := s.lane l
  let fs := x.unacked.map (fun f => f.2) ++ x.queue
  let missed := x.missed
  let s : State := s.updLane l (fun x => { x.fresh with training := true, testing := true, downCause := cause, missed
                                                        retrains := x.retrains + 1, faults := s.clk.optime :: x.faults })
  let s : State := (s.bump .glbFaultsCount).day 0x4001 0 l cause (s.lane l).retrains
  s.resend l fs

/-- FEC_LOCK_LOSS. -/
def fecLossStep (l : Nat) (s : State) : State :=
  if (s.lane l).training || (s.lane l).retired then s else s.laneDown l 1

/-- A lane is retired (R370, R373). -/
def State.retireLane (s : State) (l : Nat) : State :=
  let s : State := (s.day 0x1022 0 l (s.lane l).downCause).bump .glbRetiredCount
  s.updLane l (fun x => { x.fresh with training := false, testing := false, retired := true })

/-- LANE_TEST_COMPLETE. -/
def laneTestStep (l : Nat) (pass : Bool) (s : State) : State :=
  if !(s.lane l).testing then s else
  let n := ((s.lane l).faults.filter (fun t => decide (s.clk.optime ≤ t + s.rd .glbFaultCfgTransWinS * 1024))).length
  if !pass || s.rd .glbFaultCfgTransMax ≤ n then s.retireLane l else (s.day 0x1021 0 l n).linkStart l

/-! ### Flits (R278, R279) -/

/-- A partner's RETRY: everything after its ACKSEQ is sent again, or the lane goes down. -/
def State.replayFrom (s : State) (l ack : Nat) : State :=
  let x := s.lane l
  if (!x.up && x.training) || x.retired then s else
  let n := if x.lastRetry == some ack then x.replays else 0
  if s.rd .fabTimingRetryMax ≤ n then s.laneDown l 2 else
  let s : State := (s.updLane l (fun x => { x with acked := ack, lastRetry := some ack, replays := n + 1 })).bump .fabLnRetryCount l
  (s.lane l).unacked.foldl (fun (a : State) f => a.emit (.frame l f.1 f.2.2)) s

/-- RETRY_FLIT. -/
def retryStep (l ack : Nat) (s : State) : State := if s.pwr.hold == .none then s.replayFrom l ack else s

/-- A RETRY flit is sent: its ACKSEQ names the last good flit. -/
def State.askRetry (s : State) (l : Nat) : State := s.emit (.lane l 2 (((s.lane l).fseqExp + 65535) % 65536) 0 0)

/-- A DATA flit in order: its frames, and the credits they used given back. -/
def State.dataFlit (s : State) (l : Nat) (b : List Byte) : State :=
  let seq := (s.lane l).fseqExp
  let s : State := s.updLane l (fun x => { x with fseqExp := (seq + 1) % 65536 })
  let u := unpackFrames 20 ((b.drop 8).take 624)
  let s : State := u.1.foldl (fun (a : State) f => a.frameIn l f) s
  let s : State := if u.2 then s.bump .fabDropCount else s
  ((u.1.map (fun f => frameVc (getLe f 0 1))).eraseDups).foldl (fun (a : State) vc => a.emit (.lane l 0 seq vc 1)) s

/-- A flit keeps Table 12-2: its length, its CRC, its FTYPE, and its reserved fields 0 (R8; notes/assumptions/128.md). -/
def flitOk (b : List Byte) : Bool :=
  b.length == 640 && crc32c (b.take 636) == getLe b 636 4 && getLe b 4 1 < 5 && getLe b 5 1 < 4 && zeroRun b 632 4

/-- FLIT_RECEIVE: codeword uncorrectable, codeword corrected, the flit. -/
def flitStep (l : Nat) (uncorr corrected : Bool) (b : List Byte) (s : State) : State :=
  if s.pwr.hold != .none || (s.lane l).retired then s else
  let s : State := if corrected then s.bump .fabLnCorrCount l else s
  let s : State := if uncorr then s.bump .fabLnUncorrCount l else s
  let ftype := bits (getLe b 4 1) 0 3
  if uncorr || !flitOk b then s.askRetry l else
  let vc := bits (getLe b 5 1) 0 2
  let s : State := s.updLane l (fun x => { x with acked := if ftype == 2 then x.acked else getLe b 2 2
                                                  credits := setNth x.credits vc (fun c => min 128 (c + getLe b 6 2)) })
  let s : State := s.laneDrain l vc (s.lane l).queue.length
  if ftype == 2 then s.replayFrom l (getLe b 2 2)
  else if ftype != 1 then s
  else if getLe b 0 2 == (s.lane l).fseqExp then s.dataFlit l b
  else s.askRetry l

/-! ### Lost peers (R298) and heartbeats -/

/-- Members of a pitch's domain, this block among them. -/
def State.allMembers (s : State) (p : Nat) : List Nat := s.rd .fabIdDevice :: s.members p

/-- Member of next higher device id that is not lost, wrapping round (R290). -/
def State.nextMember (s : State) (p d : Nat) : Option Nat :=
  let live := sortBy (fun a b => decide (a ≤ b)) ((s.allMembers p).filter (fun x => x != d && !s.fab.lost.contains x))
  (live.find? (fun x => decide (d < x))).orElse (fun _ => live.head?)

/-- SHARD_TAKEOVER (R298). -/
def State.takeover (s : State) (p : Nat) (shards : List Nat) : State :=
  match shards with
  | [] => s
  | k :: _ => s.day 0x4103 p p (shards.foldl min k) shards.length

/-- In compatibility mode a lost block's shards of a pitch pass to the next member, which announces each: session 0, the
shard's number in place of CKPT_SEQ (DESIGN CHOICE, notes/assumptions/105.md). -/
def State.passShards (s : State) (d p : Nat) : State :=
  let mine := (s.fab.shards.filter (fun x => x.pitch == p && x.device == d))
  match s.nextMember p d with
  | none => s
  | some n =>
    if mine.isEmpty || n != s.rd .fabIdDevice then s else
    let s : State := { s with fab := { s.fab with shards := s.fab.shards.map (fun x =>
        if x.pitch == p && x.device == d then { x with device := n, epoch := (x.epoch + 1) % 2 ^ 32 } else x) } }
    let s : State := mine.foldl (fun (a : State) x => a.announce p 0 n n ((x.epoch + 1) % 2 ^ 32) (leBytes 4 x.shard)) s
    s.takeover p (mine.map (·.shard))

/-- A block is lost: sessions in conflict with it are decided; in compatibility mode its shards pass on. -/
def State.markLost (s : State) (d : Nat) : State :=
  if s.fab.lost.contains d then s else
  let s : State := { s with fab := { s.fab with lost := s.fab.lost ++ [d], conflicts := s.fab.conflicts.filter (·.other != d) } }
  if s.rd .fabCfgMode == 1 then (s.chr.cfgs.map (·.pitch)).foldl (fun (a : State) p => a.passShards d p) s else s

/-- Lanes toward a block. -/
def State.lanesOf (s : State) (d : Nat) : List Nat :=
  (List.range 16).filter (fun l => (s.lane l).peer == d && (s.lane l).peerKind == 0 && !(s.lane l).retired)

/-- A loss this block finds: PEER_LOST to the fabric manager, and the record. -/
def State.findLoss (s : State) (d : Nat) : State :=
  if s.fab.lost.contains d then s else
  let n := (s.lanesOf d).length
  let s : State := if s.rd .fabCfgMode == 0 then s.sendFrame { kind := 0x18, dkind := 2, dst := 0, arg := leBytes 2 d } else s
  (s.day 0x4203 0 d n).markLost d

/-- HEARTBEAT_MISS. -/
def heartbeatMissStep (l : Nat) (s : State) : State :=
  if s.pwr.hold != .none || (s.lane l).retired then s else
  let s : State := s.updLane l (fun x => { x with missed := x.missed + 1 })
  let d := (s.lane l).peer
  let kind := (s.lane l).peerKind
  let max := s.rd .fabTimingHbMiss
  if (s.lane l).missed < max then s else
  let s : State := if (s.lane l).up then s.laneDown l 3 else s
  if kind == 0 && (s.lanesOf d).all (fun k => decide (max ≤ (s.lane k).missed)) then s.findLoss d else s

/-- HEARTBEAT_SEND: on every lane up, each FAB_TIMING.HB_MS; a held block sends none (R375). -/
def heartbeatSendStep (s : State) : State :=
  if s.pwr.hold != .none || s.clk.ticks < s.fab.hbTick + msTicks (s.rd .fabTimingHbMs) then s else
  let s : State := { s with fab := { s.fab with hbTick := s.clk.ticks } }
  let f : Frame := { kind := 0x02, dkind := 3, dst := 0 }
  ((List.range 16).filter (fun l => (s.lane l).up)).foldl (fun (a : State) l => a.laneSend l 0 (f.bytes (s.rd .fabIdDevice))) s

def execFlitReceive (lane : Fin 16) (uncorr corrected : Bool) (flit : List Byte) (s : State) : Result :=
  .next (flitStep lane uncorr corrected flit s)
def execRetryFlit (lane : Fin 16) (ackseq : BitVec 16) (s : State) : Result := .next (retryStep lane ackseq.toNat s)
def execHeartbeatSend (s : State) : Result := .next (heartbeatSendStep s)
def execHeartbeatMiss (lane : Fin 16) (s : State) : Result := .next (heartbeatMissStep lane s)
def execFecLockLoss (lane : Fin 16) (s : State) : Result := .next (s.whileUp (fecLossStep lane))
def execLaneTestComplete (lane : Fin 16) (pass : Bool) (s : State) : Result := .next (s.whileUp (laneTestStep lane pass))
def execEqualisationConverged (lane : Fin 16) (s : State) : Result := .next (s.whileUp (equalisedStep lane))

end Sys2Proof.Machine
end

