-- ==== Sys2Proof/Machine/Domain.lean ====
section
/-! DEFINITION. What frames do: link and digest frames, ownership, pushes, pooled memory (12_fabric_domains.md R280, R283, R286
to R298, 10 R246, R247, 8 R203, R204). -/

namespace Sys2Proof.Machine

/-! ### Taking a frame up -/

/-- A frame of a kind is taken up: it leaves the inbox. None for a frame that breaks Tables 12-3 or 12-4, or that the block
does not take now. -/
def State.takeFrame (s : State) (l kind : Nat) (b : List Byte) : Option (State × RFrame) :=
  let f := readFrame b
  if s.pwr.hold != .none || f.kind != kind || !s.frameOk b || (s.laneExcluded l && kind != 0x01 && kind != 0x02) then none
  else some ({ s with fab := { s.fab with inbox := s.fab.inbox.erase (l, b) } }, f)

/-- A frame's meaning, or no effect. -/
def State.onFrame (s : State) (l kind : Nat) (b : List Byte) (act : State → RFrame → State) : State :=
  match s.takeFrame l kind b with
  | some x => act x.1 x.2
  | none => s

/-! ### Links and digests -/

/-- HELLO (R280). -/
def State.helloFrame (s : State) (l : Nat) (f : RFrame) : State :=
  let agreed := min s.maxVer (getLe f.arg 0 1)
  let ok := 2 ≤ agreed && getLe f.arg 1 1 ≤ agreed
  let s : State := s.updLane l (fun x => { x with ver := agreed % 16, peer := f.src, peerKind := f.skind, missed := 0, up := ok && !x.training })
  if !ok then s
  else if agreed < s.minVer then (s.wr .fabStatusVerLow 0 1).day 0x4202 0 l f.src agreed
  else if s.pwr.phase == .done then (s.chr.cfgs.map (·.pitch)).foldl State.sendDigests s else s

/-- HEARTBEAT (R281). -/
def State.heartbeatFrame (s : State) (l : Nat) : State := s.updLane l (fun x => { x with missed := 0 })

/-- The block a charter digest is compared with: the fabric manager, or the lowest device id of the domain (Table 12-7). -/
def State.comparesWith (s : State) (p : Nat) (f : RFrame) : Bool :=
  if s.rd .fabCfgMode == 0 then f.skind == 2
  else f.skind == 0 && (s.allMembers p).foldl min f.src == f.src && f.src != s.rd .fabIdDevice

/-- DIGEST (R297). -/
def State.digestFrame (s : State) (f : RFrame) : State :=
  let p := f.pitch
  if s.rd .fabPitCfgDomainEn p == 0 then s else
  let same := f.body.take 16 == fill 16 (s.charterDigest p)
  let s : State := if f.skind == 0 then
      { s with fab := { s.fab with peers := s.fab.peers.filter (fun x => !(x.1 == p && x.2.1 == f.src))
                                    ++ [(p, f.src, same, getLe f.body 16 16)] } }
    else s
  if !s.comparesWith p f then s
  else if same then s.wr .fabPitStatusJoined p 1
  else
    let s : State := if s.fab.excluded.contains p then s else { s with fab := { s.fab with excluded := s.fab.excluded ++ [p] } }
    ((s.wr .fabPitStatusJoined p 0).wr .fabPitStatusMismatch p 1).day 0x4201 0 p f.src

/-! ### Conflicts (R247, R291) -/

/-- The epoch this block claims a session under. -/
def State.myEpoch (s : State) (p sess : Nat) : Nat :=
  match s.owner? p sess with
  | some (d, e) => if d == s.rd .fabIdDevice then e else ((s.entry? p sess).map (·.ownEpoch)).getD 0
  | none => ((s.entry? p sess).map (·.ownEpoch)).getD 0

/-- A conflict is found: counted, and the other claimant probed. -/
def State.findConflict (s : State) (p sess other : Nat) : State :=
  if s.fab.conflicts.any (fun c => c.pitch == p && c.session == sess) then s else
  let me := s.rd .fabIdDevice
  let s : State := s.bump .fabConflictsCount
  let s : State := { s with fab := { s.fab with conflicts := s.fab.conflicts ++ [⟨p, sess, other, s.clk.ticks⟩] } }
  s.sendFrame { kind := 0x15, dkind := 0, dst := other, pitch := p, session := sess
                arg := leBytes 2 me ++ leBytes 2 0 ++ leBytes 4 (s.myEpoch p sess) }

/-- The other claim wins: a higher epoch, or an equal one of a lower device id. -/
def claimWins (dev epoch me mine : Nat) : Bool := mine < epoch || (mine == epoch && dev < me)

/-- A conflict decided by another block's claim. -/
def State.settleClaim (s : State) (p sess dev epoch : Nat) : State :=
  let me := s.rd .fabIdDevice
  if dev != me && claimWins dev epoch me (s.myEpoch p sess) then s.loseSession p sess dev epoch
  else { s with fab := { s.fab with conflicts := s.fab.conflicts.filter (fun c => !(c.pitch == p && c.session == sess)) } }

/-- OWN_PROBE: answered with OWN_STATE; about a session held here, it is a conflict. -/
def State.probeFrame (s : State) (f : RFrame) : State :=
  let me := s.rd .fabIdDevice
  let held := (s.entry? f.pitch f.session).isSome
  let owner := if held then me else ((s.owner? f.pitch f.session).map (·.1)).getD me
  let ep := if held then s.myEpoch f.pitch f.session else s.ownEpoch f.pitch f.session
  let s : State := s.sendFrame { kind := 0x16, dkind := f.skind, dst := f.src, pitch := f.pitch, session := f.session
                                 arg := leBytes 2 owner ++ [BitVec.ofNat 8 (b2n held), 0#8] ++ leBytes 4 ep }
  let claimed := bits (getLe f.arg 0 2) 0 13
  if held && claimed != me then s.findConflict f.pitch f.session claimed else s

/-- OWN_STATE. -/
def State.stateFrame (s : State) (f : RFrame) : State :=
  if s.fab.conflicts.any (fun c => c.pitch == f.pitch && c.session == f.session) then
    s.settleClaim f.pitch f.session (bits (getLe f.arg 0 2) 0 13) (getLe f.arg 4 4)
  else s

/-! ### Shard maps and directories (R286, R287, R298) -/

/-- One entry of a SHARD_MAP: a higher shard epoch takes effect. -/
def State.setShard (s : State) (p k owner epoch : Nat) : State :=
  let x := s.fab.shards.find? (fun x => x.pitch == p && x.shard == k)
  if ((x.map (·.epoch)).getD 0) < epoch || x.isNone then
    { s with fab := { s.fab with shards := s.fab.shards.filter (fun x => !(x.pitch == p && x.shard == k)) ++ [⟨p, k, owner, epoch⟩] } }
  else s

/-- Conflicts about resident sessions whose shard has gone to another owner without a grant (R291). -/
def State.shardConflicts (s : State) (p : Nat) (ks : List Nat) : State :=
  (s.entries.filter (fun e => e.pitch == p && ks.contains (shardOf e.session))).foldl (fun (a : State) e =>
    match a.owner? p e.session with
    | some (d, _) => if d == s.rd .fabIdDevice then a else a.findConflict p e.session d
    | none => a) s

/-- SHARD_MAP: shards taken over, and conflicts about resident sessions. -/
def State.shardFrame (s : State) (f : RFrame) : State :=
  let p := f.pitch
  let me := s.rd .fabIdDevice
  let first := getLe f.arg 0 2
  let n := getLe f.arg 2 2
  let had (k d : Nat) : Bool := s.fab.shards.any (fun x => x.pitch == p && x.shard == k && x.device == d)
  let known (k : Nat) : Bool := s.fab.shards.any (fun x => x.pitch == p && x.shard == k)
  let ks := (List.range n).map (first + ·)
  let s' : State := ks.foldl (fun (a : State) k => a.setShard p k (bits (getLe f.body (8 * (k - first)) 4) 0 13)
    (getLe f.body (8 * (k - first) + 4) 4)) s
  let mineNow (k : Nat) : Bool := s'.fab.shards.any (fun x => x.pitch == p && x.shard == k && x.device == me)
  let s' : State := (s'.wr .fabPitStatusJoined p 1).takeover p (ks.filter (fun k => known k && !had k me && mineNow k))
  s'.shardConflicts p ks

/-- DIR_LOC. -/
def State.dirFrame (s : State) (f : RFrame) : State :=
  { s with fab := { s.fab with dirs := s.fab.dirs.filter (·.1 != f.pitch)
      ++ [(f.pitch, getLe f.body 0 8, getLe f.arg 0 1, getLe f.arg 1 1)] } }

/-! ### Moves (R288, R290) -/

/-- GRANT_REFUSED. -/
def State.grantRefused (s : State) (p sess dev reason : Nat) : State := s.day 0x4102 p (sess % 2 ^ 32) dev reason

def State.sendNack (s : State) (f : RFrame) (reason : Nat) : State :=
  s.sendFrame { kind := 0x14, dkind := f.skind, dst := f.src, pitch := f.pitch, session := f.session
                arg := [BitVec.ofNat 8 reason, 0#8, 0#8, 0#8] ++ leBytes 4 (s.ownEpoch f.pitch f.session) }

/-- A live move begins, on the owner. -/
def State.startMove (s : State) (p sess target reason : Nat) : State :=
  let me := s.rd .fabIdDevice
  if s.rd .fabPitCfgDomainEn p == 0 || ((s.owner? p sess).map (·.1)) != some me || (s.move? p sess).isSome then s else
  let m : Move := { pitch := p, session := sess, target, reason, since := s.clk.ticks }
  State.moveOn { s with fab := { s.fab with moves := s.fab.moves ++ [m] } } p sess

/-- OWNERSHIP_MOVE: the write of FAB_MOVE_HI, with the accessor's last low word (R403). -/
def State.orderMove (s : State) (acc : Accessor) (w : Nat) : State :=
  let lo := ((s.fab.moveLo.find? (·.1 == acc.toNat)).map (·.2)).getD 0
  s.startMove (bits w 8 6) (lo + 2 ^ 32 * bits w 0 8) (bits w 16 13) 1

def moveStep (acc : Accessor) (w : Word) (s : State) : State :=
  match s.gate acc .fabMoveHiSession 0 with
  | .inl t => t
  | .inr s => s.orderMove acc w.toNat

/-- OWN_REQ: NOT_OWNER, STALE, or the move it asks for. -/
def State.reqFrame (s : State) (f : RFrame) : State :=
  let me := s.rd .fabIdDevice
  if ((s.owner? f.pitch f.session).map (·.1)) != some me then s.sendNack f 3
  else if getLe f.arg 4 4 != s.ownEpoch f.pitch f.session then s.sendNack f 2
  else s.startMove f.pitch f.session (bits (getLe f.arg 0 2) 0 13) (bits (getLe f.arg 2 1) 0 1)

/-- A grant or an announcement that is accepted: the exception, the record, and what it means for an entry held here. -/
def State.acceptOwner (s : State) (p sess owner holder epoch ckpt : Nat) : State :=
  let me := s.rd .fabIdDevice
  let wasMine := ((s.owner? p sess).map (·.1)) == some me
  let asked := (s.move? p sess).isSome
  let held := (s.entry? p sess).isSome
  let s : State := if owner == me || wasMine || s.ownsShard p sess then s.putExc p sess owner epoch else s
  let s : State := s.writeRecord p sess owner epoch holder ckpt
  if owner == me then s
  else if asked then
    let s : State := s.dropMove p sess
    if held then s.freeEntry p sess else s
  else if held then (s.bump .fabConflictsCount).loseSession p sess owner epoch
  else s

/-- OWN_GRANT: from a target whose exception table is full, OWN_NACK with FULL. -/
def State.grantFrame (s : State) (f : RFrame) : State :=
  let p := f.pitch
  let me := s.rd .fabIdDevice
  let owner := bits (getLe f.arg 0 2) 0 13
  let holder := bits (getLe f.arg 2 2) 0 13
  let epoch := getLe f.arg 4 4
  if (s.owner? p f.session).isSome && epoch ≤ s.ownEpoch p f.session then s
  else if owner == me && 65536 ≤ s.fab.exc.length && !s.fab.exc.any (fun x => x.pitch == p && x.session == f.session) then
    (s.sendNack f 1).grantRefused p f.session holder 1
  else s.acceptOwner p f.session owner holder epoch (getLe f.body 0 4)

/-- OWN_NACK: the move has failed; the entry stays, or is revived under the old epoch. -/
def State.nackFrame (s : State) (f : RFrame) : State :=
  let p := f.pitch
  let sess := f.session
  let me := s.rd .fabIdDevice
  let away := s.fab.exc.find? (fun x => x.pitch == p && x.session == sess && x.device != me)
  match s.move? p sess, away with
  | none, none => s
  | m, x =>
    let other := match m with
      | some m => m.target
      | none => (x.map (·.device)).getD 0
    let s : State := s.dropMove p sess
    let s : State := { s with fab := { s.fab with exc := s.fab.exc.filter (fun x => !(x.pitch == p && x.session == sess && x.device != me)) } }
    let s : State := s.grantRefused p sess other (getLe f.arg 0 1)
    if (s.entry? p sess).isSome || s.reviving p sess || !s.reviveFree p then s else s.startRevive p sess false false

/-- OWN_ANNOUNCE (R290): a higher epoch, or an equal one from a lower device id. An announcement of session 0 names the shard
in place of CKPT_SEQ. -/
def State.announceFrame (s : State) (f : RFrame) : State :=
  let p := f.pitch
  let owner := bits (getLe f.arg 0 2) 0 13
  let holder := bits (getLe f.arg 2 2) 0 13
  let epoch := getLe f.arg 4 4
  if f.session == 0 then
    let k := getLe f.body 0 4 % 1024
    (s.setShard p k owner epoch).shardConflicts p [k]
  else match s.owner? p f.session with
    | some (d, e) => if e < epoch || (e == epoch && f.src < d) then s.acceptOwner p f.session owner holder epoch (getLe f.body 0 4) else s
    | none => s.acceptOwner p f.session owner holder epoch (getLe f.body 0 4)

/-! ### Pushes (R292, R293) -/

/-- This block owns a session. -/
def State.ownsSession (s : State) (p sess : Nat) : Bool := ((s.owner? p sess).map (·.1)) == some (s.rd .fabIdDevice)

def PushBuf.isOf (x : PushBuf) (p sess tag src : Nat) : Bool := x.pitch == p && x.session == sess && x.tag == tag && x.src == src

/-- Tap bytes gathered: each piece at the end of what its tap has. -/
def PushBuf.addTap (x : PushBuf) (tap off : Nat) (b : List Byte) : PushBuf :=
  let old := ((x.taps.find? (·.1 == tap)).map (·.2)).getD []
  if old.length != off then x else { x with taps := x.taps.filter (·.1 != tap) ++ [(tap, old ++ b)] }

/-- The entry a push needs is revived or created, with a free revive slot. -/
def State.reviveForPush (s : State) (p sess : Nat) : State :=
  if (s.entry? p sess).isSome || s.reviving p sess || !s.reviveFree p then s else s.startRevive p sess false true

/-- PUSH_TAP. -/
def State.tapFrame (s : State) (f : RFrame) : State :=
  let p := f.pitch
  let tag := getLe f.arg 0 3
  if !s.ownsSession p f.session then s else
  let s : State :=
    if s.fab.pushes.any (·.isOf p f.session tag f.src) || 256 ≤ s.fab.pushes.length then s else
    let x : PushBuf := { pitch := p, session := f.session, tag, src := f.src, since := s.clk.ticks }
    State.reviveForPush { s with fab := { s.fab with pushes := s.fab.pushes ++ [x] } } p f.session
  { s with fab := { s.fab with pushes := s.fab.pushes.map (fun x => if x.isOf p f.session tag f.src then
      x.addTap (bits (getLe f.arg 3 1) 0 4) (getLe f.arg 4 2) (f.body.take (getLe f.arg 6 2)) else x) } }

/-- Every tap a header names is complete. -/
def tapsComplete (x : PushBuf) (h : List Byte) : Bool :=
  (List.range (getLe h 3 1)).all (fun i => (((x.taps.find? (·.1 == i)).map (·.2)).getD []).length == 2 * getLe h 20 2)

/-- The sender's amendment digest differs from this block's (R293), as far as it is known. -/
def State.genDiffers (s : State) (p src : Nat) : Bool :=
  match s.fab.peers.find? (fun x => x.1 == p && x.2.1 == src) with
  | some x => x.2.2.2 != leNat (s.amendDigest p)
  | none => false

/-- STATUS that refuses a push, if one does. -/
def State.pushRefusal (s : State) (f : RFrame) (x : Option PushBuf) (mine : Nat) : Option Nat :=
  let p := f.pitch
  if !s.ownsSession p f.session || getLe f.arg 4 4 < mine then some 3
  else if s.genDiffers p f.src then some 5
  else match x with
    | none => if getLe f.body 3 1 == 0 then none else if 256 ≤ s.fab.pushes.length then some 1 else some 4
    | some x =>
      if x.failed then some 2
      else if !tapsComplete x f.body then some 4
      else if (s.entry? p f.session).isNone && !s.reviving p f.session then some 1 else none

/-- PUSH_HEAD. -/
def State.headFrame (s : State) (f : RFrame) : State :=
  let p := f.pitch
  let sess := f.session
  let tag := getLe f.arg 0 3
  let ep := getLe f.arg 4 4
  let mine := s.ownEpoch p sess
  let held := (s.entry? p sess).isSome
  let x := s.fab.pushes.find? (·.isOf p sess tag f.src)
  match s.pushRefusal f x mine with
  | some st =>
    let s : State := match x with
      | some x => s.dropPush x
      | none => s
    let s : State := s.answerPush p sess tag f.src st
    if (st == 3 && ep < mine) || (held && mine < ep) then s.findConflict p sess f.src else s
  | none =>
    let y : PushBuf := match x with
      | some x => { x with head := some f.body }
      | none => { pitch := p, session := sess, tag, src := f.src, since := s.clk.ticks, head := some f.body }
    let s : State := match x with
      | some x => s.dropPush x
      | none => s.reviveForPush p sess
    if (s.entry? p sess).isNone && !s.reviving p sess then s.answerPush p sess tag f.src 1
    else State.settlePushes { s with fab := { s.fab with pushes := s.fab.pushes ++ [y] } } p sess

/-- PUSH_ACK at the sender (R204, R292). -/
def State.ackFrame (s : State) (f : RFrame) : State :=
  let tag := getLe f.arg 0 3
  if getLe f.arg 3 1 != 0 then s else
  s.updReq f.pitch f.session tag (fun r => if r.push == .sent f.src then { r with push := .acked } else r)

/-- PUSH_BUFFER_EXPIRY. -/
def pushExpiryStep (p sess : Nat) (s : State) : State :=
  let old (x : PushBuf) : Bool := x.pitch == p && x.session == sess && x.head.isNone
    && x.since + usTicks (10 * s.rd .fabTimingOwnTmo) ≤ s.clk.ticks
  { s with fab := { s.fab with pushes := s.fab.pushes.filter (fun x => !old x) } }

/-! ### Pooled memory (R283) -/

/-- A transaction toward a pool has failed. -/
def State.txnFailed (s : State) (t : MemTxn) : State :=
  match s.fab.dirOps.find? (·.txn == t.id) with
  | some op =>
    let s : State := { s with fab := { s.fab with dirOps := s.fab.dirOps.filter (fun x => x.txn != t.id) } }
    (s.wr .ldgStatusPoolFail 0 1).day 0x1501 op.pitch 3 t.pool
  | none =>
    match s.revives.find? (fun r => r.pitch == t.pitch && r.session == t.session && r.pool == t.pool && !t.write) with
    | some r => s.account.reviveLost r
    | none => s.account.failJobs t.pool (fun x => x.pitch == t.pitch && x.session == t.session)

def State.dropTxn (s : State) (id : Nat) : State := { s with fab := { s.fab with txns := s.fab.txns.filter (·.id != id) } }

/-- MEM_CPL: an ownership directory's bucket is used here; other data enters with its reader's own command. -/
def State.cplFrame (s : State) (f : RFrame) : State :=
  match s.fab.txns.find? (fun t => t.id == f.txn && !t.write) with
  | none => s
  | some t =>
    if bits (getLe f.arg 4 1) 0 8 != 0 then ((s.dropTxn t.id).txnFailed t) else
    match s.fab.dirOps.find? (·.txn == t.id) with
    | some op => if f.body.length == 128 then (s.dropTxn t.id).dirWrite op f.body else s
    | none =>
      if t.left ≤ f.body.length then s.dropTxn t.id
      else { s with fab := { s.fab with txns := s.fab.txns.map (fun (x : MemTxn) => if x.id == t.id then { x with left := x.left - f.body.length } else x) } }

/-- MEM_WR_ACK. -/
def State.wrAckFrame (s : State) (f : RFrame) : State :=
  match s.fab.txns.find? (fun t => t.id == f.txn && t.write) with
  | none => s
  | some t => if getLe f.arg 4 1 == 0 then s.dropTxn t.id else (s.dropTxn t.id).txnFailed t

/-! ### OWN_TMO (R288, R291) -/

/-- The wait of a move or a conflict has lasted OWN_TMO. -/
def State.ownLate (s : State) (since : Nat) : Bool := since + usTicks (10 * s.rd .fabTimingOwnTmo) ≤ s.clk.ticks

/-- OWN_TIMEOUT. A conflict without an answer goes to the fabric manager, in native mode. -/
def ownTimeoutStep (p sess : Nat) (s : State) : State :=
  let s : State := match s.move? p sess with
    | some m => if m.asked && s.ownLate m.since then (s.dropMove p sess).wr .fabStatusMoveFail 0 1 else s
    | none => s
  match s.fab.conflicts.find? (fun c => c.pitch == p && c.session == sess) with
  | some c =>
    if !s.ownLate c.since || s.rd .fabCfgMode == 1 then s else
    let s : State := { s with fab := { s.fab with conflicts := s.fab.conflicts.map (fun x =>
      if x.pitch == p && x.session == sess then { x with since := s.clk.ticks } else x) } }
    let me := s.rd .fabIdDevice
    s.sendFrame { kind := 0x12, dkind := 2, dst := 0, pitch := p, session := sess
                  arg := leBytes 2 me ++ [0#8, 0#8] ++ leBytes 4 (s.myEpoch p sess)
                  body := leBytes 4 (((s.entry? p sess).map (·.ckptSeq)).getD 0) ++ leBytes 2 me }
  | none => s

def execHello (lane : Fin 16) (frame : List Byte) (s : State) : Result := .next (s.onFrame lane 0x01 frame (fun t f => t.helloFrame lane f))
def execHeartbeat (lane : Fin 16) (frame : List Byte) (s : State) : Result :=
  .next (s.onFrame lane 0x02 frame (fun t _ => t.heartbeatFrame lane))
def execDigest (lane : Fin 16) (frame : List Byte) (s : State) : Result := .next (s.onFrame lane 0x03 frame State.digestFrame)
def execShardMap (lane : Fin 16) (frame : List Byte) (s : State) : Result := .next (s.onFrame lane 0x10 frame State.shardFrame)
def execDirLoc (lane : Fin 16) (frame : List Byte) (s : State) : Result := .next (s.onFrame lane 0x11 frame State.dirFrame)
def execOwnReq (lane : Fin 16) (frame : List Byte) (s : State) : Result := .next (s.onFrame lane 0x12 frame State.reqFrame)
def execOwnGrant (lane : Fin 16) (frame : List Byte) (s : State) : Result := .next (s.onFrame lane 0x13 frame State.grantFrame)
def execOwnNack (lane : Fin 16) (frame : List Byte) (s : State) : Result := .next (s.onFrame lane 0x14 frame State.nackFrame)
def execOwnProbe (lane : Fin 16) (frame : List Byte) (s : State) : Result := .next (s.onFrame lane 0x15 frame State.probeFrame)
def execOwnState (lane : Fin 16) (frame : List Byte) (s : State) : Result := .next (s.onFrame lane 0x16 frame State.stateFrame)
def execOwnAnnounce (lane : Fin 16) (frame : List Byte) (s : State) : Result := .next (s.onFrame lane 0x17 frame State.announceFrame)
/-- A loss another names (R298). -/
def execPeerLostFrame (lane : Fin 16) (frame : List Byte) (s : State) : Result :=
  .next (s.onFrame lane 0x18 frame (fun t f => t.markLost (bits (getLe f.arg 0 2) 0 13)))
def execPushTap (lane : Fin 16) (frame : List Byte) (s : State) : Result := .next (s.onFrame lane 0x20 frame State.tapFrame)
def execPushHead (lane : Fin 16) (frame : List Byte) (s : State) : Result := .next (s.onFrame lane 0x21 frame State.headFrame)
def execPushAck (lane : Fin 16) (frame : List Byte) (s : State) : Result := .next (s.onFrame lane 0x22 frame State.ackFrame)
def execMemCpl (lane : Fin 16) (frame : List Byte) (s : State) : Result := .next (s.onFrame lane 0x32 frame State.cplFrame)
def execMemWrAck (lane : Fin 16) (frame : List Byte) (s : State) : Result := .next (s.onFrame lane 0x33 frame State.wrAckFrame)
def execOwnershipMove (acc : Accessor) (value : Word) (s : State) : Result := .next (moveStep acc value s)
def execOwnTimeout (pitch : Fin 64) (session : Session) (s : State) : Result := .next (s.whileUp (ownTimeoutStep pitch session.toNat))
def execPushBufferExpiry (pitch : Fin 64) (session : Session) (s : State) : Result := .next (s.whileUp (pushExpiryStep pitch session.toNat))

end Sys2Proof.Machine
end

