-- ==== Sys2Proof/Machine/Watchman.lean ====
section
/-! DEFINITION. The Watchman: operating time and its slots, wake and protection events, Hibernate, power-fail and the block's
resets (15_power_clocks_resets.md R347 to R363, R366). -/

namespace Sys2Proof.Machine

/-! ### Time (R347, R349) -/

/-- COUNTER_SLOT_SAVE. -/
def slotSaveStep (s : State) : State :=
  if s.clk.optime % 2 ^ 20 == 0 && !s.pwr.restore && !s.pwr.slotDue then s.saveSlot false else s

/-- OSC_TRIM: against a crystal that runs. -/
def trimStep (s : State) : State :=
  if s.clk.crystal == .running then { s with clk := { s.clk with trims := s.clk.trims + 1 } } else s

/-- CRYSTAL_STABLE: operating time goes over to the crystal. -/
def crystalStep (s : State) : State :=
  if s.clk.crystal == .starting then { s with clk := { s.clk with crystal := .running } } else s

/-- XTAL_FAIL: back to the divider until the next power-on. -/
def xtalFailStep (s : State) : State :=
  if s.clk.crystal != .running then s else
  ({ s with clk := { s.clk with crystal := .failed } }.wr .wchStatusXtalFail 0 1).day 0x0007

/-! ### Waking (R352, R359) -/

def State.inHibernate (s : State) : Bool :=
  match s.pwr.hold with
  | .hibernate _ _ => true
  | _ => false

/-- A set cause bit that is enabled. -/
def State.enabledCause (s : State) : Bool := s.rd .wchWakeCauseEvents % 32 &&& s.rd .wchWakeEnEvents != 0

/-- The wake: a warm reset, and HIBERNATE_WAKE. -/
def State.wake (s : State) : State := ({ s with keys := [] }.warmReset causeWake).day 0x0004 0 (s.rd .wchWakeCauseEvents)

/-- HIBERNATE_WAKE: an entry under way completes first (Table 15-10). -/
def hibWakeStep (s : State) : State := if s.inHibernate && s.parks.isEmpty && s.enabledCause then s.wake else s

/-- An event of Table 15-2: its cause bit, and the wake when it is enabled. -/
def State.event (s : State) (k : Nat) : State :=
  let s : State := s.wr .wchWakeCauseEvents 0 (s.rd .wchWakeCauseEvents ||| 2 ^ k)
  if s.inHibernate && s.parks.isEmpty && bit (s.rd .wchWakeEnEvents) k then s.wake else s

/-- The timer's compare value. -/
def State.timer (s : State) : Nat := s.rd .wchTimerLoTime + s.rd .wchTimerHiTime * 2 ^ 32

/-- WAKE_TIMER. -/
def wakeTimerStep (s : State) : State := if s.timer ≤ s.clk.optime then s.event 0 else s

/-- WAKE_TOLL: the Toll is unpowered (R68). -/
def wakeTollStep (s : State) : State := if s.tollLive then s else s.event 1

/-- WAKE_TEMP: below COOL after a thermal trip. -/
def wakeTempStep (deg : Nat) (s : State) : State :=
  match s.pwr.hold with
  | .hibernate true _ => if deg < s.rd .wchTempCfgCool then s.event 3 else s
  | _ => s

/-- WAKE_DROOP: after a droop entry. -/
def wakeDroopStep (s : State) : State :=
  match s.pwr.hold with
  | .hibernate _ true => s.event 4
  | _ => s

/-! ### Hibernate (R359) -/

/-- The forced entry: everything in flight ends without a record and nothing is parked. -/
def State.forceHibernate (s : State) (trip droop : Bool) : State :=
  match s.pwr.hold with
  | .hibernate _ _ | .powerFail => s
  | _ => { s.endAll with entries := [], keys := [], dbk := { s.dbk with clear := none }
                         pwr := { s.pwr with hold := .hibernate trip droop, phase := .reset } }

def hibKey : Nat := 0x48494245

/-- The ordered entry: every resident entry with a park tier is parked, the others end. -/
def State.orderHibernate (s : State) : State :=
  let n := (s.entries.filter (fun e => (s.parkTier e.pitch).isSome)).length
  let s : State := (List.range 64).foldl State.clearEntries s
  { s.day 0x0003 0 n with pwr := { s.pwr with hold := .hibernate false false }, toll := {}, adms := [] }

/-- WCH_HIB written: only the key acts, and an enabled pitch refuses it. -/
def State.writeHib (s : State) (key : Nat) : State :=
  if key != hibKey then s
  else if (s.copiesSet .pitStatusEnabled).isEmpty then s.orderHibernate
  else s.wr .wchStatusHibRefused 0 1

/-- HIBERNATE_ENTER. -/
def hibEnterStep (acc : Accessor) (key : Word) (s : State) : State :=
  match s.gate acc .wchHibKey 0 with
  | .inl t => t
  | .inr s => s.writeHib key.toNat

/-! ### Temperature and supplies (R353, R354) -/

/-- The hottest sensor's reading. -/
def State.noteTemp (s : State) (sensor deg : Nat) : State := (s.wr .wchTempNowDeg 0 deg).wr .wchTempNowSensor 0 sensor

/-- THERMAL_HOT. -/
def hotStep (sensor deg : Nat) (s : State) : State :=
  let s : State := s.noteTemp sensor deg
  let hot := s.rd .wchTempCfgHot
  if hot != 0 && hot ≤ deg && s.rd .wchStatusHot == 0 then (s.wr .wchStatusHot 0 1).day 0x0008 0 sensor deg else s

/-- THERMAL_COOL. -/
def coolStep (sensor deg : Nat) (s : State) : State :=
  let s : State := s.noteTemp sensor deg
  if deg + 5 < s.rd .wchTempCfgHot then s.wr .wchStatusHot 0 0 else s

/-- THERMAL_TRIP: at 115 °C. -/
def tripStep (sensor deg : Nat) (s : State) : State :=
  let s : State := s.noteTemp sensor deg
  if deg < 115 || s.inHibernate || s.pwr.hold == .powerFail then s else (s.day 0x0009 0 sensor deg).forceHibernate true false

/-- SUPPLY_DROOP. -/
def droopStep (rail : Nat) (s : State) : State :=
  if s.inHibernate || s.pwr.hold == .powerFail then s else
  let s : State := (s.wr .wchStatusDroop 0 1).day 0x000A 0 rail
  if rail < 4 then (if s.pwr.hold == .none then s.quadFault rail 2 else s) else s.forceHibernate false true

/-! ### Clocks (R356) -/

/-- QUADRANT_PLL_LOSS. -/
def pllLossStep (q : Nat) (s : State) : State := if s.pwr.hold == .none then s.quadFault q 1 else s

/-- A domain the Watchman has not gated. -/
def State.powered (s : State) : Bool := s.pwr.hold == .none || s.pwr.hold == .shared

/-- CEL_PLL_LOSS. -/
def celLossStep (s : State) : State := if s.powered then s.warmReset causeCelPll else s

/-- HP_CLK_LOSS: held in warm reset until start-up. -/
def hpLossStep (s : State) : State :=
  if s.powered then
    let s : State := s.warmReset causeHpClk
    { s with pwr := { s.pwr with hold := .clkLoss } }
  else s

/-! ### Resets (R363) and power-fail (R360) -/

/-- POWER_ON: everything but the fuses and the Daybook store is at its reset value, and WCH_RESET_CAUSE with it. -/
def powerOnStep (s : State) : State := s.blockReset true

def wresetKey : Nat := 0x57525354

/-- WCH_WRESET written: only the key acts. -/
def State.writeWreset (s : State) (key : Nat) : State := if key == wresetKey then s.warmReset causeKey else s

/-- WARM_RESET by the pin or by WCH_WRESET. The pin has no effect while PFAIL_N holds the block. -/
def warmResetStep (src : WarmSrc) (s : State) : State :=
  match src with
  | .pin => if s.pwr.hold == .powerFail then s else s.warmReset causePin
  | .key acc v =>
    match s.gate acc .wchWresetKey 0 with
    | .inl t => t
    | .inr s => s.writeWreset v.toNat

/-- POWER_FAIL. -/
def powerFailStep (s : State) : State :=
  if s.pwr.hold == .powerFail then s else
  let n := s.dbk.buffer.length
  let s : State := { s.endAll with entries := [], dbk := { s.dbk with clear := none } }
  let s : State := (s.day 0x0005 0 n).flushDbk none
  { s with pwr := { s.pwr with hold := .powerFail, phase := .reset } }

/-- PFAIL_RISE: a warm reset with cause POWER. -/
def pfailRiseStep (s : State) : State :=
  if s.pwr.hold != .powerFail then s else
  (s.wr .wchWakeCauseEvents 0 (s.rd .wchWakeCauseEvents ||| 32)).warmReset causePower

def execCounterSlotSave (s : State) : Result := .next (slotSaveStep s)
def execOscTrim (s : State) : Result := .next (trimStep s)
def execXtalFail (s : State) : Result := .next (xtalFailStep s)
def execCrystalStable (s : State) : Result := .next (crystalStep s)
def execWakeTimer (s : State) : Result := .next (wakeTimerStep s)
def execWakeToll (s : State) : Result := .next (wakeTollStep s)
def execWakeFabric (_port : Fin 4) (s : State) : Result := .next (s.event 2)
def execWakeTemp (deg : BitVec 8) (s : State) : Result := .next (wakeTempStep deg.toNat s)
def execWakeDroop (s : State) : Result := .next (wakeDroopStep s)
def execThermalHot (sensor : BitVec 5) (deg : BitVec 8) (s : State) : Result := .next (hotStep sensor.toNat deg.toNat s)
def execThermalCool (sensor : BitVec 5) (deg : BitVec 8) (s : State) : Result := .next (coolStep sensor.toNat deg.toNat s)
def execThermalTrip (sensor : BitVec 5) (deg : BitVec 8) (s : State) : Result := .next (tripStep sensor.toNat deg.toNat s)
def execSupplyDroop (rail : Fin 6) (s : State) : Result := .next (droopStep rail s)
def execQuadrantPllLoss (quad : Fin 4) (s : State) : Result := .next (pllLossStep quad s)
def execCelPllLoss (s : State) : Result := .next (celLossStep s)
def execHpClkLoss (s : State) : Result := .next (hpLossStep s)
def execHibernateEnter (acc : Accessor) (key : Word) (s : State) : Result := .next (hibEnterStep acc key s)
def execHibernateWake (s : State) : Result := .next (hibWakeStep s)
def execPowerOn (s : State) : Result := .next (powerOnStep s)
def execWarmReset (src : WarmSrc) (s : State) : Result := .next (warmResetStep src s)
def execPowerFail (s : State) : Result := .next (powerFailStep s)
def execPfailRise (s : State) : Result := .next (pfailRiseStep s)

end Sys2Proof.Machine
end

