-- ==== Sys2Proof/Machine/Reads.lean ====
section
/-! DEFINITION. What a control-window read returns (R9, R305, R400, R403, R405): the fields held in the register file, and those
that mirror other state. Reads that act are commands of their own. -/

namespace Sys2Proof.Machine

/-- A 32-bit map of the elements from `start` on. -/
def mapBits (start : Nat) (p : Nat → Bool) : Nat :=
  ((List.range 32).map (fun k => if p (start + k) then 2 ^ k else 0)).sum

/-- A unit is retired (GLB_STATUS.DEGRADED). -/
def State.degraded (s : State) : Bool :=
  (List.range 64).any (fun i => s.rd .stlFaultRetired i == 1) || !s.banksOut.isEmpty || s.lanes.any (·.retired)

def State.isSpread (s : State) (i : Nat) : Bool := s.t0Held i && s.rd .stlRoleRole i == 1

/-- A stall is the last stage of its chain. -/
def State.isLast (s : State) (i : Nat) : Bool :=
  s.t0Held i && s.rd .stlRoleRole i == 2 && ((s.chainOf i).map (fun c => c.stalls.getLast? == some i)).getD false

/-- Configuration of a stall's pitch. -/
def State.cfgOfStall (s : State) (i : Nat) : Option PitchCfg :=
  if s.rd .stlRoleAlloc i == 1 then s.cfg? (s.rd .stlRolePitch i) else none

/-- Tables of a section type that a stall holds in T0, in every generation held: ids and digests. -/
def State.tablesIn (s : State) (i type : Nat) : List (Nat × List Byte) :=
  if !s.t0Held i then [] else
  (((s.gensOf (s.rd .stlRolePitch i)).flatMap (s.roleObjs i)).filterMap (fun o => match o with
    | .table y id d _ => if y == type then some (id, d) else none
    | .tile _ _ => none)).eraseDups

/-- Stock tables that the images a stall holds bind. -/
def State.stocksIn (s : State) (i : Nat) : List Nat :=
  let ds := (s.tablesIn i 0x09).map (·.2)
  (((s.gensOf (s.rd .stlRolePitch i)).flatMap (·.enss)).filter (fun e => ds.contains e.digest)).flatMap Ensemble.stockIds |>.eraseDups

/-- Requests of a stall, and those whose stream is pinned to a chain that ends in it. -/
def State.intakesIn (s : State) (i : Nat) : List Req := s.reqs.filter (fun r => r.kind == 0 && r.stall == some i)
def State.streamReqsOn (s : State) (i : Nat) : List Req :=
  if !s.isLast i then [] else
  s.reqs.filter (fun r => (match s.stream? r.pitch r.session, s.chainOf i with
    | some x, some c => x.pitch == c.pitch && x.chain == c.idx
    | _, _ => false))

/-- TEXT requests of a stall, whose Cutter contexts it holds (R94). -/
def State.textsIn (s : State) (i : Nat) : List Req := (s.intakesIn i).filter (fun r => (s.modelOf r).map (·.cls) == some 0)

/-- A Grader's tail is under way: a request has arrived and is not decided. -/
def State.tailOn (s : State) (i : Nat) : Bool := (s.intakesIn i).any (fun r => r.arrival.isSome && !r.decided)

/-- The Sieve of a stall runs an intake pass or an arrival pass, or owes an answer. -/
def State.sieveOn (s : State) (i : Nat) : Bool :=
  (s.textsIn i).any (·.arrival.isNone) || (s.streamReqsOn i).any (fun r => r.kind == 2 && r.arrival.isSome && r.pass.isNone)
    || s.reqs.any (fun r => r.kind == 3 && r.stall == some i && r.arrival.isSome)

def State.reloadOn (s : State) (i type : Nat) : Bool := s.tier.reloads.any (fun x => x.stall == i && x.type == type)

/-- Stalls in Bench roles. -/
def State.benchCount (s : State) : Nat := ((List.range 64).filter (fun i => s.rd .stlRoleRole i == 3)).length

/-- STATE of a calibration slot: its model's (Table 9-4). -/
def State.slotState (s : State) (i : Nat) : Nat :=
  match s.asz.find? (fun a => s.rd .aszSlotIdValid i == 1 && a.pitch == s.rd .aszSlotIdPitch i && a.model == s.rd .aszSlotIdModel i) with
  | some a => a.state.ctorIdx
  | none => 0

/-- Global fields that mirror other state (Tables 17-10, 13-7, 16-8). -/
def State.mirrorGlb (s : State) (f : Fld) : Option Nat :=
  match f with
  | .glbCapStalls => some ((List.range 64).filter (fun i => s.rd .stlFaultRetired i == 0)).length
  | .glbCapBanks => some (64 - s.banksOut.length)
  | .glbCapLanes => some (s.lanes.filter (fun l => !l.retired)).length
  | .glbCapPitches => some s.chr.cfgs.length
  | .glbStatusRunning => some (b2n (s.rd .chrStatusState == 4))
  | .glbStatusTollReady => some (s.rd .tollStatusReady)
  | .glbStatusDegraded => some (b2n s.degraded)
  | .glbStatusSharedFault => some (s.rd .glbFaultStatusSharedFault)
  | .glbStatusSecFault => some (b2n (s.rd .glbSecStatusKatFail == 1 || s.rd .glbSecStatusZeroised == 1))
  | .glbStatusHot => some (s.rd .wchStatusHot)
  | .glbStatusDbkFull => some (s.rd .dbkStatusFull)
  | .glbStatusAmending => some (b2n s.amdBusy)
  | .glbPitEnLoMap => some (mapBits 0 (fun p => s.rd .pitStatusEnabled p == 1))
  | .glbPitEnHiMap => some (mapBits 32 (fun p => s.rd .pitStatusEnabled p == 1))
  | .glbFuseKeyslotRevoked => some s.fuse.revoked
  | .glbFuseKeyslotProgrammed => some s.fuse.programmed
  | .glbFuseKeyslotDukOk => some (b2n s.fuse.dukOk)
  | .glbFuseKeyslotFwkOk => some (b2n s.fuse.fwkOk)
  | .glbFuseSvnCount => some s.fuse.svn
  | .glbStlOutLoMap => some (mapBits 0 (fun i => s.rd .stlFaultRetired i == 1))
  | .glbStlOutHiMap => some (mapBits 32 (fun i => s.rd .stlFaultRetired i == 1))
  | .glbFaultStatusTesting => some (b2n (s.stalls.any (·.testing) || !s.tier.bankTest.isEmpty || s.lanes.any (·.testing)))
  | _ => none

/-- Ledger, tier and Toll fields that mirror other state (Tables 10-10, 11-6, 3-5). -/
def State.mirrorMem (s : State) (f : Fld) (i : Nat) : Option Nat :=
  match f with
  | .ldgResidentCount => some s.entries.length
  | .ldgCapacityEntries => some (s.ledgerBytes / s.maxEntry)
  | .ldgPitResidentCount => some (s.entries.filter (·.pitch == i)).length
  | .tierStatusRestoring => some (b2n (s.tier.bad.any (·.src.isSome)))
  | .tierTileCapMib => some s.tileCap
  | .tierTileUsedMib => some (ceilDiv s.tileBytes (2 ^ 20))
  | .tierPitStatusDeferred => some (b2n ((s.copiesSet .tollMdlLoDeferred).any (fun k => s.rd .tollMdlLoValid k == 1 && s.rd .tollMdlLoPitch k == i)))
  | .tollReviveInflight => some s.revives.length
  | .tollAdmitsLive => some s.adms.length
  | .tollPitUseIntakeUsed => some (s.intakeUsed i)
  | .tollPitUseConUsed => some (s.conUsed i)
  | .pitStatusBellBusy => some (b2n (s.pit i).bell.isSome)
  | _ => none

/-- Watchman, Daybook, fabric and Assize fields that mirror other state (Tables 15-12, 16-10, 12-11, 9-8). -/
def State.mirrorBlk (s : State) (acc : Accessor) (f : Fld) (i : Nat) : Option Nat :=
  match f with
  | .wchOptimeLoTime => some (s.clk.optime % 2 ^ 32)
  | .wchOptimeHiTime => some (if acc.toNat == 0x40 then s.clk.latchOp else s.clk.latchAud)
  | .wchDozeLoMap => some (mapBits 0 (fun k => (s.stl k).power == .doze))
  | .wchDozeHiMap => some (mapBits 32 (fun k => (s.stl k).power == .doze))
  | .wchNapLoMap => some (mapBits 0 (fun k => (s.stl k).power == .nap))
  | .wchNapHiMap => some (mapBits 32 (fun k => (s.stl k).power == .nap))
  | .dbkStatusErasing => some (b2n (s.rd .dbkStatusNvOff == 0 && !s.deadSectors.isEmpty))
  | .dbkBufCount => some s.dbk.buffer.length
  | .dbkVPosPos | .dbkVRewindBase => some 0
  | .dbkVStatSkipped | .dbkVStatCrcBad | .dbkVStatOpen => if viewOwner i acc then none else some 0
  | .dbkVDataBytes => if viewOwner (i / 8) acc then none else some 0
  | .fabLaneUpMap => some (mapBits 0 (fun l => (s.lane l).up))
  | .fabLaneOutMap => some (mapBits 0 (fun l => (s.lane l).retired))
  | .fabLnStatusUp => some (b2n (s.lane i).up)
  | .fabLnStatusTraining => some (b2n (s.lane i).training)
  | .fabLnStatusRetired => some (b2n (s.lane i).retired)
  | .fabLnStatusVer => some (s.lane i).ver
  | .fabLnStatusPeer => some (s.lane i).peer
  | .fabRouteDataPorts => some (s.routeMask (s.rd .fabRouteIdxIndex))
  | .fabPitStatusAmendDiff => some (b2n (s.fab.peers.any (fun x => x.1 == i && x.2.2.2 != leNat (s.amendDigest i))))
  | .fabPitShardsOwned => some (s.fab.shards.filter (fun x => x.pitch == i && x.device == s.rd .fabIdDevice)).length
  | .fabPitExcCount => some (s.fab.exc.filter (·.pitch == i)).length
  | .aszStatusBusy => some (b2n (s.asz.any (·.state.cycling)))
  | .aszStatusBench => some s.benchCount
  | .aszSlotStateState => some (s.slotState i)
  | _ => none

/-- Fields of a stall window that mirror other state (Tables 8-7, 4-8, 5-11, 6-11, 7-6, 11-7). -/
def State.mirrorStl (s : State) (f : Fld) (i : Nat) : Option Nat :=
  match f with
  | .stlTransCount => if s.rd .stlFaultRetired i == 1 then none else some (min 15 (s.inWindow (s.stl i).faults))
  | .stlStatusTail => some (b2n ((s.intakesIn i).any s.tailUnder))
  | .tknCfgInTable => some (((s.cfgOfStall i).map (·.inTable)).getD 0)
  | .tknCfgOutTable => some (((s.cfgOfStall i).map (·.outTable)).getD 0)
  | .tknCfgInValid => some (b2n (s.isSpread i))
  | .tknCfgOutValid => some (b2n (s.isLast i))
  | .tknStatusCutBusy => some (b2n (!(s.textsIn i).isEmpty))
  | .tknStatusJoinBusy => some (b2n ((s.streamReqsOn i).any (·.resolve.isSome)))
  | .tknStatusReload => some (b2n (s.reloadOn i 0x07))
  | .sveStatusBusy => some (b2n (s.sieveOn i))
  | .sveStatusReload => some (b2n (s.reloadOn i 0x08))
  | .sveCfgTables => some (s.tablesIn i 0x08).length
  | .sveCfgModes => some (((s.cfgOfStall i).map (·.modes)).getD 0 % 8)
  | .grdStatusBusy => some (b2n (s.tailOn i))
  | .grdStatusReload => some (b2n (s.reloadOn i 0x09 || s.tier.stockBad.any (fun x => x.pitch == s.rd .stlRolePitch i)))
  | .grdCfgImages => some (s.tablesIn i 0x09).length
  | .grdCfgBindings => some (s.stocksIn i).length
  | .mxeStatusBusy => some (b2n (s.tailOn i || s.toks.any (fun t => ((s.chain? t.pitch t.chain).bind (fun c => c.stalls[t.stage]?)) == some i)))
  | .tierStlStatusWaiting => some (b2n ((s.intakesIn i).any (fun r => !r.waits.isEmpty)))
  | .tierStlT0UsedKib => some (ceilDiv (s.t0Used i) 1024)
  | _ => none

/-- A class N field of a stall in Nap reads its reset value (R405). -/
def State.napped (s : State) (f : Fld) (i : Nat) : Bool := f.desc.kept == .n && (s.stl i).power == .nap

/-- Value a read of a copy of a field returns to an accessor. -/
def State.readField (s : State) (acc : Accessor) (f : Fld) (i : Nat) : Nat :=
  if f.desc.acc == .wo then 0
  else if 0x100000 ≤ f.desc.base && s.napped f i then f.desc.rst
  else
    let m := (((s.mirrorGlb f).orElse (fun _ => s.mirrorMem f i)).orElse (fun _ => s.mirrorBlk acc f i)).orElse (fun _ => s.mirrorStl f i)
    (m.getD (s.rd f i)) % 2 ^ f.desc.width

/-- The word a granted read returns: fields at their places, reserved bits 0 (R8). -/
def State.wordAt (s : State) (acc : Accessor) (a : Nat) : Nat :=
  ((fieldsAt a).map (fun x => s.readField acc x.1 x.2 * 2 ^ x.1.desc.lo)).sum

/-- A range the role may read whatever lies there: its own pitch window, or a window of its stall (Table 13-3). -/
def State.ownRange (s : State) (r : Role) (a : Nat) : Bool :=
  match r with
  | .pitch n => (0x80000 + 0x2000 * n ≤ a && a < 0x80000 + 0x2000 * (n + 1))
      || (0x100000 ≤ a && a < 0x500000 && s.rd .stlRoleAlloc ((a - 0x100000) / 0x10000) == 1
          && s.rd .stlRolePitch ((a - 0x100000) / 0x10000) == n)
  | _ => false

/-- A range reserved whole (Table 0-4): reads return 0 and writes have no effect. -/
def reservedRange (a : Nat) : Bool := (0x60000 ≤ a && a < 0x80000) || 0x500000 ≤ a

/-- A control-window read: its value, and the state after it (R9, R305, R405). -/
def State.readAccess (s : State) (acc : Accessor) (size : AccessSize) (a : Nat) : Nat × State :=
  if size != .word || a % 4 != 0 || reservedRange a || !s.windowLive a false then (0, s)
  else if s.mayRead (roleOf acc) (fieldsAt a) || s.ownRange (roleOf acc) a then (s.wordAt acc a, s)
  else (0, s.deny acc false a)

end Sys2Proof.Machine
end

