-- ==== Sys2Proof/Machine/Control.lean ====
section
/-! DEFINITION. REGISTER_WRITE: a control-window write, field by field, with the access, lock and range checks of R9, R44, R250,
R274, R305, R403 to R407; a register whose write acts goes to the operation its own command uses (Table 17-11). -/

namespace Sys2Proof.Machine

/-- A register that a rule makes writable only while its pitch or function is idle (R44, R250, R274, R403). -/
def State.idleToWrite (s : State) (f : Fld) (i : Nat) : Bool :=
  let b := f.desc.base
  if (0x4404 ≤ b && b < 0x4428) || (0x6400 ≤ b && b < 0x6424) then s.rd .pitStatusEnabled i == 0
  else match f with
    | .pitSqBaseLoAddr | .pitSqBaseHiAddr | .pitSqSizeEntries | .pitVqBaseLoAddr | .pitVqBaseHiAddr | .pitVqSizeEntries =>
      s.rd .pitStatusEnabled i == 0
    | .aszPitExpLoAddr | .aszPitExpHiAddr => s.rd .aszPitExpStatBusy i == 0
    | .chrAmdAddrLoAddr | .chrAmdAddrHiAddr => !s.amdBusy
    | .dbkClrAddrLoAddr | .dbkClrAddrHiAddr => s.rd .dbkClrStatState != 1
    | _ => true

/-- Values R407 lets a field take: the table's range, and the narrower bounds of R196 and R294 (no REMOTE_INTAKE in
compatibility mode); the ring sizes hold any value. -/
def State.valueOk (s : State) (f : Fld) (i v : Nat) : Bool :=
  match f with
  | .pitSqSizeEntries | .pitVqSizeEntries => true
  | .pitDelayTokenDelay =>
    f.desc.allows v && (match s.role? i with
      | some r => decide (tokenDelayMin (s.genNow i) r (s.rd .tollPitCfgChainTokens i) ≤ v)
      | none => true)
  | .fabPitCfgRemoteIntake => v == 0 || s.rd .fabCfgMode == 0
  | _ => f.desc.allows v

/-- One field of a written word: read-only and write-only fields hold nothing, a W1C field loses the bits written 1, an RWL
field is fixed once locked, and a value out of range leaves the field (R8, R337, R407, Table 0-6). -/
def State.writeField (s : State) (f : Fld) (i w : Nat) : State :=
  let v := bits w f.desc.lo f.desc.width
  match f.desc.acc with
  | .ro | .wo => s
  | .w1c => s.wr f i (s.rd f i &&& (2 ^ f.desc.width - 1 - v))
  | .rwl => if s.rd .chrStatusLocked == 0 && s.valueOk f i v then s.wr f i v else s
  | .rw => if s.idleToWrite f i && s.valueOk f i v then s.wr f i v else s

/-- Every field of the word at an address. -/
def State.writeFields (s : State) (a w : Nat) : State :=
  (fieldsAt a).foldl (fun (t : State) x => t.writeField x.1 x.2 w) s

/-- WCH_TIMER (R403): the high word is held until the low word is written. -/
def State.holdTimerHi (s : State) (w : Nat) : State := { s with clk := { s.clk with timerHi := bits w 0 8 } }
def State.writeTimerLo (s : State) (w : Nat) : State := (s.wr .wchTimerLoTime 0 w).wr .wchTimerHiTime 0 s.clk.timerHi

/-- LDG_PIT_PF_LO and FAB_MOVE_LO (R403): kept for each accessor. -/
def keepLo (xs : List (Nat × Nat)) (acc v : Nat) : List (Nat × Nat) := (acc, v) :: xs.filter (·.1 != acc)
def State.keepPfLo (s : State) (acc : Accessor) (p w : Nat) : State :=
  s.updPit p (fun x => { x with pfLo := keepLo x.pfLo acc.toNat w })
def State.keepMoveLo (s : State) (acc : Accessor) (w : Nat) : State :=
  { s with fab := { s.fab with moveLo := keepLo s.fab.moveLo acc.toNat w } }

/-- FAB_ROUTE_DATA (R284): the indexed entry in compatibility mode; read-only in native mode. -/
def State.writeRoute (s : State) (w : Nat) : State :=
  let k := s.rd .fabRouteIdxIndex
  if s.rd .fabCfgMode == 0 then s
  else { s with fab := { s.fab with route := (k, bits w 0 4) :: s.fab.route.filter (·.1 != k) } }

/-- GLB_PIT_RESET: GO resets the pitch it names. -/
def State.writePitReset (s : State) (w : Nat) : State := if bit w 31 then s.resetPitch (bits w 0 6) else s

/-- PIT_CTRL: ENABLE written. -/
def State.writePitCtrl (s : State) (p w : Nat) : State := if bit w 0 then s.enable p else s.disable p

/-- ASZ_PIT_CTRL: FREEZE set to its bit, then the triggers written 1. -/
def State.writeAszCtrl (s : State) (p w : Nat) : State :=
  let s : State := s.setFreeze p (bit w 1)
  let s : State := if bit w 0 then s.kick p else s
  if bit w 2 then s.startExport p else s

/-- A write whose register acts (Table 17-11), told by one field of the word; none for a register that only sets its fields. -/
def State.writeActs (s : State) (acc : Accessor) (f : Fld) (i w : Nat) : Option State :=
  match f with
  | .glbZeroiseKey => some (s.writeZeroise w)
  | .glbPitResetGo => some (s.writePitReset w)
  | .glbKeyCfgKeyverMin => some (s.raiseKeyMin i (bits w 16 8))
  | .glbKeyRotRotate => some (if bit w 0 then s.rotateKey i else s)
  | .ldgPitPfLoSession => some (s.keepPfLo acc i w)
  | .ldgPitPfHiSession => some (s.queuePrefetch acc i w)
  | .tollQtabHiValid => some (s.writeQuar i w)
  | .wchTimerLoTime => some (s.writeTimerLo w)
  | .wchTimerHiTime => some (s.holdTimerHi w)
  | .wchHibKey => some (s.writeHib w)
  | .wchWresetKey => some (s.writeWreset w)
  | .wchStlResetGo => some (s.writeStlReset w)
  | .dbkClrCtrlGo => some (s.writeClear w)
  | .chrLockSet => some (s.writeLock w)
  | .chrAmdCtrlSubmit => some (s.amdCtrl w)
  | .fabMoveLoSession => some (s.keepMoveLo acc w)
  | .fabMoveHiSession => some (s.orderMove acc w)
  | .fabRouteDataPorts => some (s.writeRoute w)
  | .aszCtrlEnable => some (s.setAssize (bit w 0))
  | .aszPitCtrlKick => some (s.writeAszCtrl i w)
  | .pitCtrlEnable => some (s.writePitCtrl i w)
  | .pitSqTailCount => some (s.ringDoorbell i w)
  | .pitVqHeadCount => some (s.setVqHead i w)
  | .pitBellRing => some (if bit w 0 then s.ringBell i else s)
  | _ => none

/-- A granted write of a word. -/
def State.writeWord (s : State) (acc : Accessor) (a w : Nat) : State :=
  match (fieldsAt a).findSome? (fun x => s.writeActs acc x.1 x.2 w) with
  | some t => t
  | none => s.writeFields a w

/-- A range a role may write whatever lies there: a pitch's own window (Table 13-3). -/
def ownWindow (r : Role) (a : Nat) : Bool :=
  match r with
  | .pitch n => 0x80000 + 0x2000 * n ≤ a && a < 0x80000 + 0x2000 * (n + 1)
  | _ => false

/-- A write of the word at an address is granted (Table 13-3). -/
def State.granted (s : State) (acc : Accessor) (a : Nat) : Bool :=
  s.mayWrite (roleOf acc) (fieldsAt a) || ownWindow (roleOf acc) a

/-- REGISTER_WRITE (R9, R305, R405, R407): a narrower or unaligned access, a reserved range, or a window that takes no writes
now has no effect; one that is not granted is counted and recorded. -/
def regWriteStep (acc : Accessor) (a : Nat) (v : WriteData) (s : State) : State :=
  match v with
  | .byte _ | .half _ => s
  | .word w =>
    if a % 4 != 0 || reservedRange a || !s.windowLive a true then s
    else if s.granted acc a then s.writeWord acc a w.toNat else s.deny acc true a

def execRegisterWrite (acc : Accessor) (addr : BitVec 24) (value : WriteData) (s : State) : Result :=
  .next (regWriteStep acc addr.toNat value s)

end Sys2Proof.Machine
end

