-- ==== Sys2Proof/Machine/Dispatch.lean ====
section
/-! DEFINITION. One arm per command: the meaning it calls. -/

namespace Sys2Proof.Machine

def exec (i : Instr) (s : State) : Host.Outcome State Fault Refusal :=
  match i with
  | .tollQuery pitch session tag kind model cost => Sys2Proof.Machine.execTollQuery pitch session tag kind model cost s
  | .admissionLapse pitch session tag => Sys2Proof.Machine.execAdmissionLapse pitch session tag s
  | .energyDrainTick => Sys2Proof.Machine.execEnergyDrainTick s
  | .creditFactorRecover entry => Sys2Proof.Machine.execCreditFactorRecover entry s
  | .qtabEntryWrite acc entry value => Sys2Proof.Machine.execQtabEntryWrite acc entry value s
  | .doorbell acc pitch tail => Sys2Proof.Machine.execDoorbell acc pitch tail s
  | .descriptorRead pitch data => Sys2Proof.Machine.execDescriptorRead pitch data s
  | .segmentListRead pitch session tag data => Sys2Proof.Machine.execSegmentListRead pitch session tag data s
  | .tokenBufferRead pitch session tag data => Sys2Proof.Machine.execTokenBufferRead pitch session tag data s
  | .payloadReadComplete pitch session tag data => Sys2Proof.Machine.execPayloadReadComplete pitch session tag data s
  | .intakeVerdictDecided pitch session tag => Sys2Proof.Machine.execIntakeVerdictDecided pitch session tag s
  | .intakeDelivery pitch session tag => Sys2Proof.Machine.execIntakeDelivery pitch session tag s
  | .irqTimerExpiry pitch => Sys2Proof.Machine.execIrqTimerExpiry pitch s
  | .streamOpenComplete pitch session => Sys2Proof.Machine.execStreamOpenComplete pitch session s
  | .arrivalPassComplete pitch session tag => Sys2Proof.Machine.execArrivalPassComplete pitch session tag s
  | .chainStageServe stall => Sys2Proof.Machine.execChainStageServe stall s
  | .streamResolve pitch session tag => Sys2Proof.Machine.execStreamResolve pitch session tag s
  | .tokenRelease pitch session tag => Sys2Proof.Machine.execTokenRelease pitch session tag s
  | .constraintAnswer pitch session tag => Sys2Proof.Machine.execConstraintAnswer pitch session tag s
  | .vqHeadWrite acc pitch head => Sys2Proof.Machine.execVqHeadWrite acc pitch head s
  | .pitchEnable acc pitch => Sys2Proof.Machine.execPitchEnable acc pitch s
  | .homeCopiesWritten pitch => Sys2Proof.Machine.execHomeCopiesWritten pitch s
  | .pitchDisable acc pitch => Sys2Proof.Machine.execPitchDisable acc pitch s
  | .pitchDrainComplete pitch => Sys2Proof.Machine.execPitchDrainComplete pitch s
  | .bellRing acc pitch => Sys2Proof.Machine.execBellRing acc pitch s
  | .bellComplete pitch => Sys2Proof.Machine.execBellComplete pitch s
  | .pitchReset acc pitch => Sys2Proof.Machine.execPitchReset acc pitch s
  | .reviveComplete pitch session bucket slot => Sys2Proof.Machine.execReviveComplete pitch session bucket slot s
  | .poolTimeout pool => Sys2Proof.Machine.execPoolTimeout pool s
  | .prefetchRequest acc pitch value => Sys2Proof.Machine.execPrefetchRequest acc pitch value s
  | .prefetchStart pitch => Sys2Proof.Machine.execPrefetchStart pitch s
  | .prefetchHoldExpiry pitch session => Sys2Proof.Machine.execPrefetchHoldExpiry pitch session s
  | .parkStart pitch session => Sys2Proof.Machine.execParkStart pitch session s
  | .eviction => Sys2Proof.Machine.execEviction s
  | .parkComplete pitch session bucket mirrorBucket => Sys2Proof.Machine.execParkComplete pitch session bucket mirrorBucket s
  | .writeBackComplete pitch session bucket mirrorBucket => Sys2Proof.Machine.execWriteBackComplete pitch session bucket mirrorBucket s
  | .tileDeadline stall pitch session tag layer trow tcol => Sys2Proof.Machine.execTileDeadline stall pitch session tag layer trow tcol s
  | .tileArrival stall model layer trow tcol bseq data corrected => Sys2Proof.Machine.execTileArrival stall model layer trow tcol bseq data corrected s
  | .slackExhausted pitch session tag => Sys2Proof.Machine.execSlackExhausted pitch session tag s
  | .pretailTimeout pitch session tag => Sys2Proof.Machine.execPretailTimeout pitch session tag s
  | .t1UncorrError bank part => Sys2Proof.Machine.execT1UncorrError bank part s
  | .patrolScrub corrected => Sys2Proof.Machine.execPatrolScrub corrected s
  | .tileRestoreComplete tile data => Sys2Proof.Machine.execTileRestoreComplete tile data s
  | .tableReloadComplete stall type id data => Sys2Proof.Machine.execTableReloadComplete stall type id data s
  | .stockRereadComplete pitch stock line data => Sys2Proof.Machine.execStockRereadComplete pitch stock line data s
  | .roleReview => Sys2Proof.Machine.execRoleReview s
  | .roleLoadComplete stall => Sys2Proof.Machine.execRoleLoadComplete stall s
  | .dozeEntry stall => Sys2Proof.Machine.execDozeEntry stall s
  | .napEntry stall => Sys2Proof.Machine.execNapEntry stall s
  | .stallWakeComplete stall => Sys2Proof.Machine.execStallWakeComplete stall s
  | .assizeWindowEnd pitch => Sys2Proof.Machine.execAssizeWindowEnd pitch s
  | .trainStepComplete pitch model => Sys2Proof.Machine.execTrainStepComplete pitch model s
  | .benchStepTimeout pitch => Sys2Proof.Machine.execBenchStepTimeout pitch s
  | .shadowEvalComplete pitch model => Sys2Proof.Machine.execShadowEvalComplete pitch model s
  | .calibStaged pitch model => Sys2Proof.Machine.execCalibStaged pitch model s
  | .assizeKick acc pitch => Sys2Proof.Machine.execAssizeKick acc pitch s
  | .assizeFreeze acc pitch => Sys2Proof.Machine.execAssizeFreeze acc pitch s
  | .assizeEnable acc enable => Sys2Proof.Machine.execAssizeEnable acc enable s
  | .assizeExport acc pitch => Sys2Proof.Machine.execAssizeExport acc pitch s
  | .exportComplete pitch => Sys2Proof.Machine.execExportComplete pitch s
  | .keyRotate acc pitch => Sys2Proof.Machine.execKeyRotate acc pitch s
  | .keyverMinRaise acc pitch value => Sys2Proof.Machine.execKeyverMinRaise acc pitch value s
  | .zeroise acc key => Sys2Proof.Machine.execZeroise acc key s
  | .registerWrite acc addr value => Sys2Proof.Machine.execRegisterWrite acc addr value s
  | .optimeRead acc => Sys2Proof.Machine.execOptimeRead acc s
  | .flitReceive lane uncorr corrected flit => Sys2Proof.Machine.execFlitReceive lane uncorr corrected flit s
  | .retryFlit lane ackseq => Sys2Proof.Machine.execRetryFlit lane ackseq s
  | .hello lane frame => Sys2Proof.Machine.execHello lane frame s
  | .heartbeat lane frame => Sys2Proof.Machine.execHeartbeat lane frame s
  | .digest lane frame => Sys2Proof.Machine.execDigest lane frame s
  | .shardMap lane frame => Sys2Proof.Machine.execShardMap lane frame s
  | .dirLoc lane frame => Sys2Proof.Machine.execDirLoc lane frame s
  | .ownReq lane frame => Sys2Proof.Machine.execOwnReq lane frame s
  | .ownGrant lane frame => Sys2Proof.Machine.execOwnGrant lane frame s
  | .ownNack lane frame => Sys2Proof.Machine.execOwnNack lane frame s
  | .ownProbe lane frame => Sys2Proof.Machine.execOwnProbe lane frame s
  | .ownState lane frame => Sys2Proof.Machine.execOwnState lane frame s
  | .ownAnnounce lane frame => Sys2Proof.Machine.execOwnAnnounce lane frame s
  | .peerLostFrame lane frame => Sys2Proof.Machine.execPeerLostFrame lane frame s
  | .pushTap lane frame => Sys2Proof.Machine.execPushTap lane frame s
  | .pushHead lane frame => Sys2Proof.Machine.execPushHead lane frame s
  | .pushAck lane frame => Sys2Proof.Machine.execPushAck lane frame s
  | .memCpl lane frame => Sys2Proof.Machine.execMemCpl lane frame s
  | .memWrAck lane frame => Sys2Proof.Machine.execMemWrAck lane frame s
  | .heartbeatSend => Sys2Proof.Machine.execHeartbeatSend s
  | .heartbeatMiss lane => Sys2Proof.Machine.execHeartbeatMiss lane s
  | .fecLockLoss lane => Sys2Proof.Machine.execFecLockLoss lane s
  | .laneTestComplete lane pass => Sys2Proof.Machine.execLaneTestComplete lane pass s
  | .ownershipMove acc value => Sys2Proof.Machine.execOwnershipMove acc value s
  | .ownTimeout pitch session => Sys2Proof.Machine.execOwnTimeout pitch session s
  | .pushBufferExpiry pitch session => Sys2Proof.Machine.execPushBufferExpiry pitch session s
  | .startup kat xspi dbkDev loc0 loc1 => Sys2Proof.Machine.execStartup kat xspi dbkDev loc0 loc1 s
  | .imageReadComplete data => Sys2Proof.Machine.execImageReadComplete data s
  | .tollReady => Sys2Proof.Machine.execTollReady s
  | .lockSet acc value => Sys2Proof.Machine.execLockSet acc value s
  | .lockTimeout => Sys2Proof.Machine.execLockTimeout s
  | .amendSubmit acc value => Sys2Proof.Machine.execAmendSubmit acc value s
  | .amendCancel acc => Sys2Proof.Machine.execAmendCancel acc s
  | .amendReadComplete data => Sys2Proof.Machine.execAmendReadComplete data s
  | .amendStaged => Sys2Proof.Machine.execAmendStaged s
  | .amendWaitEnd => Sys2Proof.Machine.execAmendWaitEnd s
  | .amendWaitTimeout => Sys2Proof.Machine.execAmendWaitTimeout s
  | .counterSlotSave => Sys2Proof.Machine.execCounterSlotSave s
  | .oscTrim => Sys2Proof.Machine.execOscTrim s
  | .xtalFail => Sys2Proof.Machine.execXtalFail s
  | .wakeTimer => Sys2Proof.Machine.execWakeTimer s
  | .wakeToll => Sys2Proof.Machine.execWakeToll s
  | .wakeFabric port => Sys2Proof.Machine.execWakeFabric port s
  | .wakeTemp deg => Sys2Proof.Machine.execWakeTemp deg s
  | .wakeDroop => Sys2Proof.Machine.execWakeDroop s
  | .thermalHot sensor deg => Sys2Proof.Machine.execThermalHot sensor deg s
  | .thermalCool sensor deg => Sys2Proof.Machine.execThermalCool sensor deg s
  | .thermalTrip sensor deg => Sys2Proof.Machine.execThermalTrip sensor deg s
  | .supplyDroop rail => Sys2Proof.Machine.execSupplyDroop rail s
  | .quadrantPllLoss quad => Sys2Proof.Machine.execQuadrantPllLoss quad s
  | .celPllLoss => Sys2Proof.Machine.execCelPllLoss s
  | .hpClkLoss => Sys2Proof.Machine.execHpClkLoss s
  | .hibernateEnter acc key => Sys2Proof.Machine.execHibernateEnter acc key s
  | .hibernateWake => Sys2Proof.Machine.execHibernateWake s
  | .powerOn => Sys2Proof.Machine.execPowerOn s
  | .warmReset src => Sys2Proof.Machine.execWarmReset src s
  | .powerFail => Sys2Proof.Machine.execPowerFail s
  | .pfailRise => Sys2Proof.Machine.execPfailRise s
  | .stallReset acc value => Sys2Proof.Machine.execStallReset acc value s
  | .stallFault stall unit cause tagPitch => Sys2Proof.Machine.execStallFault stall unit cause tagPitch s
  | .repinSlicesLoaded pitch session => Sys2Proof.Machine.execRepinSlicesLoaded pitch session s
  | .stallTestComplete stall step => Sys2Proof.Machine.execStallTestComplete stall step s
  | .t0CorrectedFault stall part => Sys2Proof.Machine.execT0CorrectedFault stall part s
  | .quadrantFault quad rail => Sys2Proof.Machine.execQuadrantFault quad rail s
  | .quadrantRecovered quad => Sys2Proof.Machine.execQuadrantRecovered quad s
  | .qwaitTimeout quad => Sys2Proof.Machine.execQwaitTimeout quad s
  | .bankTestComplete bank pass => Sys2Proof.Machine.execBankTestComplete bank pass s
  | .sharedFault unit syndrome => Sys2Proof.Machine.execSharedFault unit syndrome s
  | .hpFlitErr channel => Sys2Proof.Machine.execHpFlitErr channel s
  | .daybookProgramComplete => Sys2Proof.Machine.execDaybookProgramComplete s
  | .sectorEraseComplete => Sys2Proof.Machine.execSectorEraseComplete s
  | .viewNext acc view => Sys2Proof.Machine.execViewNext acc view s
  | .viewFetchComplete view => Sys2Proof.Machine.execViewFetchComplete view s
  | .viewRewind acc view => Sys2Proof.Machine.execViewRewind acc view s
  | .clearOrderSubmit acc value => Sys2Proof.Machine.execClearOrderSubmit acc value s
  | .clearOrderChecked data => Sys2Proof.Machine.execClearOrderChecked data s
  | .clearCommit => Sys2Proof.Machine.execClearCommit s
  | .finalPayloadRead pitch session tag => Sys2Proof.Machine.execFinalPayloadRead pitch session tag s
  | .crystalStable => Sys2Proof.Machine.execCrystalStable s
  | .equalisationConverged lane => Sys2Proof.Machine.execEqualisationConverged lane s
  | .granuleZeroed => Sys2Proof.Machine.execGranuleZeroed s
  | .zeroisationComplete => Sys2Proof.Machine.execZeroisationComplete s

end Sys2Proof.Machine
end

