-- ==== Sys2Proof/Machine/Step.lean ====
section
/-! DEFINITION. The step: the command at the front of the queue; on an empty queue, one HP_CLK cycle. -/

namespace Sys2Proof.Machine

/-- An HP_CLK cycle with no command, and with no query on the Toll port, whose outputs are then 0 (R65,
notes/assumptions/2.md). -/
def State.idle (s : State) : State := { s with clk := { s.clk with hp := s.clk.hp + 1 }, toll := {} }

/-- One step: the front command's effect on the state with the queue's rest; an empty queue idles. -/
def step (s : State) : Host.Outcome State Fault Refusal :=
  match s.pending with
  | [] => .next s.idle
  | i :: rest => exec i { s with pending := rest }

/-- The state with the command a word spells put at the front of its queue. The table gives no row bits, so no word spells
one, and the state is unchanged. -/
def State.withFetchWord (s : State) (nbits w : Nat) : State :=
  match Sys2Proof.decodeTableWord nbits w with
  | some i => { s with pending := i :: s.pending }
  | none => s

end Sys2Proof.Machine
end

