-- ==== Sys2Proof/Safety.lean ====
section
/-! DEFINITION. What statements are stated in terms of: the shape every state of a run has, what no command may undo, the
block in service, and runs without a fault. -/

namespace Sys2Proof.Machine

/-- No copy of a register field holds a value wider than the field (R398). -/
def regsFit (r : List RegCell) : Bool := r.all (fun c => decide (c.val.toNat < 2 ^ c.fld.desc.width))

/-- The shape of a state: the register file in its one form, its values within their fields; 64 pitches, 64 stalls, 16 lanes
and 66 views (R302, R16, R276, R390); at most 256 buffered records (R386); operating time in 40 bits (R348); the part of the
energy level below a nJ. -/
structure State.Inv (s : State) : Prop where
  regs : regsWf s.regs = true
  fit : regsFit s.regs = true
  pits : s.pits.length = 64
  stalls : s.stalls.length = 64
  lanes : s.lanes.length = 16
  views : s.dbk.views.length = 66
  buffer : s.dbk.buffer.length ≤ 256
  optime : s.clk.optime < 2 ^ 40
  level : s.clk.levelFrac < 8

/-- What a command leaves of the state it finds, whatever it does: the queue's rest; all that has left the block; the clocks
run on; fuses are never unburnt (R314, R333); free values are not taken twice; the shape is kept. -/
structure State.Keeps (s t : State) : Prop where
  queue : t.pending = s.pending
  sent : s.outbox <+: t.outbox
  hp : s.clk.hp ≤ t.clk.hp
  ticks : s.clk.ticks ≤ t.clk.ticks
  svn : s.fuse.svn ≤ t.fuse.svn
  revoked : s.fuse.revoked &&& t.fuse.revoked = s.fuse.revoked
  keys : t.fuse.keyHash = s.fuse.keyHash ∧ t.fuse.programmed = s.fuse.programmed
  free : s.free ≤ t.free
  inv : s.Inv → t.Inv

/-- The block in service: nothing holds it, its start is done, and the charter window reads RUNNING (R334, R405). -/
structure State.Running (s : State) : Prop where
  hold : s.pwr.hold = .none
  phase : s.pwr.phase = .done
  state : s.rd .chrStatusState = 4

/-- The accessor id of OPERATOR (Table 13-2). -/
def operatorId : Accessor := 0x40#7

/-- The parts of a state beside its registers. -/
inductive Part where
  | pending | outbox | toll | clk | pwr | fuse | pits | stalls | adms | reqs | dups | streams | toks | rr | chains |
  entries | revives | parks | wbs | chr | gens | amd | asz | aszCount | samples | lanes | fab | tier | keys |
  factorTick | dbk | arrivals | free
  deriving DecidableEq

/-- A part is the same in two states. -/
def Part.same (c : Part) (s t : State) : Prop :=
  match c with
  | .pending => t.pending = s.pending
  | .outbox => t.outbox = s.outbox
  | .toll => t.toll = s.toll
  | .clk => t.clk = s.clk
  | .pwr => t.pwr = s.pwr
  | .fuse => t.fuse = s.fuse
  | .pits => t.pits = s.pits
  | .stalls => t.stalls = s.stalls
  | .adms => t.adms = s.adms
  | .reqs => t.reqs = s.reqs
  | .dups => t.dups = s.dups
  | .streams => t.streams = s.streams
  | .toks => t.toks = s.toks
  | .rr => t.rr = s.rr
  | .chains => t.chains = s.chains
  | .entries => t.entries = s.entries
  | .revives => t.revives = s.revives
  | .parks => t.parks = s.parks
  | .wbs => t.wbs = s.wbs
  | .chr => t.chr = s.chr
  | .gens => t.gens = s.gens
  | .amd => t.amd = s.amd
  | .asz => t.asz = s.asz
  | .aszCount => t.aszCount = s.aszCount
  | .samples => t.samples = s.samples
  | .lanes => t.lanes = s.lanes
  | .fab => t.fab = s.fab
  | .tier => t.tier = s.tier
  | .keys => t.keys = s.keys
  | .factorTick => t.factorTick = s.factorTick
  | .dbk => t.dbk = s.dbk
  | .arrivals => t.arrivals = s.arrivals
  | .free => t.free = s.free

/-- `t` differs from `s` only in the parts listed and in the register copies that `p` names. -/
structure State.Leaves (s t : State) (parts : List Part) (p : Fld → Nat → Prop) : Prop where
  part : ∀ c : Part, c ∉ parts → c.same s t
  reg : ∀ f i, ¬p f i → t.rd f i = s.rd f i

/-- What a warm reset with a cause leaves of a state (Tables 15-8 and 15-9): only class P registers stay, and of these
WCH_RESET_CAUSE takes the cause; all that was in flight, resident or configured ends; operating time, fuses, keys and the
Daybook's buffer stay, and the record WARM_RESET is entered with its cause. -/
structure State.WarmResetLeaves (s t : State) (cause : Nat) : Prop where
  other : ∀ f i, f.desc.kept ≠ .p → t.rd f i = f.resetVal.toNat
  classP : ∀ f i, f.desc.kept = .p → f ≠ .wchResetCauseLast → f ≠ .dbkDroppedCount → t.rd f i = s.rd f i
  last : t.rd .wchResetCauseLast = cause
  flight : t.adms = [] ∧ t.reqs = [] ∧ t.dups = [] ∧ t.streams = [] ∧ t.toks = [] ∧ t.revives = [] ∧ t.parks = [] ∧ t.wbs = []
  state : t.entries = [] ∧ t.chains = [] ∧ t.gens = [] ∧ t.asz = [] ∧ t.samples = [] ∧ t.chr = {} ∧ t.amd = {} ∧ t.tier = {}
    ∧ t.fab = {} ∧ t.pits = List.replicate 64 {} ∧ t.stalls = List.replicate 64 {} ∧ t.lanes = List.replicate 16 {}
  kept : t.keys = s.keys ∧ t.fuse = s.fuse ∧ t.pending = s.pending ∧ t.clk.optime = s.clk.optime ∧ t.clk.ticks = s.clk.ticks
    ∧ t.clk.hp = s.clk.hp ∧ t.dbk.slot = s.dbk.slot
  energy : t.clk.levelFrac = 0 ∧ t.clk.levelOver = 0 ∧ t.toll = {}
  start : t.pwr.phase = .reset ∧ t.pwr.powerOn = false
  buffered : s.dbk.buffer <+: t.dbk.buffer
  record : s.dbk.buffer.length < 256 → ∃ r, t.dbk.buffer = s.dbk.buffer ++ [r] ∧ r.code = 0x0002 ∧ r.p0 = cause
    ∧ r.optime = s.clk.optime ∧ r.pcyc = s.rd .wchPcycCount
  store : s.dbk.last = none → t.dbk.store = s.dbk.store

/-- A quadrant is out (R374): each of its stalls not retired before waits, from now, for its clock (1) or its rail (2), and is
not in service; the block goes on. -/
structure State.QuadrantOut (s t : State) (q cause : Nat) : Prop where
  waits : ∀ i, i / 16 = q → s.rd .stlFaultRetired i = 0 →
    t.inService i = false ∧ (t.stl i).quadWait = true ∧ (t.stl i).quadCause = cause ∧ (t.stl i).stoppedAt = s.clk.ticks
  leaves : s.Leaves t [.outbox, .pits, .stalls, .adms, .reqs, .dups, .streams, .toks, .chains, .entries, .wbs, .samples, .lanes, .fab, .dbk, .free]
    (fun f i => f ∈ [.dbkDroppedCount, .glbFaultsCount, .pitVqTailCount, .stlFaultCause, .stlFaultUnit, .stlFaultsCount,
      .stlRoleChain, .stlRoleChgCount, .stlRoleRole, .stlRoleStage, .stlStatusDraining, .stlStatusLoading, .stlTransCount]
      ∨ (f = .wchStatusDroop ∧ i = 0))

/-- A verdict record of a pitch is written between two states: VQ_TAIL goes on by one, and the 32 bytes written at slot VQ_TAIL
mod ENTRIES of the verdict ring hold VCODE, KIND, RTYPE 0 and the ring's PHASE, ERRCODE, the tag, the pitch and the session
(R46, Table 2-6). -/
structure State.Writes (s t : State) (p code kind err sess tag : Nat) : Prop where
  count : t.rd .pitVqTailCount p = (s.rd .pitVqTailCount p + 1) % 2 ^ 32
  word : ∃ c b, (⟨c, .t2Write p (s.addrPair .pitVqBaseLoAddr .pitVqBaseHiAddr p
      + 32 * (s.rd .pitVqTailCount p % s.rd .pitVqSizeEntries p)) b⟩ : Emit) ∈ t.outbox.drop s.outbox.length
    ∧ b.length = 32
    ∧ leNat (b.take 2) = code + 16 * kind + 128 * (1 - s.rd .pitVqTailCount p / s.rd .pitVqSizeEntries p % 2) + 256 * err
    ∧ leNat ((b.drop 4).take 3) = tag ∧ b.getD 7 0#8 = BitVec.ofNat 8 p ∧ leNat ((b.drop 8).take 5) = sess

/-- A request ends with ERR between two states: its record, as `Writes` says, with PARAM0 and PARAM1 in bytes 16 to 23
(Table 2-7). -/
structure State.Fails (s t : State) (p kind err p0 p1 sess tag : Nat) : Prop where
  count : t.rd .pitVqTailCount p = (s.rd .pitVqTailCount p + 1) % 2 ^ 32
  word : ∃ c b, (⟨c, .t2Write p (s.addrPair .pitVqBaseLoAddr .pitVqBaseHiAddr p
      + 32 * (s.rd .pitVqTailCount p % s.rd .pitVqSizeEntries p)) b⟩ : Emit) ∈ t.outbox.drop s.outbox.length
    ∧ b.length = 32
    ∧ leNat (b.take 2) = 15 + 16 * kind + 128 * (1 - s.rd .pitVqTailCount p / s.rd .pitVqSizeEntries p % 2) + 256 * err
    ∧ leNat ((b.drop 4).take 3) = tag ∧ b.getD 7 0#8 = BitVec.ofNat 8 p ∧ leNat ((b.drop 8).take 5) = sess
    ∧ leNat ((b.drop 16).take 4) = p0 % 2 ^ 32 ∧ leNat ((b.drop 20).take 4) = p1 % 2 ^ 32

/-- A frame of a kind is taken up on a lane (R282, R294, R280): nothing holds the block, the frame is of that kind, keeps the
tables and is for this block, and the lane's peer is not excluded, unless it is HELLO or HEARTBEAT. -/
def State.Takes (s : State) (l kind : Nat) (b : List Byte) : Prop :=
  s.pwr.hold = .none ∧ (readFrame b).kind = kind ∧ s.frameOk b = true ∧ (s.laneExcluded l = false ∨ kind = 1 ∨ kind = 2)

/-- A run of `n` steps that meets no fault and no refusal. -/
def State.runsSafely (s : State) (n : Nat) : Prop := ∃ t, Host.Core.run Sys2Proof.core n s = .next t

end Sys2Proof.Machine
end

