-- ==== Sys2Proof/Certificates/Slice0/Obligations.lean ====
section
/-! DEFINITION. The statements for the provers. -/

open Sys2Proof Sys2Proof.Machine

/-- For every command c and state s, a step of s with c at the front of its queue is exec of c on s with the queue's rest:
same outcome, and exec is given the rest of the queue and nothing else of it. -/
def Obligations.StepTakesTheFrontCommand : Prop :=
  ∀ (c : Instr) (rest : List Instr) (s : State),
    step { s with pending := c :: rest } = exec c { s with pending := rest }

/-- On an empty queue a step answers a next state whose HP_CLK cycle count is one higher and whose Toll outputs are 0, as
in a cycle without a query; nothing else differs. That a step is then one cycle is the model's own choice
(notes/assumptions/2.md). -/
def Obligations.EmptyQueueRunsOneCycle : Prop :=
  ∀ s : State, s.pending = [] → step s = .next { s with clk := { s.clk with hp := s.clk.hp + 1 }, toll := {} }

/-- The state right after reset has an empty queue, has sent nothing, and satisfies the shape Inv: registers in their one
form and within their fields, 64 pitches, 64 stalls, 16 lanes, 66 views, at most 256 buffered Daybook records,
operating time in 40 bits and the part of the energy level below a nJ within eighths. -/
def Obligations.ResetHasTheShape : Prop :=
  State.reset.Inv ∧ State.reset.pending = [] ∧ State.reset.outbox = []

/-- From every state with the shape Inv, not only from states a run reaches, each step that gives a next state gives one
with Inv: the register file keeps its one sorted form with no value wider than its field and nothing listed at its
reset value, there stay 64 pitches, 64 stalls, 16 lanes and 66 record views, the Daybook buffer never holds more than
256 records, the operating time stays within 40 bits and the part of the energy level below a nJ within eighths. -/
def Obligations.EveryStepKeepsTheShape : Prop :=
  ∀ s t : State, s.Inv → step s = .next t → t.Inv

/-- For every command: the commands still waiting are the same and in the same order; what the block has sent before is a
prefix of what it has sent after; HP_CLK cycles and oscillator ticks do not run back; the rollback counter does not
fall and a revoked key stays revoked; the key hash and the programmed state of the fuses are unchanged; the counter of
free values does not fall. -/
def Obligations.NothingDoneIsUndone : Prop :=
  ∀ (c : Instr) (s t : State), exec c s = .next t →
    t.pending = s.pending ∧ s.outbox <+: t.outbox ∧ s.clk.hp ≤ t.clk.hp ∧ s.clk.ticks ≤ t.clk.ticks
    ∧ s.fuse.svn ≤ t.fuse.svn ∧ (∀ k, s.fuse.revoked.testBit k = true → t.fuse.revoked.testBit k = true)
    ∧ t.fuse.keyHash = s.fuse.keyHash ∧ t.fuse.programmed = s.fuse.programmed ∧ s.free ≤ t.free

/-- Whatever the state and whatever the operands, every command of the table answers a next state: none is refused and
none is a fault, a read that comes back wrong, late or unasked for included. -/
def Obligations.EveryCommandAnswersAState : Prop :=
  ∀ (c : Instr) (s : State), ∃ t, exec c s = .next t

/-- While the Toll answers, every query of every kind gets a next state with TOLL_AV = 1. On ADMIT (0) the reason is NONE,
one admission of the query's pitch, session, tag, kind, model and cost joins the live ones under the pitch's epoch,
the energy level rises by the charge, and the pitch's ADMIT count rises. On any other answer no admission is made and
the energy level stays; TOLL_PIT_LAST holds the answer and its reason, and the clocks run on as before. Nothing
changes but what the query may start (revives, wakes, the reads and frames they send, the marks of a deferral), the
answer pins, the energy level and the pitch's own Toll counts. -/
def Obligations.TollTakesOnlyOnAdmit : Prop :=
  ∀ (s : State) (pitch : Fin 64) (session : Session) (tag : Tag) (kind : BitVec 2) (model : BitVec 12) (cost : BitVec 16),
    s.tollLive = true →
    ∃ t, exec (.tollQuery pitch session tag kind model cost) s = .next t ∧ t.toll.av = true ∧
      (t.toll.ans = 0 → t.toll.reason = 0
        ∧ t.rd .tollPitAdmitCount pitch = (s.rd .tollPitAdmitCount pitch + 1) % 2 ^ 32
        ∧ ∃ a i, t.adms = s.adms ++ [a] ∧ a.pitch = pitch.val ∧ a.session = session.toNat ∧ a.tag = tag.toNat
            ∧ a.kind = kind.toNat ∧ a.model = model.toNat ∧ a.cost = cost.toNat
            ∧ a.epoch = s.epoch pitch ∧ a.tick = s.clk.ticks
            ∧ s.serving? pitch model.toNat = some i
            ∧ t.level8 = s.level8 + 8 * (s.rd .tollMdlHiEnergyNj i
                * (if kind.toNat = 0 ∨ kind.toNat = 2 then max cost.toNat 1 else 1)))
      ∧ (t.toll.ans ≠ 0 → t.adms = s.adms ∧ t.clk = s.clk ∧ t.rd .tollEnergyLevelNj = s.rd .tollEnergyLevelNj
        ∧ t.rd .tollPitLastReason pitch = t.toll.reason ∧ t.rd .tollPitLastAns pitch = t.toll.ans)
      ∧ t.clk = { s.clk with levelFrac := t.clk.levelFrac, levelOver := t.clk.levelOver }
      ∧ s.Leaves t [.outbox, .toll, .clk, .pits, .stalls, .adms, .revives, .lanes, .fab, .free]
          (fun f i => (f = .tollEnergyLevelNj ∧ i = 0) ∨ (i = pitch.val ∧ f ∈ [.tollPitAdmitCount, .tollPitDeferCount,
          .tollPitRefuseCount, .tollPitQuarCount, .tollPitLastReason, .tollPitLastAns]))

/-- A query to a pitch that is disabled or not yet enabled, that drains, or that its domain excludes is answered REFUSE
with PITCH_OFF; else, one whose pitch, session and tag already hold a live admission is answered REFUSE with NONE;
else, one that hits the quarantine table is answered QUARANTINE with QUARANTINED. And REFUSE with reason NONE is
answered only to a query whose pitch, session and tag already hold a live admission. -/
def Obligations.TollEarlyRowsDecide : Prop :=
  ∀ (s : State) (pitch : Fin 64) (session : Session) (tag : Tag) (kind : BitVec 2) (model : BitVec 12) (cost : BitVec 16),
    s.tollLive = true →
    ∃ t, exec (.tollQuery pitch session tag kind model cost) s = .next t ∧
      (s.rd .pitStatusEnabled pitch = 0 ∨ (s.pit pitch).draining = true ∨ pitch.val ∈ s.fab.excluded → t.toll = { av := true, ans := 2, reason := 7 })
      ∧ (s.rd .pitStatusEnabled pitch ≠ 0 → (s.pit pitch).draining = false → s.fab.excluded.contains pitch.val = false →
          ((∃ a ∈ s.adms, a.pitch = pitch.val ∧ a.session = session.toNat ∧ a.tag = tag.toNat) →
            t.toll = { av := true, ans := 2, reason := 0 })
          ∧ ((∀ a ∈ s.adms, ¬(a.pitch = pitch.val ∧ a.session = session.toNat ∧ a.tag = tag.toNat)) →
              s.quarHit pitch session.toNat = true → t.toll = { av := true, ans := 3, reason := 8 }))
      ∧ (t.toll.ans = 2 → t.toll.reason = 0 → ∃ a ∈ s.adms, a.pitch = pitch.val ∧ a.session = session.toNat ∧ a.tag = tag.toNat)

/-- A query that rows 1 to 3 of Table 3-3 pass, of a model with an entry in force, whose energy charge ENERGY_NJ x
max(cost, 1) (factor 1 for STREAM_OPEN and CONSTRAINT) exceeds TOLL_ENERGY_DEPTH.UJ x 1,000 nJ is answered REFUSE with
reason CAPACITY (9) and takes nothing. -/
def Obligations.QueryAboveTheDepthIsRefused : Prop :=
  ∀ (s : State) (pitch : Fin 64) (session : Session) (tag : Tag) (kind : BitVec 2) (model : BitVec 12) (cost : BitVec 16) (i : Nat),
    s.tollLive = true → s.rd .pitStatusEnabled pitch ≠ 0 → (s.pit pitch).draining = false →
    s.fab.excluded.contains pitch.val = false →
    (∀ a ∈ s.adms, ¬(a.pitch = pitch.val ∧ a.session = session.toNat ∧ a.tag = tag.toNat)) →
    s.quarHit pitch session.toNat = false →
    s.serving? pitch model.toNat = some i →
    s.rd .tollEnergyDepthUj * 1000
      < s.rd .tollMdlHiEnergyNj i * (if kind.toNat = 0 ∨ kind.toNat = 2 then max cost.toNat 1 else 1) →
    ∃ t, exec (.tollQuery pitch session tag kind model cost) s = .next t
      ∧ t.toll = { av := true, ans := 2, reason := 9 } ∧ t.adms = s.adms ∧ t.revives = s.revives ∧ t.level8 = s.level8

/-- While no model is in TRAIN or SHADOW, so that no Bench step can begin, a tick of the oscillator lowers the level L by
0.125 nJ for each mW of the drain in force (the hot drain while HOT is set), never below 0: counted in eighths of a
nJ, L falls by MW. Else L is at least that, a step that begins taking its energy. In each case the tick counts 125 ns,
operating time advances by 2/15625 of 1/1024 s, the Toll's outputs are 0, and nothing else changes but the step a
pitch has under way. For a valid model-table entry, 8,000 ticks after its last report or step, CREDIT_FACTOR_RECOVER
sets F_m to min(256, F_m + TOLL_LATE.INC) and starts the next millisecond from the present tick; before that, or for
an entry not in use, it changes nothing. No other register changes. -/
def Obligations.DrainAndFactorsFollowTime : Prop :=
  (∀ s : State, s.clk.frac < 15625 → s.clk.optime < 2 ^ 40 →
    let left := s.level8 - (if s.rd .wchStatusHot = 1 then s.rd .wchHotDrainMw else s.rd .tollEnergyDrainMw)
    ∃ t, exec .energyDrainTick s = .next t ∧ left ≤ t.level8
      ∧ ((∀ a ∈ s.asz, a.state ≠ .train ∧ a.state ≠ .shadow) → t.level8 = left ∧ t.pits = s.pits)
      ∧ t.toll = {} ∧ t.clk.levelFrac < 8 ∧ t.clk.ticks = s.clk.ticks + 1
      ∧ (15625 * t.clk.optime + t.clk.frac) % (15625 * 2 ^ 40) = (15625 * s.clk.optime + s.clk.frac + 2) % (15625 * 2 ^ 40)
      ∧ t.clk = { s.clk with ticks := t.clk.ticks, optime := t.clk.optime, frac := t.clk.frac, levelFrac := t.clk.levelFrac, levelOver := t.clk.levelOver }
      ∧ s.Leaves t [.toll, .clk, .pits] (fun f i => f = .tollEnergyLevelNj ∧ i = 0))
  ∧ (∀ (s : State) (e : Fin 1024), ∃ t, exec (.creditFactorRecover e) s = .next t
    ∧ (s.rd .tollMdlLoValid e = 1 → (∀ x, s.factorTick.find? (·.1 == e.val) = some x → x.2 + 8000 ≤ s.clk.ticks) →
        (s.factorTick.find? (·.1 == e.val) = none → 8000 ≤ s.clk.ticks) →
        t.rd .tollMdlLoFactor e = min 256 (s.rd .tollMdlLoFactor e + s.rd .tollLateInc)
        ∧ t.factorTick.find? (·.1 == e.val) = some (e.val, s.clk.ticks)
        ∧ s.Leaves t [.factorTick] (fun f i => f = .tollMdlLoFactor ∧ i = e.val))
    ∧ ((s.rd .tollMdlLoValid e ≠ 1 ∨ ∃ x, s.factorTick.find? (·.1 == e.val) = some x ∧ s.clk.ticks < x.2 + 8000) → t = s))

/-- An admission whose lifetime, PIT_ADMIT_TTL.USEC microseconds (8 ticks each), has passed since its answer is removed by
ADMISSION_LAPSE of its pitch, session and tag, and no other is. Its credits return with it: one admission entry; one
verdict slot, where the ring has slots left; an INTAKE's intake slot, a STREAM_OPEN's place on its chain, a
STREAM_TOKEN's cost in chain tokens, a CONSTRAINT's constraint slot. The energy level stays, and nothing else changes.
While none of the pitch, session and tag is past its lifetime, nothing changes at all. -/
def Obligations.LapseReturnsEveryCreditButEnergy : Prop :=
  ∀ (s : State) (pitch : Fin 64) (session : Session) (tag : Tag),
    let key (a : Admission) : Prop := a.pitch = pitch.val ∧ a.session = session.toNat ∧ a.tag = tag.toNat
    let past (a : Admission) : Prop := a.tick + 8 * s.rd .pitAdmitTtlUsec pitch ≤ s.clk.ticks
    (∀ a l r, s.adms = l ++ a :: r → key a → past a → (∀ x ∈ l ++ r, ¬ key x) →
      ∃ t, exec (.admissionLapse pitch session tag) s = .next t ∧ t.adms = l ++ r ∧ s.Leaves t [.adms] (fun _ _ => False)
        ∧ t.level8 = s.level8 ∧ t.adms.length + 1 = s.adms.length
        ∧ (s.verdictFree pitch ≠ 0 → t.verdictFree pitch = s.verdictFree pitch + 1)
        ∧ (a.kind = 0 → t.intakeUsed pitch + 1 = s.intakeUsed pitch)
        ∧ (∀ c, a.kind = 1 → a.chain = some c → t.chainPins pitch c + 1 = s.chainPins pitch c)
        ∧ (∀ c, a.kind = 2 → a.chain = some c → t.chainTokens pitch c + a.cost = s.chainTokens pitch c)
        ∧ (a.kind = 3 → t.conUsed pitch + 1 = s.conUsed pitch))
    ∧ ((∀ a ∈ s.adms, key a → ¬ past a) → exec (.admissionLapse pitch session tag) s = .next s)

/-- In service, a write of TOLL_QTAB_HI by the operator sets the entry's session bits 39:32, its pitch, WHOLE and VALID
from the word written, and nothing else but AUTO, which reads 0 (a value the model gives: notes/assumptions/20.md).
With VALID written 1, a query of the entry's pitch hits the table when WHOLE is written 1, or when its session is the
entry's. -/
def Obligations.QuarantineEntryGoesLiveWithItsSecondWord : Prop :=
  ∀ (s : State) (e : Fin 256) (w : Word), s.Running →
    ∃ t, exec (.qtabEntryWrite operatorId e w) s = .next t
      ∧ t.rd .tollQtabHiSession e = w.toNat % 2 ^ 8 ∧ t.rd .tollQtabHiPitch e = w.toNat / 2 ^ 8 % 2 ^ 6
      ∧ t.rd .tollQtabHiWhole e = w.toNat / 2 ^ 16 % 2 ∧ t.rd .tollQtabHiValid e = w.toNat / 2 ^ 31 % 2
      ∧ t.rd .tollQtabHiAuto e = 0
      ∧ s.Leaves t [] (fun f i => i = e.val ∧ f ∈ [.tollQtabHiSession, .tollQtabHiPitch, .tollQtabHiWhole, .tollQtabHiValid, .tollQtabHiAuto])
      ∧ (w.toNat / 2 ^ 31 % 2 = 1 → 
          (w.toNat / 2 ^ 16 % 2 = 1 → ∀ n, t.quarHit (w.toNat / 2 ^ 8 % 2 ^ 6) n = true)
          ∧ t.quarHit (w.toNat / 2 ^ 8 % 2 ^ 6) (s.rd .tollQtabLoSession e + 2 ^ 32 * (w.toNat % 2 ^ 8)) = true)

/-- A warm reset by WRST_N (while PFAIL_N does not hold the block), by the operator's key in WCH_WRESET, by loss of the
cellar PLL's lock and by loss of HP_CLK ends all that is in flight, resident or configured, leaves every register
outside class P at its reset value and every class P register as it was (the Daybook's dropped count may count the
record), keeps operating time, the fuses, the keys and the buffered records, sets WCH_RESET_CAUSE to 1, 2, 6 or 5,
and, while the buffer has room, enters WARM_RESET (0x0002) with that cause. The two losses do so in a block that
nothing holds but a shared fault, and do nothing in any other. After a loss of HP_CLK the block stays held; after the
others nothing holds it. Any other word written to WCH_WRESET by the operator changes nothing. POWER_ON leaves every
field of every register at its reset value, ends all that was in flight or resident, the volatile buffer and the keys,
starts operating time at 0, and keeps the fuses, the Daybook store and its newest counter slot. What has been sent
stays sent; HP_CLK cycles and oscillator ticks are as they were. -/
def Obligations.ResetsEndAllButWhatTheyKeep : Prop :=
  (∀ s : State, s.pwr.hold ≠ .powerFail →
    ∃ t, exec (.warmReset .pin) s = .next t ∧ s.WarmResetLeaves t 1 ∧ t.pwr.hold = .none)
  ∧ (∀ s : State, s.Running → ∃ t, exec (.warmReset (.key operatorId 0x57525354#32)) s = .next t
      ∧ s.WarmResetLeaves t 2 ∧ t.pwr.hold = .none)
  ∧ (∀ (s : State) (w : Word), s.Running → w ≠ 0x57525354#32 → exec (.warmReset (.key operatorId w)) s = .next s)
  ∧ (∀ s : State, s.pwr.hold = .none ∨ s.pwr.hold = .shared →
      (∃ t, exec .celPllLoss s = .next t ∧ s.WarmResetLeaves t 6 ∧ t.pwr.hold = .none)
      ∧ ∃ t, exec .hpClkLoss s = .next t ∧ s.WarmResetLeaves t 5 ∧ t.pwr.hold = .clkLoss)
  ∧ (∀ s : State, s.pwr.hold ≠ .none → s.pwr.hold ≠ .shared → exec .celPllLoss s = .next s ∧ exec .hpClkLoss s = .next s)
  ∧ (∀ s : State, s.pwr.hold = .powerFail → exec (.warmReset .pin) s = .next s)
  ∧ (∀ s : State, ∃ t, exec .powerOn s = .next t
    ∧ (∀ f i, t.rd f i = f.resetVal.toNat)
    ∧ t.adms = [] ∧ t.reqs = [] ∧ t.dups = [] ∧ t.streams = [] ∧ t.toks = [] ∧ t.revives = [] ∧ t.parks = [] ∧ t.wbs = []
    ∧ t.entries = [] ∧ t.samples = [] ∧ t.keys = [] ∧ t.dbk.buffer = [] ∧ t.clk.optime = 0
    ∧ t.dbk.store = s.dbk.store ∧ t.dbk.slot = s.dbk.slot ∧ t.fuse = s.fuse ∧ t.outbox = s.outbox ∧ t.pending = s.pending
    ∧ t.clk.hp = s.clk.hp ∧ t.clk.ticks = s.clk.ticks ∧ t.pwr.hold = .none ∧ t.pwr.phase = .reset ∧ t.pwr.powerOn = true)

/-- When PFAIL_N falls on a block it does not already hold, every request, stream, admission, revive, park, write-back and
resident entry ends, the Toll gives no answer, and the block is held, with its clocks, fuses, charter and generations
as they were; while PFAIL_N holds the block, a second fall changes nothing. When it rises, WCH_WAKE_CAUSE bit 5 is set
and a warm reset with cause 4 (POWER) runs over that state; without a power-fail a rise changes nothing. -/
def Obligations.PowerFailFlushesAndRises : Prop :=
  (∀ s : State, s.pwr.hold ≠ .powerFail → ∃ t, exec .powerFail s = .next t
      ∧ t.reqs = [] ∧ t.dups = [] ∧ t.streams = [] ∧ t.adms = [] ∧ t.entries = [] ∧ t.revives = [] ∧ t.parks = [] ∧ t.wbs = [] ∧ t.toll = {}
      ∧ t.pwr.hold = .powerFail ∧ t.pwr.phase = .reset ∧ t.clk = s.clk ∧ t.fuse = s.fuse ∧ t.chr = s.chr ∧ t.gens = s.gens)
  ∧ (∀ s : State, s.pwr.hold = .powerFail → exec .powerFail s = .next s)
  ∧ (∀ s : State, s.Inv → s.pwr.hold = .powerFail → ∃ t, exec .pfailRise s = .next t
      ∧ t.pwr.hold = .none ∧ t.rd .wchWakeCauseEvents = s.rd .wchWakeCauseEvents ||| 32
      ∧ (s.wr .wchWakeCauseEvents 0 (s.rd .wchWakeCauseEvents ||| 32)).WarmResetLeaves t 4)
  ∧ (∀ s : State, s.pwr.hold ≠ .powerFail → exec .pfailRise s = .next s)

/-- The timer event (operating time at or above WCH_TIMER), a Toll query of an unpowered Toll, a signal on a fabric port,
the temperature below COOL after a thermal trip, and the rails back after a droop entry set bits 0 to 4 of
WCH_WAKE_CAUSE. Outside Hibernate, with a park still under way, or with the bit's enable 0, that is all; in Hibernate,
with no park and its enable 1, the wake runs: the block is held no more and starts again with cause 3, the keys end,
time and fuses stay, and, with room for both, the records WARM_RESET (0x0002) and HIBERNATE_WAKE (0x0004) with
WCH_WAKE_CAUSE enter the buffer. -/
def Obligations.WakeEventsSetTheirCauseAndWake : Prop :=
  ∀ (s : State) (k : Nat) (c : Instr), s.Inv →
    ((k = 0 ∧ c = .wakeTimer ∧ s.rd .wchTimerLoTime + 2 ^ 32 * s.rd .wchTimerHiTime ≤ s.clk.optime)
      ∨ (k = 1 ∧ c = .wakeToll ∧ s.tollLive = false) ∨ (k = 2 ∧ ∃ p, c = .wakeFabric p)
      ∨ (k = 3 ∧ (∃ d : BitVec 8, c = .wakeTemp d ∧ d.toNat < s.rd .wchTempCfgCool) ∧ ∃ b, s.pwr.hold = .hibernate true b)
      ∨ (k = 4 ∧ c = .wakeDroop ∧ ∃ b, s.pwr.hold = .hibernate b true)) →
    ∃ t, exec c s = .next t ∧ t.rd .wchWakeCauseEvents = s.rd .wchWakeCauseEvents ||| 2 ^ k
      ∧ ((∀ a b, s.pwr.hold ≠ .hibernate a b) ∨ s.parks ≠ [] ∨ s.rd .wchWakeEnEvents / 2 ^ k % 2 = 0 →
          s.Leaves t [] (fun f i => f = .wchWakeCauseEvents ∧ i = 0))
      ∧ ((∃ a b, s.pwr.hold = .hibernate a b) → s.parks = [] → s.rd .wchWakeEnEvents / 2 ^ k % 2 = 1 →
          t.pwr.hold = .none ∧ t.pwr.phase = .reset ∧ t.rd .wchResetCauseLast = 3 ∧ t.keys = [] ∧ t.fuse = s.fuse
          ∧ t.clk.optime = s.clk.optime
          ∧ (s.dbk.buffer.length < 255 → ∃ r r', t.dbk.buffer = s.dbk.buffer ++ [r, r'] ∧ r.code = 0x0002 ∧ r.p0 = 3
              ∧ r'.code = 0x0004 ∧ r'.p0 = s.rd .wchWakeCauseEvents ||| 2 ^ k))

/-- In Hibernate with no park under way, HIBERNATE_WAKE with some set bit of WCH_WAKE_CAUSE enabled in WCH_WAKE_EN runs
the wake: the block is held no more and starts again, with cause 3, no keys, and WCH_WAKE_CAUSE as it was. Otherwise
it changes nothing. The operator's key 0x4849_4245 in WCH_HIB, with no pitch enabled, enters Hibernate: the block is
held, the Toll gives no answer, admissions end, a ledger entry stays resident only while its park is under way, and
time, fuses, charter and registers stay. With some pitch enabled it only sets WCH_STATUS.HIB_REFUSED. Any other word
changes nothing. -/
def Obligations.HibernateIsEnteredAndLeftInOrder : Prop :=
  (∀ s : State, (∃ a b, s.pwr.hold = .hibernate a b) → s.parks = [] →
      s.rd .wchWakeCauseEvents % 32 &&& s.rd .wchWakeEnEvents ≠ 0 →
      ∃ t, exec .hibernateWake s = .next t ∧ t.pwr.hold = .none ∧ t.pwr.phase = .reset ∧ t.rd .wchResetCauseLast = 3
        ∧ t.keys = [] ∧ t.rd .wchWakeCauseEvents = s.rd .wchWakeCauseEvents ∧ t.clk.optime = s.clk.optime ∧ t.fuse = s.fuse)
  ∧ (∀ s : State, (∀ a b, s.pwr.hold ≠ .hibernate a b) ∨ s.parks ≠ [] ∨ s.rd .wchWakeCauseEvents % 32 &&& s.rd .wchWakeEnEvents = 0 →
      exec .hibernateWake s = .next s)
  ∧ (∀ s : State, s.Running →
    ((∀ p, s.rd .pitStatusEnabled p = 0) → ∃ t, exec (.hibernateEnter operatorId 0x48494245#32) s = .next t
        ∧ t.pwr.hold = .hibernate false false ∧ t.toll = {} ∧ t.adms = [] ∧ t.clk = s.clk ∧ t.fuse = s.fuse ∧ t.chr = s.chr
        ∧ (∀ e ∈ t.entries, e.pitch < 64 → ∃ k ∈ t.parks, k.pitch = e.pitch ∧ k.session = e.session) ∧ ∀ f i, f ≠ .dbkDroppedCount → t.rd f i = s.rd f i)
    ∧ ((∃ p, s.rd .pitStatusEnabled p = 1) → ∃ t, exec (.hibernateEnter operatorId 0x48494245#32) s = .next t
        ∧ t.rd .wchStatusHibRefused = 1 ∧ s.Leaves t [] (fun f i => f = .wchStatusHibRefused ∧ i = 0))
    ∧ ∀ w : Word, w ≠ 0x48494245#32 → exec (.hibernateEnter operatorId w) s = .next s)

/-- A reading of the hottest sensor is kept in WCH_TEMP_NOW with its sensor. At or above a nonzero WCH_TEMP_CFG.HOT,
THERMAL_HOT sets WCH_STATUS.HOT, so that the hot drain is in force; below HOT - 5 THERMAL_COOL clears HOT. At 115
degrees and above THERMAL_TRIP takes a block not already in Hibernate or in power-fail into Hibernate by the forced
entry: every request, stream, admission, park, key and resident entry ends and the Toll gives no answer; else it only
keeps the reading. -/
def Obligations.TemperatureActsAtItsThresholds : Prop :=
  (∀ (s : State) (x : BitVec 5) (d : BitVec 8), s.Inv → ∃ t, exec (.thermalHot x d) s = .next t
      ∧ t.rd .wchTempNowDeg = d.toNat ∧ t.rd .wchTempNowSensor = x.toNat
      ∧ (s.rd .wchTempCfgHot ≠ 0 → s.rd .wchTempCfgHot ≤ d.toNat → t.rd .wchStatusHot = 1 ∧ t.drainMw = s.rd .wchHotDrainMw)
      ∧ (d.toNat < s.rd .wchTempCfgHot ∨ s.rd .wchTempCfgHot = 0 → t.rd .wchStatusHot = s.rd .wchStatusHot)
      ∧ s.Leaves t [.outbox, .dbk] (fun f i => i = 0 ∧ f ∈ [.wchTempNowDeg, .wchTempNowSensor, .wchStatusHot, .dbkDroppedCount]))
  ∧ (∀ (s : State) (x : BitVec 5) (d : BitVec 8), ∃ t, exec (.thermalCool x d) s = .next t
      ∧ t.rd .wchTempNowDeg = d.toNat ∧ t.rd .wchTempNowSensor = x.toNat
      ∧ (d.toNat + 5 < s.rd .wchTempCfgHot → t.rd .wchStatusHot = 0 ∧ t.drainMw = s.rd .tollEnergyDrainMw)
      ∧ (s.rd .wchTempCfgHot ≤ d.toNat + 5 → t.rd .wchStatusHot = s.rd .wchStatusHot)
      ∧ s.Leaves t [] (fun f i => i = 0 ∧ f ∈ [.wchTempNowDeg, .wchTempNowSensor, .wchStatusHot]))
  ∧ (∀ (s : State) (x : BitVec 5) (d : BitVec 8), 115 ≤ d.toNat → (∀ a b, s.pwr.hold ≠ .hibernate a b) → s.pwr.hold ≠ .powerFail →
      ∃ t, exec (.thermalTrip x d) s = .next t ∧ t.pwr.hold = .hibernate true false ∧ t.rd .wchTempNowDeg = d.toNat
        ∧ t.reqs = [] ∧ t.streams = [] ∧ t.adms = [] ∧ t.entries = [] ∧ t.parks = [] ∧ t.keys = [] ∧ t.toll = {}
        ∧ t.clk = s.clk ∧ t.fuse = s.fuse)
  ∧ (∀ (s : State) (x : BitVec 5) (d : BitVec 8), d.toNat < 115 ∨ (∃ a b, s.pwr.hold = .hibernate a b) ∨ s.pwr.hold = .powerFail →
      ∃ t, exec (.thermalTrip x d) s = .next t ∧ t.rd .wchTempNowDeg = d.toNat ∧ t.rd .wchTempNowSensor = x.toNat
        ∧ s.Leaves t [] (fun f i => i = 0 ∧ (f = .wchTempNowDeg ∨ f = .wchTempNowSensor)))

/-- A droop of VDD_CEL (4) or VDD_SDS (5) of a block neither in Hibernate nor in power-fail sets WCH_STATUS.DROOP and
forces Hibernate: every request, stream and admission ends, nothing stays resident and the Toll gives no answer. In a
block that nothing holds, a droop of a quadrant's rail sets DROOP, and like the loss of lock of its PLL takes the
quadrant out: each of its stalls not retired before leaves service and waits from now on for the quadrant (cause 2
rail, 1 PLL); the block is not held. -/
def Obligations.DroopAndPllLossHitTheirPart : Prop :=
  (∀ (s : State) (r : Fin 6), 4 ≤ r.val → (∀ a b, s.pwr.hold ≠ .hibernate a b) → s.pwr.hold ≠ .powerFail →
      ∃ t, exec (.supplyDroop r) s = .next t ∧ t.pwr.hold = .hibernate false true ∧ t.rd .wchStatusDroop = 1
        ∧ t.reqs = [] ∧ t.streams = [] ∧ t.adms = [] ∧ t.entries = [] ∧ t.toll = {} ∧ t.clk = s.clk ∧ t.fuse = s.fuse)
  ∧ (∀ (s : State) (q : Fin 4), s.Inv → s.pwr.hold = .none → (∀ i, i / 16 = q.val → (s.stl i).quadWait = false) →
      (∃ t, exec (.supplyDroop ⟨q.val, by omega⟩) s = .next t ∧ s.QuadrantOut t q 2 ∧ t.rd .wchStatusDroop = 1)
      ∧ ∃ t, exec (.quadrantPllLoss q) s = .next t ∧ s.QuadrantOut t q 1 ∧ t.rd .wchStatusDroop = s.rd .wchStatusDroop)

/-- CRYSTAL_STABLE puts operating time over to a crystal that is starting and changes nothing else; XTAL_FAIL of a running
crystal puts it back for good (neither CRYSTAL_STABLE nor XTAL_FAIL changes a failed one) and sets
WCH_STATUS.XTAL_FAIL; OSC_TRIM trims against a running crystal alone. At a multiple of 2^20 of operating time, with
the counters restored and a Daybook region that holds the slots, COUNTER_SLOT_SAVE writes a slot with the operating
time, the power-cycle count, CLEAN 0 and the next SEQ, which WCH_SLOT_SEQ then reads. -/
def Obligations.TimeKeepsItsSources : Prop :=
  (∀ s : State, s.clk.crystal = .starting → exec .crystalStable s = .next { s with clk := { s.clk with crystal := .running } })
  ∧ (∀ s : State, s.clk.crystal ≠ .starting → exec .crystalStable s = .next s)
  ∧ (∀ s : State, s.clk.crystal = .running → ∃ t, exec .xtalFail s = .next t ∧ t.clk = { s.clk with crystal := .failed }
      ∧ t.rd .wchStatusXtalFail = 1
      ∧ s.Leaves t [.clk, .outbox, .dbk] (fun f i => i = 0 ∧ f ∈ [.wchStatusXtalFail, .dbkDroppedCount]))
  ∧ (∀ s : State, s.clk.crystal ≠ .running → exec .xtalFail s = .next s ∧ exec .oscTrim s = .next s)
  ∧ (∀ s : State, s.clk.crystal = .running → exec .oscTrim s = .next { s with clk := { s.clk with trims := s.clk.trims + 1 } })
  ∧ (∀ s : State, s.clk.optime % 2 ^ 20 = 0 → s.pwr.restore = false → s.pwr.slotDue = false → 8192 ≤ s.dbk.regionLen →
      s.rd .chrXspiDbkFail ≠ 1 →
      ∃ t c, exec .counterSlotSave s = .next t ∧ t.dbk.slot = some c ∧ c.optime = s.clk.optime ∧ c.pcyc = s.rd .wchPcycCount
        ∧ c.clean = false ∧ c.seq = (((s.dbk.slot.map (·.seq)).getD 0) + 1) % 2 ^ 32 ∧ t.rd .wchSlotSeqSeq = c.seq
        ∧ s.Leaves t [.outbox, .dbk] (fun f i => f = .wchSlotSeqSeq ∧ i = 0))

/-- For a pitch that is enabled, a doorbell whose value is more than ENTRIES ahead of PIT_SQ_HEAD (mod 2^32) leaves
PIT_SQ_TAIL and sets PIT_STATUS.SQ_OVF; any other moves PIT_SQ_TAIL to the value and, unless the pitch drains or the
tail moves back, issues one 64-byte read for each new descriptor, in order, at its slot mod ENTRIES of the ring. A
write of PIT_VQ_HEAD past PIT_VQ_TAIL sets VQ_HEAD_ERR and leaves the head; any other sets it. For a pitch that is not
enabled neither write has an effect. The pitch's own host and the operator may write both. -/
def Obligations.DoorbellAndHeadMoveTheRings : Prop :=
  ∀ (s : State) (acc : Accessor) (p : Fin 64) (w : Word), s.Inv → s.Running → (acc = operatorId ∨ acc.toNat = p.val) →
    let n := s.rd .pitSqSizeEntries p.val
    let head := s.rd .pitSqHeadCount p.val
    let old := s.rd .pitSqTailCount p.val
    (s.rd .pitStatusEnabled p.val = 0 → exec (.doorbell acc p w) s = .next s ∧ exec (.vqHeadWrite acc p w) s = .next s)
    ∧ (s.rd .pitStatusEnabled p.val = 1 → n < (w.toNat + 2 ^ 32 - head) % 2 ^ 32 →
        ∃ t, exec (.doorbell acc p w) s = .next t ∧ t.rd .pitStatusSqOvf p.val = 1
          ∧ s.Leaves t [.outbox, .dbk] (fun f i => (f = .pitStatusSqOvf ∧ i = p.val) ∨ f = .dbkDroppedCount))
    ∧ (s.rd .pitStatusEnabled p.val = 1 → (w.toNat + 2 ^ 32 - head) % 2 ^ 32 ≤ n →
        ∃ t, exec (.doorbell acc p w) s = .next t ∧ t.rd .pitSqTailCount p.val = w.toNat
          ∧ s.Leaves t [.outbox] (fun f i => f = .pitSqTailCount ∧ i = p.val)
          ∧ t.outbox = s.outbox ++ (if (s.pit p.val).draining ∨ (w.toNat + 2 ^ 32 - head) % 2 ^ 32 < (old + 2 ^ 32 - head) % 2 ^ 32 then []
              else (List.range ((w.toNat + 2 ^ 32 - old) % 2 ^ 32)).map (fun k =>
                ⟨s.clk.hp, .t2Read p.val (s.addrPair .pitSqBaseLoAddr .pitSqBaseHiAddr p.val + 64 * ((old + k) % 2 ^ 32 % n)) 64⟩)))
    ∧ (s.rd .pitStatusEnabled p.val = 1 →
        ∃ t, exec (.vqHeadWrite acc p w) s = .next t
          ∧ (if (s.rd .pitVqTailCount p.val + 2 ^ 32 - s.rd .pitVqHeadCount p.val) % 2 ^ 32
                < (w.toNat + 2 ^ 32 - s.rd .pitVqHeadCount p.val) % 2 ^ 32
             then t.rd .pitStatusVqHeadErr p.val = 1 ∧ s.Leaves t [] (fun f i => f = .pitStatusVqHeadErr ∧ i = p.val)
             else t.rd .pitVqHeadCount p.val = w.toNat ∧ s.Leaves t [] (fun f i => f = .pitVqHeadCount ∧ i = p.val)))

/-- For an enabled pitch that does not drain, with a descriptor outstanding, each descriptor read moves PIT_SQ_HEAD on by
one. A read that fails, one of other than 64 bytes being such a one by the model's choice (notes/assumptions/118.md),
and a descriptor without an admission when no verdict slot is free, are only counted in PIT_UNADMIT. Otherwise the
matching admission ends. A descriptor with an error, E_STATE_LOST of a lost entry among them, gets an ERR record with
that code, but a STREAM_TOKEN behind others of its session arrives, its record keeping its place. A sound INTAKE or
STREAM_OPEN goes in flight, or ends with ERR E_CAPACITY. A sound CONSTRAINT, or STREAM_TOKEN of at most eight tokens,
goes in flight, arrived; one of more tokens goes in flight and waits for its buffer. -/
def Obligations.DescriptorsAreTakenInRingOrder : Prop :=
  ∀ (s : State) (p : Fin 64), s.Inv → s.pwr.hold = .none → s.rd .pitStatusEnabled p.val = 1 → (s.pit p.val).draining = false →
    s.rd .pitSqHeadCount p.val ≠ s.rd .pitSqTailCount p.val →
    (∃ t, exec (.descriptorRead p .error) s = .next t
      ∧ t.rd .pitSqHeadCount p.val = (s.rd .pitSqHeadCount p.val + 1) % 2 ^ 32
      ∧ t.rd .pitUnadmitCount p.val = (s.rd .pitUnadmitCount p.val + 1) % 2 ^ 32
      ∧ s.Leaves t [.outbox, .dbk] (fun f i => (i = p.val ∧ (f = .pitSqHeadCount ∨ f = .pitUnadmitCount)) ∨ f = .dbkDroppedCount))
    ∧ (∀ b : List Byte, b.length ≠ 64 → exec (.descriptorRead p (.ok b)) s = exec (.descriptorRead p .error) s)
    ∧ ∀ b : List Byte, b.length = 64 →
      let d : Desc := BitVec.ofNat 512 (leNat b)
      let mine : Admission → Bool := fun a => a.pitch == p.val && a.session == d.session && a.tag == d.tag
      let a := s.adms.find? mine
      let err := (((s.bump .pitSqHeadCount p.val).descErr p.val d a).map EndErr.code).orElse
        (fun _ => if (s.entry? p.val d.session).any (·.lost) then some 0x44 else none)
      ∃ t, exec (.descriptorRead p (.ok b)) s = .next t ∧ t.rd .pitSqHeadCount p.val = (s.rd .pitSqHeadCount p.val + 1) % 2 ^ 32
        ∧ (a = none → s.verdictFree p.val = 0 →
            t.rd .pitUnadmitCount p.val = (s.rd .pitUnadmitCount p.val + 1) % 2 ^ 32
            ∧ s.Leaves t [.outbox, .dbk] (fun f i => (i = p.val ∧ (f = .pitSqHeadCount ∨ f = .pitUnadmitCount)) ∨ f = .dbkDroppedCount))
        ∧ (a ≠ none ∨ s.verdictFree p.val ≠ 0 → t.adms = s.adms.filter (fun a => !mine a)
            ∧ (∀ c, err = some c → if d.kind = 2 ∧ s.arrived p.val d.session ≠ [] then t.arrivals = s.arrivals + 1
                else s.Writes t p.val 15 d.kind c d.session d.tag ∧ t.reqs = s.reqs)
            ∧ (err = none → d.kind < 2 →
                (s.Writes t p.val 15 d.kind 0x47 d.session d.tag ∧ t.reqs = s.reqs)
                ∨ (t.reqs.length = s.reqs.length + 1 ∧ ∃ r ∈ t.reqs, r.isOf p.val d.session d.tag = true ∧ r.kind = d.kind))
            ∧ (err = none → d.kind = 3 ∨ (d.kind = 2 ∧ d.ntok ≤ 8) →
                t.arrivals = s.arrivals + 1 ∧ t.outbox = s.outbox ∧ t.reqs.length = s.reqs.length + 1
                ∧ ∃ r ∈ t.reqs, r.isOf p.val d.session d.tag = true ∧ r.kind = d.kind ∧ r.seq = s.arrivals + 1
                    ∧ r.arrival = some s.clk.hp ∧ (d.kind = 2 → r.toks = d.inline
                        ∧ r.due = some (s.clk.hp + s.hpCycles (100 * s.rd .pitDelayTokenDelay p.val))))
            ∧ (err = none → d.kind = 2 → 8 < d.ntok →
                t.arrivals = s.arrivals ∧ t.reqs.length = s.reqs.length + 1
                ∧ ∃ r ∈ t.reqs, r.isOf p.val d.session d.tag = true ∧ r.kind = 2 ∧ r.wantList = true))

/-- A segment list that an INTAKE waits for and that no check refuses becomes the request's list, and nothing of the block
but the request and what it sends changes; one that fails a check ends it with that error, one whose read failed with
E_TIER_UNCORR, each with an ERR record. A token buffer that a STREAM_TOKEN waits for makes it arrive, with its
delivery point TOKEN_DELAY units of 100 ns after; sound words become its tokens, others or a failed read end it with
their error, its record coming after those of the session's tokens that arrived before it, at once when there are
none. A read that brings another length than was asked for counts as one that failed, the model's choice
(notes/assumptions/118.md). -/
def Obligations.ListReadsFeedTheirRequest : Prop :=
  ∀ (s : State) (p : Fin 64) (se : Session) (tg : Tag) (r : Req), s.Inv → s.req? p.val se.toNat tg.toNat = some r → r.wantList = true →
    (r.kind = 0 →
      (∃ t, exec (.segmentListRead p se tg .error) s = .next t ∧ s.Writes t p.val 15 0 0x43 se.toNat tg.toNat
        ∧ t.req? p.val se.toNat tg.toNat = none)
      ∧ (∀ b : List Byte, b.length ≠ 16 * Desc.nseg r.desc → exec (.segmentListRead p se tg (.ok b)) s = exec (.segmentListRead p se tg .error) s)
      ∧ ∀ b : List Byte, b.length = 16 * Desc.nseg r.desc → ∃ t, exec (.segmentListRead p se tg (.ok b)) s = .next t
        ∧ (∀ e, s.segErr p.val r.desc b = some e → s.Fails t p.val 0 e.code e.p0 e.p1 se.toNat tg.toNat
            ∧ t.req? p.val se.toNat tg.toNat = none)
        ∧ (s.segErr p.val r.desc b = none → s.Leaves t [.outbox, .reqs, .lanes, .fab] (fun _ _ => False)
            ∧ ∃ q, t.req? p.val se.toNat tg.toNat = some q ∧ q.wantList = false ∧ q.segs = segsOf (Desc.nseg r.desc) b))
    ∧ (r.kind = 2 →
      (∃ t, exec (.tokenBufferRead p se tg .error) s = .next t ∧ t.arrivals = s.arrivals + 1
        ∧ (s.arrived p.val se.toNat = [] → s.Writes t p.val 15 2 0x43 se.toNat tg.toNat ∧ t.req? p.val se.toNat tg.toNat = none))
      ∧ (∀ b : List Byte, b.length ≠ 4 * Desc.ntok r.desc → exec (.tokenBufferRead p se tg (.ok b)) s = exec (.tokenBufferRead p se tg .error) s)
      ∧ ∀ b : List Byte, b.length = 4 * Desc.ntok r.desc → ∃ t, exec (.tokenBufferRead p se tg (.ok b)) s = .next t
        ∧ t.arrivals = s.arrivals + 1
        ∧ (∀ e, bufErr (s.vocab p.val (s.tokenEpoch p.val se.toNat r.epoch)) (tokWords b) = some e → s.arrived p.val se.toNat = [] →
            s.Writes t p.val 15 2 e.code se.toNat tg.toNat ∧ t.req? p.val se.toNat tg.toNat = none)
        ∧ (bufErr (s.vocab p.val (s.tokenEpoch p.val se.toNat r.epoch)) (tokWords b) = none →
            s.Leaves t [.reqs, .arrivals] (fun _ _ => False)
            ∧ t.req? p.val se.toNat tg.toNat = some { r with
                wantList := false, arrival := some s.clk.hp, seq := s.arrivals + 1, toks := tokWords b
                due := some (s.clk.hp + s.hpCycles (100 * s.rd .pitDelayTokenDelay p.val)) }))

/-- A completion for an INTAKE that has bytes outstanding keeps them at their offset while more are to come; those of a
text are counted in the stall's TKN_BYTES_IN, and a VECTOR's show no defect yet. The last bytes of a text's final read
make it arrive, its delivery point 12.0 us after. A failed completion ends the request with ERR E_TIER_UNCORR of the
segment and tier it was read from. Once the bytes before the hold point have come, the encoder has what it needs and
the stall's tails leave room, FINAL_PAYLOAD_READ asks for the last 64 bytes, or all of a shorter payload, of a text,
and for the last row block's blocks of a VECTOR. -/
def Obligations.PayloadBytesComeBeforeTheLastRead : Prop :=
  ∀ (s : State) (p : Fin 64) (se : Session) (tg : Tag) (r : Req), s.Inv → s.req? p.val se.toNat tg.toNat = some r → r.kind = 0 →
    (∀ off n rest, r.plan = (off, n) :: rest → ∃ t, exec (.payloadReadComplete p se tg .error) s = .next t
        ∧ t.req? p.val se.toNat tg.toNat = none ∧ s.Writes t p.val 15 0 0x43 se.toNat tg.toNat
        ∧ ∀ l x u, r.segs = l ++ x :: u → (l.map (·.2)).sum ≤ off → off < (l.map (·.2)).sum + x.2 →
            s.Fails t p.val 0 0x43 l.length (if (s.guildPool p.val (x.1 + (off - (l.map (·.2)).sum))).isSome then 3 else 2) se.toNat tg.toNat)
    ∧ (∀ off n rest b, r.plan = (off, n) :: rest → 1 ≤ b.length → b.length ≤ n →
        let plan := if b.length = n then rest else (off + b.length, n - b.length) :: rest
        (s.isVector r = false → ∃ t q, exec (.payloadReadComplete p se tg (.ok b)) s = .next t
          ∧ t.req? p.val se.toNat tg.toNat = some q ∧ q.got = r.got ++ [(off, b)]
          ∧ (∀ i, r.stall = some i → t.rd .tknBytesInCount i = (s.rd .tknBytesInCount i + b.length) % 2 ^ 32)
          ∧ (r.finalIssued = false ∨ plan ≠ [] → q.plan = plan
              ∧ s.Leaves t [.reqs] (fun f i => r.stall = some i ∧ f ∈ [.tknBytesInCount, .tknTokensOutCount, .tknFallbackCount, .tknSplitCount,
                  .sveByteHitsCount, .sveTokenHitsCount]))
          ∧ (r.finalIssued = true → plan = [] → t.arrivals = s.arrivals + 1 ∧ q.arrival = some s.clk.hp
              ∧ q.due = some (s.clk.hp + s.hpCycles 12000)))
        ∧ (∀ m, s.isVector r = true → s.modelOf r = some m → plan ≠ [] →
            earlyDefect m.splitSpec { r with plan, got := r.got ++ [(off, b)] } = none →
            ∃ t, exec (.payloadReadComplete p se tg (.ok b)) s = .next t ∧ s.Leaves t [.reqs] (fun _ _ => False)
              ∧ t.req? p.val se.toNat tg.toNat = some { r with plan, got := r.got ++ [(off, b)] }))
    ∧ (let n := Desc.totalLen r.desc
      r.arrival = none → r.finalIssued = false → r.wantList = false → r.plan = [] → n ≠ 0 →
      s.encoderStuck r = false → (∀ i, r.stall = some i → s.finalMay i = true) →
        (s.isVector r = false → ∃ t q, exec (.finalPayloadRead p se tg) s = .next t
          ∧ s.Leaves t [.outbox, .reqs, .stalls, .lanes, .fab] (fun _ _ => False)
          ∧ t.req? p.val se.toNat tg.toNat = some q ∧ q.finalIssued = true ∧ q.plan = [(n - min 64 n, min 64 n)]
          ∧ ((∀ x ∈ segSlices 0 0 r.segs (n - min 64 n) (min 64 n), s.guildPool p.val x.2.1 = none) →
              t.outbox = s.outbox ++ (segSlices 0 0 r.segs (n - min 64 n) (min 64 n)).map (fun x => ⟨s.clk.hp, .t2Read p.val x.2.1 x.2.2⟩)))
        ∧ (∀ m, s.isVector r = true → s.modelOf r = some m →
            let rs := (((List.range (m.splitSpec.pairs r.payload)).drop (m.splitSpec.early r.payload)).flatMap (m.splitSpec.pairRanges r.payload)).map
              (fun x => (x.1, min x.2 (n - x.1)))
            rs.filter (fun x => x.2 ≠ 0) ≠ [] → ∃ t q, exec (.finalPayloadRead p se tg) s = .next t
              ∧ s.Leaves t [.outbox, .reqs, .stalls, .lanes, .fab] (fun _ _ => False)
              ∧ t.req? p.val se.toNat tg.toNat = some q ∧ q.finalIssued = true ∧ q.plan = rs.filter (fun x => x.2 ≠ 0)))

/-- For an INTAKE that has arrived, whose entry, tiles, tables and stock lines are there and whose turn at its stall's
Grader it is, INTAKE_VERDICT_DECIDED decides it and writes no record; one that does not reach the Grader is PASS, rule
0. Before that it does nothing. At the delivery point a decided INTAKE without an unacknowledged push and without an
ordered wait writes its verdict record, with its code, and is in flight no more, its intake slot free again; HP_CLK
has then reached the delivery point's cycle. With a write-back of an ORDERED session outstanding the record is ERR
E_LATE_TIER, with a push not acknowledged ERR E_STATE_LOST. -/
def Obligations.AnIntakeIsDecidedThenDelivered : Prop :=
  ∀ (s : State) (p : Fin 64) (se : Session) (tg : Tag) (r : Req), s.Inv → s.req? p.val se.toNat tg.toNat = some r → r.kind = 0 →
    (∀ m, s.modelOf r = some m → r.arrival ≠ none → r.decided = false → s.tailReady r = true → s.graderTurn r = true →
      ∃ t, exec (.intakeVerdictDecided p se tg) s = .next t ∧ (∀ f, t.rd .pitVqTailCount f = s.rd .pitVqTailCount f)
        ∧ t.reqs.length = s.reqs.length ∧ ∃ q, t.req? p.val se.toNat tg.toNat = some q ∧ q.decided = true
        ∧ (Desc.totalLen r.desc = 0 → s.rd .pitOptsGradeEmpty p.val = 0 → q.code = 0 ∧ q.rule = 0 ∧ q.score = 0#32))
    ∧ (r.arrival = none ∨ r.decided = true ∨ s.tailReady r = false ∨ s.graderTurn r = false → exec (.intakeVerdictDecided p se tg) s = .next s)
    ∧ (∀ c, r.due = some c → r.decided = true → r.code < 16 →
      ∃ t, exec (.intakeDelivery p se tg) s = .next t ∧ t.req? p.val se.toNat tg.toNat = none ∧ t.clk.hp = max s.clk.hp c
        ∧ t.intakeUsed p.val < s.intakeUsed p.val
        ∧ (match r.push with
           | .sent _ => s.Fails t p.val 0 0x44 0 3 se.toNat tg.toNat
           | _ => match s.orderedWait p.val se.toNat with
             | some w => s.Fails t p.val 0 0x42 r.serving w se.toNat tg.toNat
             | none => s.Writes t p.val r.code 0 0 se.toNat tg.toNat))
    ∧ (r.due = none ∨ r.decided = false → exec (.intakeDelivery p se tg) s = .next s)

/-- When records have counted since a tick and PIT_IRQ_MOD's COUNT and USEC are not 0, the timer's expiry USEC
microseconds after it sends the pitch's message, with PIT_IRQ_DATA to PIT_IRQ_ADDR, and starts the count anew.
Earlier, with nothing counted, or with COUNT or USEC 0, it does nothing. A host-port flit error of a block that
nothing holds changes only the Daybook: with room, and unless it repeats the open record, the record HP_FLIT_ERR
(0x1201) with its channel enters the buffer. -/
def Obligations.TheInterruptTimerSendsWhatCounts : Prop :=
  (∀ (s : State) (p : Fin 64) (k : Nat), s.Inv → (s.pit p.val).irqSince = some k → s.rd .pitIrqModCount p.val ≠ 0 → s.rd .pitIrqModUsec p.val ≠ 0 →
      k + 8 * s.rd .pitIrqModUsec p.val ≤ s.clk.ticks →
      ∃ t, exec (.irqTimerExpiry p) s = .next t
        ∧ t.outbox = s.outbox ++ [⟨s.clk.hp, .irq p.val (s.addrPair .pitIrqAddrLoAddr .pitIrqAddrHiAddr p.val) (s.rd .pitIrqDataData p.val)⟩]
        ∧ (t.pit p.val).irqCount = 0 ∧ (t.pit p.val).irqSince = none ∧ s.Leaves t [.outbox, .pits] (fun _ _ => False))
  ∧ (∀ (s : State) (p : Fin 64), (∀ k, (s.pit p.val).irqSince = some k → s.clk.ticks < k + 8 * s.rd .pitIrqModUsec p.val)
      ∨ s.rd .pitIrqModCount p.val = 0 ∨ s.rd .pitIrqModUsec p.val = 0 →
      exec (.irqTimerExpiry p) s = .next s)
  ∧ ∀ (s : State) (c : Fin 8), s.pwr.hold = .none →
      ∃ t, exec (.hpFlitErr c) s = .next t ∧ s.Leaves t [.outbox, .dbk] (fun f _ => f = .dbkDroppedCount)
        ∧ (s.dbk.buffer.length < 256 → (∀ l, s.dbk.last = some l → l.code ≠ 0x1201) →
            ∃ r, t.dbk.buffer = s.dbk.buffer ++ [r] ∧ r.code = 0x1201 ∧ r.p0 = c.val ∧ r.p1 = 0 ∧ r.optime = s.clk.optime)

/-- A STREAM_OPEN whose entry is resident, of a stream not yet open whose chain's stages have loaded, completes: its
record PASS is written, the stream is open, its entry is OPEN, not CUT, without end and with no byte released, and the
request is gone. It completes once. A CONSTRAINT that has arrived, whose session's entry is not being revived, whose
tables are there and whose earlier descriptors have had their passes is answered with one record, FORCED when a token
is forced and PASS else, and is in flight no more. While a write-back of the ORDERED session is outstanding neither is
answered; with that alone to wait for, when it goes on too long SLACK_EXHAUSTED ends it with ERR E_LATE_TIER, and
there is no stream (for a STREAM_OPEN that no slack is measured is the model's choice, notes/assumptions/124.md). -/
def Obligations.StreamsOpenAndConstraintsAreAnswered : Prop :=
  (∀ (s : State) (p : Fin 64) (se : Session) (x : Stream) (r : Req) (c : ChainSt) (m : ModelObj) (e : Entry), s.Inv →
      s.stream? p.val se.toNat = some x → s.reqs.find? (fun r => r.pitch == p.val && r.session == se.toNat && r.kind == 1) = some r →
      r.tag < 2 ^ 24 → s.chain? p.val x.chain = some c → s.streamModel x = some m → x.opened = false → r.wantEntry = false →
      s.entry? p.val se.toNat = some e → s.chainLoaded c = true → s.orderedWait p.val se.toNat = none →
      ∃ t, exec (.streamOpenComplete p se) s = .next t ∧ t.req? p.val se.toNat r.tag = none
        ∧ s.Writes t p.val 0 1 0 se.toNat r.tag
        ∧ (∃ y, t.stream? p.val se.toNat = some y ∧ y.opened = true)
        ∧ ∃ e', t.entry? p.val se.toNat = some e' ∧ e'.isOpen = true ∧ e'.cut = false ∧ e'.endKind = 0 ∧ e'.released = 0
            ∧ e'.smodel = x.serving ∧ e'.chainFirst = c.stalls.headD 0)
  ∧ (∀ (s : State) (p : Fin 64) (se : Session) (x : Stream), s.stream? p.val se.toNat = some x →
      x.opened = true ∨ s.orderedWait p.val se.toNat ≠ none →
      exec (.streamOpenComplete p se) s = .next s)
  ∧ (∀ (s : State) (p : Fin 64) (se : Session) (tg : Tag) (r : Req), s.Inv → s.req? p.val se.toNat tg.toNat = some r → r.kind = 3 →
      (r.seq ≠ 0 → r.wantEntry = false → s.tokTableWait r = false → s.orderedWait p.val se.toNat = none →
        r.con ≠ none ∨ (∀ q ∈ s.arrived p.val se.toNat, q.before r = true → q.pass ≠ none ∨ q.failed ≠ none) →
        ∃ t, exec (.constraintAnswer p se tg) s = .next t ∧ t.req? p.val se.toNat tg.toNat = none
          ∧ s.Writes t p.val (if (s.conAnswer r).forced = none then 0 else 5) 3 0 se.toNat tg.toNat)
      ∧ (s.orderedWait p.val se.toNat ≠ none ∨ r.wantEntry = true ∨ s.tokTableWait r = true
          ∨ (r.con = none ∧ ∃ q ∈ s.arrived p.val se.toNat, q.before r = true ∧ q.pass = none ∧ q.failed = none) →
          exec (.constraintAnswer p se tg) s = .next s))
  ∧ ∀ (s : State) (p : Fin 64) (se : Session) (tg : Tag) (r : Req) (w : Nat), s.Inv → s.req? p.val se.toNat tg.toNat = some r →
      r.wantEntry = false → r.waits = [] → s.orderedWait p.val se.toNat = some w →
      r.kind = 1 ∨ (r.kind = 3 ∧ s.tokTableWait r = false ∧ r.counted ≤ s.clk.hp
        ∧ ∃ a, r.arrival = some a ∧ a ≤ s.clk.hp ∧ a + r.waited + s.hpCycles 1200 ≤ s.clk.hp) →
      ∃ t, exec (.slackExhausted p se tg) s = .next t ∧ s.Fails t p.val r.kind 0x42 r.serving w se.toNat tg.toNat
        ∧ t.req? p.val se.toNat tg.toNat = none ∧ (r.kind = 1 → t.stream? p.val se.toNat = none)

/-- For a STREAM_TOKEN that has arrived in an open stream, once every earlier one of its stream, by cycle and then by
slot, has had its pass and its tables are there, ARRIVAL_PASS_COMPLETE runs the Sieve over its tokens from where the
passes stand, and the stream then stands where the pass ends; one after the descriptor that ended the stream is not
examined. Once every earlier one is resolved and all its examined tokens have been served, STREAM_RESOLVE resolves it,
and what it releases, and the joiner state it leaves, are those of its tokens' highest score code; in a stream ended
by STOP or BLOCK it resolves to that code with no bytes. Neither writes a record, and out of turn neither does
anything. -/
def Obligations.PassesAndResolvesKeepTheirOrder : Prop :=
  ∀ (s : State) (p : Fin 64) (se : Session) (tg : Tag) (r : Req) (x : Stream), s.req? p.val se.toNat tg.toNat = some r → r.kind = 2 →
    r.seq ≠ 0 → r.failed = none → r.afterEnd = none → s.stream? p.val se.toNat = some x →
    (r.pass = none → s.tokTableWait r = false →
      (∀ q ∈ s.arrived p.val se.toNat, q.before r = true → q.pass ≠ none ∨ q.failed ≠ none) →
      let a := runPass (s.streamEnts p.val x.serving x.epoch 2) (s.streamEnts p.val x.serving x.epoch 3)
        (s.streamEnts p.val x.serving x.epoch 4) (fun k => ((s.outTable p.val x.epoch).map (·.tokBytes k)).getD []) x r.toks (Desc.endBit r.desc)
      ∃ t, exec (.arrivalPassComplete p se tg) s = .next t
        ∧ (x.passEnd = .open → x.finEnd = .open →
          (∃ q, t.req? p.val se.toNat tg.toNat = some q ∧ q.pass = some a.res)
          ∧ (∃ y, t.stream? p.val se.toNat = some y ∧ y.ids = a.res.ids ∧ y.bytes = a.res.bytes ∧ y.chain = x.chain
              ∧ (y.passEnd = .open ↔ a.res.fin = none ∧ Desc.endBit r.desc = false))
          ∧ t.toks.length = s.toks.length + a.res.examined
          ∧ s.Leaves t [.reqs, .streams, .toks] (fun f i => f ∈ [.svePassesCount, .sveStopsCount, .sveBannedCount, .sveForceDevCount]
              ∧ s.lastStage p.val x.chain = some i))
        ∧ (x.passEnd ≠ .open ∨ x.finEnd ≠ .open → s.Leaves t [.reqs] (fun _ _ => False)
          ∧ ∃ q ps, t.req? p.val se.toNat tg.toNat = some q ∧ q.pass = some ps ∧ ps.examined = 0))
    ∧ ((r.pass ≠ none ∨ s.tokTableWait r = true ∨ ∃ q ∈ s.arrived p.val se.toNat, q.before r = true ∧ q.pass = none ∧ q.failed = none) →
        exec (.arrivalPassComplete p se tg) s = .next s)
    ∧ (∀ ps, r.pass = some ps → r.resolve = none →
      (∀ q ∈ s.arrived p.val se.toNat, q.before r = true → q.resolve ≠ none ∨ q.failed ≠ none) →
      (∀ m, x.finEnd = .open → s.streamModel x = some m → ps.examined ≤ r.served → s.tokTableWait r = false →
        let toks := r.toks.take ps.examined
        let sc := scoresOf (s.genAt x.pitch x.epoch) m x.summary x.scored toks
        let res := holdLimit (holdArea (s.rd .ldgPitCfgSize p.val)) (resolveLive x.join r.desc ps ((sc.map (scoreCode m)).foldl max 0))
        ∃ t, exec (.streamResolve p se tg) s = .next t
          ∧ (∃ q z, t.req? p.val se.toNat tg.toNat = some q ∧ q.resolve = some z ∧ z.code = res.code ∧ z.out = res.out ∧ z.fin = res.fin
              ∧ z.scored = toks.length ∧ z.score = sc.getLastD 0#32)
          ∧ (∃ y, t.stream? p.val se.toNat = some y ∧ y.join = res.join ∧ y.finEnd = res.fin ∧ y.scored = x.scored ++ toks)
          ∧ s.Leaves t [.reqs, .streams] (fun _ _ => False))
      ∧ (x.finEnd = .stop ∨ x.finEnd = .block → ∃ t q z, exec (.streamResolve p se tg) s = .next t ∧ t.req? p.val se.toNat tg.toNat = some q
          ∧ q.resolve = some z ∧ z.code = (if x.finEnd = .stop then 4 else 3) ∧ z.out = [] ∧ s.Leaves t [.reqs] (fun _ _ => False)))
    ∧ ((r.pass = none ∨ r.resolve ≠ none ∨ (∃ ps, r.pass = some ps ∧ x.finEnd = .open ∧ r.served < ps.examined)
          ∨ ∃ q ∈ s.arrived p.val se.toNat, q.before r = true ∧ q.resolve = none ∧ q.failed = none) →
        exec (.streamResolve p se tg) s = .next s)

/-- CHAIN_STAGE_SERVE takes one token waiting at the stall's stage, of the session next in turn after the last, and hands
it to the next stage, or, from the last, counts it served for its request; the stall's count goes up by one. A stage
with nothing waiting, and a stall in no chain whose stages have loaded, do nothing. At its delivery point the first
STREAM_TOKEN of its stream writes its released bytes at the stream's offset in the circular buffer, at that point's
cycle, then its record with its code, and is in flight no more; the released count rises by those bytes. After the
stream's end it writes its record and no bytes. With the hold area exceeded its record is ERR E_LIMIT, limit 4, and
with a write-back of the ORDERED session outstanding ERR E_LATE_TIER. -/
def Obligations.StagesServeInTurnAndTokensRelease : Prop :=
  (∀ (s : State) (i : Fin 64) (c : ChainSt) (k se : Nat), s.Inv → s.stageOf i.val = some (c, k) →
      (∃ w ∈ s.toks, w.pitch = c.pitch ∧ w.chain = c.idx ∧ w.stage = k) →
      nextSession (((s.rr.find? (·.1 == i.val)).map (·.2)).getD 0)
        ((s.toks.filter (fun w => w.pitch == c.pitch && w.chain == c.idx && w.stage == k)).map (·.session)) = some se →
      ∃ t w, exec (.chainStageServe i) s = .next t ∧ w ∈ s.toks ∧ w.session = se ∧ w.pitch = c.pitch ∧ w.chain = c.idx ∧ w.stage = k
        ∧ t.rd .stlChainTokCount i.val = (s.rd .stlChainTokCount i.val + 1) % 2 ^ 32
        ∧ (k + 1 < c.stalls.length → t.toks.length = s.toks.length ∧ { w with stage := k + 1 } ∈ t.toks ∧ t.reqs = s.reqs)
        ∧ (c.stalls.length ≤ k + 1 → t.toks.length + 1 = s.toks.length
            ∧ ∀ r, s.req? w.pitch w.session w.tag = some r → t.req? w.pitch w.session w.tag = some { r with served := r.served + 1 })
        ∧ t.rr = (i.val, se) :: s.rr.filter (·.1 != i.val)
        ∧ s.Leaves t [.stalls, .reqs, .toks, .rr, .aszCount, .free] (fun f j => j = i.val ∧ f ∈ [.stlChainTokCount, .mxeRowsCount,
            .mxeTilesCount, .mxeQsatCount, .mxeOsatCount, .mxeConstCount, .mxeNanCount, .mxeCfgWfmt, .mxeCfgAfmt, .mxeCfgGsize]))
  ∧ (∀ (s : State) (i : Fin 64), (∀ c k, s.stageOf i.val = some (c, k) → ∀ w ∈ s.toks, ¬(w.pitch = c.pitch ∧ w.chain = c.idx ∧ w.stage = k)) →
      exec (.chainStageServe i) s = .next s)
  ∧ ∀ (s : State) (p : Fin 64) (se : Session) (tg : Tag) (r : Req) (c : Nat) (res : Resolve), s.Inv →
      s.req? p.val se.toNat tg.toNat = some r → r.kind = 2 → r.due = some c → r.resolve = some res → r.failed = none → res.code < 16 →
      (∀ q ∈ s.arrived p.val se.toNat, q = r ∨ (q.before r = false ∧ q.failed = none ∧ res.fin ≠ .closed ∧ res.fin ≠ .err)) →
      ∃ t, exec (.tokenRelease p se tg) s = .next t ∧ t.req? p.val se.toNat tg.toNat = none ∧ t.clk.hp = max s.clk.hp c
        ∧ (∀ n, res.limit = some n → s.Fails t p.val 2 0x49 4 (min n 0xFFFFFFFF) se.toNat tg.toNat)
        ∧ (∀ w, res.limit = none → s.orderedWait p.val se.toNat = some w → s.Fails t p.val 2 0x42 r.serving w se.toNat tg.toNat)
        ∧ (res.limit = none → s.orderedWait p.val se.toNat = none → s.Writes t p.val res.code 2 0 se.toNat tg.toNat
          ∧ (r.afterEnd ≠ none → t.streams = s.streams)
          ∧ ∀ x, r.afterEnd = none → s.stream? p.val se.toNat = some x →
            let ws := relWrites x.relAddr x.relSize x.released res.out
            ((∀ w ∈ ws, s.guildPool p.val w.1 = none) →
              s.outbox ++ ws.map (fun w => ⟨c, .t2Write p.val w.1 w.2⟩) <+: t.outbox)
            ∧ (res.fin = .open → ∃ y, t.stream? p.val se.toNat = some y ∧ y.released = x.released + res.out.length)
            ∧ (res.fin ≠ .open → t.stream? p.val se.toNat = none))

/-- PIT_CTRL.ENABLE written 1 by the operator: on a pitch enabled already, or whose home copies are being written, nothing
happens. Without both ring sizes a power of two from 16 to 65,536, the configuration locked, a stall of its own, its
charter configuration, and keys not zeroised or being zeroised, it only sets PIT_STATUS.CFG_ERR. Otherwise, with home
areas smaller than the tiles placed in them, or the T3 and mirror home areas in one pool, it only sets
PIT_STATUS.CFG_ERR and TIER_PIT_STATUS.CFG_ERR; else the pitch is enabled at once when it has no home copies, and else
TIER_PIT_STATUS.HOME_BUSY is set until HOME_COPIES_WRITTEN enables it. -/
def Obligations.EnablingNeedsRingsLockAndStalls : Prop :=
  (∀ (s : State) (p : Fin 64), s.Running →
    let size (n : Nat) : Prop := 16 ≤ n ∧ n ≤ 65536 ∧ ∃ k, n = 2 ^ k
    let sound : Prop := size (s.rd .pitSqSizeEntries p.val) ∧ size (s.rd .pitVqSizeEntries p.val) ∧ s.rd .chrStatusLocked = 1
      ∧ (∃ i, i < 64 ∧ s.rd .stlRoleAlloc i = 1 ∧ s.rd .stlRolePitch i = p.val) ∧ (∃ c ∈ s.chr.cfgs, c.pitch = p.val)
      ∧ s.rd .glbSecStatusZeroised = 0 ∧ s.pwr.zeroing = false
    let fits : Prop := (∀ h ∈ [HomeSrc.t2, .t3, .mirror], (s.homeGen p.val).homeLen p.val h ≤ (s.homeArea p.val h).2 * 2 ^ 20)
      ∧ ¬(s.rd .tierPitMrCfgMib p.val ≠ 0 ∧ s.rd .tierPitT3CfgMib p.val ≠ 0 ∧ s.rd .tierPitMrCfgPool p.val = s.rd .tierPitT3CfgPool p.val)
    ∃ t, exec (.pitchEnable operatorId p) s = .next t
      ∧ (s.rd .pitStatusEnabled p.val = 1 ∨ s.rd .tierPitStatusHomeBusy p.val = 1 → t = s)
      ∧ (s.rd .pitStatusEnabled p.val ≠ 1 → s.rd .tierPitStatusHomeBusy p.val ≠ 1 → ¬ sound →
          t.rd .pitStatusCfgErr p.val = 1 ∧ s.Leaves t [] (fun f i => f = .pitStatusCfgErr ∧ i = p.val))
      ∧ (s.rd .pitStatusEnabled p.val ≠ 1 → s.rd .tierPitStatusHomeBusy p.val ≠ 1 → sound → (¬ fits →
            t.rd .pitStatusCfgErr p.val = 1 ∧ t.rd .tierPitStatusCfgErr p.val = 1
            ∧ s.Leaves t [] (fun f i => i = p.val ∧ f ∈ [.pitStatusCfgErr, .tierPitStatusCfgErr]))
        ∧ (fits →
          (s.homeBytes p.val = 0 → t.rd .pitCtrlEnable p.val = 1 ∧ t.rd .pitStatusEnabled p.val = 1
            ∧ s.Leaves t [] (fun f i => i = p.val ∧ f ∈ [.pitCtrlEnable, .pitStatusEnabled, .tierPitStatusHomeBusy, .tierPitHomeUsedMib,
                .ldgPitStatusCfgErr]))
          ∧ (s.homeBytes p.val ≠ 0 → t.rd .tierPitStatusHomeBusy p.val = 1
            ∧ s.Leaves t [.outbox, .lanes, .fab] (fun f i => i = p.val ∧ f ∈ [.tierPitStatusHomeBusy, .ldgPitStatusCfgErr])))))
  ∧ ∀ (s : State) (p : Fin 64), s.pwr.hold = .none →
    (s.rd .tierPitStatusHomeBusy p.val = 1 → ∃ t, exec (.homeCopiesWritten p) s = .next t
      ∧ t.rd .tierPitStatusHomeBusy p.val = 0 ∧ t.rd .pitCtrlEnable p.val = 1 ∧ t.rd .pitStatusEnabled p.val = 1
      ∧ s.Leaves t [] (fun f i => i = p.val ∧ f ∈ [.pitCtrlEnable, .pitStatusEnabled, .tierPitStatusHomeBusy, .tierPitHomeUsedMib]))
    ∧ (s.rd .tierPitStatusHomeBusy p.val ≠ 1 → exec (.homeCopiesWritten p) s = .next s)

/-- PIT_CTRL.ENABLE written 0 to an enabled pitch that does not drain yet clears PIT_CTRL.ENABLE, ends the pitch's
admissions and starts the drain; otherwise nothing happens. While a request of the pitch is in flight, or its Bell is
outstanding, the pitch stays enabled; once neither is, its streams end, PIT_SQ_HEAD becomes PIT_SQ_TAIL, the
descriptors passed over are counted in PIT_UNADMIT and the pitch reads disabled. -/
def Obligations.DisablingDrainsInGoodOrder : Prop :=
  (∀ (s : State) (p : Fin 64), s.Inv → s.Running →
    (s.rd .pitStatusEnabled p.val = 1 → (s.pit p.val).draining = false →
      ∃ t, exec (.pitchDisable operatorId p) s = .next t ∧ t.rd .pitCtrlEnable p.val = 0 ∧ (t.pit p.val).draining = true
        ∧ t.adms = s.adms.filter (fun a => a.pitch != p.val) ∧ s.Leaves t [.pits, .adms] (fun f i => f = .pitCtrlEnable ∧ i = p.val))
    ∧ (s.rd .pitStatusEnabled p.val = 0 ∨ (s.pit p.val).draining = true → exec (.pitchDisable operatorId p) s = .next s))
  ∧ ∀ (s : State) (p : Fin 64), s.Inv → s.pwr.hold = .none →
    ((s.pit p.val).draining = false → exec (.pitchDrainComplete p) s = .next s)
    ∧ ((s.pit p.val).draining = true → s.reqsOf p.val ≠ [] ∨ (s.pit p.val).bell ≠ none →
        ∃ t, exec (.pitchDrainComplete p) s = .next t ∧ (t.pit p.val).draining = true
          ∧ t.rd .pitStatusEnabled p.val = s.rd .pitStatusEnabled p.val ∧ t.rd .pitSqHeadCount p.val = s.rd .pitSqHeadCount p.val)
    ∧ ((s.pit p.val).draining = true → s.reqsOf p.val = [] → (∀ q ∈ s.dups, q.pitch ≠ p.val) → (s.pit p.val).bell = none →
        s.rd .chrAmdStatusState ≠ 4 ∨ s.rd .chrAmdStatusPitch ≠ p.val →
        ∃ t, exec (.pitchDrainComplete p) s = .next t ∧ (t.pit p.val).draining = false ∧ t.rd .pitStatusEnabled p.val = 0
          ∧ t.rd .pitSqHeadCount p.val = s.rd .pitSqTailCount p.val
          ∧ t.rd .pitUnadmitCount p.val = (s.rd .pitUnadmitCount p.val
              + (s.rd .pitSqTailCount p.val + 2 ^ 32 - s.rd .pitSqHeadCount p.val) % 2 ^ 32) % 2 ^ 32
          ∧ t.streams = s.streams.filter (fun x => x.pitch != p.val)
          ∧ s.Leaves t [.pits, .adms, .reqs, .streams, .toks, .entries, .samples]
            (fun f i => i = p.val ∧ f ∈ [.pitSqHeadCount, .pitUnadmitCount, .pitStatusEnabled]))

/-- PIT_BELL.RING written by the pitch's host or the operator, for an enabled pitch without a Bell outstanding, raises its
epoch by one; otherwise it sets PIT_STATUS.BELL_OVR and changes only that. Either way the write completes with the
epoch then in force. BELL_COMPLETE does nothing while an admission, a request, a repeated tag's record or a write-back
of an earlier epoch is left; after that it writes the Bell record, of RTYPE 1 with no KIND, tag or session, and the
Bell is outstanding no more, unless a STAGED amendment of the pitch waited for it: that begins a Bell of its own. -/
def Obligations.TheBellRaisesTheEpochAndWaits : Prop :=
  (∀ (s : State) (acc : Accessor) (p : Fin 64), s.Inv → s.Running → (acc = operatorId ∨ acc.toNat = p.val) →
    (s.rd .pitStatusEnabled p.val = 1 → (s.pit p.val).bell = none →
      ∃ t pre, exec (.bellRing acc p) s = .next t ∧ t.rd .pitEpochEpoch p.val = (s.rd .pitEpochEpoch p.val + 1) % 2 ^ 32
        ∧ (t.pit p.val).bell = some (t.rd .pitEpochEpoch p.val)
        ∧ t.outbox = pre ++ [⟨s.clk.hp, .bellDone p.val (t.rd .pitEpochEpoch p.val)⟩] ∧ t.reqs = s.reqs ∧ t.adms = s.adms
        ∧ (∀ q, q ≠ p.val → t.rd .pitEpochEpoch q = s.rd .pitEpochEpoch q))
    ∧ (s.rd .pitStatusEnabled p.val = 0 ∨ (s.pit p.val).bell ≠ none →
      ∃ t, exec (.bellRing acc p) s = .next t ∧ t.rd .pitStatusBellOvr p.val = 1
        ∧ t.outbox = s.outbox ++ [⟨s.clk.hp, .bellDone p.val (s.rd .pitEpochEpoch p.val)⟩]
        ∧ s.Leaves t [.outbox] (fun f i => f = .pitStatusBellOvr ∧ i = p.val)))
  ∧ ∀ (s : State) (p : Fin 64) (e : Nat), s.Inv → (s.pit p.val).bell = some e →
    let done : Prop := (∀ a ∈ s.adms, a.pitch = p.val → e ≤ a.epoch) ∧ (∀ r ∈ s.reqs ++ s.dups, r.pitch = p.val → e ≤ r.epoch)
      ∧ ∀ w ∈ s.wbs, w.pitch = p.val → e ≤ w.epoch
    (¬ done → exec (.bellComplete p) s = .next s)
    ∧ (done → s.amd.bellWait = false → ∃ t, exec (.bellComplete p) s = .next t ∧ (t.pit p.val).bell = none
        ∧ s.Writes t p.val 64 0 0 0 0 ∧ s.Leaves t [.outbox, .pits] (fun f i => f = .pitVqTailCount ∧ i = p.val))
    ∧ (done → s.amd.bellWait = true → s.stagedOn p.val = true → ∃ t, exec (.bellComplete p) s = .next t
        ∧ (t.pit p.val).bell = some (t.rd .pitEpochEpoch p.val) ∧ t.amd.bellWait = false ∧ s.Writes t p.val 64 0 0 0 0)

/-- GLB_PIT_RESET written by the operator ends every request, admission, stream and revive of the pitch, its Bell, its
drain and its samples; every class T register of its windows, per-pitch rows, slots, model entries and stalls reads
its reset value, so that the pitch is disabled; its calibrated models read IDLE or FROZEN; without a park area its
ledger entries go. Requests, admissions, streams and, in the pitch windows, class T registers of other pitches stay as
they were. With room in the Daybook buffer, unless it repeats, and with no calibration or amendment of the pitch to
drop, the record PITCH_RESET (0x5003) with the number of requests ended enters it. -/
def Obligations.APitchResetEndsAllOfThePitch : Prop :=
  ∀ (s : State) (p : Fin 64), s.Inv → s.Running →
    ∃ t, exec (.pitchReset operatorId p) s = .next t
      ∧ t.reqs = s.reqs.filter (fun r => r.pitch != p.val) ∧ t.adms = s.adms.filter (fun a => a.pitch != p.val)
      ∧ t.streams = s.streams.filter (fun x => x.pitch != p.val) ∧ t.revives = s.revives.filter (fun x => x.pitch != p.val)
      ∧ t.samples = s.samples.filter (fun x => x.pitch != p.val)
      ∧ (t.pit p.val).bell = none ∧ (t.pit p.val).draining = false ∧ t.rd .pitStatusEnabled p.val = 0
      ∧ (∀ f i, f.desc.kept = .t → 0x80000 ≤ f.desc.base → f.desc.base < 0x100000 →
          t.rd f i = if i = p.val then f.resetVal.toNat else s.rd f i)
      ∧ t.dups = s.dups.filter (fun r => r.pitch != p.val) ∧ t.toks = s.toks.filter (fun x => x.pitch != p.val)
      ∧ (∀ f i, f.desc.kept = .t → s.ownerOf f i = some p.val → t.rd f i = f.resetVal.toNat)
      ∧ (∀ a ∈ t.asz, a.pitch = p.val → a.state = .idle ∨ a.state = .frozen)
      ∧ (s.parkTier p.val = none → ∀ e ∈ t.entries, e.pitch ≠ p.val)
      ∧ t.gens = s.gens ∧ t.chr = s.chr ∧ t.keys = s.keys ∧ t.fuse = s.fuse ∧ t.clk = s.clk
      ∧ (s.dbk.buffer.length < 256 → (∀ l, s.dbk.last = some l → l.code ≠ 0x5003) → s.amdBusy = false →
          (∀ a ∈ s.asz, a.pitch = p.val → a.state.cycling = false) →
          ∃ r, t.dbk.buffer = s.dbk.buffer ++ [r] ∧ r.code = 0x5003 ∧ r.pitch = p.val
          ∧ r.p0 = (s.reqs.filter (fun r => r.pitch == p.val)).length % 2 ^ 32)

/-- A demand revive of a session that no block has pushed to, of this pitch's own areas: with no park area, or no way of
the session in the last of its areas and no ownership directory, it makes a new entry, not COLD, of CKPT_SEQ 0. A way
PARKED, or OUT with WT, whose slot passes every check of R240 makes the entry resident, not OPEN, its copy known, and
counts in LDG_REVIVES; one OUT without WT, or a slot or bucket whose read fails with no mirror to turn to, is lost: a
COLD entry, LDG_LOST up by one; one that fails a check makes no entry and counts in LDG_AUTHFAIL. In each case the
revive is over and no request waits for it. A slot that fails with a mirror to turn to leaves the revive going on
there. A bucket or slot of another length than was asked for counts as a read that failed, the model's choice
(notes/assumptions/118.md). -/
def Obligations.RevivesEndWithAnEntryOrItsLoss : Prop :=
  ∀ (s : State) (p : Fin 64) (se : Session) (r : Revive) (bucket slot : ReadData), s.Inv →
    s.revives.find? (fun r => r.pitch == p.val && r.session == se.toNat) = some r → s.entry? p.val se.toNat = none →
    (∀ x ∈ s.fab.pushes, ¬(x.pitch = p.val ∧ x.session = se.toNat)) → r.prefetch = false → r.mirror = false → r.holder = none →
    let settled (t : State) : Prop := t.reviving p.val se.toNat = false ∧ t.waitersOf p.val se.toNat = []
    let lost (d f : ReadData) : Prop := ∃ t e, exec (.reviveComplete p se d f) s = .next t ∧ t.entry? p.val se.toNat = some e ∧ e.cold = true
      ∧ e.isOpen = false ∧ t.rd .ldgLostCount = (s.rd .ldgLostCount + 1) % 2 ^ 32 ∧ settled t
    let fresh (d f : ReadData) : Prop := ∃ t e, exec (.reviveComplete p se d f) s = .next t ∧ t.entry? p.val se.toNat = some e
      ∧ e.cold = false ∧ e.lost = false ∧ e.ckptSeq = 0 ∧ e.isOpen = false ∧ settled t ∧ ∀ f i, t.rd f i = s.rd f i
    let onMirror (t : State) : Prop := ∃ x ∈ t.revives, x.pitch = p.val ∧ x.session = se.toNat ∧ x.mirror = true
    (∀ b, b.length ≠ 128 → exec (.reviveComplete p se (.ok b) slot) s = exec (.reviveComplete p se .error slot) s)
    ∧ (∀ z, z.length ≠ s.entrySize p.val + 64 → exec (.reviveComplete p se bucket (.ok z)) s = exec (.reviveComplete p se bucket .error) s)
    ∧ (r.tier = 0 → fresh bucket slot)
    ∧ (r.tier = 2 ∨ r.tier = 3 →
      (if s.mirrorUsable r = true then ∃ t, exec (.reviveComplete p se .error slot) s = .next t ∧ onMirror t else lost .error slot)
      ∧ ∀ b, b.length = 128 →
        (wayOf b se.toNat = none → s.dir? p.val = none → r.tier = 3 ∨ s.hasArea p.val 3 = false → fresh (.ok b) slot)
        ∧ ∀ w, wayOf b se.toNat = some w →
          let way := wayAt b w
          let again : Prop := way.mirror = true ∧ s.mirrorUsable r = true
          (way.state = 2 → way.wt = false → lost (.ok b) slot)
          ∧ (way.state ≠ 2 ∨ way.wt = true →
            (¬again → lost (.ok b) .error) ∧ (again → ∃ t, exec (.reviveComplete p se (.ok b) .error) s = .next t ∧ onMirror t)
            ∧ ∀ z, z.length = s.entrySize p.val + 64 →
              (∀ e, s.openCopy r way z = some e → ∃ t e', exec (.reviveComplete p se (.ok b) (.ok z)) s = .next t
                ∧ t.entry? p.val se.toNat = some e' ∧ e'.ckptSeq = e.ckptSeq ∧ e'.summary = e.summary ∧ e'.isOpen = false
                ∧ e'.copies = [⟨r.tier, w, way.ckpt⟩] ∧ t.rd .ldgRevivesCount = (s.rd .ldgRevivesCount + 1) % 2 ^ 32 ∧ settled t)
              ∧ (s.openCopy r way z = none → ∃ t, exec (.reviveComplete p se (.ok b) (.ok z)) s = .next t
                ∧ t.entry? p.val se.toNat = none ∧ t.rd .ldgRevivesCount = s.rd .ldgRevivesCount
                ∧ t.rd .ldgAuthfailCount = (s.rd .ldgAuthfailCount + 1) % 2 ^ 32 ∧ (if again then onMirror t else settled t))))

/-- PARK_START of a session without a live move, neither busy nor held, whose hint names an area the pitch has, starts one
park of the entry as it stands there and reads its bucket; of a busy or held session it does nothing. While free
entries suffice EVICTION does nothing; else it takes an evictable entry before which no other goes, and parks it, or
frees it without a tier. When a park completes, the counters not lost and no pool having failed it before, with a way
for it, the entry is no longer resident, its granules await zeroing and LDG_PARKS counts it; if the session is wanted
again it stays, its copy known, and LDG_WB counts. With no way in the bucket DIR_FULL is set and an unwanted entry is
dropped; with the read failed POOL_FAIL is set and the entry stays. -/
def Obligations.ParksFollowHintsAndEvictionItsOrder : Prop :=
  (∀ (s : State) (p : Fin 64) (se : Session) (e : Entry), s.pwr.hold = .none → s.move? p.val se.toNat = none →
      s.entry? p.val se.toNat = some e →
      (s.busy p.val se.toNat = false → e.isOpen = false → e.pfHold = none → e.hint = 2 ∨ e.hint = 3 → s.hasArea p.val e.hint = true →
        (∀ k ∈ s.parks, ¬(k.pitch = p.val ∧ k.session = se.toNat)) →
        ∃ t k, exec (.parkStart p se) s = .next t ∧ t.parks = s.parks ++ [k] ∧ k.pitch = p.val ∧ k.session = se.toNat ∧ k.tier = e.hint
          ∧ k.image = e ∧ k.keyver = s.rd .glbKeyCfgKeyver p.val ∧ s.Leaves t [.outbox, .parks, .lanes, .fab] (fun _ _ => False))
      ∧ (s.busy p.val se.toNat = true ∨ e.isOpen = true ∨ e.pfHold ≠ none → exec (.parkStart p se) s = .next s))
  ∧ (∀ s : State, s.pwr.hold = .none →
      (s.rd .tollReviveMaxInflight ≤ s.freeEntries ∨ (∀ e ∈ s.entries, s.evictable e = false) → exec .eviction s = .next s)
      ∧ (s.freeEntries < s.rd .tollReviveMaxInflight → (∃ e ∈ s.entries, s.evictable e = true) →
          ∃ t e, exec .eviction s = .next t ∧ e ∈ s.entries ∧ s.evictable e = true
            ∧ (∀ e' ∈ s.entries, s.evictable e' = true → evictsBefore e' e = false)
            ∧ (s.tierOf e = none → t.entry? e.pitch e.session = none ∧ t.parks = s.parks
                ∧ t.tier.zeroing = s.tier.zeroing + s.entrySize e.pitch / 512)
            ∧ (∀ n, s.tierOf e = some n → ∃ k, t.parks = s.parks ++ [k] ∧ k.pitch = e.pitch ∧ k.session = e.session ∧ k.tier = n
                ∧ k.image = e ∧ t.entries = s.entries)))
  ∧ ∀ (s : State) (p : Fin 64) (se : Session) (k : Park) (e : Entry) (m : ReadData), s.Inv → s.rd .wchStatusCntLost = 0 →
      s.parks.find? (fun k => k.pitch == p.val && k.session == se.toNat) = some k → s.entry? p.val se.toNat = some e →
      k.image.pitch = p.val → k.image.session = se.toNat → k.failed = false →
      let wanted : Prop := s.busy p.val se.toNat = true ∨ k.image.ckptSeq ≠ e.ckptSeq
      let left := s.parks.filter (fun k => !(k.pitch == p.val && k.session == se.toNat))
      (∃ t, exec (.parkComplete p se .error m) s = .next t ∧ t.rd .ldgStatusPoolFail = 1 ∧ t.entries.length = s.entries.length
        ∧ (s.mirrors k.image = false → t.entries = s.entries) ∧ t.parks = left)
      ∧ (∀ b, b.length ≠ 128 → exec (.parkComplete p se (.ok b) m) s = exec (.parkComplete p se .error m) s)
      ∧ ∀ b : List Byte, b.length = 128 → ∃ t, exec (.parkComplete p se (.ok b) m) s = .next t ∧ t.parks = left
        ∧ (∀ w, parkWay b se.toNat = some w → ¬wanted → t.entry? p.val se.toNat = none
            ∧ t.rd .ldgParksCount = (s.rd .ldgParksCount + 1) % 2 ^ 32 ∧ t.tier.zeroing = s.tier.zeroing + s.entrySize p.val / 512)
        ∧ (∀ w, parkWay b se.toNat = some w → wanted → t.rd .ldgWbCount = (s.rd .ldgWbCount + 1) % 2 ^ 32
            ∧ ∃ e', t.entry? p.val se.toNat = some e' ∧ { e' with copies := e.copies } = e ∧ ⟨k.tier, w, k.image.ckptSeq⟩ ∈ e'.copies)
        ∧ (parkWay b se.toNat = none → t.rd .ldgPitStatusDirFull p.val = 1 ∧ (wanted → t.entries = s.entries)
            ∧ (¬wanted → t.entry? p.val se.toNat = none))

/-- A write-back that completes with a way, the counters not lost and no pool having failed it, notes the copy in its area
at the CKPT_SEQ it took, the entry staying resident, and counts in LDG_WB. A write of LDG_PIT_PF_HI queues one
session, the 40-bit id of the accessor's last low word and this one, or sets PF_OVF when 64 wait. PREFETCH_START takes
the first queued session: already resident, being revived, owned elsewhere or moving it is only taken off; else, with
a revive slot free, its revive starts as a prefetch. A prefetched entry's hold ends when it is over, not before.
POOL_TIMEOUT, with no revive and no tile read waiting too long, ends each park without a mirror copy that has waited
on that pool for LDG_CFG.POOL_TMO, with POOL_FAIL, leaves the others, and keeps the entries. A zeroed granule no
longer waits. -/
def Obligations.WriteBacksPrefetchesAndGranules : Prop :=
  (∀ (s : State) (p : Fin 64) (se : Session) (w : WriteBack) (e : Entry) (b : List Byte) (m : ReadData) (n : Nat), s.Inv →
      s.rd .wchStatusCntLost = 0 → s.wbs.find? (fun w => w.pitch == p.val && w.session == se.toNat) = some w →
      s.entry? p.val se.toNat = some e → w.image.pitch = p.val → w.image.session = se.toNat → w.failed = false → b.length = 128 →
      parkWay b se.toNat = some n →
      ∃ t, exec (.writeBackComplete p se (.ok b) m) s = .next t
        ∧ (∃ e', t.entry? p.val se.toNat = some e' ∧ { e' with copies := e.copies } = e ∧ ⟨w.tier, n, w.image.ckptSeq⟩ ∈ e'.copies)
        ∧ t.wbs.length + 1 = s.wbs.length ∧ t.rd .ldgWbCount = (s.rd .ldgWbCount + 1) % 2 ^ 32
        ∧ (s.mirrors w.image = false → s.Leaves t [.outbox, .clk, .reqs, .entries, .wbs, .lanes, .fab] (fun f i => f = .ldgWbCount ∧ i = 0)))
  ∧ (∀ (s : State) (acc : Accessor) (p : Fin 64) (v : Word), s.Inv → s.Running → (acc = operatorId ∨ acc.toNat = p.val) →
      let lo := (((s.pit p.val).pfLo.find? (·.1 == acc.toNat)).map (·.2)).getD 0
      ∃ t, exec (.prefetchRequest acc p v) s = .next t
        ∧ ((s.pit p.val).pfQueue.length < 64 → (t.pit p.val).pfQueue = (s.pit p.val).pfQueue ++ [lo + 2 ^ 32 * (v.toNat % 256)]
            ∧ s.Leaves t [.pits] (fun _ _ => False))
        ∧ (64 ≤ (s.pit p.val).pfQueue.length → t.rd .ldgPitStatusPfOvf p.val = 1
            ∧ s.Leaves t [] (fun f i => f = .ldgPitStatusPfOvf ∧ i = p.val)))
  ∧ (∀ (s : State) (p : Fin 64) (se : Nat) (rest : List Nat), s.Inv → s.pwr.hold = .none → (s.pit p.val).pfQueue = se :: rest →
      let gone : Prop := s.entry? p.val se ≠ none ∨ s.reviving p.val se = true ∨ s.otherOwner p.val se ≠ none ∨ s.ownDeferred p.val se 0 = true
      (gone → ∃ t, exec (.prefetchStart p) s = .next t ∧ (t.pit p.val).pfQueue = rest ∧ s.Leaves t [.pits] (fun _ _ => False))
      ∧ (¬gone → s.reviveFree p.val = true →
          ∃ t r, exec (.prefetchStart p) s = .next t ∧ (t.pit p.val).pfQueue = rest ∧ t.revives = s.revives ++ [r]
            ∧ r.pitch = p.val ∧ r.session = se ∧ r.prefetch = true)
      ∧ (¬gone → s.reviveFree p.val = false → exec (.prefetchStart p) s = .next s))
  ∧ (∀ (s : State) (p : Fin 64) (se : Session) (e : Entry) (k : Nat), s.pwr.hold = .none → s.entry? p.val se.toNat = some e →
      e.pfHold = some k →
      (k ≤ s.clk.ticks → ∃ t, exec (.prefetchHoldExpiry p se) s = .next t ∧ t.entry? p.val se.toNat = some { e with pfHold := none })
      ∧ (s.clk.ticks < k → exec (.prefetchHoldExpiry p se) s = .next s))
  ∧ (∀ (s : State) (n : BitVec 8), s.Inv → s.pwr.hold = .none →
      let tmo := s.rd .ldgCfgPoolTmo
      (∀ r ∈ s.revives, 3 ≤ r.tier ∨ r.mirror = true → r.pool = n.toNat → s.clk.ticks < r.since + tmo) →
      (∀ b ∈ s.tier.bad, s.restoresIn n.toNat b = true → s.clk.ticks < b.since + tmo) → (∀ k ∈ s.parks, s.mirrors k.image = false) →
      ∃ t, exec (.poolTimeout n) s = .next t ∧ t.entries = s.entries ∧ t.revives = s.revives
        ∧ t.parks = s.parks.filter (fun k => !(k.tier == 3 && !k.failed && s.areaPool k.pitch false == n.toNat && decide (k.since + tmo ≤ s.clk.ticks)))
        ∧ (t.parks ≠ s.parks → t.rd .ldgStatusPoolFail = 1))
  ∧ ∀ s : State, s.pwr.hold = .none →
      exec .granuleZeroed s = .next { s with tier := { s.tier with zeroing := s.tier.zeroing - 1 } }

/-- For an undecided INTAKE of a stall, the deadline of a tile that its next read has not brought, or whose T0 copy is
poisoned, and that is not waited for already, adds one wait on it, from T1, since now; one with no source left ends it
at once, E_TIER_UNCORR. A tile that is there is never late. When a request that waits, its last byte come, has no
slack left, it ends with an ERR record and is in flight no more: E_LATE_TIER, counted in TIER_LATE and its stall's
count, or E_TIER_UNCORR for a tile that is being restored, a table or a stock line; with slack left it waits on.
Before the hold point the same happens only after PRETAIL_MAX microseconds of waiting. With nothing waited for nothing
happens. -/
def Obligations.LateTilesWaitThenEndTheirRequest : Prop :=
  ∀ (s : State) (p : Fin 64) (se : Session) (tg : Tag) (r : Req), s.Inv → s.req? p.val se.toNat tg.toNat = some r → r.kind = 0 →
    (∀ (i : Fin 64) (l x y : BitVec 16) (t : Tile), r.stall = some i.val → r.decided = false →
        s.tileOf r l.toNat x.toNat y.toNat = some t →
        let id : TileId := { t.name p.val with model := r.serving }
        let missing : Prop := r.fetch.head? = some id ∨ (i.val, id) ∈ s.tier.t0bad
        (¬missing → exec (.tileDeadline i p se tg l x y) s = .next s)
        ∧ (missing → (∀ w ∈ r.waits, s.waitIs r id w = false) →
            ((∀ b, s.badTile? id = some b → b.src ≠ none) →
              ∃ u, exec (.tileDeadline i p se tg l x y) s = .next u ∧ s.Leaves u [.reqs] (fun _ _ => False)
                ∧ u.req? p.val se.toNat tg.toNat = some { r with
                    waits := r.waits ++ [⟨l.toNat, x.toNat, y.toNat, 1, (s.badTile? id).isSome, s.clk.hp,
                      if r.arrival.isSome then some (s.slack r) else none⟩] })
            ∧ (∀ b, s.badTile? id = some b → b.src = none →
              ∃ u, exec (.tileDeadline i p se tg l x y) s = .next u ∧ u.req? p.val se.toNat tg.toNat = none
                ∧ s.Fails u p.val 0 0x43 r.serving b.tier se.toNat tg.toNat)))
    ∧ (∀ w ws a, r.waits = w :: ws → r.arrival = some a → r.decided = false →
        (w.since ≤ s.clk.hp → r.counted ≤ s.clk.hp → a + r.waited ≤ s.clk.hp → s.slack r = 0 →
          ∃ u, exec (.slackExhausted p se tg) s = .next u ∧ u.req? p.val se.toNat tg.toNat = none
          ∧ s.Fails u p.val 0 (if w.uncorr then 0x43 else 0x42) r.serving (if w.uncorr then 1 else w.tier) se.toNat tg.toNat
          ∧ u.rd .tierLateCount = (s.rd .tierLateCount + if w.uncorr then 0 else 1) % 2 ^ 32
          ∧ ∀ i, r.stall = some i → u.rd .tierStlLateCount i = (s.rd .tierStlLateCount i + if w.uncorr then 0 else 1) % 2 ^ 32)
        ∧ (s.slack r ≠ 0 → exec (.slackExhausted p se tg) s = .next s)
        ∧ exec (.pretailTimeout p se tg) s = .next s)
    ∧ (∀ w ws, r.waits = w :: ws → r.arrival = none → r.decided = false →
        exec (.slackExhausted p se tg) s = .next s
        ∧ (s.clk.hp < w.since + s.hpCycles (1000 * s.rd .tierCfgPretailMax) → exec (.pretailTimeout p se tg) s = .next s)
        ∧ (w.since + s.hpCycles (1000 * s.rd .tierCfgPretailMax) ≤ s.clk.hp →
            ∃ u, exec (.pretailTimeout p se tg) s = .next u ∧ u.req? p.val se.toNat tg.toNat = none
              ∧ s.Fails u p.val 0 (if w.uncorr then 0x43 else 0x42) r.serving (if w.uncorr then 1 else w.tier) se.toNat tg.toNat))
    ∧ (r.waits = [] → r.decided = false → s.slackGone r = true → r.wantEntry = true ∨ s.intakeTableWait r = true ∨ s.stockWait r = true →
        ∃ u, exec (.slackExhausted p se tg) s = .next u ∧ u.req? p.val se.toNat tg.toNat = none
          ∧ (if s.intakeTableWait r = true then s.Fails u p.val 0 0x43 r.serving 0 se.toNat tg.toNat
             else if s.stockWait r = true then s.Fails u p.val 0 0x43 r.serving 1 se.toNat tg.toNat
             else s.Fails u p.val 0 0x42 r.serving (s.reviveTier r) se.toNat tg.toNat))
    ∧ (r.waits = [] → exec (.pretailTimeout p se tg) s = .next s
        ∧ ((if r.decided then s.orderedWait p.val se.toNat = none
            else s.intakeTableWait r = false ∧ s.stockWait r = false ∧ (r.remote ≠ none ∨ s.entry? p.val se.toNat ≠ none)) →
          exec (.slackExhausted p se tg) s = .next s))

/-- A tile that a stall reads counts in TIER_STL_FETCH and its corrected words in TIER_CORR; when it passes its checks no
request of the stall waits on that revision any more and no T0 copy of it is poisoned there; one that is malformed
sets MXE_STATUS.TILE_ERR and ends the requests it was read for; one that fails otherwise is an uncorrectable T1 error.
Such an error in a bank in service sets TIER_STATUS.T1_UNCORR, counts once in TIER_UNCORR and once in GLB_FAULTS, and
queues the bank's test. A table hit is reloaded from the charter device; a stock line is re-read; a ledger entry with
a current copy leaves the cellar, any other is made COLD and counted lost, and each request of its session ends, a
STREAM_TOKEN's record keeping its place; a tile revision in use is poisoned; a working set's cycle is abandoned. In a
bank already out nothing happens, nor by a tile that no one reads. A scrub counts the words it corrected. -/
def Obligations.TileReadsAndT1ErrorsTakeEffect : Prop :=
  (∀ (s : State) (i : Fin 64) (m : BitVec 12) (l x y q : BitVec 16) (d : ReadData) (n : BitVec 32), s.Inv → s.pwr.hold = .none →
      let id : TileId := ⟨s.rd .stlRolePitch i.val, m.toNat, l.toNat, x.toNat, y.toNat, q.toNat⟩
      let as (c : TileCheck) : Prop := ∃ b, d = .ok b ∧ tileCheck b m.toNat l.toNat x.toNat y.toNat q.toNat = c
      (s.reading i.val id = false → exec (.tileArrival i m l x y q d n) s = .next s)
      ∧ (s.reading i.val id = true → ∃ t, exec (.tileArrival i m l x y q d n) s = .next t
        ∧ t.rd .tierStlFetchCount i.val = (s.rd .tierStlFetchCount i.val + 1) % 2 ^ 32
        ∧ t.rd .tierCorrCount = (s.rd .tierCorrCount + n.toNat) % 2 ^ 32
        ∧ (as .good → (∀ r ∈ t.reqs, r.stall = some i.val → ∀ w ∈ r.waits, s.waitIs r id w = false)
            ∧ (i.val, id) ∉ t.tier.t0bad ∧ t.tier.bad = s.tier.bad)
        ∧ (as .malformed → t.rd .mxeStatusTileErr i.val = 1 ∧ t.tier = s.tier
            ∧ ∀ r ∈ t.reqs, r.stall = some i.val → id ∉ r.fetch ∧ ∀ w ∈ r.waits, s.waitIs r id w = false)
        ∧ (d = .error ∨ as .poisoned → t.rd .tierStatusT1Uncorr = 1 ∧ t.rd .tierUncorrCount = (s.rd .tierUncorrCount + 1) % 2 ^ 32
            ∧ t.rd .glbFaultsCount = (s.rd .glbFaultsCount + 1) % 2 ^ 32 ∧ (∃ k, t.tier.bankTest = s.tier.bankTest ++ [k]))))
  ∧ (∀ (s : State) (b : Fin 64) (part : T1Part), s.pwr.hold = .none →
      (b.val ∈ s.banksOut → exec (.t1UncorrError b part) s = .next s)
      ∧ (b.val ∉ s.banksOut → ∃ t, exec (.t1UncorrError b part) s = .next t ∧ t.rd .tierStatusT1Uncorr = 1
          ∧ t.rd .tierUncorrCount = (s.rd .tierUncorrCount + 1) % 2 ^ 32 ∧ t.rd .glbFaultsCount = (s.rd .glbFaultsCount + 1) % 2 ^ 32
          ∧ t.tier.bankTest = s.tier.bankTest ++ [b.val]
          ∧ (match part with
             | .table i ty id => ∃ x ∈ t.tier.reloads, x.stall = i.val ∧ x.type = ty.toNat ∧ x.id = id.toNat ∧ x.tier = 1
             | .stock p k off => ∃ x ∈ t.tier.stockBad, x.pitch = p.val ∧ x.id = k.val ∧ x.line = off.toNat / 4096
             | .entry p se => s.entry? p.val se.toNat = none
                ∨ ∀ r ∈ t.reqs, r.pitch = p.val → r.session = se.toNat → r.kind = 2 ∧ r.failed ≠ none
             | .tile v => let id : TileId := ⟨v.pitch, v.model.toNat, v.layer.toNat, v.trow.toNat, v.tcol.toNat, v.bseq.toNat⟩
                s.stagedTile id = false → (∃ g ∈ s.gensOf v.pitch, g.holds id = true) → ∃ y ∈ t.tier.bad, y.tile = id
             | .workingSet p m => ∀ a, s.asz? p.val m.toNat = some a → a.state.cycling = true →
                t.rd .aszStatusWsUncorr = 1 ∧ ∃ a', t.asz? p.val m.toNat = some a' ∧ a'.state = .idle)
          ∧ (∀ p se e, part = .entry p se → s.entry? p.val se.toNat = some e →
              (e.current = true → t.entry? p.val se.toNat = none)
              ∧ (e.current = false → (∃ e', t.entry? p.val se.toNat = some e' ∧ e'.cold = true ∧ e'.ckptSeq = 0)
                  ∧ t.rd .ldgLostCount = (s.rd .ldgLostCount + 1) % 2 ^ 32))))
  ∧ ∀ (s : State) (n : BitVec 32), s.pwr.hold = .none →
      ∃ t, exec (.patrolScrub n) s = .next t ∧ t.rd .tierCorrCount = (s.rd .tierCorrCount + n.toNat) % 2 ^ 32
        ∧ s.Leaves t [] (fun f i => f = .tierCorrCount ∧ i = 0)

/-- A restore of a poisoned tile with good bytes ends its poisoning and counts in TIER_RESTORES; with bad bytes it goes on
from the next source, and without one the tile has no source and, when the generation in force holds it,
TIER_STATUS.HOME_LOST is set and its model is DOWN. A table reload whose image has the section's digest, and a stock
re-read whose line has its length and ECC word, end and change nothing else but the counting of waits; a bad reload of
a T0 copy is an uncorrectable T1 error and is reloaded from the charter device; a bad read from the device sets
HOME_LOST and marks DOWN each model that uses the table. A completion nothing waits for changes nothing. -/
def Obligations.RestoresHealOrLoseTheirCopy : Prop :=
  (∀ (s : State) (v : TileName) (d : ReadData) (b : BadTile) (h : HomeSrc), s.pwr.hold = .none →
      let id : TileId := ⟨v.pitch, v.model.toNat, v.layer.toNat, v.trow.toNat, v.tcol.toNat, v.bseq.toNat⟩
      let good : Prop := ∃ x, d = .ok x ∧ tileCheck x id.model id.layer id.trow id.tcol id.bseq = .good
      s.badTile? id = some b → b.src = some h →
      ∃ t, exec (.tileRestoreComplete v d) s = .next t
        ∧ (good → t.badTile? id = none ∧ t.rd .tierRestoresCount = (s.rd .tierRestoresCount + 1) % 2 ^ 32)
        ∧ (¬good → ∀ h' rest, s.srcsAfter b = h' :: rest → ∃ b', t.badTile? id = some b' ∧ b'.src = some h' ∧ b'.bank = b.bank)
        ∧ (¬good → s.srcsAfter b = [] → (∃ b', t.badTile? id = some b' ∧ b'.src = none)
            ∧ ((s.genNow id.pitch).holds id = true → t.rd .tierStatusHomeLost = 1
              ∧ ∀ k, s.mdl? id.pitch id.model = some k → t.rd .tollMdlLoDown k = 1)))
  ∧ (∀ (s : State) (v : TileName) (d : ReadData),
      (∀ b, s.badTile? ⟨v.pitch, v.model.toNat, v.layer.toNat, v.trow.toNat, v.tcol.toNat, v.bseq.toNat⟩ = some b → b.src = none) →
      exec (.tileRestoreComplete v d) s = .next s)
  ∧ (∀ (s : State) (i : Fin 64) (ty id : BitVec 8) (d : ReadData), s.pwr.hold = .none →
      let mine (x : Reload) : Bool := x.stall == i.val && x.type == ty.toNat && x.id == id.toNat
      (s.tier.reloads.find? mine = none → exec (.tableReloadComplete i ty id d) s = .next s)
      ∧ ∀ x, s.tier.reloads.find? mine = some x →
        let good : Prop := ∃ b, d = .ok b ∧ (sha384 b).take 16 = x.digest
        ∃ t, exec (.tableReloadComplete i ty id d) s = .next t
        ∧ (good → t.tier.reloads = s.tier.reloads.filter (· != x) ∧ s.Leaves t [.tier, .reqs] (fun _ _ => False))
        ∧ (¬good → x.tier = 0 → t.rd .tierStatusT1Uncorr = 1 ∧ t.rd .tierUncorrCount = (s.rd .tierUncorrCount + 1) % 2 ^ 32
            ∧ ∃ y ∈ t.tier.reloads, y.stall = i.val ∧ y.type = ty.toNat ∧ y.id = id.toNat ∧ y.tier = 1)
        ∧ (¬good → x.tier ≠ 0 → t.tier.reloads = s.tier.reloads.filter (· != x) ∧ t.rd .tierStatusHomeLost = 1
            ∧ ∀ m ∈ s.tableUsers (s.rd .stlRolePitch i.val) ty.toNat id.toNat, ∀ k, s.mdl? (s.rd .stlRolePitch i.val) m = some k →
                t.rd .tollMdlLoDown k = 1))
  ∧ ∀ (s : State) (p k : Fin 64) (l : Word) (d : ReadData), s.pwr.hold = .none →
      let mine (x : BadLine) : Bool := x.pitch == p.val && x.id == k.val && x.line == l.toNat
      (s.tier.stockBad.find? mine = none → exec (.stockRereadComplete p k l d) s = .next s)
      ∧ ∀ x, s.tier.stockBad.find? mine = some x →
        let good : Prop := ∃ b, d = .ok b ∧ b.length = s.lineLen p.val k.val l.toNat ∧ crc32c b = x.crc
        ∃ t, exec (.stockRereadComplete p k l d) s = .next t
          ∧ (good → t.tier.stockBad = s.tier.stockBad.filter (· != x) ∧ s.Leaves t [.tier, .reqs] (fun _ _ => False))
          ∧ (¬good → t.rd .tierStatusHomeLost = 1
              ∧ ∀ m ∈ s.stockUsers p.val k.val, ∀ j, s.mdl? p.val m = some j → t.rd .tollMdlLoDown j = 1)

/-- In service, awake, without a role to come, idle for DOZE_US and with no work on it or on its chain, a Spread or Idle
stall goes to Doze, and a chain's stall whose pitch's TOKEN_DELAY leaves room for the wake; a Spread or Idle stall
idle for NAP_US goes to Nap from either and its class N registers, no others, read their reset values, nothing being
kept in its T0. A stall with a request on it stays as it is. A wake ends Doze, or a Nap's wake, and one with a load
under way takes the role it was woken for, as ROLE_LOAD_COMPLETE has a loading stall that is awake do: role, stage and
chain of its goal, STL_ROLE_CHG up by one; with a Bench stall a step may begin, its energy taken. A re-pinned stream
whose chain's stages hold their roles is re-pinned no more. -/
def Obligations.StallsDozeNapWakeAndLoad : Prop :=
  (∀ (s : State) (i : Fin 64), s.Inv → s.pwr.hold = .none → s.inService i.val = true → (s.stl i.val).goal = none →
      (∀ r ∈ s.reqs, r.stall ≠ some i.val) →
      ((s.stl i.val).power = .awake → (s.stl i.val).idleSince + 8 * s.rd .wchSleepDozeUs ≤ s.clk.ticks →
        (∀ c ∈ s.chains, c.active = true → i.val ∈ c.stalls → ∀ r ∈ s.reqs, s.onChain c r = false) →
        s.rd .stlRoleRole i.val ≤ 1 ∨ (s.rd .stlRoleRole i.val = 2 ∧ s.dozeMargin (s.rd .stlRolePitch i.val) = true) →
        ∃ t, exec (.dozeEntry i) s = .next t ∧ (t.stl i.val).power = .doze ∧ s.Leaves t [.stalls] (fun _ _ => False))
      ∧ ((s.stl i.val).power = .awake ∨ (s.stl i.val).power = .doze → s.rd .stlRoleRole i.val ≤ 1 →
        (s.stl i.val).idleSince + 8 * s.rd .wchSleepNapUs ≤ s.clk.ticks →
        ∃ t, exec (.napEntry i) s = .next t ∧ (t.stl i.val).power = .nap
          ∧ (∀ f k, 0x100000 ≤ f.desc.base → f.desc.kept = .n → k / f.desc.inner = i.val → t.rd f k = f.resetVal.toNat)
          ∧ (∀ k ∈ t.tier.kept, k.stall ≠ i.val) ∧ (∀ x ∈ t.tier.t0bad, x.1 ≠ i.val)
          ∧ s.Leaves t [.stalls, .tier] (fun f k => 0x100000 ≤ f.desc.base ∧ f.desc.kept = .n ∧ k / f.desc.inner = i.val)))
  ∧ (∀ (s : State) (i : Fin 64), (∃ r ∈ s.reqs, r.stall = some i.val) → exec (.dozeEntry i) s = .next s ∧ exec (.napEntry i) s = .next s)
  ∧ (∀ (s : State) (i : Fin 64), s.Inv → s.pwr.hold = .none →
      ((s.stl i.val).power = .doze ∨ ((s.stl i.val).power = .waking ∧ (s.stl i.val).goal = none) →
        ∃ t, exec (.stallWakeComplete i) s = .next t ∧ (t.stl i.val).power = .awake ∧ s.Leaves t [.stalls] (fun _ _ => False))
      ∧ ((s.stl i.val).power = .awake ∨ (s.stl i.val).power = .nap → exec (.stallWakeComplete i) s = .next s)
      ∧ ∀ g, (s.stl i.val).goal = some g → s.rd .stlStatusLoading i.val = 1 → g.role < 4 → g.chain < 16 → g.stage < 8 →
        let took (t : State) : Prop := (t.stl i.val).goal = none ∧ t.rd .stlRoleRole i.val = g.role ∧ t.rd .stlRoleStage i.val = g.stage
          ∧ t.rd .stlRoleChain i.val = g.chain ∧ t.rd .stlStatusLoading i.val = 0
          ∧ t.rd .stlRoleChgCount i.val = (s.rd .stlRoleChgCount i.val + 1) % 2 ^ 32
          ∧ s.Leaves t [.stalls, .chains, .pits, .clk] (fun f k => (k = i.val ∧ f ∈ [.stlRoleRole, .stlRoleStage, .stlRoleChain,
              .stlStatusDraining, .stlStatusLoading, .stlRoleChgCount]) ∨ (g.role = 3 ∧ f = .tollEnergyLevelNj ∧ k = 0))
          ∧ (g.role ≠ 3 → t.pits = s.pits ∧ t.clk = s.clk)
        ((s.stl i.val).power = .waking → ∃ t, exec (.stallWakeComplete i) s = .next t ∧ (t.stl i.val).power = .awake ∧ took t)
        ∧ ((s.stl i.val).power ≠ .waking → s.inService i.val = true → ∃ t, exec (.roleLoadComplete i) s = .next t ∧ took t))
  ∧ ∀ (s : State) (p : Fin 64) (se : Session) (x : Stream) (c : ChainSt), s.stream? p.val se.toNat = some x →
      s.chain? p.val x.chain = some c →
      (x.repin = true → s.chainLoaded c = true → ∃ t, exec (.repinSlicesLoaded p se) s = .next t
        ∧ t.stream? p.val se.toNat = some { x with repin := false } ∧ s.Leaves t [.streams] (fun _ _ => False))
      ∧ (x.repin = false ∨ s.chainLoaded c = false → exec (.repinSlicesLoaded p se) s = .next s)

/-- A review changes only pitch marks, stalls, chains, the role registers and, with a Bench step that begins, the energy
level; it clears each pitch's marks of deferrals. In a block of one pitch without chains and without calibration, and
with no stall changing role, after a deferred INTAKE and below the maximum of Spread stalls it starts the load of one
awake Idle stall of the pitch as Spread, which reads Idle until it is loaded. GO in WCH_STL_RESET with a stall in
service ends every request on it and leaves it Idle, without a role to come, its class S and class N registers at
reset; without GO, or out of service, nothing happens. -/
def Obligations.ReviewsAddSpreadAndResetsClearStalls : Prop :=
  (∀ s : State, s.Inv → s.pwr.hold = .none → ∃ t, exec .roleReview s = .next t
      ∧ s.Leaves t [.pits, .stalls, .chains, .clk, .free] (fun f _ => f ∈ [.stlRoleRole, .stlRoleStage, .stlRoleChain, .stlStatusDraining,
          .stlStatusLoading, .stlRoleChgCount, .tollEnergyLevelNj])
      ∧ t.clk = { s.clk with levelFrac := t.clk.levelFrac, levelOver := t.clk.levelOver } ∧ s.level8 ≤ t.level8
      ∧ (∀ c ∈ s.chr.cfgs, (t.pit c.pitch).defIntake = false ∧ (t.pit c.pitch).defOpen = false)
      ∧ ∀ c : PitchCfg, s.chr.cfgs = [c] → s.chains = [] → s.asz = [] → s.reqs = [] → c.pitch < 64 →
          (∀ i, i < 64 → (s.stl i).goal = none ∧ (s.stl i).giveBack = false ∧ s.rd .stlRoleRole i ≠ 3) →
          (s.pit c.pitch).defIntake = true → (s.pit c.pitch).lowUse < 99 →
          s.spreadAll c.pitch < ((s.role? c.pitch).map (·.maxSpread)).getD 0 → s.idleStalls c.pitch false ≠ [] →
          ∃ i ∈ s.idleStalls c.pitch false, (t.stl i).goal = some ⟨1, 0, 0⟩ ∧ t.rd .stlStatusLoading i = 1
            ∧ t.spreadAll c.pitch = s.spreadAll c.pitch + 1 ∧ ∀ k, t.rd .stlRoleRole k = s.rd .stlRoleRole k)
  ∧ ∀ (s : State) (w : Word), s.Inv → s.Running →
      (w.toNat < 2 ^ 31 ∨ s.inService (w.toNat % 64) = false → exec (.stallReset operatorId w) s = .next s)
      ∧ (2 ^ 31 ≤ w.toNat → s.inService (w.toNat % 64) = true → ∃ t, exec (.stallReset operatorId w) s = .next t
          ∧ (∀ r ∈ t.reqs, r.stall ≠ some (w.toNat % 64))
          ∧ t.rd .stlRoleRole (w.toNat % 64) = 0 ∧ t.rd .stlRoleStage (w.toNat % 64) = 0 ∧ t.rd .stlRoleChain (w.toNat % 64) = 0
          ∧ (t.stl (w.toNat % 64)).goal = none ∧ t.inService (w.toNat % 64) = true
          ∧ (∀ f k, 0x100000 ≤ f.desc.base → f.desc.kept = .n ∨ f.desc.kept = .s → k / f.desc.inner = w.toNat % 64 →
              t.rd f k = f.resetVal.toNat))

/-- A fault of a stall in service ends every request on it, keeps its unit and cause, counts in STL_FAULTS and GLB_FAULTS,
and puts it, without a role, under test, out of service. A further fault under test only fails the test, one of
isolation writing its own Daybook record besides; of a retired stall nothing happens. A test failed at a step, or by a
fault under it, retires the stall; one passed puts it back in service unless its count of transient faults has reached
TRANS_MAX, which retires it too. A corrected T0 word counts alone; any other T0 error is a transient fault of unit 8,
cause 1, and retires the stall when the count is reached. -/
def Obligations.StallFaultsStopTestAndRetire : Prop :=
  (∀ (s : State) (i : Fin 64) (u c : BitVec 4) (p : Fin 64), s.Inv → s.pwr.hold = .none →
      (s.rd .stlFaultRetired i.val = 1 → exec (.stallFault i u c p) s = .next s)
      ∧ (s.inService i.val = true → ∃ t, exec (.stallFault i u c p) s = .next t ∧ (∀ r ∈ t.reqs, r.stall ≠ some i.val)
          ∧ t.inService i.val = false ∧ (t.stl i.val).testing = true ∧ t.rd .stlFaultTesting i.val = 1 ∧ t.rd .stlRoleRole i.val = 0
          ∧ t.rd .stlFaultUnit i.val = u.toNat ∧ t.rd .stlFaultCause i.val = c.toNat
          ∧ t.rd .glbFaultsCount = (s.rd .glbFaultsCount + 1) % 2 ^ 32
          ∧ t.rd .stlFaultsCount i.val = (s.rd .stlFaultsCount i.val + 1) % 2 ^ 32)
      ∧ (s.rd .stlFaultRetired i.val = 0 → (s.stl i.val).testing = true →
          ∃ t, exec (.stallFault i u c p) s = .next t ∧ (t.stl i.val).forceFail = true
            ∧ s.Leaves t [.outbox, .stalls, .dbk] (fun f _ => f = .dbkDroppedCount)
            ∧ (c ≠ 5#4 → s.Leaves t [.stalls] (fun _ _ => False))))
  ∧ (∀ (s : State) (i : Fin 64) (n : BitVec 4), s.Inv → s.pwr.hold = .none →
      ((s.stl i.val).testing = false ∨ (s.stl i.val).quadWait = true → exec (.stallTestComplete i n) s = .next s)
      ∧ ((s.stl i.val).testing = true → (s.stl i.val).quadWait = false → s.rd .stlFaultRetired i.val = 0 →
          ∃ t, exec (.stallTestComplete i n) s = .next t ∧ (t.stl i.val).testing = false
            ∧ t.rd .stlFaultTesting i.val = 0 ∧ (n ≠ 0#4 ∨ (s.stl i.val).forceFail = false → t.rd .stlTestLastStep i.val = min n.toNat 8)
            ∧ (n ≠ 0#4 ∨ (s.stl i.val).forceFail = true ∨ s.rd .glbFaultCfgTransMax ≤ s.rd .stlTransCount i.val →
                t.rd .stlFaultRetired i.val = 1 ∧ t.rd .glbRetiredCount = (s.rd .glbRetiredCount + 1) % 2 ^ 32 ∧ t.rd .stlRoleRole i.val = 0)
            ∧ (n = 0#4 → (s.stl i.val).forceFail = false → s.rd .stlTransCount i.val < s.rd .glbFaultCfgTransMax →
                t.inService i.val = true ∧ t.rd .stlTestLastPass i.val = 1
                ∧ s.Leaves t [.outbox, .stalls, .dbk] (fun f k => f = .dbkDroppedCount
                  ∨ (k = i.val ∧ f ∈ [.stlFaultTesting, .stlTestLastPass, .stlTestLastStep])))))
  ∧ ∀ (s : State) (i : Fin 64) (q : T0Part), s.Inv → s.pwr.hold = .none →
      (s.inService i.val = false → exec (.t0CorrectedFault i q) s = .next s)
      ∧ (s.inService i.val = true → q = .word → ∃ t, exec (.t0CorrectedFault i q) s = .next t
          ∧ t.rd .tierStlT0CorrCount i.val = (s.rd .tierStlT0CorrCount i.val + 1) % 2 ^ 32
          ∧ s.Leaves t [] (fun f k => f = .tierStlT0CorrCount ∧ k = i.val))
      ∧ (s.inService i.val = true → q ≠ .word → ∃ t, exec (.t0CorrectedFault i q) s = .next t
          ∧ t.rd .stlFaultUnit i.val = 8 ∧ t.rd .stlFaultCause i.val = 1
          ∧ t.rd .stlFaultsCount i.val = (s.rd .stlFaultsCount i.val + 1) % 2 ^ 32
          ∧ t.rd .stlFaultRetired i.val = if s.rd .glbFaultCfgTransMax ≤ t.rd .stlTransCount i.val then 1 else 0)

/-- A quadrant's PLL or rail lost puts its stalls not yet retired out of service to wait; while one waits a further loss
changes nothing. Recovered, each waiting stall begins its test; QWAIT_MS milliseconds without recovery retire each and
set its bit of QUAD_OUT, not earlier. A bank's test at the head of the queue that passes, with fewer faults in the
window than TRANS_MAX, puts it back; else the bank is retired and reads out; a bank not at the head is not being
tested. A shared unit's fault ends everything in flight, keeps the unit and its syndrome, stops the Toll and holds the
block; in a held block it does nothing. -/
def Obligations.QuadrantsBanksAndSharedUnitsFail : Prop :=
  (∀ (s : State) (q : Fin 4) (rail : Bool), s.Inv → s.pwr.hold = .none →
      ((∀ i, i / 16 = q.val → (s.stl i).quadWait = false) →
        ∃ t, exec (.quadrantFault q rail) s = .next t ∧ s.QuadrantOut t q (if rail then 2 else 1))
      ∧ ((∃ i, i / 16 = q.val ∧ s.rd .stlFaultRetired i = 0 ∧ (s.stl i).quadWait = true) → exec (.quadrantFault q rail) s = .next s)
      ∧ ((∃ i, i / 16 = q.val ∧ s.rd .stlFaultRetired i = 0 ∧ (s.stl i).quadWait = true) →
        (∃ t, exec (.quadrantRecovered q) s = .next t ∧ ∀ i, i / 16 = q.val → s.rd .stlFaultRetired i = 0 → (s.stl i).quadWait = true →
          (t.stl i).quadWait = false ∧ (t.stl i).testing = true ∧ t.rd .stlFaultTesting i = 1)
        ∧ ((∃ i, i / 16 = q.val ∧ s.rd .stlFaultRetired i = 0 ∧ (s.stl i).quadWait = true
              ∧ s.clk.ticks < (s.stl i).stoppedAt + 8000 * s.rd .glbFaultCfgQwaitMs) → exec (.qwaitTimeout q) s = .next s)
        ∧ ((∀ i, i / 16 = q.val → s.rd .stlFaultRetired i = 0 → (s.stl i).quadWait = true →
              (s.stl i).stoppedAt + 8000 * s.rd .glbFaultCfgQwaitMs ≤ s.clk.ticks) →
          ∃ t, exec (.qwaitTimeout q) s = .next t ∧ t.rd .glbFaultStatusQuadOut = s.rd .glbFaultStatusQuadOut ||| 2 ^ q.val
            ∧ ∀ i, i / 16 = q.val → s.rd .stlFaultRetired i = 0 → (s.stl i).quadWait = true →
              t.rd .stlFaultRetired i = 1 ∧ (t.stl i).quadWait = false ∧ t.rd .stlRoleRole i = 0))
      ∧ ((∀ i, i / 16 = q.val → s.rd .stlFaultRetired i = 0 → (s.stl i).quadWait = false) →
        exec (.quadrantRecovered q) s = .next s ∧ exec (.qwaitTimeout q) s = .next s))
  ∧ (∀ (s : State) (b : Fin 64) (pass : Bool), s.Inv → s.pwr.hold = .none →
      (s.tier.bankTest.head? ≠ some b.val → exec (.bankTestComplete b pass) s = .next s)
      ∧ ∀ rest, s.tier.bankTest = b.val :: rest →
        let many : Prop := s.rd .glbFaultCfgTransMax ≤ s.inWindow ((s.tier.bankFaults.filter (·.1 == b.val)).map (·.2))
        ∃ t, exec (.bankTestComplete b pass) s = .next t
          ∧ (pass = true → ¬many → t.tier = { s.tier with bankTest := rest }
              ∧ s.Leaves t [.outbox, .tier, .dbk] (fun f _ => f = .dbkDroppedCount))
          ∧ (pass = false ∨ many → b.val ∉ t.tier.bankTest ∧ t.rd .glbRetiredCount = (s.rd .glbRetiredCount + 1) % 2 ^ 32
              ∧ t.rd (if b.val < 32 then .tierBankOutLoMap else .tierBankOutHiMap) / 2 ^ (b.val % 32) % 2 = 1))
  ∧ ∀ (s : State) (u : BitVec 8) (y : BitVec 24),
      (s.pwr.hold ≠ .none → exec (.sharedFault u y) s = .next s)
      ∧ (s.pwr.hold = .none → ∃ t, exec (.sharedFault u y) s = .next t ∧ t.pwr.hold = .shared
          ∧ t.reqs = [] ∧ t.dups = [] ∧ t.toks = [] ∧ t.streams = [] ∧ t.adms = [] ∧ t.revives = [] ∧ t.parks = [] ∧ t.wbs = [] ∧ t.toll = {}
          ∧ t.entries = s.entries ∧ t.rd .glbFaultStatusSharedFault = 1 ∧ t.rd .glbSharedSyndUnit = u.toNat
          ∧ t.rd .glbSharedSyndSyndrome = y.toNat ∧ t.rd .tollStatusReady = 0
          ∧ t.rd .glbFaultsCount = (s.rd .glbFaultsCount + 1) % 2 ^ 32)

/-- When the training step under way of a model in TRAIN ends, its steps rise by one, unless every sample was left out,
and the last step of STEPS_MAX takes it to SHADOW; a step past BENCH_STEP is dropped and the models stay as they were.
The evaluation of a model in SHADOW takes it to STAGING with a candidate, or back to IDLE with HOLDOFF windows to
wait, counted in ASZ_REJECTS. In each case the step is over, and the pitch's next one may begin; a training step takes
its energy as it begins, an evaluation none, the model's choice (notes/assumptions/122.md). A staged candidate that T0
and the tile region have room for is READY, a revert stays FROZEN. KICK starts a cycle of a model in IDLE whose pool
holds a batch of its training samples. In no case does a generation in force change, and in any other state of the
model the command does nothing. -/
def Obligations.CyclesTrainShadowAndStage : Prop :=
  ∀ (s : State) (p : Fin 64) (m : BitVec 12) (a : AszModel) (mo : ModelObj), s.Inv → s.pwr.hold = .none → s.asz? p.val m.toNat = some a →
    (s.genNow p.val).model? p.val m.toNat = some mo →
    let regs : List Fld := [.mxeCfgAfmt, .mxeCfgGsize, .mxeCfgWfmt, .mxeConstCount, .mxeNanCount, .mxeOsatCount, .mxeQsatCount, .mxeRowsCount,
      .mxeTilesCount, .stlRoleChain, .stlRoleChgCount, .stlRoleRole, .stlRoleStage, .stlStatusDraining, .stlStatusLoading, .tollEnergyLevelNj]
    let level (t : State) : Prop := t.level8 = s.level8 + (match (t.pit p.val).step with
      | some (_, true) => 8000 * s.rd .aszPitCfg3StepUj p.val
      | _ => 0)
    let idle : Prop := (s.pit p.val).step = none
    (∀ k, (s.pit p.val).step = some (k, true) → a.state = .train →
      let xs := (rotate s.freeNat (s.samplesOf p.val m.toNat true)).take (s.rd .aszPitCfg2Batch p.val)
      let rs := benchRuns (s.genNow p.val) (candModel (s.slotsOf p.val m.toNat) a.params a.lower mo) xs
      ∃ t a', exec (.trainStepComplete p m) s = .next t ∧ t.asz? p.val m.toNat = some a' ∧ level t
        ∧ (rs = [] → a' = a ∧ t.rd .aszStepsCount = s.rd .aszStepsCount)
        ∧ (rs ≠ [] → a'.steps = a.steps + 1 ∧ a'.state = (if s.rd .aszPitCfg2StepsMax p.val ≤ a.steps + 1 then .shadow else .train)
            ∧ t.rd .aszStepsCount = (s.rd .aszStepsCount + 1) % 2 ^ 32)
        ∧ s.Leaves t [.clk, .pits, .stalls, .asz, .free] (fun f _ => f ∈ [.aszStepsCount, .aszBoundCount] ++ regs))
    ∧ (idle ∨ (∃ k, (s.pit p.val).step = some (k, false)) ∨ a.state ≠ .train → exec (.trainStepComplete p m) s = .next s)
    ∧ (∀ k b rc, (s.pit p.val).step = some (k, b) → s.role? p.val = some rc →
        (s.clk.ticks < k + 8 * rc.benchStep → exec (.benchStepTimeout p) s = .next s)
        ∧ (k + 8 * rc.benchStep ≤ s.clk.ticks → ∃ t, exec (.benchStepTimeout p) s = .next t ∧ t.asz = s.asz ∧ level t
          ∧ s.Leaves t [.clk, .pits, .stalls] (fun f _ => f ∈ regs)))
    ∧ (idle → exec (.benchStepTimeout p) s = .next s)
    ∧ (¬idle → a.state = .shadow → ∃ t a', exec (.shadowEvalComplete p m) s = .next t ∧ t.asz? p.val m.toNat = some a' ∧ level t
        ∧ ((a'.state = .staging ∧ a'.waited = 0 ∧ a'.cand ≠ none
            ∧ s.Leaves t [.clk, .pits, .stalls, .asz, .free] (fun f _ => f ∈ regs))
          ∨ (a'.state = .idle ∧ a'.cand = none ∧ a'.holdoff = s.rd .aszPitCfg2Holdoff p.val
            ∧ t.rd .aszRejectsCount = (s.rd .aszRejectsCount + 1) % 2 ^ 32
            ∧ s.Leaves t [.outbox, .clk, .pits, .stalls, .asz, .dbk, .free] (fun f _ => f ∈ [.aszRejectsCount, .dbkDroppedCount] ++ regs))))
    ∧ (idle ∨ a.state ≠ .shadow → exec (.shadowEvalComplete p m) s = .next s)
    ∧ (∀ c, a.cand = some c → a.toStage = true → s.candFits p.val m.toNat c.tiles = true →
        ∃ t, exec (.calibStaged p m) s = .next t
          ∧ t.asz? p.val m.toNat = some (if a.state = .frozen then { a with revertStaged := true } else { a with state := .ready })
          ∧ s.Leaves t [.outbox, .asz, .lanes, .fab, .tier] (fun _ _ => False))
    ∧ (a.toStage = false ∨ a.cand = none ∨ (∃ c, a.cand = some c ∧ s.candFits p.val m.toNat c.tiles = false) →
        exec (.calibStaged p m) s = .next s)
    ∧ (s.Running → ∀ acc : Accessor, acc = operatorId ∨ acc.toNat = p.val →
        (s.rd .aszCtrlEnable = 1 → s.rd .aszPitCtrlFreeze p.val = 0 → ∃ t a', exec (.assizeKick acc p) s = .next t
            ∧ t.asz? p.val m.toNat = some a'
            ∧ (a.state = .idle → s.rd .aszPitCfg2Batch p.val ≤ (s.samplesOf p.val m.toNat true).length → a'.state = .train ∧ a'.steps = 0)
            ∧ (a.state ≠ .idle ∨ (s.samplesOf p.val m.toNat true).length < s.rd .aszPitCfg2Batch p.val → a' = a)
            ∧ (idle → level t) ∧ (¬idle → t.level8 = s.level8)
            ∧ s.Leaves t [.asz, .clk, .pits] (fun f i => f = .tollEnergyLevelNj ∧ i = 0))
        ∧ (s.rd .aszCtrlEnable = 0 ∨ s.rd .aszPitCtrlFreeze p.val = 1 → exec (.assizeKick acc p) s = .next s))

/-- At a window's end a model in STAGING without room for its candidate has waited one window more, and is dropped at the
eighth in a row, one with room has waited none; one in IDLE with windows to wait has one less; one in WATCH is IDLE,
or FROZEN when it was slow (which it was is a free value); before the window is over, or with WINDOW_MS 0, nothing
happens. FREEZE leaves no cycle of the pitch under way, ENABLE 0 none at all, and both leave a model in WATCH or
FROZEN as it is; ENABLE 1 only sets the bit. An export writes the pitch's block to ASZ_PIT_EXP and is BUSY until
EXPORT_COMPLETE sets DONE; with too small a size it only sets SHORT; while BUSY it does nothing. EXPORT_COMPLETE
without an export does nothing. -/
def Obligations.WindowsControlsAndExportOfTheAssize : Prop :=
  (∀ (s : State) (p : Fin 64), s.Inv → s.pwr.hold = .none →
      let ends := s.rd .aszPitCfg2WindowMs p.val ≠ 0 ∧ (s.pit p.val).winTick + 8000 * s.rd .aszPitCfg2WindowMs p.val ≤ s.clk.ticks
      (¬ends → exec (.assizeWindowEnd p) s = .next s)
      ∧ ∀ a : AszModel, ends → s.asz = [a] → a.pitch = p.val → ∃ t a', exec (.assizeWindowEnd p) s = .next t ∧ t.asz = [a']
          ∧ (t.pit p.val).winTick = s.clk.ticks ∧ t.gens = s.gens
          ∧ (s.rd .aszCtrlEnable = 1 → a.state = .staging →
              if s.candFits p.val a.model ((a.cand.map (·.tiles)).getD []) = true then a'.state = .staging ∧ a'.waited = 0 ∧ a'.cand = a.cand
              else if a.waited < 7 then a'.state = .staging ∧ a'.waited = a.waited + 1 ∧ a'.cand = a.cand
              else a'.state = .idle ∧ a'.cand = none)
          ∧ (s.rd .aszCtrlEnable = 1 → a.state = .idle → a.holdoff ≠ 0 → a'.state = .idle ∧ a'.holdoff = a.holdoff - 1)
          ∧ (a.state = .watch → ((s.genNow p.val).model? p.val a.model).isSome → a'.state = .idle ∨ a'.state = .frozen)
          ∧ (s.rd .aszCtrlEnable = 0 → a.state ≠ .watch → a' = a))
  ∧ (∀ (s : State) (acc : Accessor) (p : Fin 64), s.Inv → s.Running → (acc = operatorId ∨ acc.toNat = p.val) →
      (∃ t, exec (.assizeFreeze acc p) s = .next t ∧ t.rd .aszPitCtrlFreeze p.val = 1
        ∧ (∀ a ∈ t.asz, a.pitch = p.val → a.state.cycling = false) ∧ t.asz.length = s.asz.length
        ∧ (∀ a ∈ s.asz, (∀ b ∈ s.asz, b.pitch = a.pitch → b.model = a.model → b.state.cycling = false) → a ∈ t.asz)
        ∧ s.Leaves t [.outbox, .pits, .stalls, .asz, .lanes, .fab, .dbk] (fun f i => (f = .aszPitCtrlFreeze ∧ i = p.val)
            ∨ f ∈ [.dbkDroppedCount, .stlRoleChain, .stlRoleChgCount, .stlRoleRole, .stlRoleStage, .stlStatusDraining, .stlStatusLoading]))
      ∧ (s.rd .aszPitExpStatBusy p.val = 1 → exec (.assizeExport acc p) s = .next s)
      ∧ (s.rd .aszPitExpStatBusy p.val = 0 → s.rd .aszPitExpSizeBytes p.val < (s.exportBytes p.val).length →
        ∃ t, exec (.assizeExport acc p) s = .next t ∧ t.rd .aszPitExpStatShort p.val = 1
          ∧ s.Leaves t [] (fun f i => f = .aszPitExpStatShort ∧ i = p.val))
      ∧ (s.rd .aszPitExpStatBusy p.val = 0 → (s.exportBytes p.val).length ≤ s.rd .aszPitExpSizeBytes p.val →
        ∃ t, exec (.assizeExport acc p) s = .next t ∧ t.rd .aszPitExpStatBusy p.val = 1
          ∧ t.outbox = s.outbox ++ [⟨s.clk.hp, .t2Write p.val (s.addrPair .aszPitExpLoAddr .aszPitExpHiAddr p.val) (s.exportBytes p.val)⟩]
          ∧ s.Leaves t [.outbox] (fun f i => f = .aszPitExpStatBusy ∧ i = p.val)))
  ∧ (∀ s : State, s.Inv → s.Running →
      (∃ t, exec (.assizeEnable operatorId true) s = .next t ∧ t.rd .aszCtrlEnable = 1
        ∧ s.Leaves t [] (fun f i => f = .aszCtrlEnable ∧ i = 0))
      ∧ ∃ t, exec (.assizeEnable operatorId false) s = .next t ∧ t.rd .aszCtrlEnable = 0
        ∧ (∀ a ∈ t.asz, a.state.cycling = false) ∧ t.asz.length = s.asz.length
        ∧ (∀ a ∈ s.asz, (∀ b ∈ s.asz, b.pitch = a.pitch → b.model = a.model → b.state.cycling = false) → a ∈ t.asz)
        ∧ s.Leaves t [.outbox, .pits, .stalls, .asz, .lanes, .fab, .dbk] (fun f _ => f ∈ [.aszCtrlEnable, .dbkDroppedCount,
            .stlRoleChain, .stlRoleChgCount, .stlRoleRole, .stlRoleStage, .stlStatusDraining, .stlStatusLoading]))
  ∧ ∀ (s : State) (p : Fin 64), s.pwr.hold = .none →
      (s.rd .aszPitExpStatBusy p.val = 1 → ∃ t, exec (.exportComplete p) s = .next t ∧ t.rd .aszPitExpStatBusy p.val = 0
        ∧ t.rd .aszPitExpStatDone p.val = 1
        ∧ s.Leaves t [] (fun f i => i = p.val ∧ (f = .aszPitExpStatBusy ∨ f = .aszPitExpStatDone)))
      ∧ (s.rd .aszPitExpStatBusy p.val ≠ 1 → exec (.exportComplete p) s = .next s)

/-- KEY_ROTATE by the operator raises KEYVER by one, or only sets ROT_ERR at version 255 or seven above KEYVER_MIN.
KEYVER_MIN takes a larger value up to KEYVER, stays at its own, and any other only sets MIN_ERR. The key 0x2E70_1A5D
in GLB_ZEROISE ends every pitch's requests, admissions and streams, disables every pitch, empties the ledger and every
secret, clears READY of every key and starts the erasure; its completion removes every generation and sample and sets
ZEROISED. Any other word, and a completion without an erasure, does nothing. -/
def Obligations.KeysRotateRiseAndAreErased : Prop :=
  (∀ (s : State) (p : Fin 64), s.Inv → s.Running →
      let v := s.rd .glbKeyCfgKeyver p.val
      let least := s.rd .glbKeyCfgKeyverMin p.val
      ∃ t, exec (.keyRotate operatorId p) s = .next t
        ∧ (v = 255 ∨ least + 7 ≤ v → t.rd .glbKeyStatRotErr p.val = 1 ∧ s.Leaves t [] (fun f i => f = .glbKeyStatRotErr ∧ i = p.val))
        ∧ (v < 255 → v < least + 7 → t.rd .glbKeyCfgKeyver p.val = v + 1
            ∧ s.Leaves t [.outbox, .dbk] (fun f i => (f = .glbKeyCfgKeyver ∧ i = p.val) ∨ f = .dbkDroppedCount)))
  ∧ (∀ (s : State) (p : Fin 64) (v : BitVec 8), s.Inv → s.Running →
      let least := s.rd .glbKeyCfgKeyverMin p.val
      (v.toNat = least → exec (.keyverMinRaise operatorId p v) s = .next s)
      ∧ (v.toNat < least ∨ s.rd .glbKeyCfgKeyver p.val < v.toNat → v.toNat ≠ least →
          ∃ t, exec (.keyverMinRaise operatorId p v) s = .next t ∧ t.rd .glbKeyStatMinErr p.val = 1
            ∧ s.Leaves t [] (fun f i => f = .glbKeyStatMinErr ∧ i = p.val))
      ∧ (least < v.toNat → v.toNat ≤ s.rd .glbKeyCfgKeyver p.val →
          ∃ t, exec (.keyverMinRaise operatorId p v) s = .next t ∧ t.rd .glbKeyCfgKeyverMin p.val = v.toNat
            ∧ s.Leaves t [.outbox, .dbk] (fun f i => (f = .glbKeyCfgKeyverMin ∧ i = p.val) ∨ f = .dbkDroppedCount)))
  ∧ (∀ s : State, s.Inv → s.Running → (∀ w : Word, w ≠ 0x2E701A5D#32 → exec (.zeroise operatorId w) s = .next s)
      ∧ ∃ t, exec (.zeroise operatorId 0x2E701A5D#32) s = .next t ∧ t.keys = [] ∧ t.entries = [] ∧ t.parks = [] ∧ t.wbs = []
        ∧ t.pwr.zeroing = true ∧ (∀ r ∈ t.reqs, 64 ≤ r.pitch) ∧ (∀ a ∈ t.adms, 64 ≤ a.pitch) ∧ (∀ x ∈ t.streams, 64 ≤ x.pitch)
        ∧ (∀ p, p < 64 → t.rd .pitStatusEnabled p = 0 ∧ t.rd .glbKeyStatReady p = 0) ∧ t.fuse = s.fuse ∧ t.clk = s.clk)
  ∧ ∀ s : State, s.pwr.hold = .none →
      (s.pwr.zeroing = false → exec .zeroisationComplete s = .next s)
      ∧ (s.pwr.zeroing = true → ∃ t, exec .zeroisationComplete s = .next t ∧ t.gens = [] ∧ t.samples = [] ∧ t.pwr.zeroing = false
          ∧ t.rd .glbSecStatusZeroised = 1
          ∧ s.Leaves t [.outbox, .pwr, .gens, .samples, .tier, .dbk] (fun f _ => f = .glbSecStatusZeroised ∨ f = .dbkDroppedCount))

/-- A write narrower than a word, to an unaligned address, a reserved range or a window that takes no writes has no
effect. One that is not granted to its accessor counts in GLB_DENY and keeps accessor, address and direction. A
granted write of a word that no rule makes act changes only its fields: of a word with one field, read-only and write-
only keep theirs, W1C loses the bits written 1, RWL takes an allowed value while the configuration is not locked, RW
an allowed value while its function is idle. A read of WCH_OPTIME_LO by operator or auditor returns the low 32 bits of
operating time and keeps the high ones for that accessor; by any other it is refused, counted, and returns 0. -/
def Obligations.RegisterWritesAreCheckedAndGranted : Prop :=
  (∀ (s : State) (acc : Accessor) (a : BitVec 24) (w : Word), s.Inv →
      (∀ d : WriteData, (∀ x, d ≠ .word x) ∨ a.toNat % 4 ≠ 0 ∨ reservedRange a.toNat = true ∨ s.windowLive a.toNat true = false →
          exec (.registerWrite acc a d) s = .next s)
      ∧ (a.toNat % 4 = 0 → reservedRange a.toNat = false → s.windowLive a.toNat true = true → s.granted acc a.toNat = false →
          ∃ t, exec (.registerWrite acc a (.word w)) s = .next t ∧ t.rd .glbDenyCount = (s.rd .glbDenyCount + 1) % 2 ^ 32
            ∧ t.rd .glbDenyLastAccessor = acc.toNat ∧ t.rd .glbDenyLastAddr = a.toNat ∧ t.rd .glbDenyLastWrite = 1
            ∧ s.Leaves t [.outbox, .dbk] (fun f i => i = 0 ∧ f ∈ [.glbDenyCount, .glbDenyLastAccessor, .glbDenyLastAddr, .glbDenyLastWrite,
                .dbkDroppedCount]))
      ∧ (a.toNat % 4 = 0 → reservedRange a.toNat = false → s.windowLive a.toNat true = true → s.granted acc a.toNat = true →
          (∀ x ∈ fieldsAt a.toNat, s.writeActs acc x.1 x.2 w.toNat = none) →
          ∃ t, exec (.registerWrite acc a (.word w)) s = .next t
            ∧ s.Leaves t [] (fun f i => (f, i) ∈ fieldsAt a.toNat ∧ f.desc.acc ≠ .ro ∧ f.desc.acc ≠ .wo)
            ∧ ∀ f i, fieldsAt a.toNat = [(f, i)] →
                let v := w.toNat / 2 ^ f.desc.lo % 2 ^ f.desc.width
                (f.desc.acc = .w1c → t.rd f i = s.rd f i &&& (2 ^ f.desc.width - 1 - v))
                ∧ (f.desc.acc = .rwl → t.rd f i = if s.rd .chrStatusLocked = 0 ∧ s.valueOk f i v = true then v else s.rd f i)
                ∧ (f.desc.acc = .rw → t.rd f i = if s.idleToWrite f i = true ∧ s.valueOk f i v = true then v else s.rd f i)))
  ∧ ∀ (s : State) (acc : Accessor), s.Inv → s.Running →
      (acc.toNat = 0x40 ∨ acc.toNat = 0x41 → ∃ t, exec (.optimeRead acc) s = .next t
        ∧ t.outbox = s.outbox ++ [⟨s.clk.hp, .readData acc.toNat 0x20004 (s.clk.optime % 2 ^ 32)⟩]
        ∧ (if acc.toNat = 0x40 then t.clk.latchOp else t.clk.latchAud) = s.clk.optime / 2 ^ 32
        ∧ s.Leaves t [.outbox, .clk] (fun _ _ => False))
      ∧ (acc.toNat ≠ 0x40 → acc.toNat ≠ 0x41 → ∃ t, exec (.optimeRead acc) s = .next t ∧ t.rd .glbDenyCount = (s.rd .glbDenyCount + 1) % 2 ^ 32
        ∧ t.rd .glbDenyLastAccessor = acc.toNat ∧ t.rd .glbDenyLastWrite = 0 ∧ t.clk = s.clk
        ∧ ⟨s.clk.hp, .readData acc.toNat 0x20004 0⟩ ∈ t.outbox)

/-- On a lane not retired, an uncorrectable codeword, counted in FAB_LN_UNCORR, or a flit that breaks Table 12-2 sends
RETRY naming the flit before the one expected, and nothing else changes but FAB_LN_CORR. A good DATA flit that is
expected moves the lane on to the next; another asks for a replay, and IDLE, TEST and the like move it nowhere. A
partner's RETRY on a lane not training or retired counts in FAB_LN_RETRY and sends again every frame after its ACKSEQ,
in order; the one that finds RETRY_MAX replays of that flit done takes the lane down. Loss of lock takes a working
lane down, to be retrained and tested, and counts in GLB_FAULTS; a test that fails, or comes TRANS_MAX faults in the
window, retires it, any other starts the link anew, as equalisation does out of test. -/
def Obligations.FlitsAreCountedReplayedOrFailTheirLane : Prop :=
  (∀ (s : State) (l : Fin 16) (c : Bool) (b : List Byte), s.Inv →
      (s.pwr.hold ≠ .none ∨ (s.lane l.val).retired = true → ∀ u, exec (.flitReceive l u c b) s = .next s)
      ∧ (s.pwr.hold = .none → (s.lane l.val).retired = false →
        (∀ u, u = true ∨ flitOk b = false → ∃ t, exec (.flitReceive l u c b) s = .next t
          ∧ t.rd .fabLnUncorrCount l.val = (s.rd .fabLnUncorrCount l.val + if u then 1 else 0) % 2 ^ 32
          ∧ t.rd .fabLnCorrCount l.val = (s.rd .fabLnCorrCount l.val + if c then 1 else 0) % 2 ^ 32
          ∧ t.outbox = s.outbox ++ [⟨s.clk.hp, .lane l.val 2 (((s.lane l.val).fseqExp + 65535) % 65536) 0 0⟩]
          ∧ s.Leaves t [.outbox] (fun f i => i = l.val ∧ (f = .fabLnUncorrCount ∨ f = .fabLnCorrCount)))
        ∧ (flitOk b = true → ∃ t, exec (.flitReceive l false c b) s = .next t
          ∧ (getLe b 4 1 = 1 → getLe b 0 2 = (s.lane l.val).fseqExp → (t.lane l.val).fseqExp = ((s.lane l.val).fseqExp + 1) % 65536)
          ∧ (getLe b 4 1 = 1 → getLe b 0 2 ≠ (s.lane l.val).fseqExp → (t.lane l.val).fseqExp = (s.lane l.val).fseqExp
              ∧ ⟨s.clk.hp, .lane l.val 2 (((s.lane l.val).fseqExp + 65535) % 65536) 0 0⟩ ∈ t.outbox)
          ∧ (getLe b 4 1 ≠ 1 → getLe b 4 1 ≠ 2 → (t.lane l.val).fseqExp = (s.lane l.val).fseqExp ∧ t.fab = s.fab))))
  ∧ (∀ (s : State) (l : Fin 16) (a : BitVec 16), s.Inv →
      let n := if (s.lane l.val).lastRetry = some a.toNat then (s.lane l.val).replays else 0
      let live : Prop := s.pwr.hold = .none ∧ (s.lane l.val).retired = false ∧ ((s.lane l.val).up = true ∨ (s.lane l.val).training = false)
      (¬live → exec (.retryFlit l a) s = .next s)
      ∧ (live → s.rd .fabTimingRetryMax ≤ n → ∃ t, exec (.retryFlit l a) s = .next t ∧ (t.lane l.val).up = false
        ∧ (t.lane l.val).training = true ∧ (t.lane l.val).testing = true ∧ t.rd .glbFaultsCount = (s.rd .glbFaultsCount + 1) % 2 ^ 32
        ∧ s.Leaves t [.outbox, .lanes, .dbk] (fun f _ => f = .glbFaultsCount ∨ f = .dbkDroppedCount))
      ∧ (live → n < s.rd .fabTimingRetryMax → ∃ t, exec (.retryFlit l a) s = .next t ∧ (t.lane l.val).acked = a.toNat
        ∧ t.rd .fabLnRetryCount l.val = (s.rd .fabLnRetryCount l.val + 1) % 2 ^ 32
        ∧ t.outbox = s.outbox ++ ((s.lane l.val).replay.filter (fun f => decide (0 < (f.1 + 65536 - a.toNat) % 65536
            ∧ (f.1 + 65536 - a.toNat) % 65536 ≤ 512))).map (fun f => ⟨s.clk.hp, .frame l.val f.1 f.2.2⟩)
        ∧ s.Leaves t [.outbox, .lanes] (fun f i => i = l.val ∧ f = .fabLnRetryCount)))
  ∧ ∀ (s : State) (l : Fin 16), s.Inv → s.pwr.hold = .none →
      ((s.lane l.val).training = true ∨ (s.lane l.val).retired = true → exec (.fecLockLoss l) s = .next s)
      ∧ ((s.lane l.val).training = false → (s.lane l.val).retired = false → ∃ t, exec (.fecLockLoss l) s = .next t
          ∧ (t.lane l.val).up = false ∧ (t.lane l.val).training = true ∧ (t.lane l.val).testing = true
          ∧ t.rd .glbFaultsCount = (s.rd .glbFaultsCount + 1) % 2 ^ 32
          ∧ s.Leaves t [.outbox, .lanes, .dbk] (fun f _ => f = .glbFaultsCount ∨ f = .dbkDroppedCount))
      ∧ ((s.lane l.val).testing = false → ∀ pass, exec (.laneTestComplete l pass) s = .next s)
      ∧ ((s.lane l.val).testing = true → ∀ pass,
          let many : Prop := s.rd .glbFaultCfgTransMax
            ≤ ((s.lane l.val).faults.filter (fun x => decide (s.clk.optime ≤ x + s.rd .glbFaultCfgTransWinS * 1024))).length
          ∃ t, exec (.laneTestComplete l pass) s = .next t ∧ (t.lane l.val).testing = false ∧ (t.lane l.val).training = false
            ∧ (pass = false ∨ many → (t.lane l.val).retired = true ∧ (t.lane l.val).up = false
                ∧ t.rd .glbRetiredCount = (s.rd .glbRetiredCount + 1) % 2 ^ 32)
            ∧ (pass = true → ¬many → (t.lane l.val).retired = (s.lane l.val).retired ∧ (t.lane l.val).fseqExp = 0
                ∧ t.rd .glbRetiredCount = s.rd .glbRetiredCount))
      ∧ ((s.lane l.val).training = false ∨ (s.lane l.val).retired = true → exec (.equalisationConverged l) s = .next s)
      ∧ ((s.lane l.val).training = true → (s.lane l.val).retired = false → ∃ t, exec (.equalisationConverged l) s = .next t
          ∧ (t.lane l.val).training = false ∧ (t.lane l.val).testing = (s.lane l.val).testing
          ∧ s.Leaves t [.outbox, .lanes] (fun _ _ => False))

/-- HELLO sets the lane's partner and the version agreed, the lesser of the two highest; the lane is up when that is at
least 2 and the partner's lowest, and it does not train. One below the domain's least sets FAB_STATUS.VER_LOW.
HEARTBEAT clears the lane's misses and changes nothing else. Each HB_MS, not earlier, the block sends on its lanes
that are up. A miss below HB_MISS is only counted; the one that reaches it takes a lane that is up down. A lane
already down is not counted as a fault again. A retired lane, or a held block, does nothing at a miss. -/
def Obligations.HelloAndHeartbeatsKeepALink : Prop :=
  (∀ (s : State) (l : Fin 16) (b : List Byte), s.Inv → s.Takes l.val 1 b →
      let v := min s.maxVer (getLe (readFrame b).arg 0 1)
      ∃ t, exec (.hello l b) s = .next t ∧ (t.lane l.val).peer = (readFrame b).src ∧ (t.lane l.val).peerKind = (readFrame b).skind
        ∧ (t.lane l.val).ver = v ∧ (t.lane l.val).missed = 0
        ∧ ((t.lane l.val).up = true ↔ 2 ≤ v ∧ getLe (readFrame b).arg 1 1 ≤ v ∧ (s.lane l.val).training = false)
        ∧ (2 ≤ v → getLe (readFrame b).arg 1 1 ≤ v → v < s.minVer → t.rd .fabStatusVerLow = 1)
        ∧ s.Leaves t [.outbox, .lanes, .fab, .dbk] (fun f _ => f = .fabStatusVerLow ∨ f = .dbkDroppedCount))
  ∧ (∀ (s : State) (l : Fin 16) (b : List Byte), s.Inv → s.Takes l.val 2 b →
      ∃ t, exec (.heartbeat l b) s = .next t ∧ t.lane l.val = { s.lane l.val with missed := 0 }
        ∧ (∀ k, k ≠ l.val → t.lane k = s.lane k) ∧ s.Leaves t [.lanes, .fab] (fun _ _ => False))
  ∧ (∀ s : State, (s.pwr.hold ≠ .none ∨ s.clk.ticks < s.fab.hbTick + 8000 * s.rd .fabTimingHbMs → exec .heartbeatSend s = .next s)
      ∧ (s.pwr.hold = .none → s.fab.hbTick + 8000 * s.rd .fabTimingHbMs ≤ s.clk.ticks →
        ∃ t, exec .heartbeatSend s = .next t ∧ t.fab.hbTick = s.clk.ticks ∧ s.Leaves t [.outbox, .lanes, .fab] (fun _ _ => False)
          ∧ ∀ k, (s.lane k).up = false → t.lane k = s.lane k))
  ∧ ∀ (s : State) (l : Fin 16), s.Inv →
      (s.pwr.hold ≠ .none ∨ (s.lane l.val).retired = true → exec (.heartbeatMiss l) s = .next s)
      ∧ (s.pwr.hold = .none → (s.lane l.val).retired = false → (s.lane l.val).missed + 1 < s.rd .fabTimingHbMiss →
          ∃ t, exec (.heartbeatMiss l) s = .next t ∧ t.lane l.val = { s.lane l.val with missed := (s.lane l.val).missed + 1 }
            ∧ s.Leaves t [.lanes] (fun _ _ => False))
      ∧ (s.pwr.hold = .none → (s.lane l.val).retired = false → s.rd .fabTimingHbMiss ≤ (s.lane l.val).missed + 1 →
          ∃ t, exec (.heartbeatMiss l) s = .next t ∧ (t.lane l.val).up = false
            ∧ ((s.lane l.val).up = true → (t.lane l.val).training = true ∧ t.rd .glbFaultsCount = (s.rd .glbFaultsCount + 1) % 2 ^ 32)
            ∧ ((s.lane l.val).up = false → t.rd .glbFaultsCount = s.rd .glbFaultsCount)
            ∧ s.Leaves t [.outbox, .lanes, .fab, .dbk] (fun f _ => f = .glbFaultsCount ∨ f = .dbkDroppedCount))

/-- Each of the seventeen frame commands leaves the state as it is when the frame is not taken up: the block is held, its
KIND is another, its fields break Tables 12-3 or 12-4 or it is not for this block, or the lane's partner is excluded
and it is neither HELLO nor HEARTBEAT. -/
def Obligations.FramesThatBreakTheTablesDoNothing : Prop :=
  ∀ (s : State) (l : Fin 16) (b : List Byte) (k : Nat) (c : Instr),
    (k, c) ∈ [(0x01, Instr.hello l b), (0x02, .heartbeat l b), (0x03, .digest l b), (0x10, .shardMap l b), (0x11, .dirLoc l b),
      (0x12, .ownReq l b), (0x13, .ownGrant l b), (0x14, .ownNack l b), (0x15, .ownProbe l b), (0x16, .ownState l b),
      (0x17, .ownAnnounce l b), (0x18, .peerLostFrame l b), (0x20, .pushTap l b), (0x21, .pushHead l b), (0x22, .pushAck l b),
      (0x32, .memCpl l b), (0x33, .memWrAck l b)] →
    ¬ s.Takes l.val k b → exec c s = .next s

/-- For a pitch in the domain a DIGEST from the block it is compared with joins an equal pitch and marks any other
excluded and MISMATCH; any other DIGEST only keeps what its sender holds. After a SHARD_MAP each of its shards is
known at its epoch or a higher one, and the pitch is JOINED. DIR_LOC keeps the directory's place. OWN_PROBE about a
session held here and claimed by another is a conflict, counted, once; it changes nothing else but what is sent.
OWN_STATE about a conflict ends it: the session is lost to a claim of higher epoch, or of the same epoch and a lower
device; else the entries stay. PEER_LOST marks its device lost. -/
def Obligations.MapsDigestsAndConflictsAreSettled : Prop :=
  ∀ (s : State) (l : Fin 16) (b : List Byte), s.Inv →
    let f := readFrame b
    let me := s.rd .fabIdDevice
    (s.Takes l.val 3 b → s.rd .fabPitCfgDomainEn f.pitch = 1 → s.comparesWith f.pitch f = true →
      ∃ t, exec (.digest l b) s = .next t
        ∧ (f.body.take 16 = fill 16 (s.charterDigest f.pitch) → t.rd .fabPitStatusJoined f.pitch = 1
            ∧ s.Leaves t [.fab] (fun g i => g = .fabPitStatusJoined ∧ i = f.pitch))
        ∧ (f.body.take 16 ≠ fill 16 (s.charterDigest f.pitch) → t.rd .fabPitStatusJoined f.pitch = 0
            ∧ t.rd .fabPitStatusMismatch f.pitch = 1 ∧ f.pitch ∈ t.fab.excluded))
    ∧ (s.Takes l.val 3 b → s.rd .fabPitCfgDomainEn f.pitch ≠ 1 ∨ s.comparesWith f.pitch f = false →
      ∃ t, exec (.digest l b) s = .next t ∧ s.Leaves t [.fab] (fun _ _ => False))
    ∧ (s.Takes l.val 0x10 b → ∃ t, exec (.shardMap l b) s = .next t ∧ t.rd .fabPitStatusJoined f.pitch = 1
        ∧ ∀ k, k < getLe f.arg 2 2 → ∃ x ∈ t.fab.shards, x.pitch = f.pitch ∧ x.shard = getLe f.arg 0 2 + k
            ∧ getLe f.body (8 * k + 4) 4 ≤ x.epoch)
    ∧ (s.Takes l.val 0x11 b → ∃ t, exec (.dirLoc l b) s = .next t
        ∧ (f.pitch, getLe f.body 0 8, getLe f.arg 0 1, getLe f.arg 1 1) ∈ t.fab.dirs ∧ s.Leaves t [.fab] (fun _ _ => False))
    ∧ (s.Takes l.val 0x15 b → ∃ t, exec (.ownProbe l b) s = .next t
        ∧ s.Leaves t [.outbox, .lanes, .fab] (fun g i => g = .fabConflictsCount ∧ i = 0)
        ∧ (s.entry? f.pitch f.session = none ∨ getLe f.arg 0 2 % 8192 = me
              ∨ (∃ c ∈ s.fab.conflicts, c.pitch = f.pitch ∧ c.session = f.session) →
            t.fab.conflicts = s.fab.conflicts ∧ t.rd .fabConflictsCount = s.rd .fabConflictsCount)
        ∧ (s.entry? f.pitch f.session ≠ none → getLe f.arg 0 2 % 8192 ≠ me →
            (∀ c ∈ s.fab.conflicts, ¬(c.pitch = f.pitch ∧ c.session = f.session)) →
            t.rd .fabConflictsCount = (s.rd .fabConflictsCount + 1) % 2 ^ 32
            ∧ ∃ c ∈ t.fab.conflicts, c.pitch = f.pitch ∧ c.session = f.session ∧ c.other = getLe f.arg 0 2 % 8192))
    ∧ (s.Takes l.val 0x16 b → ∃ t, exec (.ownState l b) s = .next t
        ∧ (∀ c ∈ t.fab.conflicts, ¬(c.pitch = f.pitch ∧ c.session = f.session))
        ∧ ((∃ c ∈ s.fab.conflicts, c.pitch = f.pitch ∧ c.session = f.session) →
            let dev := getLe f.arg 0 2 % 8192
            let mine := s.myEpoch f.pitch f.session
            (dev ≠ me → mine < getLe f.arg 4 4 ∨ (mine = getLe f.arg 4 4 ∧ dev < me) → t.entry? f.pitch f.session = none)
            ∧ (dev = me ∨ getLe f.arg 4 4 < mine ∨ (mine = getLe f.arg 4 4 ∧ me < dev) → t.entries = s.entries)))
    ∧ (s.Takes l.val 0x18 b → ∃ t, exec (.peerLostFrame l b) s = .next t ∧ getLe f.arg 0 2 % 8192 ∈ t.fab.lost
        ∧ (getLe f.arg 0 2 % 8192 ∈ s.fab.lost → s.Leaves t [.fab] (fun _ _ => False)))

/-- In native mode a move the operator orders, or an OWN_REQ of the current epoch asks for, of a session this block owns
and does not move yet, is kept with its target; ordered of a session it does not own, nothing changes. OWN_GRANT of an
epoch no higher than the known one changes only the frames received; of a higher one that names this block, with room
among the exceptions, makes it the owner at that epoch. OWN_ANNOUNCE of a lower epoch changes nothing else; OWN_NACK
ends the move and the entry stays. A move asked for OWN_TMO ago is over with FAB_STATUS.MOVE_FAIL; earlier, and
without a conflict, nothing happens. -/
def Obligations.OwnershipMovesByGrantAndEpoch : Prop :=
  (∀ (s : State) (w : Word), s.Running → s.rd .fabCfgMode = 0 →
      let p := w.toNat / 256 % 64
      let se := ((s.fab.moveLo.find? (·.1 == 0x40)).map (·.2)).getD 0 + 2 ^ 32 * (w.toNat % 256)
      (∃ t, exec (.ownershipMove operatorId w) s = .next t
        ∧ s.Leaves t [.outbox, .entries, .parks, .lanes, .fab, .tier, .free] (fun _ _ => False))
      ∧ ((s.owner? p se).map (·.1) ≠ some (s.rd .fabIdDevice) → exec (.ownershipMove operatorId w) s = .next s)
      ∧ ((s.owner? p se).map (·.1) = some (s.rd .fabIdDevice) → s.rd .fabPitCfgDomainEn p = 1 → s.move? p se = none →
          ∃ t m, exec (.ownershipMove operatorId w) s = .next t ∧ t.move? p se = some m ∧ m.target = w.toNat / 2 ^ 16 % 8192))
  ∧ (∀ (s : State) (l : Fin 16) (b : List Byte),
      let f := readFrame b
      let p := f.pitch
      let se := f.session
      let me := s.rd .fabIdDevice
      (s.Takes l.val 0x12 b → ∃ t, exec (.ownReq l b) s = .next t
        ∧ ((s.owner? p se).map (·.1) ≠ some me ∨ getLe f.arg 4 4 ≠ s.ownEpoch p se →
            s.Leaves t [.outbox, .lanes, .fab] (fun _ _ => False) ∧ t.fab.moves = s.fab.moves)
        ∧ ((s.owner? p se).map (·.1) = some me → getLe f.arg 4 4 = s.ownEpoch p se → s.rd .fabCfgMode = 0 →
            s.rd .fabPitCfgDomainEn p = 1 → s.move? p se = none → ∃ m, t.move? p se = some m ∧ m.target = getLe f.arg 0 2 % 8192))
      ∧ (s.Takes l.val 0x13 b → ∃ t, exec (.ownGrant l b) s = .next t
        ∧ ((s.owner? p se).isSome → getLe f.arg 4 4 ≤ s.ownEpoch p se →
            s.Leaves t [.fab] (fun _ _ => False) ∧ t.owner? p se = s.owner? p se)
        ∧ (s.owner? p se = none ∨ s.ownEpoch p se < getLe f.arg 4 4 → getLe f.arg 0 2 % 8192 = me → s.fab.exc.length < 65536 →
            t.owner? p se = some (me, getLe f.arg 4 4) ∧ t.entries = s.entries))
      ∧ (s.Takes l.val 0x14 b → ∃ t, exec (.ownNack l b) s = .next t ∧ t.move? p se = none ∧ t.entries = s.entries
        ∧ s.Leaves t [.outbox, .revives, .lanes, .fab, .dbk] (fun g _ => g = .dbkDroppedCount))
      ∧ (s.Takes l.val 0x17 b → se ≠ 0 → ∀ d e, s.owner? p se = some (d, e) → getLe f.arg 4 4 < e →
          ∃ t, exec (.ownAnnounce l b) s = .next t ∧ s.Leaves t [.fab] (fun _ _ => False) ∧ t.owner? p se = some (d, e)))
  ∧ ∀ (s : State) (p : Fin 64) (se : Session), s.pwr.hold = .none →
      (∀ c ∈ s.fab.conflicts, ¬(c.pitch = p.val ∧ c.session = se.toNat)) →
      (∀ m, s.move? p.val se.toNat = some m → m.asked = true → m.since + 80 * s.rd .fabTimingOwnTmo ≤ s.clk.ticks →
        ∃ t, exec (.ownTimeout p se) s = .next t ∧ t.move? p.val se.toNat = none ∧ t.rd .fabStatusMoveFail = 1
          ∧ s.Leaves t [.fab] (fun f i => f = .fabStatusMoveFail ∧ i = 0))
      ∧ ((∀ m, s.move? p.val se.toNat = some m → m.asked = false ∨ s.clk.ticks < m.since + 80 * s.rd .fabTimingOwnTmo) →
        exec (.ownTimeout p se) s = .next s)

/-- A PUSH_TAP for a session this block owns, with room in the push buffer, is gathered there; for any other it changes
nothing but the frames received. A PUSH_HEAD for a session it does not own is answered and refused: the entries stay.
PUSH_ACK of status 0 from the block a request's summary went to acknowledges it; any other status leaves it. An entry
of the push buffer without its header that has waited OWN_TMO is dropped, no other. A MEM_CPL that brings the rest of
a read, and a MEM_WR_ACK without error, end their transaction; one of no open transaction changes nothing else. -/
def Obligations.PushesAndPoolTransfersComplete : Prop :=
  (∀ (s : State) (l : Fin 16) (b : List Byte),
      let f := readFrame b
      let p := f.pitch
      let se := f.session
      let tag := getLe f.arg 0 3
      (s.Takes l.val 0x20 b → ∃ t, exec (.pushTap l b) s = .next t
        ∧ (s.ownsSession p se = false → s.Leaves t [.fab] (fun _ _ => False) ∧ t.fab.pushes = s.fab.pushes)
        ∧ (s.ownsSession p se = true → s.fab.pushes.length < 256 → ∃ x ∈ t.fab.pushes, x.isOf p se tag f.src = true))
      ∧ (s.Takes l.val 0x21 b → s.ownsSession p se = false → ∃ t, exec (.pushHead l b) s = .next t ∧ t.entries = s.entries
        ∧ (∀ x ∈ t.fab.pushes, x ∈ s.fab.pushes) ∧ t.reqs = s.reqs)
      ∧ (s.Takes l.val 0x22 b → ∃ t, exec (.pushAck l b) s = .next t
        ∧ (getLe f.arg 3 1 ≠ 0 → s.Leaves t [.fab] (fun _ _ => False))
        ∧ (∀ r, getLe f.arg 3 1 = 0 → s.req? p se tag = some r → r.push = .sent f.src →
            t.req? p se tag = some { r with push := .acked } ∧ s.Leaves t [.reqs, .fab] (fun _ _ => False)))
      ∧ (s.Takes l.val 0x32 b → ∃ t, exec (.memCpl l b) s = .next t
        ∧ ((∀ x ∈ s.fab.txns, x.id = f.txn → x.write = true) → s.Leaves t [.fab] (fun _ _ => False) ∧ t.fab.txns = s.fab.txns)
        ∧ (∀ x, s.fab.txns.find? (fun x => x.id == f.txn && !x.write) = some x → getLe f.arg 4 1 = 0 →
            (∀ o ∈ s.fab.dirOps, o.txn ≠ x.id) → x.left ≤ f.body.length →
            t.fab.txns = s.fab.txns.filter (fun y => y.id != f.txn) ∧ s.Leaves t [.fab] (fun _ _ => False)))
      ∧ (s.Takes l.val 0x33 b → ∃ t, exec (.memWrAck l b) s = .next t
        ∧ (∀ x, s.fab.txns.find? (fun x => x.id == f.txn && x.write) = some x → getLe f.arg 4 1 = 0 →
            t.fab.txns = s.fab.txns.filter (fun y => y.id != f.txn) ∧ s.Leaves t [.fab] (fun _ _ => False))))
  ∧ ∀ (s : State) (p : Fin 64) (se : Session), s.pwr.hold = .none →
      ∃ t, exec (.pushBufferExpiry p se) s = .next t ∧ s.Leaves t [.fab] (fun _ _ => False)
        ∧ ∀ x, x ∈ t.fab.pushes ↔ x ∈ s.fab.pushes ∧ ¬(x.pitch = p.val ∧ x.session = se.toNat ∧ x.head = none
            ∧ x.since + 80 * s.rd .fabTimingOwnTmo ≤ s.clk.ticks)

/-- STARTUP acts only in reset, with nothing else holding the block. A failing known-answer test sets KAT_FAIL and nothing
is read. A charter device that does not answer gives CHR_ERR 1, no valid location block 2, and STATE FAILED; else the
primary image is read. IMAGE_READ_COMPLETE acts only while an image is read. An image that fails a check leaves its
code and offset, and the alternate is read, or, from the alternate or without one, the start has failed. One that
verifies gives LOADING, its keys, the fuse orders and, under LOCK_MODE 0 or out of a power-on, the lock. -/
def Obligations.StartUpAndItsImages : Prop :=
  (∀ (s : State) (k : BitVec 8) (x d : Bool) (l0 l1 : List Byte),
      (s.pwr.phase ≠ .reset ∨ ¬(s.pwr.hold = .none ∨ s.pwr.hold = .clkLoss) → exec (.startup k x d l0 l1) s = .next s)
      ∧ (s.pwr.phase = .reset → s.pwr.hold = .none ∨ s.pwr.hold = .clkLoss →
        ∃ t, exec (.startup k x d l0 l1) s = .next t ∧ t.pwr.hold = .none ∧ t.fuse = s.fuse ∧ t.keys = s.keys
          ∧ (k ≠ 0#8 → t.pwr.phase = .katFail ∧ t.rd .glbSecStatusKatFail = 1 ∧ t.rd .chrStatusState = s.rd .chrStatusState
              ∧ s.Leaves t [.outbox, .pwr, .dbk] (fun f i => i = 0 ∧ (f = .glbSecStatusKatFail ∨ f = .dbkDroppedCount)))
          ∧ (k = 0#8 → t.rd .glbSecStatusKatOk = 1
              ∧ (x = false → t.pwr.phase = .failed ∧ t.rd .chrStatusState = 7 ∧ t.rd .chrErrCode = 1)
              ∧ (x = true → readLoc l0 = none → readLoc l1 = none →
                  t.pwr.phase = .failed ∧ t.rd .chrStatusState = 7 ∧ t.rd .chrErrCode = 2)
              ∧ (∀ l, x = true → readLoc l0 = some l ∨ (readLoc l0 = none ∧ readLoc l1 = some l) →
                  t.pwr.phase = .reading false ∧ t.rd .chrStatusState = 1 ∧ t.rd .chrStatusImage = 0
                  ∧ t.dbk.regionLen = l.dbkLen ∧ t.pwr.altPresent = decide (l.alt ≠ 0)
                  ∧ (⟨s.clk.hp, .imageRead false⟩ : Emit) ∈ t.outbox.drop s.outbox.length))))
  ∧ ∀ (s : State) (data : ReadData),
      (s.pwr.hold ≠ .none ∨ (∀ alt, s.pwr.phase ≠ .reading alt) → exec (.imageReadComplete data) s = .next s)
      ∧ ∀ alt, s.pwr.hold = .none → s.pwr.phase = .reading alt →
        let b := match data with
          | .ok b => b
          | .error => []
        let h := readHdr b
        ∃ t, exec (.imageReadComplete data) s = .next t
          ∧ (∀ e, s.verify b = .inl e → t.rd .chrErrCode = e.1 % 256 ∧ t.rd .chrErrOffOffset = e.2 % 2 ^ 32
              ∧ t.fuse = s.fuse ∧ t.keys = s.keys
              ∧ (alt = false → s.pwr.altPresent = true → t.pwr.phase = .reading true ∧ t.rd .chrStatusState = 1 ∧ t.rd .chrStatusImage = 1
                  ∧ (⟨s.clk.hp, .imageRead true⟩ : Emit) ∈ t.outbox.drop s.outbox.length)
              ∧ (alt = true ∨ s.pwr.altPresent = false → t.pwr.phase = .failed ∧ t.rd .chrStatusState = 7))
          ∧ (∀ v, s.verify b = .inr v → t.pwr.phase = .loading ∧ t.rd .chrStatusState = 3 ∧ t.keys = v.keys
              ∧ t.chr.cfgs = v.build.cfgs ∧ t.fuse.revoked = s.fuse.revoked ||| h.revoke ∧ t.fuse.svn = max s.fuse.svn h.svnBurn
              ∧ t.rd .chrStatusLocked = if h.lockMode = 1 ∧ s.pwr.powerOn = true then s.rd .chrStatusLocked else 1)

/-- TOLL_READY, with the charter loaded, sets TOLL_STATUS.READY, gives STATE RUNNING and leaves in CHR_START_MS the
milliseconds since STARTUP, rounded up and at most 65,535, and in native mode no pitch's JOINED changes; otherwise it
does nothing. LOCK_SET by the operator with SET = 1 sets LOCKED and nothing else; with SET = 0 it does nothing.
LOCK_TIMEOUT under LOCK_MODE 1 sets LOCKED when LOCK_TMO_MS has passed from Toll ready, and otherwise does nothing. -/
def Obligations.ReadyAndTheLock : Prop :=
  (∀ s : State,
      (s.pwr.hold ≠ .none ∨ s.pwr.phase ≠ .loading → exec .tollReady s = .next s)
      ∧ ∀ h, s.pwr.hold = .none → s.pwr.phase = .loading → s.pwr.build = some h → s.pwr.startTick ≤ s.clk.ticks →
        ∃ t, exec .tollReady s = .next t ∧ t.pwr.phase = .done ∧ t.rd .tollStatusReady = 1 ∧ t.rd .chrStatusState = 4
          ∧ t.pwr.readyTick = some s.clk.ticks
          ∧ (∀ n, (n - 1) * 8000 < s.clk.ticks - s.pwr.startTick → s.clk.ticks - s.pwr.startTick ≤ n * 8000 → n ≤ 65535 →
              t.rd .chrStartMsMs = n)
          ∧ (65535 * 8000 < s.clk.ticks - s.pwr.startTick → t.rd .chrStartMsMs = 65535)
          ∧ s.Leaves t [.outbox, .pwr, .pits, .stalls, .lanes, .dbk]
              (fun f i => (i = 0 ∧ f ∈ [.chrStartMsMs, .chrStatusState, .dbkDroppedCount, .tollStatusReady]) ∨ f = .fabPitStatusJoined)
          ∧ (s.rd .fabCfgMode = 0 → ∀ i, t.rd .fabPitStatusJoined i = s.rd .fabPitStatusJoined i))
  ∧ (∀ (s : State) (w : Word), s.Running →
      (w.getLsbD 0 = true → ∃ t, exec (.lockSet operatorId w) s = .next t ∧ t.rd .chrStatusLocked = 1
        ∧ s.Leaves t [] (fun f i => f = .chrStatusLocked ∧ i = 0))
      ∧ (w.getLsbD 0 = false → exec (.lockSet operatorId w) s = .next s))
  ∧ ∀ s : State,
      (∀ h k, s.pwr.hold = .none → s.chr.hdr = some h → s.pwr.readyTick = some k → h.lockMode = 1 → k + 8000 * h.lockTmo ≤ s.clk.ticks →
        ∃ t, exec .lockTimeout s = .next t ∧ t.rd .chrStatusLocked = 1 ∧ s.Leaves t [] (fun f i => f = .chrStatusLocked ∧ i = 0))
      ∧ ((∀ h k, s.chr.hdr = some h → s.pwr.readyTick = some k → h.lockMode ≠ 1 ∨ s.clk.ticks < k + 8000 * h.lockTmo) →
        exec .lockTimeout s = .next s)

/-- Written by the operator, SUBMIT starts a read of the image with STATE READING and APPLY kept, unless an amendment is
in progress: then it sets only BUSY_ERR. CANCEL refuses one in progress with 0x25, and is nothing else; beside SUBMIT
it goes first. A failed read gives 0x24, as one of another length does (the model's choice, notes/assumptions/118.md),
a failed check its code, and an amendment of too many models 0x23 with detail 4; any other stages or waits with its
image kept and its pitch named, or does not fit (0x23, detail 1). WAITING ends in STAGING when nothing uses what the
image names, with the epoch to be raised, and is refused (0x23, detail 2) once CHR_AMD_WAIT.MS has passed; else
nothing happens. -/
def Obligations.AmendmentsAreOneAtATime : Prop :=
  (∀ (s : State) (w : Word), s.Inv → s.Running →
      let busy : Prop := 1 ≤ s.rd .chrAmdStatusState ∧ s.rd .chrAmdStatusState ≤ 5
      (w.getLsbD 2 = false →
        (w.getLsbD 0 = false → exec (.amendSubmit operatorId w) s = .next s)
        ∧ (w.getLsbD 0 = true → busy → ∃ t, exec (.amendSubmit operatorId w) s = .next t ∧ t.rd .chrAmdStatusBusyErr = 1
            ∧ s.Leaves t [] (fun f i => f = .chrAmdStatusBusyErr ∧ i = 0))
        ∧ (w.getLsbD 0 = true → ¬busy → ∃ t, exec (.amendSubmit operatorId w) s = .next t ∧ t.rd .chrAmdStatusState = 1
            ∧ t.rd .chrAmdErrCode = 0 ∧ t.rd .chrAmdErrDetail = 0 ∧ t.amd = { apply := w.getLsbD 1 }
            ∧ t.outbox = s.outbox ++ [⟨s.clk.hp, .t2Read 0x40 (s.addrPair .chrAmdAddrLoAddr .chrAmdAddrHiAddr 0) (s.rd .chrAmdLenBytes)⟩]
            ∧ s.Leaves t [.outbox, .amd] (fun f i => i = 0 ∧ f ∈ [.chrAmdStatusState, .chrAmdStatusPitch, .chrAmdErrCode, .chrAmdErrDetail])))
      ∧ (w.getLsbD 2 = true →
        (w.getLsbD 0 = false → exec (.amendSubmit operatorId w) s = exec (.amendCancel operatorId) s)
        ∧ (w.getLsbD 0 = true → ∃ t, exec (.amendSubmit operatorId w) s = .next t ∧ t.rd .chrAmdStatusState = 1
            ∧ t.amd = { apply := w.getLsbD 1 }))
      ∧ (¬busy → exec (.amendCancel operatorId) s = .next s)
      ∧ (busy → ∃ t, exec (.amendCancel operatorId) s = .next t ∧ t.rd .chrAmdStatusState = 7 ∧ t.rd .chrAmdErrCode = 0x25
          ∧ t.rd .chrAmdErrDetail = 0 ∧ t.amd = {} ∧ (t.pit (s.rd .chrAmdStatusPitch)).amending = false
          ∧ s.Leaves t [.outbox, .pits, .amd, .lanes, .fab, .dbk] (fun f i => i = 0 ∧ f ∈ [.chrAmdStatusState, .chrAmdErrCode, .chrAmdErrDetail, .dbkDroppedCount])))
  ∧ (∀ (s : State) (b : List Byte), s.pwr.hold = .none →
      (s.rd .chrAmdStatusState ≠ 1 → ∀ d, exec (.amendReadComplete d) s = .next s)
      ∧ (s.rd .chrAmdStatusState = 1 →
        (∀ d, fitRead (s.rd .chrAmdLenBytes) d = .error → ∃ t, exec (.amendReadComplete d) s = .next t ∧ t.rd .chrAmdStatusState = 7
            ∧ t.rd .chrAmdErrCode = 0x24 ∧ t.amd = {})
        ∧ (b.length = s.rd .chrAmdLenBytes → ∃ t, exec (.amendReadComplete (.ok b)) s = .next t
            ∧ (∀ c, s.amdCheck b = .inl c → t.rd .chrAmdStatusState = 7 ∧ t.rd .chrAmdErrCode = c % 256 ∧ t.rd .chrAmdErrDetail = 0
                ∧ t.amd = {})
            ∧ (∀ g, s.amdCheck b = .inr g →
                let p := (readHdr b).apitch
                t.rd .chrAmdStatusPitch = p % 64
                ∧ (1024 < s.mdlCount p g → t.rd .chrAmdStatusState = 7 ∧ t.rd .chrAmdErrCode = 0x23 ∧ t.rd .chrAmdErrDetail = 4)
                ∧ (s.mdlCount p g ≤ 1024 →
                    (t.rd .chrAmdStatusState = 3 ∧ t.amd.image = b ∧ t.amd.gen = some g ∧ t.amd.apply = s.amd.apply)
                    ∨ (t.rd .chrAmdStatusState = 5 ∧ t.amd.image = b ∧ t.amd.gen = some g ∧ t.amd.waitTick = s.clk.ticks)
                    ∨ (t.rd .chrAmdStatusState = 7 ∧ t.rd .chrAmdErrCode = 0x23 ∧ t.rd .chrAmdErrDetail = 1))))))
  ∧ ∀ s : State, s.Inv → s.pwr.hold = .none →
      (s.rd .chrAmdStatusState ≠ 5 ∨ s.amendInUse (readDir s.amd.image) (s.rd .chrAmdStatusPitch) = true → exec .amendWaitEnd s = .next s)
      ∧ (s.rd .chrAmdStatusState = 5 → s.amendInUse (readDir s.amd.image) (s.rd .chrAmdStatusPitch) = false →
          ∃ t, exec .amendWaitEnd s = .next t ∧ t.rd .chrAmdStatusState = 3 ∧ t.amd = { s.amd with apply := true }
            ∧ s.Leaves t [.amd] (fun f i => f = .chrAmdStatusState ∧ i = 0))
      ∧ (s.rd .chrAmdStatusState ≠ 5 ∨ s.clk.ticks < s.amd.waitTick + 8000 * s.rd .chrAmdWaitMs → exec .amendWaitTimeout s = .next s)
      ∧ (s.rd .chrAmdStatusState = 5 → s.amd.waitTick + 8000 * s.rd .chrAmdWaitMs ≤ s.clk.ticks →
          ∃ t, exec .amendWaitTimeout s = .next t ∧ t.rd .chrAmdStatusState = 7 ∧ t.rd .chrAmdErrCode = 0x23 ∧ t.rd .chrAmdErrDetail = 2
            ∧ (t.pit (s.rd .chrAmdStatusPitch)).amending = false ∧ t.amd = {})

/-- AMEND_STAGED acts only in STAGING. An enabled pitch without APPLY keeps its epoch, the amendment STAGED; with APPLY, a
Bell outstanding is waited for, and else the epoch is raised by a Bell; for a disabled pitch it is raised without one.
Where every stall the amendment moves may move, the raise applies it: STATE APPLIED, the epoch one higher and in
CHR_PIT_AEPOCH, its sequence number in CHR_PIT_AMD; where one may not, it is refused with 0x23, detail 3, and the
epoch is raised. -/
def Obligations.AStagedAmendmentWaitsForItsEpoch : Prop :=
  ∀ s : State, s.Inv →
    (s.pwr.hold ≠ .none ∨ s.rd .chrAmdStatusState ≠ 3 → exec .amendStaged s = .next s)
    ∧ (s.pwr.hold = .none → s.rd .chrAmdStatusState = 3 →
      let p := s.rd .chrAmdStatusPitch
      ∃ t, exec .amendStaged s = .next t
        ∧ (s.rd .pitStatusEnabled p = 1 → s.amd.apply = false → t.rd .chrAmdStatusState = 4 ∧ t.amd = s.amd
            ∧ t.rd .pitEpochEpoch p = s.rd .pitEpochEpoch p ∧ t.gens = s.gens)
        ∧ (s.rd .pitStatusEnabled p = 1 → s.amd.apply = true → (s.pit p).bell ≠ none →
            t.rd .chrAmdStatusState = 4 ∧ t.amd = { s.amd with bellWait := true } ∧ t.rd .pitEpochEpoch p = s.rd .pitEpochEpoch p)
        ∧ (s.rd .pitStatusEnabled p = 0 ∨ (s.amd.apply = true ∧ (s.pit p).bell = none) → (s.stallMoves (s.amdAlloc s.amd.image)).all s.canMove = true →
            t.rd .chrAmdStatusState = 6 ∧ t.amd = {} ∧ t.rd .pitEpochEpoch p = (s.rd .pitEpochEpoch p + 1) % 2 ^ 32
            ∧ t.rd .chrPitAepochEpoch p = t.rd .pitEpochEpoch p
            ∧ (∀ h, s.amd.hdr = some h → t.rd .chrPitAmdSeq p = h.amdSeq % 2 ^ 32)
            ∧ (s.rd .pitStatusEnabled p = 0 → (t.pit p).bell = (s.pit p).bell)
            ∧ (s.rd .pitStatusEnabled p = 1 → (t.pit p).bell = some (t.rd .pitEpochEpoch p)))
        ∧ (s.rd .pitStatusEnabled p = 0 ∨ (s.amd.apply = true ∧ (s.pit p).bell = none) →
            (s.stallMoves (s.amdAlloc s.amd.image)).all s.canMove = false →
            t.rd .chrAmdStatusState = 7 ∧ t.amd = {} ∧ t.rd .chrAmdErrCode = 0x23 ∧ t.rd .chrAmdErrDetail = 3
            ∧ t.rd .pitEpochEpoch p = (s.rd .pitEpochEpoch p + 1) % 2 ^ 32))

/-- The CRC of no bytes is 0xFFFF; one bit further the register is shifted left, and 0x1021 is added without carry where
its top bit was 1; a byte enters at the top, most significant bit first. Over the ASCII bytes 123456789 it is 0x29B1.
Two forms of a record that differ in REPEAT agree in every byte but 12 and 13. -/
def Obligations.TheRecordsCrc : Prop :=
  crc16 [] = 0xFFFF
  ∧ (∀ b x, crc16 (b ++ [x]) = (List.range 8).foldl (fun c _ => if c / 2 ^ 15 % 2 = 1 then (2 * c % 2 ^ 16) ^^^ 0x1021 else 2 * c)
      (crc16 b ^^^ (256 * x.toNat)))
  ∧ crc16 [0x31#8, 0x32#8, 0x33#8, 0x34#8, 0x35#8, 0x36#8, 0x37#8, 0x38#8, 0x39#8] = 0x29B1
  ∧ ∀ (r : DRec) (m n : Nat), (r.bytes m).length = 32 ∧ (r.bytes m).take 12 = (r.bytes n).take 12
      ∧ (r.bytes m).drop 14 = (r.bytes n).drop 14
      ∧ getLe (r.bytes m) 28 2 = crc16 ((r.bytes m).take 12 ++ ((r.bytes m).drop 14).take 14)

/-- DAYBOOK_PROGRAM_COMPLETE does nothing in a held block, with an empty buffer, or with the store not in use or full.
Otherwise the oldest records, at least one and at most those that its 256-byte page still takes, leave the buffer in
order: TOP and LIVE go on by as many, and the first stands at the old TOP. SECTOR_ERASE_COMPLETE erases one sector
that holds written slots but no live record; every live record stays; without such a sector nothing happens. -/
def Obligations.RecordsReachTheStoreInOrder : Prop :=
  (∀ s : State, s.Inv →
      let open? : Prop := s.rd .dbkStatusNvOff = 0 ∧ s.rd .dbkNslotCount ≠ 0 ∧ s.rd .dbkLiveCount < 65536
      (s.pwr.hold ≠ .none ∨ s.dbk.buffer = [] ∨ ¬open? → exec .daybookProgramComplete s = .next s)
      ∧ (∀ r rest, s.pwr.hold = .none → open? → s.dbk.buffer = r :: rest → 8 ≤ s.rd .dbkNslotCount →
          s.rd .dbkTopPos < s.rd .dbkNslotCount →
        ∃ t n, exec .daybookProgramComplete s = .next t ∧ 1 ≤ n ∧ n ≤ 8 - s.rd .dbkTopPos % 8 ∧ n ≤ s.dbk.buffer.length
          ∧ t.dbk.buffer = s.dbk.buffer.drop n ∧ t.rd .dbkLiveCount = s.rd .dbkLiveCount + n
          ∧ t.rd .dbkTopPos = (s.rd .dbkTopPos + n) % s.rd .dbkNslotCount
          ∧ (∃ k, (s.rd .dbkTopPos, some { r with rep := k }) ∈ t.dbk.store)
          ∧ s.Leaves t [.outbox, .dbk] (fun f i => i = 0 ∧ f ∈ [.dbkLiveCount, .dbkStatusFull, .dbkTopPos])))
  ∧ ∀ s : State, s.pwr.hold = .none →
      let dead (k : Nat) : Prop := (∃ x ∈ s.dbk.store, x.1 / 128 = k) ∧ ∀ x ∈ s.dbk.store, x.1 / 128 = k → s.slotLive x.1 = false
      (s.rd .dbkStatusNvOff = 1 ∨ s.rd .dbkNslotCount = 0 ∨ (∀ k, ¬dead k) → exec .sectorEraseComplete s = .next s)
      ∧ (s.rd .dbkStatusNvOff = 0 → s.rd .dbkNslotCount ≠ 0 → (∃ k, dead k) →
          ∃ t k, exec .sectorEraseComplete s = .next t ∧ dead k ∧ t.outbox = s.outbox ++ [⟨s.clk.hp, .sectorErase (k + 2)⟩]
            ∧ (∀ x, x ∈ t.dbk.store ↔ x ∈ s.dbk.store ∧ x.1 / 128 ≠ k) ∧ t.dbk.buffer = s.dbk.buffer
            ∧ s.Leaves t [.outbox, .dbk] (fun _ _ => False))

/-- VIEW_NEXT by the view's own accessor returns 0xFFFFFFFF when no further record is shown; 0xFFFFFFFE, and the fetch
begins, when the next one stands in the device, and again while it is fetched; and, for a record still in the buffer
or fetched, its position, with its 32 bytes in the view's data words and the cursor past it. VIEW_FETCH_COMPLETE ends
the fetch, so that the record is at hand. VIEW_REWIND returns BASE and sets the cursor before it. -/
def Obligations.ViewsReadForward : Prop :=
  (∀ (s : State) (acc : Accessor) (v : Fin 66), s.Inv → s.Running → viewOwner v acc = true →
      let w := s.view v
      let ahead := s.fromCursor w.cursor
      let said (t : State) (n : Nat) : Prop := t.outbox = s.outbox ++ [⟨s.clk.hp, .readData acc.toNat (Fld.dbkVPosPos.desc.addr v) n⟩]
      let took (t : State) (x : Shown) (r : DRec) : Prop := said t x.pos ∧ (t.view v).cursor = some (x.pos + 1)
        ∧ (∀ j, j < 8 → t.rd .dbkVDataBytes (8 * v + j) = getLe (r.bytes r.rep) (4 * j) 4) ∧ t.rd .dbkVStatCrcBad v = 0
        ∧ s.Leaves t [.outbox, .dbk] (fun f i => (i = v ∧ f ∈ [.dbkVStatCrcBad, .dbkVStatOpen, .dbkVStatSkipped])
          ∨ (f = .dbkVDataBytes ∧ i / 8 = v))
      (w.ready = none → w.fetching = none → (∀ x ∈ ahead, viewShows v x = false) →
        ∃ t, exec (.viewNext acc v) s = .next t ∧ said t 0xFFFFFFFF ∧ s.Leaves t [.outbox] (fun _ _ => False))
      ∧ (∀ n, w.ready = none → w.fetching = some n →
        ∃ t, exec (.viewNext acc v) s = .next t ∧ said t 0xFFFFFFFE ∧ s.Leaves t [.outbox] (fun _ _ => False))
      ∧ (∀ x, w.ready = none → w.fetching = none → ahead.find? (viewShows v) = some x →
        ∃ t, exec (.viewNext acc v) s = .next t
          ∧ (x.buffered = false → said t 0xFFFFFFFE ∧ (t.view v).fetching = some x.pos ∧ s.Leaves t [.outbox, .dbk] (fun _ _ => False))
          ∧ (∀ r, x.buffered = true → x.what = some r → took t x r))
      ∧ (∀ n x r, w.ready = some n → ahead.find? (fun x => x.pos == n) = some x → x.what = some r →
        ∃ t, exec (.viewNext acc v) s = .next t ∧ took t x r)
      ∧ (∃ t, exec (.viewRewind acc v) s = .next t ∧ (t.view v).cursor = none ∧ (t.view v).fetching = none ∧ (t.view v).ready = none
          ∧ t.outbox = s.outbox ++ [⟨s.clk.hp, .readData acc.toNat (Fld.dbkVRewindBase.desc.addr v) (s.rd .dbkBasePos)⟩]
          ∧ s.Leaves t [.outbox, .dbk] (fun _ _ => False)))
  ∧ ∀ (s : State) (v : Fin 66), s.Inv →
      ((s.view v).fetching = none → exec (.viewFetchComplete v) s = .next s)
      ∧ (∀ n, (s.view v).fetching = some n → ∃ t, exec (.viewFetchComplete v) s = .next t
          ∧ (t.view v).fetching = none ∧ (t.view v).ready = some n ∧ (t.view v).cursor = (s.view v).cursor
          ∧ s.Leaves t [.dbk] (fun _ _ => False))

/-- GO written by the operator reads the 320-byte order with STATE 1, or is refused: 9 while one is checked or not yet
carried out, 10 with the store not in use. A failed read gives 8, as one not of 320 bytes does (the model's choice,
notes/assumptions/118.md), an order that fails a check the code of the first that fails; the order is kept otherwise,
and STATE is 2. CLEAR_COMMIT, with an order kept, programs the CLEARED record with its COUNT and new base at TOP,
moves BASE there and takes COUNT from LIVE, FULL following LIVE; without one nothing happens. -/
def Obligations.ClearingOrdersMoveTheBase : Prop :=
  (∀ (s : State) (w : Word), s.Running →
      (w.getLsbD 0 = false → exec (.clearOrderSubmit operatorId w) s = .next s)
      ∧ (w.getLsbD 0 = true → ∃ t, exec (.clearOrderSubmit operatorId w) s = .next t ∧ t.dbk.store.length = s.dbk.store.length
          ∧ t.rd .dbkBasePos = s.rd .dbkBasePos ∧ t.rd .dbkLiveCount = s.rd .dbkLiveCount ∧ t.dbk.clear = s.dbk.clear
          ∧ (s.rd .dbkClrStatState = 1 ∨ s.dbk.clear ≠ none → t.rd .dbkClrStatErr = 9 ∧ t.rd .dbkClrStatState = s.rd .dbkClrStatState)
          ∧ (s.rd .dbkClrStatState ≠ 1 → s.dbk.clear = none →
            (s.rd .dbkStatusNvOff = 1 → t.rd .dbkClrStatErr = 10 ∧ t.rd .dbkClrStatState = 3)
            ∧ (s.rd .dbkStatusNvOff = 0 → t.rd .dbkClrStatErr = 0 ∧ t.rd .dbkClrStatState = 1
                ∧ t.outbox = s.outbox ++ [⟨s.clk.hp, .t2Read 0x40 (s.addrPair .dbkClrAddrLoAddr .dbkClrAddrHiAddr 0) 320⟩]
                ∧ s.Leaves t [.outbox] (fun f i => i = 0 ∧ (f = .dbkClrStatErr ∨ f = .dbkClrStatState))))))
  ∧ (∀ (s : State) (b : List Byte), s.pwr.hold = .none →
      (s.rd .dbkClrStatState ≠ 1 → ∀ d, exec (.clearOrderChecked d) s = .next s)
      ∧ (s.rd .dbkClrStatState = 1 →
        (∀ d, fitRead 320 d = .error → ∃ t, exec (.clearOrderChecked d) s = .next t ∧ t.rd .dbkClrStatErr = 8
            ∧ t.rd .dbkClrStatState = 3 ∧ t.dbk.clear = s.dbk.clear)
        ∧ (∀ e, b.length = 320 → s.orderErr b = some e → ∃ t, exec (.clearOrderChecked (.ok b)) s = .next t ∧ t.rd .dbkClrStatErr = e
            ∧ t.rd .dbkClrStatState = 3 ∧ t.dbk.clear = s.dbk.clear)
        ∧ (b.length = 320 → s.orderErr b = none → ∃ t c, exec (.clearOrderChecked (.ok b)) s = .next t ∧ t.rd .dbkClrStatErr = 0
            ∧ t.rd .dbkClrStatState = 2 ∧ t.dbk.clear = some c ∧ c.count = getLe b 40 4
            ∧ c.newBase = (s.rd .dbkBasePos + getLe b 40 4) % s.rd .dbkNslotCount
            ∧ t.dbk.store = s.dbk.store ∧ s.Leaves t [.dbk] (fun f i => i = 0 ∧ (f = .dbkClrStatErr ∨ f = .dbkClrStatState)))))
  ∧ ∀ s : State, s.Inv →
      (s.dbk.clear = none → exec .clearCommit s = .next s)
      ∧ ∀ c, s.dbk.clear = some c → s.rd .dbkLiveCount ≤ 65536 → c.newBase < 2 ^ 17 →
        ∃ t r, exec .clearCommit s = .next t ∧ t.dbk.clear = none ∧ t.rd .dbkBasePos = c.newBase
          ∧ t.rd .dbkLiveCount = s.rd .dbkLiveCount + 1 - c.count
          ∧ t.rd .dbkStatusFull = (if 65536 ≤ s.rd .dbkLiveCount + 1 - c.count then 1 else 0)
          ∧ (s.rd .dbkTopPos, some r) ∈ t.dbk.store ∧ r.code = 0xF001 ∧ r.p0 = c.count ∧ r.p1 = c.newBase
          ∧ t.rd .dbkTopPos = (s.rd .dbkTopPos + 1) % s.rd .dbkNslotCount % 2 ^ 17
          ∧ s.Leaves t [.outbox, .dbk] (fun f _ => f ∈ [.dbkBasePos, .dbkLiveCount, .dbkStatusFull, .dbkTopPos, .dbkVStatSkipped])
end

