-- ==== Sys2Proof/Laws/Regs.lean ====
section
/-! SUPPORT. The register file: its one form, what a write leaves, and that a write is read back. -/

namespace Sys2Proof.Machine

theorem fld_ctorIdx_inj {a b : Fld} (h : a.ctorIdx = b.ctorIdx) : a = b := by
  have := congrArg Fld.ofNat h
  rwa [Fld.ofNat_ctorIdx, Fld.ofNat_ctorIdx] at this

theorem cellBefore_iff {f g : Fld} {i j : Nat} :
    cellBefore f i g j = true ↔ f.ctorIdx < g.ctorIdx ∨ (f.ctorIdx = g.ctorIdx ∧ i < j) := by
  simp [cellBefore]

theorem cellBefore_trans {f g h : Fld} {i j k : Nat} (a : cellBefore f i g j = true) (b : cellBefore g j h k = true) :
    cellBefore f i h k = true := by
  rw [cellBefore_iff] at *; omega

theorem cellBefore_total {f g : Fld} {i j : Nat} (h : cellBefore f i g j = false) (hne : ¬(g = f ∧ j = i)) :
    cellBefore g j f i = true := by
  rw [← Bool.not_eq_true, cellBefore_iff] at h
  rw [cellBefore_iff]
  by_cases e : g.ctorIdx = f.ctorIdx
  · have : j ≠ i := fun h => hne ⟨fld_ctorIdx_inj e, h⟩
    omega
  · omega

/-- Order of two cells. -/
def RegCell.before (c d : RegCell) : Prop := cellBefore c.fld c.idx d.fld d.idx = true

/-- The one form, said of all cells at once. -/
theorem regsWf_iff {r : List RegCell} :
    regsWf r = true ↔ (∀ c ∈ r, c.val ≠ c.fld.resetVal) ∧ r.Pairwise RegCell.before := by
  induction r with
  | nil => simp [regsWf]
  | cons c cs ih =>
    cases cs with
    | nil => simp [regsWf]
    | cons d ds =>
      simp only [regsWf, Bool.and_eq_true, bne_iff_ne, ne_eq, ih, List.mem_cons, List.pairwise_cons, forall_eq_or_imp]
      constructor
      · rintro ⟨⟨h1, h2⟩, ⟨h3, h4⟩, h5, h6⟩
        exact ⟨⟨h1, h3, h4⟩, ⟨h2, fun x hx => cellBefore_trans h2 (h5 x hx)⟩, h5, h6⟩
      · rintro ⟨⟨h1, h3, h4⟩, ⟨h2, _⟩, h5, h6⟩
        exact ⟨⟨h1, h2⟩, ⟨h3, h4⟩, h5, h6⟩

theorem mem_cellInsert {f : Fld} {i : Nat} {v : Word} {r : List RegCell} {c : RegCell} :
    c ∈ cellInsert f i v r ↔ c = ⟨f, i, v⟩ ∨ c ∈ r := by
  induction r with
  | nil => simp [cellInsert]
  | cons d ds ih =>
    simp only [cellInsert]
    split
    · simp
    · rw [List.mem_cons, ih, List.mem_cons]; exact or_left_comm

theorem pairwise_cellInsert {f : Fld} {i : Nat} {v : Word} {r : List RegCell} (h : r.Pairwise RegCell.before)
    (hne : ∀ c ∈ r, ¬(c.fld = f ∧ c.idx = i)) : (cellInsert f i v r).Pairwise RegCell.before := by
  induction r with
  | nil => simp [cellInsert]
  | cons d ds ih =>
    rw [List.pairwise_cons] at h
    simp only [cellInsert]
    split
    · rename_i hb
      exact List.pairwise_cons.2 ⟨fun c hc => by
        rcases List.mem_cons.1 hc with rfl | hc
        · exact hb
        · exact cellBefore_trans hb (h.1 c hc), List.pairwise_cons.2 h⟩
    · rename_i hb
      refine List.pairwise_cons.2 ⟨fun c hc => ?_, ih h.2 fun c hc => hne c (List.mem_cons_of_mem _ hc)⟩
      rcases mem_cellInsert.1 hc with rfl | hc
      · exact cellBefore_total (Bool.not_eq_true _ ▸ hb) (hne d (List.mem_cons_self ..))
      · exact h.1 c hc

/-- The cells but that of a copy. -/
def otherCells (r : List RegCell) (f : Fld) (i : Nat) : List RegCell := r.filter (fun c => decide (¬ (c.fld = f ∧ c.idx = i)))

theorem mem_otherCells {r : List RegCell} {f : Fld} {i : Nat} {c : RegCell} :
    c ∈ otherCells r f i ↔ c ∈ r ∧ ¬(c.fld = f ∧ c.idx = i) := by
  rw [otherCells, List.mem_filter, decide_eq_true_eq]

theorem regSet_eq (r : List RegCell) (f : Fld) (i v : Nat) :
    regSet r f i v = if BitVec.ofNat 32 (v % 2 ^ f.desc.width) = f.resetVal then otherCells r f i
      else cellInsert f i (BitVec.ofNat 32 (v % 2 ^ f.desc.width)) (otherCells r f i) := rfl

/-- A write keeps the one form. -/
theorem regsWf_regSet {r : List RegCell} (h : regsWf r = true) (f : Fld) (i v : Nat) : regsWf (regSet r f i v) = true := by
  rw [regsWf_iff] at *
  have hf : (otherCells r f i).Pairwise RegCell.before := h.2.filter _
  rw [regSet_eq]
  split
  · exact ⟨fun c hc => h.1 c (mem_otherCells.1 hc).1, hf⟩
  · rename_i hv
    refine ⟨fun c hc => ?_, pairwise_cellInsert hf fun c hc => (mem_otherCells.1 hc).2⟩
    rcases mem_cellInsert.1 hc with rfl | hc
    · exact hv
    · exact h.1 c (mem_otherCells.1 hc).1

theorem fld_width_le (f : Fld) : f.desc.width ≤ 32 := by cases f <;> decide

/-- A write keeps every value within its field. -/
theorem regsFit_regSet {r : List RegCell} (h : regsFit r = true) (f : Fld) (i v : Nat) : regsFit (regSet r f i v) = true := by
  have hw : (BitVec.ofNat 32 (v % 2 ^ f.desc.width)).toNat < 2 ^ f.desc.width := by
    rw [BitVec.toNat_ofNat]
    exact Nat.lt_of_le_of_lt (Nat.mod_le _ _) (Nat.mod_lt _ (Nat.two_pow_pos _))
  simp only [regsFit, List.all_eq_true, decide_eq_true_eq] at *
  rw [regSet_eq]
  intro c hc
  split at hc
  · exact h c (mem_otherCells.1 hc).1
  · rcases mem_cellInsert.1 hc with rfl | hc
    · exact hw
    · exact h c (mem_otherCells.1 hc).1

theorem regsWf_regsDrop {r : List RegCell} (h : regsWf r = true) (p : Fld → Nat → Bool) : regsWf (regsDrop r p) = true := by
  rw [regsWf_iff] at *
  exact ⟨fun c hc => h.1 c (List.mem_filter.1 hc).1, h.2.filter _⟩

theorem regsFit_regsDrop {r : List RegCell} (h : regsFit r = true) (p : Fld → Nat → Bool) : regsFit (regsDrop r p) = true := by
  simp only [regsFit, List.all_eq_true, decide_eq_true_eq] at *
  exact fun c hc => h c (List.mem_filter.1 hc).1

/-! ### Read after write -/

theorem find_cellInsert {f : Fld} {i : Nat} {v : Word} {r : List RegCell} (g : Fld) (j : Nat)
    (hne : ∀ c ∈ r, ¬(c.fld = f ∧ c.idx = i)) :
    (cellInsert f i v r).find? (fun c => decide (c.fld = g ∧ c.idx = j))
      = if f = g ∧ i = j then some ⟨f, i, v⟩ else r.find? (fun c => decide (c.fld = g ∧ c.idx = j)) := by
  induction r with
  | nil => by_cases h : f = g ∧ i = j <;> simp [cellInsert, h]
  | cons d ds ih =>
    have ih := ih fun c hc => hne c (List.mem_cons_of_mem _ hc)
    simp only [cellInsert]
    split
    · by_cases h : f = g ∧ i = j <;> simp [List.find?_cons, h]
    · rw [List.find?_cons, ih, List.find?_cons]
      have hd := hne d (List.mem_cons_self ..)
      by_cases h : f = g ∧ i = j
      · obtain ⟨rfl, rfl⟩ := h
        simp [hd]
      · simp [h]

theorem find_otherCells {r : List RegCell} {f g : Fld} {i j : Nat} :
    (otherCells r f i).find? (fun c => decide (c.fld = g ∧ c.idx = j))
      = if f = g ∧ i = j then none else r.find? (fun c => decide (c.fld = g ∧ c.idx = j)) := by
  split
  · rename_i h
    obtain ⟨rfl, rfl⟩ := h
    rw [List.find?_eq_none]
    intro c hc
    simpa using (mem_otherCells.1 hc).2
  · rename_i h
    induction r with
    | nil => rfl
    | cons d ds ih =>
      by_cases hd : d.fld = f ∧ d.idx = i
      · have : ¬(d.fld = g ∧ d.idx = j) := fun e => h ⟨hd.1.symm.trans e.1, hd.2.symm.trans e.2⟩
        rw [otherCells, List.filter_cons_of_neg (by simp [hd]), List.find?_cons_of_neg (by simpa using this)]
        exact ih
      · rw [otherCells, List.filter_cons_of_pos (p := fun c : RegCell => decide (¬ (c.fld = f ∧ c.idx = i))) (decide_eq_true hd), List.find?_cons, List.find?_cons]
        split
        · rfl
        · exact ih

/-- A field reads as it was written, and every other as it was. -/
theorem regGet_regSet (r : List RegCell) (f : Fld) (i v : Nat) (g : Fld) (j : Nat) :
    regGet (regSet r f i v) g j = if f = g ∧ i = j then BitVec.ofNat 32 (v % 2 ^ f.desc.width) else regGet r g j := by
  have hf := find_otherCells (r := r) (f := f) (g := g) (i := i) (j := j)
  have hm : ∀ c ∈ otherCells r f i, ¬(c.fld = f ∧ c.idx = i) := fun c hc => (mem_otherCells.1 hc).2
  rw [regSet_eq]
  by_cases h : f = g ∧ i = j
  · rw [if_pos h] at hf ⊢
    by_cases hv : BitVec.ofNat 32 (v % 2 ^ f.desc.width) = f.resetVal
    · rw [if_pos hv, regGet, hf, hv, h.1]
    · rw [if_neg hv, regGet, find_cellInsert g j hm, if_pos h]
  · rw [if_neg h] at hf ⊢
    by_cases hv : BitVec.ofNat 32 (v % 2 ^ f.desc.width) = f.resetVal
    · rw [if_pos hv, regGet, hf, regGet]
    · rw [if_neg hv, regGet, find_cellInsert g j hm, if_neg h, hf, regGet]

theorem regGet_cons (c : RegCell) (r : List RegCell) (f : Fld) (i : Nat) :
    regGet (c :: r) f i = if c.fld = f ∧ c.idx = i then c.val else regGet r f i := by
  unfold regGet
  rw [List.find?_cons]
  by_cases h : c.fld = f ∧ c.idx = i
  · simp [h]
  · simp [h]

/-- A copy that a drop takes reads its reset value; the others read as before. -/
theorem regGet_regsDrop (r : List RegCell) (p : Fld → Nat → Bool) (f : Fld) (i : Nat) :
    regGet (regsDrop r p) f i = if p f i then f.resetVal else regGet r f i := by
  induction r with
  | nil => simp [regsDrop, regGet]
  | cons c r ih =>
    have e : regsDrop (c :: r) p = if p c.fld c.idx then regsDrop r p else c :: regsDrop r p := by
      unfold regsDrop
      rw [List.filter_cons]
      cases p c.fld c.idx <;> rfl
    rw [e, regGet_cons]
    by_cases h : c.fld = f ∧ c.idx = i
    · obtain ⟨rfl, rfl⟩ := h
      cases hp : p c.fld c.idx
      · simp [regGet_cons]
      · simp [ih, hp]
    · rw [if_neg h]
      cases hp : p c.fld c.idx
      · simp [regGet_cons, h, ih]
      · simp [ih]

theorem rd_wr (s : State) (f : Fld) (i v : Nat) (g : Fld) (j : Nat) :
    (s.wr f i v).rd g j = if f = g ∧ i = j then v % 2 ^ f.desc.width else s.rd g j := by
  simp only [State.rd, State.wr, regGet_regSet]
  split
  · rw [BitVec.toNat_ofNat]
    refine Nat.mod_eq_of_lt (Nat.lt_of_lt_of_le (Nat.mod_lt _ (Nat.two_pow_pos _)) ?_)
    exact Nat.pow_le_pow_right (by decide) (fld_width_le f)
  · rfl

theorem rd_wr_same (s : State) (f : Fld) (i v : Nat) : (s.wr f i v).rd f i = v % 2 ^ f.desc.width := by simp [rd_wr]

theorem rd_wr_fld (s : State) (f : Fld) (i v : Nat) (g : Fld) (j : Nat) (h : f ≠ g) : (s.wr f i v).rd g j = s.rd g j := by
  simp [rd_wr, h]

theorem rd_wr_idx (s : State) (f : Fld) (i v : Nat) (j : Nat) (h : i ≠ j) : (s.wr f i v).rd f j = s.rd f j := by
  simp [rd_wr, h]

end Sys2Proof.Machine
end

