-- ==== Sys2Proof/Laws/FrameOps.lean ====
section
/-! SUPPORT. What the functions of Machine/Ops.lean may write, and that they leave the rest of a state as it is. -/

set_option linter.unusedVariables false

namespace Sys2Proof.Machine

/-- Every bit of `a` is one of `b`. -/
def bitsIn (a b : Nat) : Prop := a &&& b = a

theorem bitsIn.at {a b i : Nat} (h : bitsIn a b) (hi : a.testBit i = true) : b.testBit i = true := by
  have := congrArg (fun n => n.testBit i) h
  simpa [hi] using this

theorem bitsIn.within {a b c : Nat} (h : bitsIn b c) (hab : a &&& b = a) : bitsIn a c := by
  apply Nat.eq_of_testBit_eq
  intro i
  rw [Nat.testBit_and]
  cases ha : a.testBit i
  · rfl
  · rw [h.at (bitsIn.at hab ha)]; rfl

/-- A state that may differ from another only in the parts `m` names and in the register fields `r` names, by their number. -/
structure State.Frame (m r : Nat) (a s : State) : Prop where
  part : ∀ c : Part, m.testBit c.ctorIdx = false → c.same a s
  reg : ∀ f : Fld, r.testBit f.ctorIdx = false → ∀ i, s.rd f i = a.rd f i

theorem State.Frame.refl {m r : Nat} (s : State) : State.Frame m r s s := ⟨fun c _ => by cases c <;> rfl, fun _ _ _ => rfl⟩

theorem Part.same_trans {c : Part} {s t u : State} (h : c.same s t) (h' : c.same t u) : c.same s u := by
  cases c <;> exact Eq.trans h' h

/-- The parts `m` names from one state, the rest from another; the registers are the first's. -/
def State.blend (m : Nat) (s t : State) : State :=
  State.mk (if m.testBit 0 then t.pending else s.pending)
    t.regs
    (if m.testBit 1 then t.outbox else s.outbox)
    (if m.testBit 2 then t.toll else s.toll)
    (if m.testBit 3 then t.clk else s.clk)
    (if m.testBit 4 then t.pwr else s.pwr)
    (if m.testBit 5 then t.fuse else s.fuse)
    (if m.testBit 6 then t.pits else s.pits)
    (if m.testBit 7 then t.stalls else s.stalls)
    (if m.testBit 8 then t.adms else s.adms)
    (if m.testBit 9 then t.reqs else s.reqs)
    (if m.testBit 10 then t.dups else s.dups)
    (if m.testBit 11 then t.streams else s.streams)
    (if m.testBit 12 then t.toks else s.toks)
    (if m.testBit 13 then t.rr else s.rr)
    (if m.testBit 14 then t.chains else s.chains)
    (if m.testBit 15 then t.entries else s.entries)
    (if m.testBit 16 then t.revives else s.revives)
    (if m.testBit 17 then t.parks else s.parks)
    (if m.testBit 18 then t.wbs else s.wbs)
    (if m.testBit 19 then t.chr else s.chr)
    (if m.testBit 20 then t.gens else s.gens)
    (if m.testBit 21 then t.amd else s.amd)
    (if m.testBit 22 then t.asz else s.asz)
    (if m.testBit 23 then t.aszCount else s.aszCount)
    (if m.testBit 24 then t.samples else s.samples)
    (if m.testBit 25 then t.lanes else s.lanes)
    (if m.testBit 26 then t.fab else s.fab)
    (if m.testBit 27 then t.tier else s.tier)
    (if m.testBit 28 then t.keys else s.keys)
    (if m.testBit 29 then t.factorTick else s.factorTick)
    (if m.testBit 30 then t.dbk else s.dbk)
    (if m.testBit 31 then t.arrivals else s.arrivals)
    (if m.testBit 32 then t.free else s.free)

/-- An update of parts that `w` names. -/
theorem State.Frame.upd {w m r : Nat} {z s : State} {xpending xoutbox xtoll xclk xpwr xfuse xpits xstalls xadms xreqs xdups xstreams xtoks xrr xchains xentries xrevives xparks xwbs xchr xgens xamd xasz xaszCount xsamples xlanes xfab xtier xkeys xfactorTick xdbk xarrivals xfree} (hm : bitsIn w m) (h : State.Frame m r z s)
    (hs : State.mk xpending s.regs xoutbox xtoll xclk xpwr xfuse xpits xstalls xadms xreqs xdups xstreams xtoks xrr xchains xentries xrevives xparks xwbs xchr xgens xamd xasz xaszCount xsamples xlanes xfab xtier xkeys xfactorTick xdbk xarrivals xfree
      = State.blend w s (State.mk xpending s.regs xoutbox xtoll xclk xpwr xfuse xpits xstalls xadms xreqs xdups xstreams xtoks xrr xchains xentries xrevives xparks xwbs xchr xgens xamd xasz xaszCount xsamples xlanes xfab xtier xkeys xfactorTick xdbk xarrivals xfree)) :
    State.Frame m r z (State.mk xpending s.regs xoutbox xtoll xclk xpwr xfuse xpits xstalls xadms xreqs xdups xstreams xtoks xrr xchains xentries xrevives xparks xwbs xchr xgens xamd xasz xaszCount xsamples xlanes xfab xtier xkeys xfactorTick xdbk xarrivals xfree) := by
  generalize ht : State.mk xpending s.regs xoutbox xtoll xclk xpwr xfuse xpits xstalls xadms xreqs xdups xstreams xtoks xrr xchains xentries xrevives xparks xwbs xchr xgens xamd xasz xaszCount xsamples xlanes xfab xtier xkeys xfactorTick xdbk xarrivals xfree = t at hs ⊢
  have hr : t.regs = s.regs := by rw [← ht]
  refine ⟨fun c hc => Part.same_trans (h.part c hc) ?_, fun f hf i => ?_⟩
  · have hw : w.testBit c.ctorIdx = false := by
      cases hb : w.testBit c.ctorIdx
      · rfl
      · rw [hm.at hb] at hc; cases hc
    clear hc
    cases c
    · exact (congrArg State.pending hs).trans (if_neg (by simp [show (Part.pending).ctorIdx = 0 from rfl] at hw; simp [hw]))
    · exact (congrArg State.outbox hs).trans (if_neg (by simp [show (Part.outbox).ctorIdx = 1 from rfl] at hw; simp [hw]))
    · exact (congrArg State.toll hs).trans (if_neg (by simp [show (Part.toll).ctorIdx = 2 from rfl] at hw; simp [hw]))
    · exact (congrArg State.clk hs).trans (if_neg (by simp [show (Part.clk).ctorIdx = 3 from rfl] at hw; simp [hw]))
    · exact (congrArg State.pwr hs).trans (if_neg (by simp [show (Part.pwr).ctorIdx = 4 from rfl] at hw; simp [hw]))
    · exact (congrArg State.fuse hs).trans (if_neg (by simp [show (Part.fuse).ctorIdx = 5 from rfl] at hw; simp [hw]))
    · exact (congrArg State.pits hs).trans (if_neg (by simp [show (Part.pits).ctorIdx = 6 from rfl] at hw; simp [hw]))
    · exact (congrArg State.stalls hs).trans (if_neg (by simp [show (Part.stalls).ctorIdx = 7 from rfl] at hw; simp [hw]))
    · exact (congrArg State.adms hs).trans (if_neg (by simp [show (Part.adms).ctorIdx = 8 from rfl] at hw; simp [hw]))
    · exact (congrArg State.reqs hs).trans (if_neg (by simp [show (Part.reqs).ctorIdx = 9 from rfl] at hw; simp [hw]))
    · exact (congrArg State.dups hs).trans (if_neg (by simp [show (Part.dups).ctorIdx = 10 from rfl] at hw; simp [hw]))
    · exact (congrArg State.streams hs).trans (if_neg (by simp [show (Part.streams).ctorIdx = 11 from rfl] at hw; simp [hw]))
    · exact (congrArg State.toks hs).trans (if_neg (by simp [show (Part.toks).ctorIdx = 12 from rfl] at hw; simp [hw]))
    · exact (congrArg State.rr hs).trans (if_neg (by simp [show (Part.rr).ctorIdx = 13 from rfl] at hw; simp [hw]))
    · exact (congrArg State.chains hs).trans (if_neg (by simp [show (Part.chains).ctorIdx = 14 from rfl] at hw; simp [hw]))
    · exact (congrArg State.entries hs).trans (if_neg (by simp [show (Part.entries).ctorIdx = 15 from rfl] at hw; simp [hw]))
    · exact (congrArg State.revives hs).trans (if_neg (by simp [show (Part.revives).ctorIdx = 16 from rfl] at hw; simp [hw]))
    · exact (congrArg State.parks hs).trans (if_neg (by simp [show (Part.parks).ctorIdx = 17 from rfl] at hw; simp [hw]))
    · exact (congrArg State.wbs hs).trans (if_neg (by simp [show (Part.wbs).ctorIdx = 18 from rfl] at hw; simp [hw]))
    · exact (congrArg State.chr hs).trans (if_neg (by simp [show (Part.chr).ctorIdx = 19 from rfl] at hw; simp [hw]))
    · exact (congrArg State.gens hs).trans (if_neg (by simp [show (Part.gens).ctorIdx = 20 from rfl] at hw; simp [hw]))
    · exact (congrArg State.amd hs).trans (if_neg (by simp [show (Part.amd).ctorIdx = 21 from rfl] at hw; simp [hw]))
    · exact (congrArg State.asz hs).trans (if_neg (by simp [show (Part.asz).ctorIdx = 22 from rfl] at hw; simp [hw]))
    · exact (congrArg State.aszCount hs).trans (if_neg (by simp [show (Part.aszCount).ctorIdx = 23 from rfl] at hw; simp [hw]))
    · exact (congrArg State.samples hs).trans (if_neg (by simp [show (Part.samples).ctorIdx = 24 from rfl] at hw; simp [hw]))
    · exact (congrArg State.lanes hs).trans (if_neg (by simp [show (Part.lanes).ctorIdx = 25 from rfl] at hw; simp [hw]))
    · exact (congrArg State.fab hs).trans (if_neg (by simp [show (Part.fab).ctorIdx = 26 from rfl] at hw; simp [hw]))
    · exact (congrArg State.tier hs).trans (if_neg (by simp [show (Part.tier).ctorIdx = 27 from rfl] at hw; simp [hw]))
    · exact (congrArg State.keys hs).trans (if_neg (by simp [show (Part.keys).ctorIdx = 28 from rfl] at hw; simp [hw]))
    · exact (congrArg State.factorTick hs).trans (if_neg (by simp [show (Part.factorTick).ctorIdx = 29 from rfl] at hw; simp [hw]))
    · exact (congrArg State.dbk hs).trans (if_neg (by simp [show (Part.dbk).ctorIdx = 30 from rfl] at hw; simp [hw]))
    · exact (congrArg State.arrivals hs).trans (if_neg (by simp [show (Part.arrivals).ctorIdx = 31 from rfl] at hw; simp [hw]))
    · exact (congrArg State.free hs).trans (if_neg (by simp [show (Part.free).ctorIdx = 32 from rfl] at hw; simp [hw]))
  · have := h.reg f hf i
    simpa only [State.rd, hr] using this

theorem State.wr_frame {z s : State} {m r : Nat} {f : Fld} {i v : Nat} (hf : r.testBit f.ctorIdx = true) (h : State.Frame m r z s) :
    State.Frame m r z (s.wr f i v) := by
  refine ⟨fun c hc => Part.same_trans (h.part c hc) (by cases c <;> rfl), fun g hg j => ?_⟩
  rw [rd_wr, if_neg]
  · exact h.reg g hg j
  · rintro ⟨rfl, -⟩
    rw [hf] at hg; cases hg

theorem State.wrB_frame {z s : State} {m r : Nat} {f : Fld} {i : Nat} {b : Bool} (hf : r.testBit f.ctorIdx = true) (h : State.Frame m r z s) :
    State.Frame m r z (s.wrB f i b) := State.wr_frame hf h
theorem State.bump_frame {z s : State} {m r : Nat} {f : Fld} {i n : Nat} (hf : r.testBit f.ctorIdx = true) (h : State.Frame m r z s) :
    State.Frame m r z (s.bump f i n) := State.wr_frame hf h
theorem State.bumpSat_frame {z s : State} {m r : Nat} {f : Fld} {i : Nat} (hf : r.testBit f.ctorIdx = true) (h : State.Frame m r z s) :
    State.Frame m r z (s.bumpSat f i) := State.wr_frame hf h
theorem State.wrMax_frame {z s : State} {m r : Nat} {f : Fld} {i v : Nat} (hf : r.testBit f.ctorIdx = true) (h : State.Frame m r z s) :
    State.Frame m r z (s.wrMax f i v) := State.wr_frame hf h

/-- The mask of every register field. -/
theorem allRegs_at (f : Fld) : Nat.testBit 0x3fffffffffffffffffffffffffffffffffffffffffffffffffffffffffffffffffffffffffffffffffffffffffffffffffffffffffff f.ctorIdx = true := by cases f <;> rfl

theorem State.drop_frame {z s : State} {m r : Nat} {p} (hr : bitsIn 0x3fffffffffffffffffffffffffffffffffffffffffffffffffffffffffffffffffffffffffffffffffffffffffffffffffffffffffff r) (h : State.Frame m r z s) :
    State.Frame m r z { s with regs := regsDrop s.regs p } :=
  ⟨fun c hc => Part.same_trans (h.part c hc) (by cases c <;> rfl), fun f hf _ => by rw [hr.at (allRegs_at f)] at hf; cases hf⟩

theorem State.Frame.foldl {α : Type} {m r : Nat} {a s : State} {f : State → α → State} {xs : List α} (h : a.Frame m r s)
    (hf : ∀ t x, a.Frame m r t → a.Frame m r (f t x)) : a.Frame m r (xs.foldl f s) := by
  induction xs generalizing s with
  | nil => exact h
  | cons x xs ih => exact ih (hf s x h)

theorem State.Frame.ofFst {α : Type} {m r : Nat} {a t : State} {y : α} {e : State × α} (he : e = (t, y)) (h : a.Frame m r e.1) :
    a.Frame m r t := by
  subst he; exact h

theorem State.Frame.ofSnd {α : Type} {m r : Nat} {a t : State} {y : α} {e : α × State} (he : e = (y, t)) (h : a.Frame m r e.2) :
    a.Frame m r t := by
  subst he; exact h

/-- Either state of a choice is framed. -/
structure State.FrameEither (m r : Nat) (a : State) (e : State ⊕ State) : Prop where
  left : ∀ t, e = .inl t → a.Frame m r t
  right : ∀ t, e = .inr t → a.Frame m r t

theorem State.Frame.ofInl {m r : Nat} {a t : State} {e : State ⊕ State} (he : e = .inl t) (h : a.FrameEither m r e) : a.Frame m r t := h.left t he
theorem State.Frame.ofInr {m r : Nat} {a t : State} {e : State ⊕ State} (he : e = .inr t) (h : a.FrameEither m r e) : a.Frame m r t := h.right t he
theorem State.FrameEither.ofInl {m r : Nat} {a t : State} (h : a.Frame m r t) : a.FrameEither m r (.inl t) :=
  ⟨fun _ e => Sum.inl.inj e ▸ h, fun _ e => nomatch e⟩
theorem State.FrameEither.ofInr {m r : Nat} {a t : State} (h : a.Frame m r t) : a.FrameEither m r (.inr t) :=
  ⟨fun _ e => (nomatch e), fun _ e => Sum.inr.inj e ▸ h⟩
theorem State.FrameEither.ite {m r : Nat} {a : State} {s t : State ⊕ State} {c : Prop} [Decidable c] (h : c → a.FrameEither m r s)
    (h' : ¬c → a.FrameEither m r t) : a.FrameEither m r (if c then s else t) := by
  split
  · exact h ‹_›
  · exact h' ‹_›

/-- The state an option carries is framed. -/
structure State.FrameSome {α : Type} (m r : Nat) (a : State) (e : Option (α × State)) : Prop where
  some : ∀ x t, e = Option.some (x, t) → a.Frame m r t

theorem State.Frame.ofSome {α : Type} {m r : Nat} {a t : State} {x : α} {e : Option (α × State)} (he : e = some (x, t)) (h : a.FrameSome m r e) :
    a.Frame m r t := h.some x t he
theorem State.FrameSome.ofNone {α : Type} {m r : Nat} {a : State} : a.FrameSome m r (none : Option (α × State)) := ⟨fun _ _ e => nomatch e⟩
theorem State.FrameSome.ofSome {α : Type} {m r : Nat} {a t : State} {x : α} (h : a.Frame m r t) : a.FrameSome m r (Option.some (x, t)) :=
  ⟨fun _ _ e => by cases e; exact h⟩
theorem State.FrameSome.ite {α : Type} {m r : Nat} {a : State} {s t : Option (α × State)} {c : Prop} [Decidable c]
    (h : c → a.FrameSome m r s) (h' : ¬c → a.FrameSome m r t) : a.FrameSome m r (if c then s else t) := by
  split
  · exact h ‹_›
  · exact h' ‹_›

theorem State.Frame.foldlFst {α β : Type} {m r : Nat} {a : State} {s : State × β} {f : State × β → α → State × β} {xs : List α}
    (h : a.Frame m r s.1) (hf : ∀ t x, a.Frame m r t.1 → a.Frame m r (f t x).1) : a.Frame m r (xs.foldl f s).1 := by
  induction xs generalizing s with
  | nil => exact h
  | cons x xs ih => exact ih (hf s x h)

theorem State.Frame.getD {α : Type} {m r : Nat} {a s : State} {o : Option α} {f : α → State} (h : a.Frame m r s) (hf : ∀ x, a.Frame m r (f x)) :
    a.Frame m r ((o.map f).getD s) := by
  cases o with
  | none => exact h
  | some x => exact hf x

theorem State.Frame.ite {m r : Nat} {a s t : State} {c : Prop} [Decidable c] (h : c → a.Frame m r s) (h' : ¬c → a.Frame m r t) :
    a.Frame m r (if c then s else t) := by
  split
  · exact h ‹_›
  · exact h' ‹_›

/-- An update of the Daybook alone. -/
theorem State.setDbk_frame {z s : State} {m r : Nat} {d : DbkSt} (hm : m.testBit (Part.dbk).ctorIdx = true) (h : z.Frame m r s) :
    z.Frame m r { s with dbk := d } := by
  refine ⟨fun c hc => Part.same_trans (h.part c hc) ?_, h.reg⟩
  cases c <;> first
    | rfl
    | (rw [hm] at hc; cases hc)

/-- An update of the counter of free values alone. -/
theorem State.setFree_frame {z s : State} {m r n : Nat} (hm : m.testBit (Part.free).ctorIdx = true) (h : z.Frame m r s) :
    z.Frame m r { s with free := n } := by
  refine ⟨fun c hc => Part.same_trans (h.part c hc) ?_, h.reg⟩
  cases c <;> first
    | rfl
    | (rw [hm] at hc; cases hc)

/-- A framed state leaves what the frame leaves. -/
theorem State.Frame.leaves {m r : Nat} {s t : State} {parts : List Part} {p : Fld → Nat → Prop} (h : s.Frame m r t)
    (hm : ∀ c : Part, m.testBit c.ctorIdx = true → c ∈ parts) (hr : ∀ f : Fld, r.testBit f.ctorIdx = true → ∀ i, p f i) :
    s.Leaves t parts p := by
  refine ⟨fun c hc => h.part c ?_, fun f i hf => h.reg f ?_ i⟩
  · cases hb : m.testBit c.ctorIdx
    · rfl
    · exact absurd (hm c hb) hc
  · cases hb : r.testBit f.ctorIdx
    · rfl
    · exact absurd (hr f hb i) hf

/-- Writes: free; registers: none. -/
theorem State.tookFree_frame {z s : State} {m r : Nat} (hm : bitsIn 0x100000000 m) (hr : bitsIn 0x0 r)
    (hk : z.Frame m r s) : z.Frame m r (State.tookFree s) := by
  unfold State.tookFree
  try dsimp only
  repeat' first
    | with_reducible assumption
    | with_reducible first | exact hm.within rfl | exact hr.within rfl | exact hr.at rfl
    | with_reducible first | apply State.Frame.ite | apply State.Frame.foldl
    | (intro _ _ _; try dsimp only)
    | (intro _; try dsimp only)
    | split
    | exact State.Frame.upd hm (by with_reducible assumption) rfl
    | (refine State.Frame.upd hm ?_ rfl)

theorem State.whileUp_frame {a s : State} {m r : Nat} {f} (h : a.Frame m r s) (hf : ∀ t, a.Frame m r t → a.Frame m r (f t)) :
    a.Frame m r (s.whileUp f) := by
  unfold State.whileUp
  split
  · exact hf s h
  · exact h
/-- Writes: outbox; registers: none. -/
theorem State.emit_frame {z s : State} {m r : Nat} {w'} (hm : bitsIn 0x2 m) (hr : bitsIn 0x0 r)
    (hk : z.Frame m r s) : z.Frame m r (State.emit s w') := by
  unfold State.emit
  try dsimp only
  repeat' first
    | with_reducible assumption
    | with_reducible first | exact hm.within rfl | exact hr.within rfl | exact hr.at rfl
    | with_reducible first | apply State.Frame.ite | apply State.Frame.foldl
    | (intro _ _ _; try dsimp only)
    | (intro _; try dsimp only)
    | split
    | exact State.Frame.upd hm (by with_reducible assumption) rfl
    | (refine State.Frame.upd hm ?_ rfl)

theorem State.deliverAt_frame {z s : State} {m r c : Nat} {f} (hm : bitsIn 0x8 m) (h : z.Frame m r s)
    (hf : ∀ t, z.Frame m r t → z.Frame m r (f t)) : z.Frame m r (s.deliverAt c f) := by
  unfold State.deliverAt
  exact State.Frame.upd hm (hf _ (State.Frame.upd hm h rfl)) rfl
/-- Writes: clk; registers: tollEnergyLevelNj. -/
theorem State.setLevel8_frame {z s : State} {m r : Nat} {l} (hm : bitsIn 0x8 m) (hr : bitsIn 0x80000000000000000000000000000000 r)
    (hk : z.Frame m r s) : z.Frame m r (State.setLevel8 s l) := by
  unfold State.setLevel8
  try dsimp only
  repeat' first
    | with_reducible assumption
    | with_reducible first | exact hm.within rfl | exact hr.within rfl | exact hr.at rfl
    | with_reducible first | apply State.Frame.ite | apply State.Frame.foldl | apply State.wr_frame
    | (intro _ _ _; try dsimp only)
    | (intro _; try dsimp only)
    | split
    | exact State.Frame.upd hm (by with_reducible assumption) rfl
    | (refine State.Frame.upd hm ?_ rfl)

/-- Writes: pits; registers: none. -/
theorem State.updPit_frame {z s : State} {m r : Nat} {p f} (hm : bitsIn 0x40 m) (hr : bitsIn 0x0 r)
    (hk : z.Frame m r s) : z.Frame m r (State.updPit s p f) := by
  unfold State.updPit
  try dsimp only
  repeat' first
    | with_reducible assumption
    | with_reducible first | exact hm.within rfl | exact hr.within rfl | exact hr.at rfl
    | with_reducible first | apply State.Frame.ite | apply State.Frame.foldl
    | (intro _ _ _; try dsimp only)
    | (intro _; try dsimp only)
    | split
    | exact State.Frame.upd hm (by with_reducible assumption) rfl
    | (refine State.Frame.upd hm ?_ rfl)

/-- Writes: stalls; registers: none. -/
theorem State.updStl_frame {z s : State} {m r : Nat} {i f} (hm : bitsIn 0x80 m) (hr : bitsIn 0x0 r)
    (hk : z.Frame m r s) : z.Frame m r (State.updStl s i f) := by
  unfold State.updStl
  try dsimp only
  repeat' first
    | with_reducible assumption
    | with_reducible first | exact hm.within rfl | exact hr.within rfl | exact hr.at rfl
    | with_reducible first | apply State.Frame.ite | apply State.Frame.foldl
    | (intro _ _ _; try dsimp only)
    | (intro _; try dsimp only)
    | split
    | exact State.Frame.upd hm (by with_reducible assumption) rfl
    | (refine State.Frame.upd hm ?_ rfl)

/-- Writes: entries; registers: none. -/
theorem State.updEntry_frame {z s : State} {m r : Nat} {p sess f} (hm : bitsIn 0x8000 m) (hr : bitsIn 0x0 r)
    (hk : z.Frame m r s) : z.Frame m r (State.updEntry s p sess f) := by
  unfold State.updEntry
  try dsimp only
  repeat' first
    | with_reducible assumption
    | with_reducible first | exact hm.within rfl | exact hr.within rfl | exact hr.at rfl
    | with_reducible first | apply State.Frame.ite | apply State.Frame.foldl
    | (intro _ _ _; try dsimp only)
    | (intro _; try dsimp only)
    | split
    | exact State.Frame.upd hm (by with_reducible assumption) rfl
    | (refine State.Frame.upd hm ?_ rfl)

/-- Writes: entries; registers: none. -/
theorem State.dropEntry_frame {z s : State} {m r : Nat} {p sess} (hm : bitsIn 0x8000 m) (hr : bitsIn 0x0 r)
    (hk : z.Frame m r s) : z.Frame m r (State.dropEntry s p sess) := by
  unfold State.dropEntry
  try dsimp only
  repeat' first
    | with_reducible assumption
    | with_reducible first | exact hm.within rfl | exact hr.within rfl | exact hr.at rfl
    | with_reducible first | apply State.Frame.ite | apply State.Frame.foldl
    | (intro _ _ _; try dsimp only)
    | (intro _; try dsimp only)
    | split
    | exact State.Frame.upd hm (by with_reducible assumption) rfl
    | (refine State.Frame.upd hm ?_ rfl)

/-- Writes: reqs; registers: none. -/
theorem State.updReq_frame {z s : State} {m r : Nat} {p sess tag f} (hm : bitsIn 0x200 m) (hr : bitsIn 0x0 r)
    (hk : z.Frame m r s) : z.Frame m r (State.updReq s p sess tag f) := by
  unfold State.updReq
  try dsimp only
  repeat' first
    | with_reducible assumption
    | with_reducible first | exact hm.within rfl | exact hr.within rfl | exact hr.at rfl
    | with_reducible first | apply State.Frame.ite | apply State.Frame.foldl
    | (intro _ _ _; try dsimp only)
    | (intro _; try dsimp only)
    | split
    | exact State.Frame.upd hm (by with_reducible assumption) rfl
    | (refine State.Frame.upd hm ?_ rfl)

/-- Writes: stalls; registers: none. -/
theorem State.touchStall_frame {z s : State} {m r : Nat} {p sess tag} (hm : bitsIn 0x80 m) (hr : bitsIn 0x0 r)
    (hk : z.Frame m r s) : z.Frame m r (State.touchStall s p sess tag) := by
  unfold State.touchStall
  try dsimp only
  repeat' first
    | with_reducible assumption
    | with_reducible first | exact hm.within rfl | exact hr.within rfl | exact hr.at rfl
    | with_reducible first | apply State.Frame.ite | apply State.Frame.foldl
    | (intro _ _ _; try dsimp only)
    | (intro _; try dsimp only)
    | split
    | exact State.Frame.upd hm (by with_reducible assumption) rfl
    | (refine State.Frame.upd hm ?_ rfl)

/-- Writes: stalls reqs toks; registers: none. -/
theorem State.dropReq_frame {z s : State} {m r : Nat} {p sess tag} (hm : bitsIn 0x1280 m) (hr : bitsIn 0x0 r)
    (hk : z.Frame m r s) : z.Frame m r (State.dropReq s p sess tag) := by
  unfold State.dropReq
  try dsimp only
  repeat' first
    | with_reducible assumption
    | with_reducible first | exact hm.within rfl | exact hr.within rfl | exact hr.at rfl
    | with_reducible first | apply State.Frame.ite | apply State.Frame.foldl | apply State.touchStall_frame
    | (intro _ _ _; try dsimp only)
    | (intro _; try dsimp only)
    | split
    | exact State.Frame.upd hm (by with_reducible assumption) rfl
    | (refine State.Frame.upd hm ?_ rfl)

/-- Writes: streams; registers: none. -/
theorem State.updStream_frame {z s : State} {m r : Nat} {p sess f} (hm : bitsIn 0x800 m) (hr : bitsIn 0x0 r)
    (hk : z.Frame m r s) : z.Frame m r (State.updStream s p sess f) := by
  unfold State.updStream
  try dsimp only
  repeat' first
    | with_reducible assumption
    | with_reducible first | exact hm.within rfl | exact hr.within rfl | exact hr.at rfl
    | with_reducible first | apply State.Frame.ite | apply State.Frame.foldl
    | (intro _ _ _; try dsimp only)
    | (intro _; try dsimp only)
    | split
    | exact State.Frame.upd hm (by with_reducible assumption) rfl
    | (refine State.Frame.upd hm ?_ rfl)

/-- Writes: streams; registers: none. -/
theorem State.dropStream_frame {z s : State} {m r : Nat} {p sess} (hm : bitsIn 0x800 m) (hr : bitsIn 0x0 r)
    (hk : z.Frame m r s) : z.Frame m r (State.dropStream s p sess) := by
  unfold State.dropStream
  try dsimp only
  repeat' first
    | with_reducible assumption
    | with_reducible first | exact hm.within rfl | exact hr.within rfl | exact hr.at rfl
    | with_reducible first | apply State.Frame.ite | apply State.Frame.foldl
    | (intro _ _ _; try dsimp only)
    | (intro _; try dsimp only)
    | split
    | exact State.Frame.upd hm (by with_reducible assumption) rfl
    | (refine State.Frame.upd hm ?_ rfl)

/-- Writes: chains; registers: none. -/
theorem State.updChain_frame {z s : State} {m r : Nat} {p c f} (hm : bitsIn 0x4000 m) (hr : bitsIn 0x0 r)
    (hk : z.Frame m r s) : z.Frame m r (State.updChain s p c f) := by
  unfold State.updChain
  try dsimp only
  repeat' first
    | with_reducible assumption
    | with_reducible first | exact hm.within rfl | exact hr.within rfl | exact hr.at rfl
    | with_reducible first | apply State.Frame.ite | apply State.Frame.foldl
    | (intro _ _ _; try dsimp only)
    | (intro _; try dsimp only)
    | split
    | exact State.Frame.upd hm (by with_reducible assumption) rfl
    | (refine State.Frame.upd hm ?_ rfl)

/-- Writes: outbox dbk; registers: none. -/
theorem State.dbkClose_frame {z s : State} {m r : Nat} (hm : bitsIn 0x40000002 m) (hr : bitsIn 0x0 r)
    (hk : z.Frame m r s) : z.Frame m r (State.dbkClose s) := by
  unfold State.dbkClose
  try dsimp only
  repeat' first
    | with_reducible assumption
    | with_reducible first | exact hm.within rfl | exact hr.within rfl | exact hr.at rfl
    | with_reducible first | apply State.Frame.ite | apply State.Frame.foldl | apply State.emit_frame
    | (intro _ _ _; try dsimp only)
    | (intro _; try dsimp only)
    | split
    | exact State.Frame.upd hm (by with_reducible assumption) rfl
    | (refine State.Frame.upd hm ?_ rfl)

/-- Writes: outbox dbk; registers: dbkDroppedCount. -/
theorem State.dbkEnter_frame {z s : State} {m r : Nat} {r'} (hm : bitsIn 0x40000002 m) (hr : bitsIn 0x10000000000000000000000000000000000000000000000000 r)
    (hk : z.Frame m r s) : z.Frame m r (State.dbkEnter s r') := by
  unfold State.dbkEnter
  try dsimp only
  repeat' first
    | with_reducible assumption
    | with_reducible first | exact hm.within rfl | exact hr.within rfl | exact hr.at rfl
    | with_reducible first | apply State.Frame.ite | apply State.Frame.foldl | apply State.bumpSat_frame | apply State.dbkClose_frame
    | (intro _ _ _; try dsimp only)
    | (intro _; try dsimp only)
    | split
    | exact State.Frame.upd hm (by with_reducible assumption) rfl
    | (refine State.Frame.upd hm ?_ rfl)

/-- Writes: dbk; registers: none. -/
theorem State.dbkRepeat_frame {z s : State} {m r : Nat} {l} (hm : bitsIn 0x40000000 m) (hr : bitsIn 0x0 r)
    (hk : z.Frame m r s) : z.Frame m r (State.dbkRepeat s l) := by
  unfold State.dbkRepeat
  try dsimp only
  repeat' first
    | with_reducible assumption
    | with_reducible first | exact hm.within rfl | exact hr.within rfl | exact hr.at rfl
    | with_reducible first | apply State.Frame.ite | apply State.Frame.foldl
    | (intro _ _ _; try dsimp only)
    | (intro _; try dsimp only)
    | split
    | exact State.Frame.upd hm (by with_reducible assumption) rfl
    | (refine State.Frame.upd hm ?_ rfl)

/-- Writes: outbox dbk; registers: dbkDroppedCount. -/
theorem State.dbkAs_frame {z s : State} {m r : Nat} {ps code pitch p0 p1 p2} (hm : bitsIn 0x40000002 m) (hr : bitsIn 0x10000000000000000000000000000000000000000000000000 r)
    (hk : z.Frame m r s) : z.Frame m r (State.dbkAs s ps code pitch p0 p1 p2) := by
  unfold State.dbkAs
  try dsimp only
  repeat' first
    | with_reducible assumption
    | with_reducible first | exact hm.within rfl | exact hr.within rfl | exact hr.at rfl
    | with_reducible first | apply State.Frame.ite | apply State.Frame.foldl | apply State.dbkRepeat_frame | apply State.dbkEnter_frame
    | (intro _ _ _; try dsimp only)
    | (intro _; try dsimp only)
    | split
    | exact State.Frame.upd hm (by with_reducible assumption) rfl
    | (refine State.Frame.upd hm ?_ rfl)

/-- Writes: outbox dbk; registers: dbkDroppedCount. -/
theorem State.day_frame {z s : State} {m r : Nat} {code pitch p0 p1 p2} (hm : bitsIn 0x40000002 m) (hr : bitsIn 0x10000000000000000000000000000000000000000000000000 r)
    (hk : z.Frame m r s) : z.Frame m r (State.day s code pitch p0 p1 p2) := by
  unfold State.day
  try dsimp only
  repeat' first
    | with_reducible assumption
    | with_reducible first | exact hm.within rfl | exact hr.within rfl | exact hr.at rfl
    | with_reducible first | apply State.Frame.ite | apply State.Frame.foldl | apply State.dbkAs_frame
    | (intro _ _ _; try dsimp only)
    | (intro _; try dsimp only)
    | split
    | exact State.Frame.upd hm (by with_reducible assumption) rfl
    | (refine State.Frame.upd hm ?_ rfl)

/-- Writes: outbox dbk; registers: dbkDroppedCount glbDenyCount glbDenyLastAccessor glbDenyLastAddr glbDenyLastWrite. -/
theorem State.deny_frame {z s : State} {m r : Nat} {acc write addr} (hm : bitsIn 0x40000002 m) (hr : bitsIn 0x10000000000000000000000000000000000000000003c00000 r)
    (hk : z.Frame m r s) : z.Frame m r (State.deny s acc write addr) := by
  unfold State.deny
  try dsimp only
  repeat' first
    | with_reducible assumption
    | with_reducible first | exact hm.within rfl | exact hr.within rfl | exact hr.at rfl
    | with_reducible first | apply State.Frame.ite | apply State.Frame.foldl | apply State.bump_frame | apply State.wr_frame | apply State.wrB_frame | apply State.dbkAs_frame
    | (intro _ _ _; try dsimp only)
    | (intro _; try dsimp only)
    | split
    | exact State.Frame.upd hm (by with_reducible assumption) rfl
    | (refine State.Frame.upd hm ?_ rfl)

theorem State.gate_frame {z s : State} {m r : Nat} {acc f i} (hm : bitsIn 0x40000002 m) (hr : bitsIn 0x10000000000000000000000000000000000000000003c00000 r) (h : z.Frame m r s) :
    z.FrameEither m r (s.gate acc f i) := by
  unfold State.gate State.writeGate
  constructor
  · intro t ht
    split at ht
    · exact Sum.inl.inj ht ▸ h
    · split at ht
      · cases ht
      · exact Sum.inl.inj ht ▸ State.deny_frame hm hr h
  · intro t ht
    split at ht
    · cases ht
    · split at ht
      · exact Sum.inr.inj ht ▸ h
      · cases ht

end Sys2Proof.Machine
end

