-- ==== Sys2Proof/Laws/FrameFrames.lean ====
section
/-! SUPPORT. What the functions of Machine/Frames.lean may write, and that they leave the rest of a state as it is. -/

set_option linter.unusedVariables false

namespace Sys2Proof.Machine

/-- Writes: lanes; registers: none. -/
theorem State.updLane_frame {z s : State} {m r : Nat} {l f} (hm : bitsIn 0x2000000 m) (hr : bitsIn 0x0 r)
    (hk : z.Frame m r s) : z.Frame m r (State.updLane s l f) := by
  unfold State.updLane
  try dsimp only
  repeat' first
    | with_reducible assumption
    | with_reducible first | exact hm.within rfl | exact hr.within rfl | exact hr.at rfl
    | with_reducible first | apply State.Frame.ite | apply State.Frame.foldl
    | (intro _ _ _; try dsimp only)
    | (intro _; try dsimp only)
    | split
    | exact State.Frame.upd hm (by with_reducible assumption) rfl
    | (refine State.Frame.upd hm ?_ rfl)

/-- Writes: outbox lanes; registers: none. -/
theorem State.flitOut_frame {z s : State} {m r : Nat} {l vc b} (hm : bitsIn 0x2000002 m) (hr : bitsIn 0x0 r)
    (hk : z.Frame m r s) : z.Frame m r (State.flitOut s l vc b) := by
  unfold State.flitOut
  try dsimp only
  repeat' first
    | with_reducible assumption
    | with_reducible first | exact hm.within rfl | exact hr.within rfl | exact hr.at rfl
    | with_reducible first | apply State.Frame.ite | apply State.Frame.foldl | apply State.emit_frame | apply State.updLane_frame
    | (intro _ _ _; try dsimp only)
    | (intro _; try dsimp only)
    | split
    | exact State.Frame.upd hm (by with_reducible assumption) rfl
    | (refine State.Frame.upd hm ?_ rfl)

/-- Writes: outbox lanes; registers: none. -/
theorem State.laneSend_frame {z s : State} {m r : Nat} {l vc b} (hm : bitsIn 0x2000002 m) (hr : bitsIn 0x0 r)
    (hk : z.Frame m r s) : z.Frame m r (State.laneSend s l vc b) := by
  unfold State.laneSend
  try dsimp only
  repeat' first
    | with_reducible assumption
    | with_reducible first | exact hm.within rfl | exact hr.within rfl | exact hr.at rfl
    | with_reducible first | apply State.Frame.ite | apply State.Frame.foldl | apply State.flitOut_frame | apply State.updLane_frame
    | (intro _ _ _; try dsimp only)
    | (intro _; try dsimp only)
    | split
    | exact State.Frame.upd hm (by with_reducible assumption) rfl
    | (refine State.Frame.upd hm ?_ rfl)

theorem State.laneDrain_frame {z s : State} {m r l vc n : Nat} (hm : bitsIn 0x2000002 m) (hr : bitsIn 0x0 r) (h : z.Frame m r s) :
    z.Frame m r (s.laneDrain l vc n) := by
  induction n generalizing s with
  | zero => exact h
  | succ n ih =>
    unfold State.laneDrain
    split
    · exact h
    · split
      · exact h
      · exact ih (State.flitOut_frame (hm.within rfl) (hr.within rfl) (State.updLane_frame (hm.within rfl) (hr.within rfl) h))
/-- Writes: outbox lanes; registers: none. -/
theorem State.sendFrame_frame {z s : State} {m r : Nat} {f} (hm : bitsIn 0x2000002 m) (hr : bitsIn 0x0 r)
    (hk : z.Frame m r s) : z.Frame m r (State.sendFrame s f) := by
  unfold State.sendFrame
  try dsimp only
  repeat' first
    | with_reducible assumption
    | with_reducible first | exact hm.within rfl | exact hr.within rfl | exact hr.at rfl
    | with_reducible first | apply State.Frame.ite | apply State.Frame.foldl | apply State.laneSend_frame
    | (intro _ _ _; try dsimp only)
    | (intro _; try dsimp only)
    | split
    | exact State.Frame.upd hm (by with_reducible assumption) rfl
    | (refine State.Frame.upd hm ?_ rfl)

/-- Writes: outbox lanes fab; registers: none. -/
theorem State.openTxn_frame {z s : State} {m r : Nat} {p sess pool write kind left arg body direct} (hm : bitsIn 0x6000002 m) (hr : bitsIn 0x0 r)
    (hk : z.Frame m r s) : z.Frame m r (State.openTxn s p sess pool write kind left arg body direct) := by
  unfold State.openTxn
  try dsimp only
  repeat' first
    | with_reducible assumption
    | with_reducible first | exact hm.within rfl | exact hr.within rfl | exact hr.at rfl
    | with_reducible first | apply State.Frame.ite | apply State.Frame.foldl | apply State.sendFrame_frame
    | (intro _ _ _; try dsimp only)
    | (intro _; try dsimp only)
    | split
    | exact State.Frame.upd hm (by with_reducible assumption) rfl
    | (refine State.Frame.upd hm ?_ rfl)

/-- Writes: outbox lanes fab; registers: none. -/
theorem State.poolRead_frame {z s : State} {m r : Nat} {p sess pool addr len tile direct} (hm : bitsIn 0x6000002 m) (hr : bitsIn 0x0 r)
    (hk : z.Frame m r s) : z.Frame m r (State.poolRead s p sess pool addr len tile direct) := by
  unfold State.poolRead
  try dsimp only
  repeat' first
    | with_reducible assumption
    | with_reducible first | exact hm.within rfl | exact hr.within rfl | exact hr.at rfl
    | with_reducible first | apply State.Frame.ite | apply State.Frame.foldl | apply State.openTxn_frame
    | (intro _ _ _; try dsimp only)
    | (intro _; try dsimp only)
    | split
    | exact State.Frame.upd hm (by with_reducible assumption) rfl
    | (refine State.Frame.upd hm ?_ rfl)

/-- Writes: outbox lanes fab; registers: none. -/
theorem State.poolWrite_frame {z s : State} {m r : Nat} {p sess pool addr b direct} (hm : bitsIn 0x6000002 m) (hr : bitsIn 0x0 r)
    (hk : z.Frame m r s) : z.Frame m r (State.poolWrite s p sess pool addr b direct) := by
  unfold State.poolWrite
  try dsimp only
  repeat' first
    | with_reducible assumption
    | with_reducible first | exact hm.within rfl | exact hr.within rfl | exact hr.at rfl
    | with_reducible first | apply State.Frame.ite | apply State.Frame.foldl | apply State.openTxn_frame
    | (intro _ _ _; try dsimp only)
    | (intro _; try dsimp only)
    | split
    | exact State.Frame.upd hm (by with_reducible assumption) rfl
    | (refine State.Frame.upd hm ?_ rfl)

/-- Writes: fab; registers: none. -/
theorem State.putExc_frame {z s : State} {m r : Nat} {p sess device epoch} (hm : bitsIn 0x4000000 m) (hr : bitsIn 0x0 r)
    (hk : z.Frame m r s) : z.Frame m r (State.putExc s p sess device epoch) := by
  unfold State.putExc
  try dsimp only
  repeat' first
    | with_reducible assumption
    | with_reducible first | exact hm.within rfl | exact hr.within rfl | exact hr.at rfl
    | with_reducible first | apply State.Frame.ite | apply State.Frame.foldl
    | (intro _ _ _; try dsimp only)
    | (intro _; try dsimp only)
    | split
    | exact State.Frame.upd hm (by with_reducible assumption) rfl
    | (refine State.Frame.upd hm ?_ rfl)


end Sys2Proof.Machine
end

