-- ==== Sys2Proof/Laws/FrameOperands.lean ====
section
/-! SUPPORT. What the functions of Machine/Operands.lean may write, and that they leave the rest of a state as it is. -/

set_option linter.unusedVariables false

namespace Sys2Proof.Machine

/-- Writes: outbox lanes fab; registers: none. -/
theorem State.readMem_frame {z s : State} {m r : Nat} {p sess addr len} (hm : bitsIn 0x6000002 m) (hr : bitsIn 0x0 r)
    (hk : z.Frame m r s) : z.Frame m r (State.readMem s p sess addr len) := by
  unfold State.readMem
  try dsimp only
  repeat' first
    | with_reducible assumption
    | with_reducible first | exact hm.within rfl | exact hr.within rfl | exact hr.at rfl
    | with_reducible first | apply State.Frame.ite | apply State.Frame.foldl | apply State.poolRead_frame | apply State.emit_frame
    | (intro _ _ _; try dsimp only)
    | (intro _; try dsimp only)
    | split
    | exact State.Frame.upd hm (by with_reducible assumption) rfl
    | (refine State.Frame.upd hm ?_ rfl)

/-- Writes: outbox lanes fab; registers: none. -/
theorem State.writeMem_frame {z s : State} {m r : Nat} {p sess addr bytes} (hm : bitsIn 0x6000002 m) (hr : bitsIn 0x0 r)
    (hk : z.Frame m r s) : z.Frame m r (State.writeMem s p sess addr bytes) := by
  unfold State.writeMem
  try dsimp only
  repeat' first
    | with_reducible assumption
    | with_reducible first | exact hm.within rfl | exact hr.within rfl | exact hr.at rfl
    | with_reducible first | apply State.Frame.ite | apply State.Frame.foldl | apply State.poolWrite_frame | apply State.emit_frame
    | (intro _ _ _; try dsimp only)
    | (intro _; try dsimp only)
    | split
    | exact State.Frame.upd hm (by with_reducible assumption) rfl
    | (refine State.Frame.upd hm ?_ rfl)


end Sys2Proof.Machine
end

