-- ==== Sys2Proof/Laws/FrameFlags.lean ====
section
/-! SUPPORT. What the functions of Machine/Flags.lean may write, and that they leave the rest of a state as it is. -/

set_option linter.unusedVariables false

namespace Sys2Proof.Machine

/-- Writes: outbox pits; registers: none. -/
theorem State.sendIrq_frame {z s : State} {m r : Nat} {p} (hm : bitsIn 0x42 m) (hr : bitsIn 0x0 r)
    (hk : z.Frame m r s) : z.Frame m r (State.sendIrq s p) := by
  unfold State.sendIrq
  try dsimp only
  repeat' first
    | with_reducible assumption
    | with_reducible first | exact hm.within rfl | exact hr.within rfl | exact hr.at rfl
    | with_reducible first | apply State.Frame.ite | apply State.Frame.foldl | apply State.emit_frame | apply State.updPit_frame
    | (intro _ _ _; try dsimp only)
    | (intro _; try dsimp only)
    | split
    | exact State.Frame.upd hm (by with_reducible assumption) rfl
    | (refine State.Frame.upd hm ?_ rfl)

/-- Writes: outbox pits; registers: none. -/
theorem State.countIrq_frame {z s : State} {m r : Nat} {p} (hm : bitsIn 0x42 m) (hr : bitsIn 0x0 r)
    (hk : z.Frame m r s) : z.Frame m r (State.countIrq s p) := by
  unfold State.countIrq
  try dsimp only
  repeat' first
    | with_reducible assumption
    | with_reducible first | exact hm.within rfl | exact hr.within rfl | exact hr.at rfl
    | with_reducible first | apply State.Frame.ite | apply State.Frame.foldl | apply State.updPit_frame | apply State.sendIrq_frame
    | (intro _ _ _; try dsimp only)
    | (intro _; try dsimp only)
    | split
    | exact State.Frame.upd hm (by with_reducible assumption) rfl
    | (refine State.Frame.upd hm ?_ rfl)

/-- Writes: outbox pits; registers: pitVqTailCount. -/
theorem State.putRecord_frame {z s : State} {m r : Nat} {p b} (hm : bitsIn 0x42 m) (hr : bitsIn 0x2000000000000000000000000000000000000000000000000000000000000000000000000000000000000 r)
    (hk : z.Frame m r s) : z.Frame m r (State.putRecord s p b) := by
  unfold State.putRecord
  try dsimp only
  repeat' first
    | with_reducible assumption
    | with_reducible first | exact hm.within rfl | exact hr.within rfl | exact hr.at rfl
    | with_reducible first | apply State.Frame.ite | apply State.Frame.foldl | apply State.emit_frame | apply State.countIrq_frame | apply State.bump_frame
    | (intro _ _ _; try dsimp only)
    | (intro _; try dsimp only)
    | split
    | exact State.Frame.upd hm (by with_reducible assumption) rfl
    | (refine State.Frame.upd hm ?_ rfl)

/-- Writes: outbox lanes fab; registers: none. -/
theorem State.areaRead_frame {z s : State} {m r : Nat} {p sess tier mirror off len} (hm : bitsIn 0x6000002 m) (hr : bitsIn 0x0 r)
    (hk : z.Frame m r s) : z.Frame m r (State.areaRead s p sess tier mirror off len) := by
  unfold State.areaRead
  try dsimp only
  repeat' first
    | with_reducible assumption
    | with_reducible first | exact hm.within rfl | exact hr.within rfl | exact hr.at rfl
    | with_reducible first | apply State.Frame.ite | apply State.Frame.foldl | apply State.emit_frame | apply State.poolRead_frame
    | (intro _ _ _; try dsimp only)
    | (intro _; try dsimp only)
    | split
    | exact State.Frame.upd hm (by with_reducible assumption) rfl
    | (refine State.Frame.upd hm ?_ rfl)

/-- Writes: outbox lanes fab; registers: none. -/
theorem State.readBucket_frame {z s : State} {m r : Nat} {p sess tier mirror} (hm : bitsIn 0x6000002 m) (hr : bitsIn 0x0 r)
    (hk : z.Frame m r s) : z.Frame m r (State.readBucket s p sess tier mirror) := by
  unfold State.readBucket
  try dsimp only
  repeat' first
    | with_reducible assumption
    | with_reducible first | exact hm.within rfl | exact hr.within rfl | exact hr.at rfl
    | with_reducible first | apply State.Frame.ite | apply State.Frame.foldl | apply State.areaRead_frame
    | (intro _ _ _; try dsimp only)
    | (intro _; try dsimp only)
    | split
    | exact State.Frame.upd hm (by with_reducible assumption) rfl
    | (refine State.Frame.upd hm ?_ rfl)

/-- Writes: outbox lanes fab; registers: none. -/
theorem State.readBuckets_frame {z s : State} {m r : Nat} {e tier} (hm : bitsIn 0x6000002 m) (hr : bitsIn 0x0 r)
    (hk : z.Frame m r s) : z.Frame m r (State.readBuckets s e tier) := by
  unfold State.readBuckets
  try dsimp only
  repeat' first
    | with_reducible assumption
    | with_reducible first | exact hm.within rfl | exact hr.within rfl | exact hr.at rfl
    | with_reducible first | apply State.Frame.ite | apply State.Frame.foldl | apply State.readBucket_frame
    | (intro _ _ _; try dsimp only)
    | (intro _; try dsimp only)
    | split
    | exact State.Frame.upd hm (by with_reducible assumption) rfl
    | (refine State.Frame.upd hm ?_ rfl)

/-- Writes: outbox wbs lanes fab; registers: none. -/
theorem State.issueWb_frame {z s : State} {m r : Nat} {e tier epoch} (hm : bitsIn 0x6040002 m) (hr : bitsIn 0x0 r)
    (hk : z.Frame m r s) : z.Frame m r (State.issueWb s e tier epoch) := by
  unfold State.issueWb
  try dsimp only
  repeat' first
    | with_reducible assumption
    | with_reducible first | exact hm.within rfl | exact hr.within rfl | exact hr.at rfl
    | with_reducible first | apply State.Frame.ite | apply State.Frame.foldl | apply State.readBuckets_frame
    | (intro _ _ _; try dsimp only)
    | (intro _; try dsimp only)
    | split
    | exact State.Frame.upd hm (by with_reducible assumption) rfl
    | (refine State.Frame.upd hm ?_ rfl)

/-- Writes: outbox wbs lanes fab; registers: none. -/
theorem State.askWb_frame {z s : State} {m r : Nat} {e epoch} (hm : bitsIn 0x6040002 m) (hr : bitsIn 0x0 r)
    (hk : z.Frame m r s) : z.Frame m r (State.askWb s e epoch) := by
  unfold State.askWb
  try dsimp only
  repeat' first
    | with_reducible assumption
    | with_reducible first | exact hm.within rfl | exact hr.within rfl | exact hr.at rfl
    | with_reducible first | apply State.Frame.ite | apply State.Frame.foldl | apply State.issueWb_frame
    | (intro _ _ _; try dsimp only)
    | (intro _; try dsimp only)
    | split
    | exact State.Frame.upd hm (by with_reducible assumption) rfl
    | (refine State.Frame.upd hm ?_ rfl)

/-- Writes: outbox pits entries wbs lanes fab; registers: none. -/
theorem State.noteRecord_frame {z s : State} {m r : Nat} {p sess epoch d isErr vals} (hm : bitsIn 0x6048042 m) (hr : bitsIn 0x0 r)
    (hk : z.Frame m r s) : z.Frame m r (State.noteRecord s p sess epoch d isErr vals) := by
  unfold State.noteRecord
  try dsimp only
  repeat' first
    | with_reducible assumption
    | with_reducible first | exact hm.within rfl | exact hr.within rfl | exact hr.at rfl
    | with_reducible first | apply State.Frame.ite | apply State.Frame.foldl | apply State.updPit_frame | apply State.updEntry_frame | apply State.askWb_frame
    | (intro _ _ _; try dsimp only)
    | (intro _; try dsimp only)
    | split
    | exact State.Frame.upd hm (by with_reducible assumption) rfl
    | (refine State.Frame.upd hm ?_ rfl)

/-- Writes: outbox pits stalls reqs toks entries wbs lanes fab; registers: pitVqTailCount. -/
theorem State.endReq_frame {z s : State} {m r : Nat} {r' vcode err flags tail vals} (hm : bitsIn 0x60492c2 m) (hr : bitsIn 0x2000000000000000000000000000000000000000000000000000000000000000000000000000000000000 r)
    (hk : z.Frame m r s) : z.Frame m r (State.endReq s r' vcode err flags tail vals) := by
  unfold State.endReq
  try dsimp only
  repeat' first
    | with_reducible assumption
    | with_reducible first | exact hm.within rfl | exact hr.within rfl | exact hr.at rfl
    | with_reducible first | apply State.Frame.ite | apply State.Frame.foldl | apply State.putRecord_frame | apply State.dropReq_frame | apply State.noteRecord_frame
    | (intro _ _ _; try dsimp only)
    | (intro _; try dsimp only)
    | split
    | exact State.Frame.upd hm (by with_reducible assumption) rfl
    | (refine State.Frame.upd hm ?_ rfl)

/-- Writes: outbox pits entries wbs lanes fab; registers: pitVqTailCount. -/
theorem State.failDesc_frame {z s : State} {m r : Nat} {r' e} (hm : bitsIn 0x6048042 m) (hr : bitsIn 0x2000000000000000000000000000000000000000000000000000000000000000000000000000000000000 r)
    (hk : z.Frame m r s) : z.Frame m r (State.failDesc s r' e) := by
  unfold State.failDesc
  try dsimp only
  repeat' first
    | with_reducible assumption
    | with_reducible first | exact hm.within rfl | exact hr.within rfl | exact hr.at rfl
    | with_reducible first | apply State.Frame.ite | apply State.Frame.foldl | apply State.putRecord_frame | apply State.noteRecord_frame
    | (intro _ _ _; try dsimp only)
    | (intro _; try dsimp only)
    | split
    | exact State.Frame.upd hm (by with_reducible assumption) rfl
    | (refine State.Frame.upd hm ?_ rfl)

/-- Writes: outbox pits stalls reqs streams toks entries wbs lanes fab; registers: pitVqTailCount. -/
theorem State.failReq_frame {z s : State} {m r : Nat} {r' e} (hm : bitsIn 0x6049ac2 m) (hr : bitsIn 0x2000000000000000000000000000000000000000000000000000000000000000000000000000000000000 r)
    (hk : z.Frame m r s) : z.Frame m r (State.failReq s r' e) := by
  unfold State.failReq
  try dsimp only
  repeat' first
    | with_reducible assumption
    | with_reducible first | exact hm.within rfl | exact hr.within rfl | exact hr.at rfl
    | with_reducible first | apply State.Frame.ite | apply State.Frame.foldl | apply State.dropReq_frame | apply State.failDesc_frame | apply State.dropStream_frame
    | (intro _ _ _; try dsimp only)
    | (intro _; try dsimp only)
    | split
    | exact State.Frame.upd hm (by with_reducible assumption) rfl
    | (refine State.Frame.upd hm ?_ rfl)

/-- Writes: outbox factorTick dbk; registers: dbkDroppedCount tollMdlLoFactor. -/
theorem State.lowerFactor_frame {z s : State} {m r : Nat} {i f} (hm : bitsIn 0x60000002 m) (hr : bitsIn 0x10000000000800000000000000000000000000000000000000 r)
    (hk : z.Frame m r s) : z.Frame m r (State.lowerFactor s i f) := by
  unfold State.lowerFactor
  try dsimp only
  repeat' first
    | with_reducible assumption
    | with_reducible first | exact hm.within rfl | exact hr.within rfl | exact hr.at rfl
    | with_reducible first | apply State.Frame.ite | apply State.Frame.foldl | apply State.wr_frame | apply State.day_frame
    | (intro _ _ _; try dsimp only)
    | (intro _; try dsimp only)
    | split
    | exact State.Frame.upd hm (by with_reducible assumption) rfl
    | (refine State.Frame.upd hm ?_ rfl)

/-- Writes: outbox factorTick dbk; registers: dbkDroppedCount tollMdlLoFactor. -/
theorem State.lateReport_frame {z s : State} {m r : Nat} {p m'} (hm : bitsIn 0x60000002 m) (hr : bitsIn 0x10000000000800000000000000000000000000000000000000 r)
    (hk : z.Frame m r s) : z.Frame m r (State.lateReport s p m') := by
  unfold State.lateReport
  try dsimp only
  repeat' first
    | with_reducible assumption
    | with_reducible first | exact hm.within rfl | exact hr.within rfl | exact hr.at rfl
    | with_reducible first | apply State.Frame.ite | apply State.Frame.foldl | apply State.lowerFactor_frame
    | (intro _ _ _; try dsimp only)
    | (intro _; try dsimp only)
    | split
    | exact State.Frame.upd hm (by with_reducible assumption) rfl
    | (refine State.Frame.upd hm ?_ rfl)

/-- Writes: outbox pits stalls reqs streams toks entries wbs lanes fab factorTick dbk; registers: dbkDroppedCount
pitVqTailCount tierLateCount tierStlLateCount tollMdlLoFactor. -/
theorem State.failLate_frame {z s : State} {m r : Nat} {r' tier trow tcol} (hm : bitsIn 0x66049ac2 m) (hr : bitsIn 0x80000000000000000000002000000000000000000000000000000000010000000000800000000000000400000000000000000000000 r)
    (hk : z.Frame m r s) : z.Frame m r (State.failLate s r' tier trow tcol) := by
  unfold State.failLate
  try dsimp only
  repeat' first
    | with_reducible assumption
    | with_reducible first | exact hm.within rfl | exact hr.within rfl | exact hr.at rfl
    | with_reducible first | apply State.Frame.ite | apply State.Frame.foldl | apply State.failReq_frame | apply State.bump_frame | apply State.day_frame | apply State.lateReport_frame
    | (intro _ _ _; try dsimp only)
    | (intro _; try dsimp only)
    | split
    | exact State.Frame.upd hm (by with_reducible assumption) rfl
    | (refine State.Frame.upd hm ?_ rfl)


end Sys2Proof.Machine
end

