-- ==== Sys2Proof/Laws/FrameToll.lean ====
section
/-! SUPPORT. What the functions of Machine/Toll.lean may write, and that they leave the rest of a state as it is. -/

set_option linter.unusedVariables false

namespace Sys2Proof.Machine

/-- Writes: outbox revives lanes fab; registers: none. -/
theorem State.startRevive_frame {z s : State} {m r : Nat} {p sess prefetch pushed} (hm : bitsIn 0x6010002 m) (hr : bitsIn 0x0 r)
    (hk : z.Frame m r s) : z.Frame m r (State.startRevive s p sess prefetch pushed) := by
  unfold State.startRevive
  try dsimp only
  repeat' first
    | with_reducible assumption
    | with_reducible first | exact hm.within rfl | exact hr.within rfl | exact hr.at rfl
    | with_reducible first | apply State.Frame.ite | apply State.Frame.foldl | apply State.Frame.getD | apply State.poolRead_frame | apply State.readBucket_frame
    | (intro _ _ _; try dsimp only)
    | (intro _; try dsimp only)
    | split
    | exact State.Frame.upd hm (by with_reducible assumption) rfl
    | (refine State.Frame.upd hm ?_ rfl)

/-- Writes: stalls free; registers: none. -/
theorem State.startWakes_frame {z s : State} {m r : Nat} {p i} (hm : bitsIn 0x100000080 m) (hr : bitsIn 0x0 r)
    (hk : z.Frame m r s) : z.Frame m r (State.startWakes s p i) := by
  unfold State.startWakes
  try dsimp only
  repeat' first
    | with_reducible assumption
    | with_reducible first | exact hm.within rfl | exact hr.within rfl | exact hr.at rfl
    | with_reducible first | apply State.Frame.ite | apply State.Frame.foldl | apply State.tookFree_frame | apply State.updStl_frame
    | (intro _ _ _; try dsimp only)
    | (intro _; try dsimp only)
    | split
    | exact State.Frame.upd hm (by with_reducible assumption) rfl
    | (refine State.Frame.upd hm ?_ rfl)

/-- Writes: toll; registers: tollPitAdmitCount tollPitDeferCount tollPitLastAns tollPitLastReason tollPitQuarCount
tollPitRefuseCount. -/
theorem State.answer_frame {z s : State} {m r : Nat} {p ans reason} (hm : bitsIn 0x4 m) (hr : bitsIn 0x1f8000000000000000000000000000000000000 r)
    (hk : z.Frame m r s) : z.Frame m r (State.answer s p ans reason) := by
  unfold State.answer
  try dsimp only
  repeat' first
    | with_reducible assumption
    | with_reducible first | exact hm.within rfl | exact hr.within rfl | exact hr.at rfl
    | with_reducible first | apply State.Frame.ite | apply State.Frame.foldl | apply State.bump_frame | apply State.wr_frame
    | (intro _ _ _; try dsimp only)
    | (intro _; try dsimp only)
    | split
    | exact State.Frame.upd hm (by with_reducible assumption) rfl
    | (refine State.Frame.upd hm ?_ rfl)

/-- Writes: outbox toll clk pits stalls adms revives lanes fab free; registers: tollEnergyLevelNj tollPitAdmitCount
tollPitDeferCount tollPitLastAns tollPitLastReason tollPitQuarCount tollPitRefuseCount. -/
theorem State.applyDecision_frame {z s : State} {m r : Nat} {q x2} (hm : bitsIn 0x1060101ce m) (hr : bitsIn 0x1f8000080000000000000000000000000000000 r)
    (hk : z.Frame m r s) : z.Frame m r (State.applyDecision s q x2) := by
  unfold State.applyDecision
  try dsimp only
  repeat' first
    | with_reducible assumption
    | with_reducible first | exact hm.within rfl | exact hr.within rfl | exact hr.at rfl
    | with_reducible first | apply State.Frame.ite | apply State.Frame.foldl | apply State.Frame.getD | apply State.answer_frame | apply State.updPit_frame | apply State.startWakes_frame | apply State.startRevive_frame | apply State.setLevel8_frame
    | (intro _ _ _; try dsimp only)
    | (intro _; try dsimp only)
    | split
    | exact State.Frame.upd hm (by with_reducible assumption) rfl
    | (refine State.Frame.upd hm ?_ rfl)

/-- Writes: outbox toll clk pits stalls adms revives lanes fab free; registers: tollEnergyLevelNj tollPitAdmitCount
tollPitDeferCount tollPitLastAns tollPitLastReason tollPitQuarCount tollPitRefuseCount. -/
theorem tollQueryStep_frame {z s : State} {m r : Nat} {q} (hm : bitsIn 0x1060101ce m) (hr : bitsIn 0x1f8000080000000000000000000000000000000 r)
    (hk : z.Frame m r s) : z.Frame m r (tollQueryStep q s) := by
  unfold tollQueryStep
  try dsimp only
  repeat' first
    | with_reducible assumption
    | with_reducible first | exact hm.within rfl | exact hr.within rfl | exact hr.at rfl
    | with_reducible first | apply State.Frame.ite | apply State.Frame.foldl | apply State.applyDecision_frame
    | (intro _ _ _; try dsimp only)
    | (intro _; try dsimp only)
    | split
    | exact State.Frame.upd hm (by with_reducible assumption) rfl
    | (refine State.Frame.upd hm ?_ rfl)

/-- Writes: adms; registers: none. -/
theorem lapseStep_frame {z s : State} {m r : Nat} {p sess tag} (hm : bitsIn 0x100 m) (hr : bitsIn 0x0 r)
    (hk : z.Frame m r s) : z.Frame m r (lapseStep p sess tag s) := by
  unfold lapseStep
  try dsimp only
  repeat' first
    | with_reducible assumption
    | with_reducible first | exact hm.within rfl | exact hr.within rfl | exact hr.at rfl
    | with_reducible first | apply State.Frame.ite | apply State.Frame.foldl
    | (intro _ _ _; try dsimp only)
    | (intro _; try dsimp only)
    | split
    | exact State.Frame.upd hm (by with_reducible assumption) rfl
    | (refine State.Frame.upd hm ?_ rfl)

/-- Writes: clk pits; registers: tollEnergyLevelNj. -/
theorem State.beginStep_frame {z s : State} {m r : Nat} {p} (hm : bitsIn 0x48 m) (hr : bitsIn 0x80000000000000000000000000000000 r)
    (hk : z.Frame m r s) : z.Frame m r (State.beginStep s p) := by
  unfold State.beginStep
  try dsimp only
  repeat' first
    | with_reducible assumption
    | with_reducible first | exact hm.within rfl | exact hr.within rfl | exact hr.at rfl
    | with_reducible first | apply State.Frame.ite | apply State.Frame.foldl | apply State.updPit_frame | apply State.setLevel8_frame
    | (intro _ _ _; try dsimp only)
    | (intro _; try dsimp only)
    | split
    | exact State.Frame.upd hm (by with_reducible assumption) rfl
    | (refine State.Frame.upd hm ?_ rfl)

/-- Writes: clk pits; registers: tollEnergyLevelNj. -/
theorem State.beginSteps_frame {z s : State} {m r : Nat} (hm : bitsIn 0x48 m) (hr : bitsIn 0x80000000000000000000000000000000 r)
    (hk : z.Frame m r s) : z.Frame m r (State.beginSteps s) := by
  unfold State.beginSteps
  try dsimp only
  repeat' first
    | with_reducible assumption
    | with_reducible first | exact hm.within rfl | exact hr.within rfl | exact hr.at rfl
    | with_reducible first | apply State.Frame.ite | apply State.Frame.foldl | apply State.beginStep_frame
    | (intro _ _ _; try dsimp only)
    | (intro _; try dsimp only)
    | split
    | exact State.Frame.upd hm (by with_reducible assumption) rfl
    | (refine State.Frame.upd hm ?_ rfl)

/-- Writes: toll clk pits; registers: tollEnergyLevelNj. -/
theorem drainStep_frame {z s : State} {m r : Nat} (hm : bitsIn 0x4c m) (hr : bitsIn 0x80000000000000000000000000000000 r)
    (hk : z.Frame m r s) : z.Frame m r (drainStep s) := by
  unfold drainStep
  try dsimp only
  repeat' first
    | with_reducible assumption
    | with_reducible first | exact hm.within rfl | exact hr.within rfl | exact hr.at rfl
    | with_reducible first | apply State.Frame.ite | apply State.Frame.foldl | apply State.beginSteps_frame | apply State.setLevel8_frame
    | (intro _ _ _; try dsimp only)
    | (intro _; try dsimp only)
    | split
    | exact State.Frame.upd hm (by with_reducible assumption) rfl
    | (refine State.Frame.upd hm ?_ rfl)

/-- Writes: factorTick; registers: tollMdlLoFactor. -/
theorem factorRecoverStep_frame {z s : State} {m r : Nat} {i} (hm : bitsIn 0x20000000 m) (hr : bitsIn 0x800000000000000000000000000000000000000 r)
    (hk : z.Frame m r s) : z.Frame m r (factorRecoverStep i s) := by
  unfold factorRecoverStep
  try dsimp only
  repeat' first
    | with_reducible assumption
    | with_reducible first | exact hm.within rfl | exact hr.within rfl | exact hr.at rfl
    | with_reducible first | apply State.Frame.ite | apply State.Frame.foldl | apply State.Frame.getD | apply State.wr_frame
    | (intro _ _ _; try dsimp only)
    | (intro _; try dsimp only)
    | split
    | exact State.Frame.upd hm (by with_reducible assumption) rfl
    | (refine State.Frame.upd hm ?_ rfl)

/-- Writes: nothing but registers; registers: tollQtabHiPitch tollQtabHiSession tollQtabHiValid tollQtabHiWhole. -/
theorem State.setQuar_frame {z s : State} {m r : Nat} {i w'} (hm : bitsIn 0x0 m) (hr : bitsIn 0xb8000000000000000000000000000000000 r)
    (hk : z.Frame m r s) : z.Frame m r (State.setQuar s i w') := by
  unfold State.setQuar
  try dsimp only
  repeat' first
    | with_reducible assumption
    | with_reducible first | exact hm.within rfl | exact hr.within rfl | exact hr.at rfl
    | with_reducible first | apply State.Frame.ite | apply State.Frame.foldl | apply State.wr_frame
    | (intro _ _ _; try dsimp only)
    | (intro _; try dsimp only)
    | split

/-- Writes: nothing but registers; registers: tollQtabHiAuto tollQtabHiPitch tollQtabHiSession tollQtabHiValid
tollQtabHiWhole. -/
theorem State.writeQuar_frame {z s : State} {m r : Nat} {i w'} (hm : bitsIn 0x0 m) (hr : bitsIn 0xf8000000000000000000000000000000000 r)
    (hk : z.Frame m r s) : z.Frame m r (State.writeQuar s i w') := by
  unfold State.writeQuar
  try dsimp only
  repeat' first
    | with_reducible assumption
    | with_reducible first | exact hm.within rfl | exact hr.within rfl | exact hr.at rfl
    | with_reducible first | apply State.Frame.ite | apply State.Frame.foldl | apply State.wr_frame | apply State.setQuar_frame
    | (intro _ _ _; try dsimp only)
    | (intro _; try dsimp only)
    | split

/-- Writes: outbox dbk; registers: dbkDroppedCount glbDenyCount glbDenyLastAccessor glbDenyLastAddr glbDenyLastWrite
tollQtabHiAuto tollQtabHiPitch tollQtabHiSession tollQtabHiValid tollQtabHiWhole. -/
theorem qtabStep_frame {z s : State} {m r : Nat} {acc i w'} (hm : bitsIn 0x40000002 m) (hr : bitsIn 0x100000000000000f8000000000000000000000000003c00000 r)
    (hk : z.Frame m r s) : z.Frame m r (qtabStep acc i w' s) := by
  unfold qtabStep
  try dsimp only
  repeat' first
    | with_reducible assumption
    | with_reducible first | exact hm.within rfl | exact hr.within rfl | exact hr.at rfl
    | with_reducible first | apply State.Frame.ite | apply State.Frame.foldl | apply State.FrameEither.ite | apply State.FrameEither.ofInl | apply State.FrameEither.ofInr | apply State.gate_frame | apply State.writeQuar_frame
    | (intro _ _ _; try dsimp only)
    | (intro _; try dsimp only)
    | split
    | with_reducible first | refine State.Frame.ofInl ‹_› ?_ | refine State.Frame.ofInr ‹_› ?_
    | exact State.Frame.upd hm (by with_reducible assumption) rfl
    | (refine State.Frame.upd hm ?_ rfl)
    | dsimp only

/-- Writes: outbox dbk; registers: dbkDroppedCount tollQtabHiAuto tollQtabHiPitch tollQtabHiSession tollQtabHiValid
tollQtabHiWhole tollQtabLoSession tollStatusQtabFull. -/
theorem State.quarantineAuto_frame {z s : State} {m r : Nat} {p sess} (hm : bitsIn 0x40000002 m) (hr : bitsIn 0x100000000000000fc008000000000000000000000000000000 r)
    (hk : z.Frame m r s) : z.Frame m r (State.quarantineAuto s p sess) := by
  unfold State.quarantineAuto
  try dsimp only
  repeat' first
    | with_reducible assumption
    | with_reducible first | exact hm.within rfl | exact hr.within rfl | exact hr.at rfl
    | with_reducible first | apply State.Frame.ite | apply State.Frame.foldl | apply State.wr_frame | apply State.setQuar_frame | apply State.day_frame
    | (intro _ _ _; try dsimp only)
    | (intro _; try dsimp only)
    | split
    | exact State.Frame.upd hm (by with_reducible assumption) rfl
    | (refine State.Frame.upd hm ?_ rfl)


end Sys2Proof.Machine
end

