-- ==== Sys2Proof/Laws/FrameLedger.lean ====
section
/-! SUPPORT. What the functions of Machine/Ledger.lean may write, and that they leave the rest of a state as it is. -/

set_option linter.unusedVariables false

namespace Sys2Proof.Machine

/-- Writes: clk; registers: none. -/
theorem State.countCopy_frame {z s : State} {m r : Nat} (hm : bitsIn 0x8 m) (hr : bitsIn 0x0 r)
    (hk : z.Frame m r s) : z.Frame m r (State.countCopy s) := by
  unfold State.countCopy
  try dsimp only
  repeat' first
    | with_reducible assumption
    | with_reducible first | exact hm.within rfl | exact hr.within rfl | exact hr.at rfl
    | with_reducible first | apply State.Frame.ite | apply State.Frame.foldl
    | (intro _ _ _; try dsimp only)
    | (intro _; try dsimp only)
    | split
    | exact State.Frame.upd hm (by with_reducible assumption) rfl
    | (refine State.Frame.upd hm ?_ rfl)

/-- Writes: outbox lanes fab; registers: none. -/
theorem State.areaWrite_frame {z s : State} {m r : Nat} {p sess tier mirror off b} (hm : bitsIn 0x6000002 m) (hr : bitsIn 0x0 r)
    (hk : z.Frame m r s) : z.Frame m r (State.areaWrite s p sess tier mirror off b) := by
  unfold State.areaWrite
  try dsimp only
  repeat' first
    | with_reducible assumption
    | with_reducible first | exact hm.within rfl | exact hr.within rfl | exact hr.at rfl
    | with_reducible first | apply State.Frame.ite | apply State.Frame.foldl | apply State.emit_frame | apply State.poolWrite_frame
    | (intro _ _ _; try dsimp only)
    | (intro _; try dsimp only)
    | split
    | exact State.Frame.upd hm (by with_reducible assumption) rfl
    | (refine State.Frame.upd hm ?_ rfl)

/-- Writes: outbox lanes fab; registers: none. -/
theorem State.writeWay_frame {z s : State} {m r : Nat} {p tier mirror w' x} (hm : bitsIn 0x6000002 m) (hr : bitsIn 0x0 r)
    (hk : z.Frame m r s) : z.Frame m r (State.writeWay s p tier mirror w' x) := by
  unfold State.writeWay
  try dsimp only
  repeat' first
    | with_reducible assumption
    | with_reducible first | exact hm.within rfl | exact hr.within rfl | exact hr.at rfl
    | with_reducible first | apply State.Frame.ite | apply State.Frame.foldl | apply State.areaWrite_frame
    | (intro _ _ _; try dsimp only)
    | (intro _; try dsimp only)
    | split
    | exact State.Frame.upd hm (by with_reducible assumption) rfl
    | (refine State.Frame.upd hm ?_ rfl)

/-- Writes: tier; registers: none. -/
theorem State.freeGranules_frame {z s : State} {m r : Nat} {p} (hm : bitsIn 0x8000000 m) (hr : bitsIn 0x0 r)
    (hk : z.Frame m r s) : z.Frame m r (State.freeGranules s p) := by
  unfold State.freeGranules
  try dsimp only
  repeat' first
    | with_reducible assumption
    | with_reducible first | exact hm.within rfl | exact hr.within rfl | exact hr.at rfl
    | with_reducible first | apply State.Frame.ite | apply State.Frame.foldl
    | (intro _ _ _; try dsimp only)
    | (intro _; try dsimp only)
    | split
    | exact State.Frame.upd hm (by with_reducible assumption) rfl
    | (refine State.Frame.upd hm ?_ rfl)

/-- Writes: entries tier; registers: none. -/
theorem State.freeEntry_frame {z s : State} {m r : Nat} {p sess} (hm : bitsIn 0x8008000 m) (hr : bitsIn 0x0 r)
    (hk : z.Frame m r s) : z.Frame m r (State.freeEntry s p sess) := by
  unfold State.freeEntry
  try dsimp only
  repeat' first
    | with_reducible assumption
    | with_reducible first | exact hm.within rfl | exact hr.within rfl | exact hr.at rfl
    | with_reducible first | apply State.Frame.ite | apply State.Frame.foldl | apply State.freeGranules_frame | apply State.dropEntry_frame
    | (intro _ _ _; try dsimp only)
    | (intro _; try dsimp only)
    | split
    | exact State.Frame.upd hm (by with_reducible assumption) rfl
    | (refine State.Frame.upd hm ?_ rfl)

/-- Writes: entries; registers: none. -/
theorem State.noteCopy_frame {z s : State} {m r : Nat} {e tier mirror w'} (hm : bitsIn 0x8000 m) (hr : bitsIn 0x0 r)
    (hk : z.Frame m r s) : z.Frame m r (State.noteCopy s e tier mirror w') := by
  unfold State.noteCopy
  try dsimp only
  repeat' first
    | with_reducible assumption
    | with_reducible first | exact hm.within rfl | exact hr.within rfl | exact hr.at rfl
    | with_reducible first | apply State.Frame.ite | apply State.Frame.foldl | apply State.updEntry_frame
    | (intro _ _ _; try dsimp only)
    | (intro _; try dsimp only)
    | split
    | exact State.Frame.upd hm (by with_reducible assumption) rfl
    | (refine State.Frame.upd hm ?_ rfl)

/-- Writes: outbox clk entries lanes fab; registers: none. -/
theorem State.storeCopy_frame {z s : State} {m r : Nat} {e tier mirror mir w' keyver state} (hm : bitsIn 0x600800a m) (hr : bitsIn 0x0 r)
    (hk : z.Frame m r s) : z.Frame m r (State.storeCopy s e tier mirror mir w' keyver state) := by
  unfold State.storeCopy
  try dsimp only
  repeat' first
    | with_reducible assumption
    | with_reducible first | exact hm.within rfl | exact hr.within rfl | exact hr.at rfl
    | with_reducible first | apply State.Frame.ite | apply State.Frame.foldl | apply State.countCopy_frame | apply State.areaWrite_frame | apply State.noteCopy_frame | apply State.writeWay_frame
    | (intro _ _ _; try dsimp only)
    | (intro _; try dsimp only)
    | split
    | exact State.Frame.upd hm (by with_reducible assumption) rfl
    | (refine State.Frame.upd hm ?_ rfl)

/-- Writes: outbox dbk; registers: dbkDroppedCount ldgStatusPoolFail. -/
theorem State.poolFail_frame {z s : State} {m r : Nat} {p tier mirror} (hm : bitsIn 0x40000002 m) (hr : bitsIn 0x10000000000000000000000000000000000004000000000000 r)
    (hk : z.Frame m r s) : z.Frame m r (State.poolFail s p tier mirror) := by
  unfold State.poolFail
  try dsimp only
  repeat' first
    | with_reducible assumption
    | with_reducible first | exact hm.within rfl | exact hr.within rfl | exact hr.at rfl
    | with_reducible first | apply State.Frame.ite | apply State.Frame.foldl | apply State.day_frame | apply State.wr_frame
    | (intro _ _ _; try dsimp only)
    | (intro _; try dsimp only)
    | split
    | exact State.Frame.upd hm (by with_reducible assumption) rfl
    | (refine State.Frame.upd hm ?_ rfl)

/-- Writes: outbox dbk; registers: dbkDroppedCount ldgPitStatusDirFull. -/
theorem State.dirFull_frame {z s : State} {m r : Nat} {p sess tier mirror} (hm : bitsIn 0x40000002 m) (hr : bitsIn 0x10000000000000000000000000000008000000000000000000 r)
    (hk : z.Frame m r s) : z.Frame m r (State.dirFull s p sess tier mirror) := by
  unfold State.dirFull
  try dsimp only
  repeat' first
    | with_reducible assumption
    | with_reducible first | exact hm.within rfl | exact hr.within rfl | exact hr.at rfl
    | with_reducible first | apply State.Frame.ite | apply State.Frame.foldl | apply State.day_frame | apply State.wr_frame
    | (intro _ _ _; try dsimp only)
    | (intro _; try dsimp only)
    | split
    | exact State.Frame.upd hm (by with_reducible assumption) rfl
    | (refine State.Frame.upd hm ?_ rfl)

/-- Writes: outbox clk entries lanes fab dbk; registers: dbkDroppedCount ldgPitStatusDirFull ldgStatusPoolFail. -/
theorem State.storeMirror_frame {z s : State} {m r : Nat} {e tier keyver state d} (hm : bitsIn 0x4600800a m) (hr : bitsIn 0x10000000000000000000000000000008000004000000000000 r)
    (hk : z.Frame m r s) : z.Frame m r (State.storeMirror s e tier keyver state d).1 := by
  unfold State.storeMirror
  try dsimp only
  repeat' first
    | with_reducible assumption
    | with_reducible first | exact hm.within rfl | exact hr.within rfl | exact hr.at rfl
    | with_reducible first | apply State.Frame.ite | apply State.Frame.foldl | apply State.Frame.foldlFst | apply State.poolFail_frame | apply State.storeCopy_frame | apply State.dirFull_frame
    | (intro _ _ _; try dsimp only)
    | (intro _; try dsimp only)
    | split
    | exact State.Frame.upd hm (by with_reducible assumption) rfl
    | (refine State.Frame.upd hm ?_ rfl)
    | dsimp only

/-- Writes: outbox clk entries lanes fab dbk; registers: dbkDroppedCount ldgPitStatusDirFull ldgStatusPoolFail. -/
theorem State.storeBoth_frame {z s : State} {m r : Nat} {e tier keyver state d md} (hm : bitsIn 0x4600800a m) (hr : bitsIn 0x10000000000000000000000000000008000004000000000000 r)
    (hk : z.Frame m r s) : z.Frame m r (State.storeBoth s e tier keyver state d md).1 := by
  unfold State.storeBoth
  try dsimp only
  repeat' first
    | with_reducible assumption
    | with_reducible first | exact hm.within rfl | exact hr.within rfl | exact hr.at rfl
    | with_reducible first | apply State.Frame.ite | apply State.Frame.foldl | apply State.Frame.foldlFst | apply State.dirFull_frame | apply State.storeMirror_frame | apply State.storeCopy_frame | apply State.poolFail_frame
    | (intro _ _ _; try dsimp only)
    | (intro _; try dsimp only)
    | split
    | with_reducible first | refine State.Frame.ofFst ‹_› ?_
    | exact State.Frame.upd hm (by with_reducible assumption) rfl
    | (refine State.Frame.upd hm ?_ rfl)
    | dsimp only

/-- Writes: outbox parks lanes fab; registers: none. -/
theorem State.startPark_frame {z s : State} {m r : Nat} {e tier} (hm : bitsIn 0x6020002 m) (hr : bitsIn 0x0 r)
    (hk : z.Frame m r s) : z.Frame m r (State.startPark s e tier) := by
  unfold State.startPark
  try dsimp only
  repeat' first
    | with_reducible assumption
    | with_reducible first | exact hm.within rfl | exact hr.within rfl | exact hr.at rfl
    | with_reducible first | apply State.Frame.ite | apply State.Frame.foldl | apply State.readBuckets_frame
    | (intro _ _ _; try dsimp only)
    | (intro _; try dsimp only)
    | split
    | exact State.Frame.upd hm (by with_reducible assumption) rfl
    | (refine State.Frame.upd hm ?_ rfl)

/-- Writes: outbox lanes fab; registers: none. -/
theorem State.writeRecord_frame {z s : State} {m r : Nat} {p sess owner epoch holder ckpt} (hm : bitsIn 0x6000002 m) (hr : bitsIn 0x0 r)
    (hk : z.Frame m r s) : z.Frame m r (State.writeRecord s p sess owner epoch holder ckpt) := by
  unfold State.writeRecord
  try dsimp only
  repeat' first
    | with_reducible assumption
    | with_reducible first | exact hm.within rfl | exact hr.within rfl | exact hr.at rfl
    | with_reducible first | apply State.Frame.ite | apply State.Frame.foldl | apply State.poolRead_frame
    | (intro _ _ _; try dsimp only)
    | (intro _; try dsimp only)
    | split
    | exact State.Frame.upd hm (by with_reducible assumption) rfl
    | (refine State.Frame.upd hm ?_ rfl)

/-- Writes: outbox entries lanes fab dbk; registers: dbkDroppedCount. -/
theorem State.dirWrite_frame {z s : State} {m r : Nat} {op b} (hm : bitsIn 0x46008002 m) (hr : bitsIn 0x10000000000000000000000000000000000000000000000000 r)
    (hk : z.Frame m r s) : z.Frame m r (State.dirWrite s op b) := by
  unfold State.dirWrite
  try dsimp only
  repeat' first
    | with_reducible assumption
    | with_reducible first | exact hm.within rfl | exact hr.within rfl | exact hr.at rfl
    | with_reducible first | apply State.Frame.ite | apply State.Frame.foldl | apply State.day_frame | apply State.poolWrite_frame | apply State.updEntry_frame
    | (intro _ _ _; try dsimp only)
    | (intro _; try dsimp only)
    | split
    | exact State.Frame.upd hm (by with_reducible assumption) rfl
    | (refine State.Frame.upd hm ?_ rfl)

/-- Writes: outbox lanes fab; registers: none. -/
theorem State.noteParked_frame {z s : State} {m r : Nat} {e tier} (hm : bitsIn 0x6000002 m) (hr : bitsIn 0x0 r)
    (hk : z.Frame m r s) : z.Frame m r (State.noteParked s e tier) := by
  unfold State.noteParked
  try dsimp only
  repeat' first
    | with_reducible assumption
    | with_reducible first | exact hm.within rfl | exact hr.within rfl | exact hr.at rfl
    | with_reducible first | apply State.Frame.ite | apply State.Frame.foldl | apply State.writeRecord_frame
    | (intro _ _ _; try dsimp only)
    | (intro _; try dsimp only)
    | split
    | exact State.Frame.upd hm (by with_reducible assumption) rfl
    | (refine State.Frame.upd hm ?_ rfl)

/-- Writes: fab; registers: none. -/
theorem State.dropMove_frame {z s : State} {m r : Nat} {p sess} (hm : bitsIn 0x4000000 m) (hr : bitsIn 0x0 r)
    (hk : z.Frame m r s) : z.Frame m r (State.dropMove s p sess) := by
  unfold State.dropMove
  try dsimp only
  repeat' first
    | with_reducible assumption
    | with_reducible first | exact hm.within rfl | exact hr.within rfl | exact hr.at rfl
    | with_reducible first | apply State.Frame.ite | apply State.Frame.foldl
    | (intro _ _ _; try dsimp only)
    | (intro _; try dsimp only)
    | split
    | exact State.Frame.upd hm (by with_reducible assumption) rfl
    | (refine State.Frame.upd hm ?_ rfl)

/-- Writes: outbox lanes; registers: none. -/
theorem State.announce_frame {z s : State} {m r : Nat} {p sess owner holder epoch body} (hm : bitsIn 0x2000002 m) (hr : bitsIn 0x0 r)
    (hk : z.Frame m r s) : z.Frame m r (State.announce s p sess owner holder epoch body) := by
  unfold State.announce
  try dsimp only
  repeat' first
    | with_reducible assumption
    | with_reducible first | exact hm.within rfl | exact hr.within rfl | exact hr.at rfl
    | with_reducible first | apply State.Frame.ite | apply State.Frame.foldl | apply State.sendFrame_frame
    | (intro _ _ _; try dsimp only)
    | (intro _; try dsimp only)
    | split
    | exact State.Frame.upd hm (by with_reducible assumption) rfl
    | (refine State.Frame.upd hm ?_ rfl)

/-- Writes: outbox entries lanes fab tier; registers: none. -/
theorem State.moveParked_frame {z s : State} {m r : Nat} {p sess ckpt} (hm : bitsIn 0xe008002 m) (hr : bitsIn 0x0 r)
    (hk : z.Frame m r s) : z.Frame m r (State.moveParked s p sess ckpt) := by
  unfold State.moveParked
  try dsimp only
  repeat' first
    | with_reducible assumption
    | with_reducible first | exact hm.within rfl | exact hr.within rfl | exact hr.at rfl
    | with_reducible first | apply State.Frame.ite | apply State.Frame.foldl | apply State.sendFrame_frame | apply State.writeRecord_frame | apply State.announce_frame | apply State.dropMove_frame | apply State.putExc_frame | apply State.freeEntry_frame
    | (intro _ _ _; try dsimp only)
    | (intro _; try dsimp only)
    | split
    | exact State.Frame.upd hm (by with_reducible assumption) rfl
    | (refine State.Frame.upd hm ?_ rfl)

/-- Writes: outbox entries parks lanes fab tier free; registers: none. -/
theorem State.moveOn_frame {z s : State} {m r : Nat} {p sess} (hm : bitsIn 0x10e028002 m) (hr : bitsIn 0x0 r)
    (hk : z.Frame m r s) : z.Frame m r (State.moveOn s p sess) := by
  unfold State.moveOn
  try dsimp only
  repeat' first
    | with_reducible assumption
    | with_reducible first | exact hm.within rfl | exact hr.within rfl | exact hr.at rfl
    | with_reducible first | apply State.Frame.ite | apply State.Frame.foldl | apply State.startPark_frame | apply State.moveParked_frame | apply State.tookFree_frame
    | (intro _ _ _; try dsimp only)
    | (intro _; try dsimp only)
    | split
    | exact State.Frame.upd hm (by with_reducible assumption) rfl
    | (refine State.Frame.upd hm ?_ rfl)

/-- Writes: outbox parks lanes fab; registers: none. -/
theorem State.parkByHint_frame {z s : State} {m r : Nat} {p sess} (hm : bitsIn 0x6020002 m) (hr : bitsIn 0x0 r)
    (hk : z.Frame m r s) : z.Frame m r (State.parkByHint s p sess) := by
  unfold State.parkByHint
  try dsimp only
  repeat' first
    | with_reducible assumption
    | with_reducible first | exact hm.within rfl | exact hr.within rfl | exact hr.at rfl
    | with_reducible first | apply State.Frame.ite | apply State.Frame.foldl | apply State.startPark_frame
    | (intro _ _ _; try dsimp only)
    | (intro _; try dsimp only)
    | split
    | exact State.Frame.upd hm (by with_reducible assumption) rfl
    | (refine State.Frame.upd hm ?_ rfl)

/-- Writes: outbox entries parks lanes fab tier free; registers: none. -/
theorem parkStartStep_frame {z s : State} {m r : Nat} {p sess} (hm : bitsIn 0x10e028002 m) (hr : bitsIn 0x0 r)
    (hk : z.Frame m r s) : z.Frame m r (parkStartStep p sess s) := by
  unfold parkStartStep
  try dsimp only
  repeat' first
    | with_reducible assumption
    | with_reducible first | exact hm.within rfl | exact hr.within rfl | exact hr.at rfl
    | with_reducible first | apply State.Frame.ite | apply State.Frame.foldl | apply State.moveOn_frame | apply State.parkByHint_frame
    | (intro _ _ _; try dsimp only)
    | (intro _; try dsimp only)
    | split
    | exact State.Frame.upd hm (by with_reducible assumption) rfl
    | (refine State.Frame.upd hm ?_ rfl)

/-- Writes: outbox entries parks lanes fab tier; registers: none. -/
theorem evictStep_frame {z s : State} {m r : Nat} (hm : bitsIn 0xe028002 m) (hr : bitsIn 0x0 r)
    (hk : z.Frame m r s) : z.Frame m r (evictStep s) := by
  unfold evictStep
  try dsimp only
  repeat' first
    | with_reducible assumption
    | with_reducible first | exact hm.within rfl | exact hr.within rfl | exact hr.at rfl
    | with_reducible first | apply State.Frame.ite | apply State.Frame.foldl | apply State.startPark_frame | apply State.freeEntry_frame
    | (intro _ _ _; try dsimp only)
    | (intro _; try dsimp only)
    | split
    | exact State.Frame.upd hm (by with_reducible assumption) rfl
    | (refine State.Frame.upd hm ?_ rfl)

/-- Writes: outbox wbs lanes fab; registers: none. -/
theorem State.kickWb_frame {z s : State} {m r : Nat} {p sess} (hm : bitsIn 0x6040002 m) (hr : bitsIn 0x0 r)
    (hk : z.Frame m r s) : z.Frame m r (State.kickWb s p sess) := by
  unfold State.kickWb
  try dsimp only
  repeat' first
    | with_reducible assumption
    | with_reducible first | exact hm.within rfl | exact hr.within rfl | exact hr.at rfl
    | with_reducible first | apply State.Frame.ite | apply State.Frame.foldl | apply State.readBuckets_frame
    | (intro _ _ _; try dsimp only)
    | (intro _; try dsimp only)
    | split
    | exact State.Frame.upd hm (by with_reducible assumption) rfl
    | (refine State.Frame.upd hm ?_ rfl)

/-- Writes: outbox wbs lanes fab; registers: none. -/
theorem State.dropWb_frame {z s : State} {m r : Nat} {p sess} (hm : bitsIn 0x6040002 m) (hr : bitsIn 0x0 r)
    (hk : z.Frame m r s) : z.Frame m r (State.dropWb s p sess) := by
  unfold State.dropWb
  try dsimp only
  repeat' first
    | with_reducible assumption
    | with_reducible first | exact hm.within rfl | exact hr.within rfl | exact hr.at rfl
    | with_reducible first | apply State.Frame.ite | apply State.Frame.foldl | apply State.kickWb_frame
    | (intro _ _ _; try dsimp only)
    | (intro _; try dsimp only)
    | split
    | exact State.Frame.upd hm (by with_reducible assumption) rfl
    | (refine State.Frame.upd hm ?_ rfl)

/-- Writes: outbox wbs lanes fab; registers: none. -/
theorem State.laterWb_frame {z s : State} {m r : Nat} {k e} (hm : bitsIn 0x6040002 m) (hr : bitsIn 0x0 r)
    (hk : z.Frame m r s) : z.Frame m r (State.laterWb s k e) := by
  unfold State.laterWb
  try dsimp only
  repeat' first
    | with_reducible assumption
    | with_reducible first | exact hm.within rfl | exact hr.within rfl | exact hr.at rfl
    | with_reducible first | apply State.Frame.ite | apply State.Frame.foldl | apply State.issueWb_frame
    | (intro _ _ _; try dsimp only)
    | (intro _; try dsimp only)
    | split
    | exact State.Frame.upd hm (by with_reducible assumption) rfl
    | (refine State.Frame.upd hm ?_ rfl)

/-- Writes: parks; registers: none. -/
theorem State.dropPark_frame {z s : State} {m r : Nat} {p sess} (hm : bitsIn 0x20000 m) (hr : bitsIn 0x0 r)
    (hk : z.Frame m r s) : z.Frame m r (State.dropPark s p sess) := by
  unfold State.dropPark
  try dsimp only
  repeat' first
    | with_reducible assumption
    | with_reducible first | exact hm.within rfl | exact hr.within rfl | exact hr.at rfl
    | with_reducible first | apply State.Frame.ite | apply State.Frame.foldl
    | (intro _ _ _; try dsimp only)
    | (intro _; try dsimp only)
    | split
    | exact State.Frame.upd hm (by with_reducible assumption) rfl
    | (refine State.Frame.upd hm ?_ rfl)

/-- Writes: outbox clk entries parks wbs lanes fab tier dbk; registers: dbkDroppedCount ldgParksCount
ldgPitStatusDirFull ldgStatusPoolFail ldgWbCount. -/
theorem parkCompleteStep_frame {z s : State} {m r : Nat} {p sess bucket mbucket} (hm : bitsIn 0x4e06800a m) (hr : bitsIn 0x10000000000000000000000000000008000144000000000000 r)
    (hk : z.Frame m r s) : z.Frame m r (parkCompleteStep p sess bucket mbucket s) := by
  unfold parkCompleteStep
  try dsimp only
  repeat' first
    | with_reducible assumption
    | with_reducible first | exact hm.within rfl | exact hr.within rfl | exact hr.at rfl
    | with_reducible first | apply State.Frame.ite | apply State.Frame.foldl | apply State.Frame.foldlFst | apply State.dropPark_frame | apply State.freeEntry_frame | apply State.storeBoth_frame | apply State.laterWb_frame | apply State.noteParked_frame | apply State.bump_frame | apply State.moveParked_frame
    | (intro _ _ _; try dsimp only)
    | (intro _; try dsimp only)
    | split
    | with_reducible first | refine State.Frame.ofFst ‹_› ?_
    | exact State.Frame.upd hm (by with_reducible assumption) rfl
    | (refine State.Frame.upd hm ?_ rfl)
    | dsimp only

/-- Writes: outbox clk entries wbs lanes fab dbk; registers: dbkDroppedCount ldgPitStatusDirFull ldgStatusPoolFail
ldgWbCount. -/
theorem writeBackStep_frame {z s : State} {m r : Nat} {p sess bucket mbucket} (hm : bitsIn 0x4604800a m) (hr : bitsIn 0x10000000000000000000000000000008000104000000000000 r)
    (hk : z.Frame m r s) : z.Frame m r (writeBackStep p sess bucket mbucket s) := by
  unfold writeBackStep
  try dsimp only
  repeat' first
    | with_reducible assumption
    | with_reducible first | exact hm.within rfl | exact hr.within rfl | exact hr.at rfl
    | with_reducible first | apply State.Frame.ite | apply State.Frame.foldl | apply State.Frame.foldlFst | apply State.dropWb_frame | apply State.storeBoth_frame | apply State.noteParked_frame | apply State.bump_frame
    | (intro _ _ _; try dsimp only)
    | (intro _; try dsimp only)
    | split
    | with_reducible first | refine State.Frame.ofFst ‹_› ?_
    | exact State.Frame.upd hm (by with_reducible assumption) rfl
    | (refine State.Frame.upd hm ?_ rfl)
    | dsimp only

/-- Writes: outbox dbk; registers: dbkDroppedCount ldgStatusPoolFail. -/
theorem State.jobFail_frame {z s : State} {m r : Nat} {pool x} (hm : bitsIn 0x40000002 m) (hr : bitsIn 0x10000000000000000000000000000000000004000000000000 r)
    (hk : z.Frame m r s) : z.Frame m r (State.jobFail s pool x).1 := by
  unfold State.jobFail
  try dsimp only
  repeat' first
    | with_reducible assumption
    | with_reducible first | exact hm.within rfl | exact hr.within rfl | exact hr.at rfl
    | with_reducible first | apply State.Frame.ite | apply State.Frame.foldl | apply State.Frame.foldlFst | apply State.poolFail_frame
    | (intro _ _ _; try dsimp only)
    | (intro _; try dsimp only)
    | split
    | exact State.Frame.upd hm (by with_reducible assumption) rfl
    | (refine State.Frame.upd hm ?_ rfl)
    | dsimp only

/-- Writes: outbox parks wbs lanes fab dbk; registers: dbkDroppedCount ldgStatusPoolFail. -/
theorem State.failJobs_frame {z s : State} {m r : Nat} {pool late} (hm : bitsIn 0x46060002 m) (hr : bitsIn 0x10000000000000000000000000000000000004000000000000 r)
    (hk : z.Frame m r s) : z.Frame m r (State.failJobs s pool late) := by
  unfold State.failJobs
  try dsimp only
  repeat' first
    | with_reducible assumption
    | with_reducible first | exact hm.within rfl | exact hr.within rfl | exact hr.at rfl
    | with_reducible first | apply State.Frame.ite | apply State.Frame.foldl | apply State.Frame.foldlFst | apply State.jobFail_frame | apply State.kickWb_frame
    | (intro _ _ _; try dsimp only)
    | (intro _; try dsimp only)
    | split
    | with_reducible first | refine State.Frame.ofFst ‹_› ?_
    | exact State.Frame.upd hm (by with_reducible assumption) rfl
    | (refine State.Frame.upd hm ?_ rfl)
    | dsimp only

/-- Writes: revives; registers: none. -/
theorem State.dropRevive_frame {z s : State} {m r : Nat} {p sess} (hm : bitsIn 0x10000 m) (hr : bitsIn 0x0 r)
    (hk : z.Frame m r s) : z.Frame m r (State.dropRevive s p sess) := by
  unfold State.dropRevive
  try dsimp only
  repeat' first
    | with_reducible assumption
    | with_reducible first | exact hm.within rfl | exact hr.within rfl | exact hr.at rfl
    | with_reducible first | apply State.Frame.ite | apply State.Frame.foldl
    | (intro _ _ _; try dsimp only)
    | (intro _; try dsimp only)
    | split
    | exact State.Frame.upd hm (by with_reducible assumption) rfl
    | (refine State.Frame.upd hm ?_ rfl)

/-- Writes: outbox pits stalls reqs streams toks entries wbs lanes fab; registers: pitVqTailCount. -/
theorem State.failWaiters_frame {z s : State} {m r : Nat} {p sess e} (hm : bitsIn 0x6049ac2 m) (hr : bitsIn 0x2000000000000000000000000000000000000000000000000000000000000000000000000000000000000 r)
    (hk : z.Frame m r s) : z.Frame m r (State.failWaiters s p sess e) := by
  unfold State.failWaiters
  try dsimp only
  repeat' first
    | with_reducible assumption
    | with_reducible first | exact hm.within rfl | exact hr.within rfl | exact hr.at rfl
    | with_reducible first | apply State.Frame.ite | apply State.Frame.foldl | apply State.failReq_frame
    | (intro _ _ _; try dsimp only)
    | (intro _; try dsimp only)
    | split
    | exact State.Frame.upd hm (by with_reducible assumption) rfl
    | (refine State.Frame.upd hm ?_ rfl)

/-- Writes: pits reqs streams entries revives; registers: none. -/
theorem State.install_frame {z s : State} {m r : Nat} {e prefetch} (hm : bitsIn 0x18a40 m) (hr : bitsIn 0x0 r)
    (hk : z.Frame m r s) : z.Frame m r (State.install s e prefetch) := by
  unfold State.install
  try dsimp only
  repeat' first
    | with_reducible assumption
    | with_reducible first | exact hm.within rfl | exact hr.within rfl | exact hr.at rfl
    | with_reducible first | apply State.Frame.ite | apply State.Frame.foldl | apply State.dropRevive_frame | apply State.updPit_frame
    | (intro _ _ _; try dsimp only)
    | (intro _; try dsimp only)
    | split
    | exact State.Frame.upd hm (by with_reducible assumption) rfl
    | (refine State.Frame.upd hm ?_ rfl)

/-- Writes: entries; registers: none. -/
theorem State.writeSummary_frame {z s : State} {m r : Nat} {p sess b} (hm : bitsIn 0x8000 m) (hr : bitsIn 0x0 r)
    (hk : z.Frame m r s) : z.Frame m r (State.writeSummary s p sess b) := by
  unfold State.writeSummary
  try dsimp only
  repeat' first
    | with_reducible assumption
    | with_reducible first | exact hm.within rfl | exact hr.within rfl | exact hr.at rfl
    | with_reducible first | apply State.Frame.ite | apply State.Frame.foldl | apply State.updEntry_frame
    | (intro _ _ _; try dsimp only)
    | (intro _; try dsimp only)
    | split
    | exact State.Frame.upd hm (by with_reducible assumption) rfl
    | (refine State.Frame.upd hm ?_ rfl)

/-- Writes: fab; registers: none. -/
theorem State.dropPush_frame {z s : State} {m r : Nat} {x} (hm : bitsIn 0x4000000 m) (hr : bitsIn 0x0 r)
    (hk : z.Frame m r s) : z.Frame m r (State.dropPush s x) := by
  unfold State.dropPush
  try dsimp only
  repeat' first
    | with_reducible assumption
    | with_reducible first | exact hm.within rfl | exact hr.within rfl | exact hr.at rfl
    | with_reducible first | apply State.Frame.ite | apply State.Frame.foldl
    | (intro _ _ _; try dsimp only)
    | (intro _; try dsimp only)
    | split
    | exact State.Frame.upd hm (by with_reducible assumption) rfl
    | (refine State.Frame.upd hm ?_ rfl)

/-- Writes: outbox lanes dbk; registers: dbkDroppedCount. -/
theorem State.answerPush_frame {z s : State} {m r : Nat} {p sess tag src status} (hm : bitsIn 0x42000002 m) (hr : bitsIn 0x10000000000000000000000000000000000000000000000000 r)
    (hk : z.Frame m r s) : z.Frame m r (State.answerPush s p sess tag src status) := by
  unfold State.answerPush
  try dsimp only
  repeat' first
    | with_reducible assumption
    | with_reducible first | exact hm.within rfl | exact hr.within rfl | exact hr.at rfl
    | with_reducible first | apply State.Frame.ite | apply State.Frame.foldl | apply State.sendFrame_frame | apply State.day_frame
    | (intro _ _ _; try dsimp only)
    | (intro _; try dsimp only)
    | split
    | exact State.Frame.upd hm (by with_reducible assumption) rfl
    | (refine State.Frame.upd hm ?_ rfl)

/-- Writes: outbox pits entries wbs lanes fab dbk; registers: dbkDroppedCount. -/
theorem State.acceptPush_frame {z s : State} {m r : Nat} {x h'} (hm : bitsIn 0x46048042 m) (hr : bitsIn 0x10000000000000000000000000000000000000000000000000 r)
    (hk : z.Frame m r s) : z.Frame m r (State.acceptPush s x h') := by
  unfold State.acceptPush
  try dsimp only
  repeat' first
    | with_reducible assumption
    | with_reducible first | exact hm.within rfl | exact hr.within rfl | exact hr.at rfl
    | with_reducible first | apply State.Frame.ite | apply State.Frame.foldl | apply State.Frame.getD | apply State.writeSummary_frame | apply State.noteRecord_frame | apply State.writeRecord_frame | apply State.answerPush_frame | apply State.dropPush_frame
    | (intro _ _ _; try dsimp only)
    | (intro _; try dsimp only)
    | split
    | exact State.Frame.upd hm (by with_reducible assumption) rfl
    | (refine State.Frame.upd hm ?_ rfl)

/-- Writes: outbox pits entries wbs lanes fab dbk; registers: dbkDroppedCount. -/
theorem State.settlePushes_frame {z s : State} {m r : Nat} {p sess} (hm : bitsIn 0x46048042 m) (hr : bitsIn 0x10000000000000000000000000000000000000000000000000 r)
    (hk : z.Frame m r s) : z.Frame m r (State.settlePushes s p sess) := by
  unfold State.settlePushes
  try dsimp only
  repeat' first
    | with_reducible assumption
    | with_reducible first | exact hm.within rfl | exact hr.within rfl | exact hr.at rfl
    | with_reducible first | apply State.Frame.ite | apply State.Frame.foldl | apply State.acceptPush_frame
    | (intro _ _ _; try dsimp only)
    | (intro _; try dsimp only)
    | split
    | exact State.Frame.upd hm (by with_reducible assumption) rfl
    | (refine State.Frame.upd hm ?_ rfl)

/-- Writes: outbox lanes fab dbk; registers: dbkDroppedCount. -/
theorem State.failPushes_frame {z s : State} {m r : Nat} {p sess} (hm : bitsIn 0x46000002 m) (hr : bitsIn 0x10000000000000000000000000000000000000000000000000 r)
    (hk : z.Frame m r s) : z.Frame m r (State.failPushes s p sess) := by
  unfold State.failPushes
  try dsimp only
  repeat' first
    | with_reducible assumption
    | with_reducible first | exact hm.within rfl | exact hr.within rfl | exact hr.at rfl
    | with_reducible first | apply State.Frame.ite | apply State.Frame.foldl | apply State.answerPush_frame | apply State.dropPush_frame
    | (intro _ _ _; try dsimp only)
    | (intro _; try dsimp only)
    | split
    | exact State.Frame.upd hm (by with_reducible assumption) rfl
    | (refine State.Frame.upd hm ?_ rfl)

/-- Writes: outbox pits stalls reqs streams toks entries revives wbs lanes fab dbk; registers: dbkDroppedCount
ldgLostCount pitVqTailCount. -/
theorem State.stateLost_frame {z s : State} {m r : Nat} {r' tier ckpt} (hm : bitsIn 0x46059ac2 m) (hr : bitsIn 0x2000000000000000000000000000000000010000000000000000000000000000000000200000000000000 r)
    (hk : z.Frame m r s) : z.Frame m r (State.stateLost s r' tier ckpt) := by
  unfold State.stateLost
  try dsimp only
  repeat' first
    | with_reducible assumption
    | with_reducible first | exact hm.within rfl | exact hr.within rfl | exact hr.at rfl
    | with_reducible first | apply State.Frame.ite | apply State.Frame.foldl | apply State.failPushes_frame | apply State.failWaiters_frame | apply State.day_frame | apply State.bump_frame | apply State.install_frame
    | (intro _ _ _; try dsimp only)
    | (intro _; try dsimp only)
    | split
    | exact State.Frame.upd hm (by with_reducible assumption) rfl
    | (refine State.Frame.upd hm ?_ rfl)

/-- Writes: outbox pits stalls reqs streams toks entries revives wbs lanes fab dbk; registers: dbkDroppedCount
ldgAuthfailCount pitVqTailCount tollQtabHiAuto tollQtabHiPitch tollQtabHiSession tollQtabHiValid tollQtabHiWhole
tollQtabLoSession tollStatusQtabFull. -/
theorem State.authFailed_frame {z s : State} {m r : Nat} {r' ckpt} (hm : bitsIn 0x46059ac2 m) (hr : bitsIn 0x20000000000000000000000000000000000100000000000000fc008000000000000000400000000000000 r)
    (hk : z.Frame m r s) : z.Frame m r (State.authFailed s r' ckpt) := by
  unfold State.authFailed
  try dsimp only
  repeat' first
    | with_reducible assumption
    | with_reducible first | exact hm.within rfl | exact hr.within rfl | exact hr.at rfl
    | with_reducible first | apply State.Frame.ite | apply State.Frame.foldl | apply State.failPushes_frame | apply State.dropRevive_frame | apply State.failWaiters_frame | apply State.day_frame | apply State.bump_frame | apply State.quarantineAuto_frame | apply State.updPit_frame
    | (intro _ _ _; try dsimp only)
    | (intro _; try dsimp only)
    | split
    | exact State.Frame.upd hm (by with_reducible assumption) rfl
    | (refine State.Frame.upd hm ?_ rfl)

/-- Writes: outbox lanes fab; registers: none. -/
theorem State.revRead_frame {z s : State} {m r : Nat} {r' off len} (hm : bitsIn 0x6000002 m) (hr : bitsIn 0x0 r)
    (hk : z.Frame m r s) : z.Frame m r (State.revRead s r' off len) := by
  unfold State.revRead
  try dsimp only
  repeat' first
    | with_reducible assumption
    | with_reducible first | exact hm.within rfl | exact hr.within rfl | exact hr.at rfl
    | with_reducible first | apply State.Frame.ite | apply State.Frame.foldl | apply State.emit_frame | apply State.poolRead_frame
    | (intro _ _ _; try dsimp only)
    | (intro _; try dsimp only)
    | split
    | exact State.Frame.upd hm (by with_reducible assumption) rfl
    | (refine State.Frame.upd hm ?_ rfl)

/-- Writes: revives; registers: none. -/
theorem State.setRevive_frame {z s : State} {m r : Nat} {r'} (hm : bitsIn 0x10000 m) (hr : bitsIn 0x0 r)
    (hk : z.Frame m r s) : z.Frame m r (State.setRevive s r') := by
  unfold State.setRevive
  try dsimp only
  repeat' first
    | with_reducible assumption
    | with_reducible first | exact hm.within rfl | exact hr.within rfl | exact hr.at rfl
    | with_reducible first | apply State.Frame.ite | apply State.Frame.foldl
    | (intro _ _ _; try dsimp only)
    | (intro _; try dsimp only)
    | split
    | exact State.Frame.upd hm (by with_reducible assumption) rfl
    | (refine State.Frame.upd hm ?_ rfl)

/-- Writes: outbox revives lanes fab; registers: none. -/
theorem State.reviveNext_frame {z s : State} {m r : Nat} {r' tier mirror} (hm : bitsIn 0x6010002 m) (hr : bitsIn 0x0 r)
    (hk : z.Frame m r s) : z.Frame m r (State.reviveNext s r' tier mirror) := by
  unfold State.reviveNext
  try dsimp only
  repeat' first
    | with_reducible assumption
    | with_reducible first | exact hm.within rfl | exact hr.within rfl | exact hr.at rfl
    | with_reducible first | apply State.Frame.ite | apply State.Frame.foldl | apply State.revRead_frame | apply State.setRevive_frame
    | (intro _ _ _; try dsimp only)
    | (intro _; try dsimp only)
    | split
    | exact State.Frame.upd hm (by with_reducible assumption) rfl
    | (refine State.Frame.upd hm ?_ rfl)

/-- Writes: outbox revives lanes fab; registers: none. -/
theorem State.reviveDir_frame {z s : State} {m r : Nat} {r' d} (hm : bitsIn 0x6010002 m) (hr : bitsIn 0x0 r)
    (hk : z.Frame m r s) : z.Frame m r (State.reviveDir s r' d) := by
  unfold State.reviveDir
  try dsimp only
  repeat' first
    | with_reducible assumption
    | with_reducible first | exact hm.within rfl | exact hr.within rfl | exact hr.at rfl
    | with_reducible first | apply State.Frame.ite | apply State.Frame.foldl | apply State.poolRead_frame | apply State.setRevive_frame
    | (intro _ _ _; try dsimp only)
    | (intro _; try dsimp only)
    | split
    | exact State.Frame.upd hm (by with_reducible assumption) rfl
    | (refine State.Frame.upd hm ?_ rfl)

/-- Writes: outbox revives lanes fab; registers: none. -/
theorem State.reviveHolder_frame {z s : State} {m r : Nat} {r' x} (hm : bitsIn 0x6010002 m) (hr : bitsIn 0x0 r)
    (hk : z.Frame m r s) : z.Frame m r (State.reviveHolder s r' x) := by
  unfold State.reviveHolder
  try dsimp only
  repeat' first
    | with_reducible assumption
    | with_reducible first | exact hm.within rfl | exact hr.within rfl | exact hr.at rfl
    | with_reducible first | apply State.Frame.ite | apply State.Frame.foldl | apply State.revRead_frame | apply State.setRevive_frame
    | (intro _ _ _; try dsimp only)
    | (intro _; try dsimp only)
    | split
    | exact State.Frame.upd hm (by with_reducible assumption) rfl
    | (refine State.Frame.upd hm ?_ rfl)

/-- Writes: outbox pits stalls reqs streams toks entries revives wbs lanes fab dbk; registers: dbkDroppedCount
ldgLostCount pitVqTailCount. -/
theorem State.reviveLost_frame {z s : State} {m r : Nat} {r'} (hm : bitsIn 0x46059ac2 m) (hr : bitsIn 0x2000000000000000000000000000000000010000000000000000000000000000000000200000000000000 r)
    (hk : z.Frame m r s) : z.Frame m r (State.reviveLost s r') := by
  unfold State.reviveLost
  try dsimp only
  repeat' first
    | with_reducible assumption
    | with_reducible first | exact hm.within rfl | exact hr.within rfl | exact hr.at rfl
    | with_reducible first | apply State.Frame.ite | apply State.Frame.foldl | apply State.reviveNext_frame | apply State.stateLost_frame
    | (intro _ _ _; try dsimp only)
    | (intro _; try dsimp only)
    | split
    | exact State.Frame.upd hm (by with_reducible assumption) rfl
    | (refine State.Frame.upd hm ?_ rfl)

/-- Writes: pits reqs streams entries revives; registers: ldgPitPfMissCount. -/
theorem State.reviveNone_frame {z s : State} {m r : Nat} {r'} (hm : bitsIn 0x18a40 m) (hr : bitsIn 0x80000000000000000000 r)
    (hk : z.Frame m r s) : z.Frame m r (State.reviveNone s r') := by
  unfold State.reviveNone
  try dsimp only
  repeat' first
    | with_reducible assumption
    | with_reducible first | exact hm.within rfl | exact hr.within rfl | exact hr.at rfl
    | with_reducible first | apply State.Frame.ite | apply State.Frame.foldl | apply State.bump_frame | apply State.install_frame | apply State.dropRevive_frame
    | (intro _ _ _; try dsimp only)
    | (intro _; try dsimp only)
    | split
    | exact State.Frame.upd hm (by with_reducible assumption) rfl
    | (refine State.Frame.upd hm ?_ rfl)

/-- Writes: outbox pits stalls reqs streams toks entries revives wbs lanes fab dbk; registers: dbkDroppedCount
ldgLostCount ldgPitPfMissCount pitVqTailCount. -/
theorem State.reviveAbsent_frame {z s : State} {m r : Nat} {r'} (hm : bitsIn 0x46059ac2 m) (hr : bitsIn 0x2000000000000000000000000000000000010000000000000000000000000000080000200000000000000 r)
    (hk : z.Frame m r s) : z.Frame m r (State.reviveAbsent s r') := by
  unfold State.reviveAbsent
  try dsimp only
  repeat' first
    | with_reducible assumption
    | with_reducible first | exact hm.within rfl | exact hr.within rfl | exact hr.at rfl
    | with_reducible first | apply State.Frame.ite | apply State.Frame.foldl | apply State.stateLost_frame | apply State.reviveNext_frame | apply State.reviveDir_frame | apply State.reviveNone_frame
    | (intro _ _ _; try dsimp only)
    | (intro _; try dsimp only)
    | split
    | exact State.Frame.upd hm (by with_reducible assumption) rfl
    | (refine State.Frame.upd hm ?_ rfl)

/-- Writes: outbox lanes fab; registers: none. -/
theorem State.writeWays_frame {z s : State} {m r : Nat} {e f} (hm : bitsIn 0x6000002 m) (hr : bitsIn 0x0 r)
    (hk : z.Frame m r s) : z.Frame m r (State.writeWays s e f) := by
  unfold State.writeWays
  try dsimp only
  repeat' first
    | with_reducible assumption
    | with_reducible first | exact hm.within rfl | exact hr.within rfl | exact hr.at rfl
    | with_reducible first | apply State.Frame.ite | apply State.Frame.foldl | apply State.writeWay_frame
    | (intro _ _ _; try dsimp only)
    | (intro _; try dsimp only)
    | split
    | exact State.Frame.upd hm (by with_reducible assumption) rfl
    | (refine State.Frame.upd hm ?_ rfl)

/-- Writes: outbox pits stalls reqs dups streams toks entries revives parks wbs lanes fab tier dbk; registers:
dbkDroppedCount pitVqTailCount. -/
theorem State.loseSession_frame {z s : State} {m r : Nat} {p sess winner epoch} (hm : bitsIn 0x4e079ec2 m) (hr : bitsIn 0x2000000000000000000000000000000000010000000000000000000000000000000000000000000000000 r)
    (hk : z.Frame m r s) : z.Frame m r (State.loseSession s p sess winner epoch) := by
  unfold State.loseSession
  try dsimp only
  repeat' first
    | with_reducible assumption
    | with_reducible first | exact hm.within rfl | exact hr.within rfl | exact hr.at rfl
    | with_reducible first | apply State.Frame.ite | apply State.Frame.foldl | apply State.freeEntry_frame | apply State.writeWays_frame | apply State.failReq_frame | apply State.dropRevive_frame | apply State.dropStream_frame | apply State.day_frame | apply State.putExc_frame
    | (intro _ _ _; try dsimp only)
    | (intro _; try dsimp only)
    | split
    | exact State.Frame.upd hm (by with_reducible assumption) rfl
    | (refine State.Frame.upd hm ?_ rfl)

/-- Writes: outbox pits stalls reqs dups streams toks entries revives parks wbs lanes fab tier dbk; registers:
dbkDroppedCount fabConflictsCount ldgLostCount ldgPitPfMissCount pitVqTailCount. -/
theorem State.reviveRecord_frame {z s : State} {m r : Nat} {r' b} (hm : bitsIn 0x4e079ec2 m) (hr : bitsIn 0x2000000000000000000020000000000000010000000000000000000000000000080000200000000000000 r)
    (hk : z.Frame m r s) : z.Frame m r (State.reviveRecord s r' b) := by
  unfold State.reviveRecord
  try dsimp only
  repeat' first
    | with_reducible assumption
    | with_reducible first | exact hm.within rfl | exact hr.within rfl | exact hr.at rfl
    | with_reducible first | apply State.Frame.ite | apply State.Frame.foldl | apply State.reviveNone_frame | apply State.loseSession_frame | apply State.bump_frame | apply State.stateLost_frame | apply State.reviveHolder_frame
    | (intro _ _ _; try dsimp only)
    | (intro _; try dsimp only)
    | split
    | exact State.Frame.upd hm (by with_reducible assumption) rfl
    | (refine State.Frame.upd hm ?_ rfl)

/-- Writes: outbox pits reqs streams entries revives lanes fab dbk; registers: dbkDroppedCount ldgRevivesCount. -/
theorem State.revived_frame {z s : State} {m r : Nat} {r' w' x e} (hm : bitsIn 0x46018a42 m) (hr : bitsIn 0x10000000000000000000000000000000000080000000000000 r)
    (hk : z.Frame m r s) : z.Frame m r (State.revived s r' w' x e) := by
  unfold State.revived
  try dsimp only
  repeat' first
    | with_reducible assumption
    | with_reducible first | exact hm.within rfl | exact hr.within rfl | exact hr.at rfl
    | with_reducible first | apply State.Frame.ite | apply State.Frame.foldl | apply State.writeWay_frame | apply State.day_frame | apply State.bump_frame | apply State.install_frame
    | (intro _ _ _; try dsimp only)
    | (intro _; try dsimp only)
    | split
    | exact State.Frame.upd hm (by with_reducible assumption) rfl
    | (refine State.Frame.upd hm ?_ rfl)

/-- Writes: outbox pits stalls reqs streams toks entries revives wbs lanes fab dbk; registers: dbkDroppedCount
ldgAuthfailCount ldgLostCount ldgRevivesCount pitVqTailCount tollQtabHiAuto tollQtabHiPitch tollQtabHiSession
tollQtabHiValid tollQtabHiWhole tollQtabLoSession tollStatusQtabFull. -/
theorem State.reviveWay_frame {z s : State} {m r : Nat} {r' w' x slot} (hm : bitsIn 0x46059ac2 m) (hr : bitsIn 0x20000000000000000000000000000000000100000000000000fc008000000000000000680000000000000 r)
    (hk : z.Frame m r s) : z.Frame m r (State.reviveWay s r' w' x slot) := by
  unfold State.reviveWay
  try dsimp only
  repeat' first
    | with_reducible assumption
    | with_reducible first | exact hm.within rfl | exact hr.within rfl | exact hr.at rfl
    | with_reducible first | apply State.Frame.ite | apply State.Frame.foldl | apply State.stateLost_frame | apply State.revRead_frame | apply State.reviveNext_frame | apply State.revived_frame | apply State.bump_frame | apply State.authFailed_frame
    | (intro _ _ _; try dsimp only)
    | (intro _; try dsimp only)
    | split
    | exact State.Frame.upd hm (by with_reducible assumption) rfl
    | (refine State.Frame.upd hm ?_ rfl)

/-- Writes: outbox pits stalls reqs dups streams toks entries revives parks wbs lanes fab tier dbk; registers:
dbkDroppedCount fabConflictsCount ldgAuthfailCount ldgLostCount ldgPitPfMissCount ldgRevivesCount pitVqTailCount
tollQtabHiAuto tollQtabHiPitch tollQtabHiSession tollQtabHiValid tollQtabHiWhole tollQtabLoSession
tollStatusQtabFull. -/
theorem State.reviveGot_frame {z s : State} {m r : Nat} {r' bucket slot} (hm : bitsIn 0x4e079ec2 m) (hr : bitsIn 0x20000000000000000000200000000000000100000000000000fc008000000000080000680000000000000 r)
    (hk : z.Frame m r s) : z.Frame m r (State.reviveGot s r' bucket slot) := by
  unfold State.reviveGot
  try dsimp only
  repeat' first
    | with_reducible assumption
    | with_reducible first | exact hm.within rfl | exact hr.within rfl | exact hr.at rfl
    | with_reducible first | apply State.Frame.ite | apply State.Frame.foldl | apply State.reviveNone_frame | apply State.reviveLost_frame | apply State.reviveRecord_frame | apply State.reviveAbsent_frame | apply State.reviveWay_frame
    | (intro _ _ _; try dsimp only)
    | (intro _; try dsimp only)
    | split
    | exact State.Frame.upd hm (by with_reducible assumption) rfl
    | (refine State.Frame.upd hm ?_ rfl)

/-- Writes: outbox pits stalls reqs dups streams toks entries revives parks wbs lanes fab tier dbk; registers:
dbkDroppedCount fabConflictsCount ldgAuthfailCount ldgLostCount ldgPitPfMissCount ldgRevivesCount pitVqTailCount
tollQtabHiAuto tollQtabHiPitch tollQtabHiSession tollQtabHiValid tollQtabHiWhole tollQtabLoSession
tollStatusQtabFull. -/
theorem reviveStep_frame {z s : State} {m r : Nat} {p sess bucket slot} (hm : bitsIn 0x4e079ec2 m) (hr : bitsIn 0x20000000000000000000200000000000000100000000000000fc008000000000080000680000000000000 r)
    (hk : z.Frame m r s) : z.Frame m r (reviveStep p sess bucket slot s) := by
  unfold reviveStep
  try dsimp only
  repeat' first
    | with_reducible assumption
    | with_reducible first | exact hm.within rfl | exact hr.within rfl | exact hr.at rfl
    | with_reducible first | apply State.Frame.ite | apply State.Frame.foldl | apply State.settlePushes_frame | apply State.reviveGot_frame
    | (intro _ _ _; try dsimp only)
    | (intro _; try dsimp only)
    | split
    | exact State.Frame.upd hm (by with_reducible assumption) rfl
    | (refine State.Frame.upd hm ?_ rfl)

/-- Writes: outbox pits stalls reqs streams toks entries revives parks wbs lanes fab dbk; registers: dbkDroppedCount
ldgLostCount ldgStatusPoolFail pitVqTailCount. -/
theorem ledgerTimeoutStep_frame {z s : State} {m r : Nat} {pool} (hm : bitsIn 0x46079ac2 m) (hr : bitsIn 0x2000000000000000000000000000000000010000000000000000000000000000000000204000000000000 r)
    (hk : z.Frame m r s) : z.Frame m r (ledgerTimeoutStep pool s) := by
  unfold ledgerTimeoutStep
  try dsimp only
  repeat' first
    | with_reducible assumption
    | with_reducible first | exact hm.within rfl | exact hr.within rfl | exact hr.at rfl
    | with_reducible first | apply State.Frame.ite | apply State.Frame.foldl | apply State.reviveLost_frame | apply State.failJobs_frame | apply State.day_frame | apply State.wr_frame
    | (intro _ _ _; try dsimp only)
    | (intro _; try dsimp only)
    | split
    | exact State.Frame.upd hm (by with_reducible assumption) rfl
    | (refine State.Frame.upd hm ?_ rfl)

/-- Writes: pits; registers: ldgPitStatusPfOvf. -/
theorem State.queuePrefetch_frame {z s : State} {m r : Nat} {acc p w'} (hm : bitsIn 0x40 m) (hr : bitsIn 0x4000000000000000000 r)
    (hk : z.Frame m r s) : z.Frame m r (State.queuePrefetch s acc p w') := by
  unfold State.queuePrefetch
  try dsimp only
  repeat' first
    | with_reducible assumption
    | with_reducible first | exact hm.within rfl | exact hr.within rfl | exact hr.at rfl
    | with_reducible first | apply State.Frame.ite | apply State.Frame.foldl | apply State.Frame.getD | apply State.wr_frame | apply State.updPit_frame
    | (intro _ _ _; try dsimp only)
    | (intro _; try dsimp only)
    | split
    | exact State.Frame.upd hm (by with_reducible assumption) rfl
    | (refine State.Frame.upd hm ?_ rfl)

/-- Writes: outbox pits dbk; registers: dbkDroppedCount glbDenyCount glbDenyLastAccessor glbDenyLastAddr
glbDenyLastWrite ldgPitStatusPfOvf. -/
theorem prefetchStep_frame {z s : State} {m r : Nat} {acc p w'} (hm : bitsIn 0x40000042 m) (hr : bitsIn 0x10000000000000000000000000000004000000000003c00000 r)
    (hk : z.Frame m r s) : z.Frame m r (prefetchStep acc p w' s) := by
  unfold prefetchStep
  try dsimp only
  repeat' first
    | with_reducible assumption
    | with_reducible first | exact hm.within rfl | exact hr.within rfl | exact hr.at rfl
    | with_reducible first | apply State.Frame.ite | apply State.Frame.foldl | apply State.FrameEither.ite | apply State.FrameEither.ofInl | apply State.FrameEither.ofInr | apply State.gate_frame | apply State.queuePrefetch_frame
    | (intro _ _ _; try dsimp only)
    | (intro _; try dsimp only)
    | split
    | with_reducible first | refine State.Frame.ofInl ‹_› ?_ | refine State.Frame.ofInr ‹_› ?_
    | exact State.Frame.upd hm (by with_reducible assumption) rfl
    | (refine State.Frame.upd hm ?_ rfl)
    | dsimp only

/-- Writes: outbox pits revives lanes fab; registers: none. -/
theorem prefetchStartStep_frame {z s : State} {m r : Nat} {p} (hm : bitsIn 0x6010042 m) (hr : bitsIn 0x0 r)
    (hk : z.Frame m r s) : z.Frame m r (prefetchStartStep p s) := by
  unfold prefetchStartStep
  try dsimp only
  repeat' first
    | with_reducible assumption
    | with_reducible first | exact hm.within rfl | exact hr.within rfl | exact hr.at rfl
    | with_reducible first | apply State.Frame.ite | apply State.Frame.foldl | apply State.updPit_frame | apply State.startRevive_frame
    | (intro _ _ _; try dsimp only)
    | (intro _; try dsimp only)
    | split
    | exact State.Frame.upd hm (by with_reducible assumption) rfl
    | (refine State.Frame.upd hm ?_ rfl)

/-- Writes: outbox entries parks lanes fab; registers: none. -/
theorem holdExpiryStep_frame {z s : State} {m r : Nat} {p sess} (hm : bitsIn 0x6028002 m) (hr : bitsIn 0x0 r)
    (hk : z.Frame m r s) : z.Frame m r (holdExpiryStep p sess s) := by
  unfold holdExpiryStep
  try dsimp only
  repeat' first
    | with_reducible assumption
    | with_reducible first | exact hm.within rfl | exact hr.within rfl | exact hr.at rfl
    | with_reducible first | apply State.Frame.ite | apply State.Frame.foldl | apply State.parkByHint_frame | apply State.updEntry_frame
    | (intro _ _ _; try dsimp only)
    | (intro _; try dsimp only)
    | split
    | exact State.Frame.upd hm (by with_reducible assumption) rfl
    | (refine State.Frame.upd hm ?_ rfl)

/-- Writes: tier; registers: none. -/
theorem granuleStep_frame {z s : State} {m r : Nat} (hm : bitsIn 0x8000000 m) (hr : bitsIn 0x0 r)
    (hk : z.Frame m r s) : z.Frame m r (granuleStep s) := by
  unfold granuleStep
  try dsimp only
  repeat' first
    | with_reducible assumption
    | with_reducible first | exact hm.within rfl | exact hr.within rfl | exact hr.at rfl
    | with_reducible first | apply State.Frame.ite | apply State.Frame.foldl
    | (intro _ _ _; try dsimp only)
    | (intro _; try dsimp only)
    | split
    | exact State.Frame.upd hm (by with_reducible assumption) rfl
    | (refine State.Frame.upd hm ?_ rfl)


end Sys2Proof.Machine
end

