-- ==== Sys2Proof/Laws/FrameIntake.lean ====
section
/-! SUPPORT. What the functions of Machine/Intake.lean may write, and that they leave the rest of a state as it is. -/

set_option linter.unusedVariables false

namespace Sys2Proof.Machine

/-- Writes: outbox reqs lanes fab; registers: none. -/
theorem State.issueRead_frame {z s : State} {m r : Nat} {r' off len} (hm : bitsIn 0x6000202 m) (hr : bitsIn 0x0 r)
    (hk : z.Frame m r s) : z.Frame m r (State.issueRead s r' off len) := by
  unfold State.issueRead
  try dsimp only
  repeat' first
    | with_reducible assumption
    | with_reducible first | exact hm.within rfl | exact hr.within rfl | exact hr.at rfl
    | with_reducible first | apply State.Frame.ite | apply State.Frame.foldl | apply State.readMem_frame | apply State.updReq_frame
    | (intro _ _ _; try dsimp only)
    | (intro _; try dsimp only)
    | split
    | exact State.Frame.upd hm (by with_reducible assumption) rfl
    | (refine State.Frame.upd hm ?_ rfl)

/-- Writes: outbox reqs lanes fab; registers: none. -/
theorem State.issueReads_frame {z s : State} {m r : Nat} {r' rs} (hm : bitsIn 0x6000202 m) (hr : bitsIn 0x0 r)
    (hk : z.Frame m r s) : z.Frame m r (State.issueReads s r' rs) := by
  unfold State.issueReads
  try dsimp only
  repeat' first
    | with_reducible assumption
    | with_reducible first | exact hm.within rfl | exact hr.within rfl | exact hr.at rfl
    | with_reducible first | apply State.Frame.ite | apply State.Frame.foldl | apply State.issueRead_frame
    | (intro _ _ _; try dsimp only)
    | (intro _; try dsimp only)
    | split
    | exact State.Frame.upd hm (by with_reducible assumption) rfl
    | (refine State.Frame.upd hm ?_ rfl)

/-- Writes: outbox reqs lanes fab; registers: none. -/
theorem State.beginPayload_frame {z s : State} {m r : Nat} {r'} (hm : bitsIn 0x6000202 m) (hr : bitsIn 0x0 r)
    (hk : z.Frame m r s) : z.Frame m r (State.beginPayload s r') := by
  unfold State.beginPayload
  try dsimp only
  repeat' first
    | with_reducible assumption
    | with_reducible first | exact hm.within rfl | exact hr.within rfl | exact hr.at rfl
    | with_reducible first | apply State.Frame.ite | apply State.Frame.foldl | apply State.issueRead_frame
    | (intro _ _ _; try dsimp only)
    | (intro _; try dsimp only)
    | split
    | exact State.Frame.upd hm (by with_reducible assumption) rfl
    | (refine State.Frame.upd hm ?_ rfl)

/-- Writes: outbox stalls reqs lanes fab; registers: none. -/
theorem State.finalReads_frame {z s : State} {m r : Nat} {r'} (hm : bitsIn 0x6000282 m) (hr : bitsIn 0x0 r)
    (hk : z.Frame m r s) : z.Frame m r (State.finalReads s r') := by
  unfold State.finalReads
  try dsimp only
  repeat' first
    | with_reducible assumption
    | with_reducible first | exact hm.within rfl | exact hr.within rfl | exact hr.at rfl
    | with_reducible first | apply State.Frame.ite | apply State.Frame.foldl | apply State.Frame.getD | apply State.updReq_frame | apply State.updStl_frame | apply State.issueReads_frame | apply State.issueRead_frame
    | (intro _ _ _; try dsimp only)
    | (intro _; try dsimp only)
    | split
    | exact State.Frame.upd hm (by with_reducible assumption) rfl
    | (refine State.Frame.upd hm ?_ rfl)

/-- Writes: outbox pits stalls reqs streams toks entries wbs lanes fab dbk; registers: dbkDroppedCount mxeMisalignCount
pitVqTailCount. -/
theorem State.failSplit_frame {z s : State} {m r : Nat} {r' x2} (hm : bitsIn 0x46049ac2 m) (hr : bitsIn 0x1000000000000000000002000000000000000000000000000000000010000000000000000000000000000000000000000000000000 r)
    (hk : z.Frame m r s) : z.Frame m r (State.failSplit s r' x2) := by
  unfold State.failSplit
  try dsimp only
  repeat' first
    | with_reducible assumption
    | with_reducible first | exact hm.within rfl | exact hr.within rfl | exact hr.at rfl
    | with_reducible first | apply State.Frame.ite | apply State.Frame.foldl | apply State.failReq_frame | apply State.bump_frame | apply State.day_frame
    | (intro _ _ _; try dsimp only)
    | (intro _; try dsimp only)
    | split
    | exact State.Frame.upd hm (by with_reducible assumption) rfl
    | (refine State.Frame.upd hm ?_ rfl)

/-- Writes: nothing but registers; registers: sveByteHitsCount sveTokenHitsCount tknFallbackCount tknSplitCount
tknTokensOutCount. -/
theorem State.countCut_frame {z s : State} {m r : Nat} {r' c c' b b'} (hm : bitsIn 0x0 m) (hr : bitsIn 0xc0700000000000000000000000000000000000000000000000000000000000000000000000000000000000000000000000 r)
    (hk : z.Frame m r s) : z.Frame m r (State.countCut s r' c c' b b') := by
  unfold State.countCut
  try dsimp only
  repeat' first
    | with_reducible assumption
    | with_reducible first | exact hm.within rfl | exact hr.within rfl | exact hr.at rfl
    | with_reducible first | apply State.Frame.ite | apply State.Frame.foldl | apply State.bump_frame
    | (intro _ _ _; try dsimp only)
    | (intro _; try dsimp only)
    | split

/-- Writes: asz; registers: none. -/
theorem State.updAsz_frame {z s : State} {m r : Nat} {p m' f} (hm : bitsIn 0x400000 m) (hr : bitsIn 0x0 r)
    (hk : z.Frame m r s) : z.Frame m r (State.updAsz s p m' f) := by
  unfold State.updAsz
  try dsimp only
  repeat' first
    | with_reducible assumption
    | with_reducible first | exact hm.within rfl | exact hr.within rfl | exact hr.at rfl
    | with_reducible first | apply State.Frame.ite | apply State.Frame.foldl
    | (intro _ _ _; try dsimp only)
    | (intro _; try dsimp only)
    | split
    | exact State.Frame.upd hm (by with_reducible assumption) rfl
    | (refine State.Frame.upd hm ?_ rfl)

/-- Writes: pits samples free; registers: aszDropsCount aszSamplesCount. -/
theorem State.storeSample_frame {z s : State} {m r : Nat} {p m' sess input live} (hm : bitsIn 0x101000040 m) (hr : bitsIn 0x1800000000000000000000000000000000000000000000000000000000000000000000000 r)
    (hk : z.Frame m r s) : z.Frame m r (State.storeSample s p m' sess input live).1 := by
  unfold State.storeSample
  try dsimp only
  repeat' first
    | with_reducible assumption
    | with_reducible first | exact hm.within rfl | exact hr.within rfl | exact hr.at rfl
    | with_reducible first | apply State.Frame.ite | apply State.Frame.foldl | apply State.Frame.foldlFst | apply State.tookFree_frame | apply State.bump_frame | apply State.updPit_frame
    | (intro _ _ _; try dsimp only)
    | (intro _; try dsimp only)
    | split
    | exact State.Frame.upd hm (by with_reducible assumption) rfl
    | (refine State.Frame.upd hm ?_ rfl)
    | dsimp only

/-- Writes: pits reqs samples free; registers: aszDropsCount aszSamplesCount. -/
theorem State.captureIntake_frame {z s : State} {m r : Nat} {r'} (hm : bitsIn 0x101000240 m) (hr : bitsIn 0x1800000000000000000000000000000000000000000000000000000000000000000000000 r)
    (hk : z.Frame m r s) : z.Frame m r (State.captureIntake s r') := by
  unfold State.captureIntake
  try dsimp only
  repeat' first
    | with_reducible assumption
    | with_reducible first | exact hm.within rfl | exact hr.within rfl | exact hr.at rfl
    | with_reducible first | apply State.Frame.ite | apply State.Frame.foldl | apply State.Frame.foldlFst | apply State.storeSample_frame | apply State.updReq_frame
    | (intro _ _ _; try dsimp only)
    | (intro _; try dsimp only)
    | split
    | with_reducible first | refine State.Frame.ofFst ‹_› ?_
    | exact State.Frame.upd hm (by with_reducible assumption) rfl
    | (refine State.Frame.upd hm ?_ rfl)
    | dsimp only

/-- Writes: pits reqs samples arrivals free; registers: aszDropsCount aszSamplesCount sveByteHitsCount sveTokenHitsCount
tknFallbackCount tknSplitCount tknTokensOutCount. -/
theorem State.arriveIntake_frame {z s : State} {m r : Nat} {r'} (hm : bitsIn 0x181000240 m) (hr : bitsIn 0xc0700000000000000000000001800000000000000000000000000000000000000000000000000000000000000000000000 r)
    (hk : z.Frame m r s) : z.Frame m r (State.arriveIntake s r') := by
  unfold State.arriveIntake
  try dsimp only
  repeat' first
    | with_reducible assumption
    | with_reducible first | exact hm.within rfl | exact hr.within rfl | exact hr.at rfl
    | with_reducible first | apply State.Frame.ite | apply State.Frame.foldl | apply State.updReq_frame | apply State.captureIntake_frame | apply State.countCut_frame
    | (intro _ _ _; try dsimp only)
    | (intro _; try dsimp only)
    | split
    | exact State.Frame.upd hm (by with_reducible assumption) rfl
    | (refine State.Frame.upd hm ?_ rfl)

/-- Writes: free; registers: grdDefaultsCount grdEvalsCount grdLookupsCount grdMissesCount grdTailMaxCycles
grdVisitsCount. -/
theorem State.countGrade_frame {z s : State} {m r : Nat} {i g} (hm : bitsIn 0x100000000 m) (hr : bitsIn 0xfc0000000000000000000000000000000000000000000000000000000000000000000000000000000000000000000000000000 r)
    (hk : z.Frame m r s) : z.Frame m r (State.countGrade s i g) := by
  unfold State.countGrade
  try dsimp only
  repeat' first
    | with_reducible assumption
    | with_reducible first | exact hm.within rfl | exact hr.within rfl | exact hr.at rfl
    | with_reducible first | apply State.Frame.ite | apply State.Frame.foldl | apply State.bump_frame | apply State.tookFree_frame | apply State.wrMax_frame
    | (intro _ _ _; try dsimp only)
    | (intro _; try dsimp only)
    | split
    | exact State.Frame.upd hm (by with_reducible assumption) rfl
    | (refine State.Frame.upd hm ?_ rfl)

/-- Writes: nothing but registers; registers: mxeConstCount mxeNanCount mxeOsatCount mxeQsatCount. -/
theorem State.countEngine_frame {z s : State} {m r : Nat} {i k} (hm : bitsIn 0x0 m) (hr : bitsIn 0x4e00000000000000000000000000000000000000000000000000000000000000000000000000000000000000000000000000000000 r)
    (hk : z.Frame m r s) : z.Frame m r (State.countEngine s i k) := by
  unfold State.countEngine
  try dsimp only
  repeat' first
    | with_reducible assumption
    | with_reducible first | exact hm.within rfl | exact hr.within rfl | exact hr.at rfl
    | with_reducible first | apply State.Frame.ite | apply State.Frame.foldl | apply State.bump_frame
    | (intro _ _ _; try dsimp only)
    | (intro _; try dsimp only)
    | split

/-- Writes: free; registers: mxeConstCount mxeNanCount mxeOsatCount mxeQsatCount mxeRowsCount mxeTilesCount
stlTailMaxCycles stlTailsCount stlUnencCount. -/
theorem State.countEncoder_frame {z s : State} {m r : Nat} {i m' e} (hm : bitsIn 0x100000000 m) (hr : bitsIn 0x4f80000000000000700000000000000000000000000000000000000000000000000000000000000000000000000000000000000000 r)
    (hk : z.Frame m r s) : z.Frame m r (State.countEncoder s i m' e) := by
  unfold State.countEncoder
  try dsimp only
  repeat' first
    | with_reducible assumption
    | with_reducible first | exact hm.within rfl | exact hr.within rfl | exact hr.at rfl
    | with_reducible first | apply State.Frame.ite | apply State.Frame.foldl | apply State.bump_frame | apply State.tookFree_frame | apply State.wrMax_frame | apply State.countEngine_frame
    | (intro _ _ _; try dsimp only)
    | (intro _; try dsimp only)
    | split
    | exact State.Frame.upd hm (by with_reducible assumption) rfl
    | (refine State.Frame.upd hm ?_ rfl)

/-- Writes: nothing but registers; registers: mxeCfgAfmt mxeCfgGsize mxeCfgWfmt. -/
theorem State.noteTile_frame {z s : State} {m r : Nat} {i t} (hm : bitsIn 0x0 m) (hr : bitsIn 0x70000000000000000000000000000000000000000000000000000000000000000000000000000000000000000000000000000000 r)
    (hk : z.Frame m r s) : z.Frame m r (State.noteTile s i t) := by
  unfold State.noteTile
  try dsimp only
  repeat' first
    | with_reducible assumption
    | with_reducible first | exact hm.within rfl | exact hr.within rfl | exact hr.at rfl
    | with_reducible first | apply State.Frame.ite | apply State.Frame.foldl | apply State.wr_frame
    | (intro _ _ _; try dsimp only)
    | (intro _; try dsimp only)
    | split

/-- Writes: nothing but registers; registers: mxeCfgAfmt mxeCfgGsize mxeCfgWfmt. -/
theorem State.noteFormats_frame {z s : State} {m r : Nat} {i m' ls} (hm : bitsIn 0x0 m) (hr : bitsIn 0x70000000000000000000000000000000000000000000000000000000000000000000000000000000000000000000000000000000 r)
    (hk : z.Frame m r s) : z.Frame m r (State.noteFormats s i m' ls) := by
  unfold State.noteFormats
  try dsimp only
  repeat' first
    | with_reducible assumption
    | with_reducible first | exact hm.within rfl | exact hr.within rfl | exact hr.at rfl
    | with_reducible first | apply State.Frame.ite | apply State.Frame.foldl | apply State.noteTile_frame
    | (intro _ _ _; try dsimp only)
    | (intro _; try dsimp only)
    | split

/-- Writes: free; registers: grdDefaultsCount grdEvalsCount grdLookupsCount grdMissesCount grdTailMaxCycles
grdVisitsCount mxeCfgAfmt mxeCfgGsize mxeCfgWfmt mxeConstCount mxeNanCount mxeOsatCount mxeQsatCount mxeRowsCount
mxeTilesCount stlTailMaxCycles stlTailsCount stlUnencCount. -/
theorem State.countTail_frame {z s : State} {m r : Nat} {r' m' e g} (hm : bitsIn 0x100000000 m) (hr : bitsIn 0x4ff0fc0000000000700000000000000000000000000000000000000000000000000000000000000000000000000000000000000000 r)
    (hk : z.Frame m r s) : z.Frame m r (State.countTail s r' m' e g) := by
  unfold State.countTail
  try dsimp only
  repeat' first
    | with_reducible assumption
    | with_reducible first | exact hm.within rfl | exact hr.within rfl | exact hr.at rfl
    | with_reducible first | apply State.Frame.ite | apply State.Frame.foldl | apply State.countGrade_frame | apply State.noteFormats_frame | apply State.countEncoder_frame
    | (intro _ _ _; try dsimp only)
    | (intro _; try dsimp only)
    | split
    | exact State.Frame.upd hm (by with_reducible assumption) rfl
    | (refine State.Frame.upd hm ?_ rfl)

/-- Writes: aszCount; registers: none. -/
theorem State.countSlots_frame {z s : State} {m r : Nat} {p model epoch tally} (hm : bitsIn 0x800000 m) (hr : bitsIn 0x0 r)
    (hk : z.Frame m r s) : z.Frame m r (State.countSlots s p model epoch tally) := by
  unfold State.countSlots
  try dsimp only
  repeat' first
    | with_reducible assumption
    | with_reducible first | exact hm.within rfl | exact hr.within rfl | exact hr.at rfl
    | with_reducible first | apply State.Frame.ite | apply State.Frame.foldl
    | (intro _ _ _; try dsimp only)
    | (intro _; try dsimp only)
    | split
    | exact State.Frame.upd hm (by with_reducible assumption) rfl
    | (refine State.Frame.upd hm ?_ rfl)

/-- Writes: outbox reqs lanes; registers: stlPushCount. -/
theorem State.pushSummary_frame {z s : State} {m r : Nat} {r' dst b tapW} (hm : bitsIn 0x2000202 m) (hr : bitsIn 0x800000000000000000000000000000000000000000000000000000000000000000000000000000000000000000 r)
    (hk : z.Frame m r s) : z.Frame m r (State.pushSummary s r' dst b tapW) := by
  unfold State.pushSummary
  try dsimp only
  repeat' first
    | with_reducible assumption
    | with_reducible first | exact hm.within rfl | exact hr.within rfl | exact hr.at rfl
    | with_reducible first | apply State.Frame.ite | apply State.Frame.foldl | apply State.Frame.getD | apply State.sendFrame_frame | apply State.bump_frame | apply State.updReq_frame
    | (intro _ _ _; try dsimp only)
    | (intro _; try dsimp only)
    | split
    | exact State.Frame.upd hm (by with_reducible assumption) rfl
    | (refine State.Frame.upd hm ?_ rfl)

/-- Writes: outbox reqs aszCount lanes free; registers: grdDefaultsCount grdEvalsCount grdLookupsCount grdMissesCount
grdTailMaxCycles grdVisitsCount mxeCfgAfmt mxeCfgGsize mxeCfgWfmt mxeConstCount mxeNanCount mxeOsatCount
mxeQsatCount mxeRowsCount mxeTilesCount stlPushCount stlTailMaxCycles stlTailsCount stlUnencCount. -/
theorem State.decideIntake_frame {z s : State} {m r : Nat} {r' m'} (hm : bitsIn 0x102800202 m) (hr : bitsIn 0x4ff0fc0000000000f00000000000000000000000000000000000000000000000000000000000000000000000000000000000000000 r)
    (hk : z.Frame m r s) : z.Frame m r (State.decideIntake s r' m') := by
  unfold State.decideIntake
  try dsimp only
  repeat' first
    | with_reducible assumption
    | with_reducible first | exact hm.within rfl | exact hr.within rfl | exact hr.at rfl
    | with_reducible first | apply State.Frame.ite | apply State.Frame.foldl | apply State.Frame.getD | apply State.countTail_frame | apply State.countSlots_frame | apply State.updReq_frame | apply State.pushSummary_frame
    | (intro _ _ _; try dsimp only)
    | (intro _; try dsimp only)
    | split
    | exact State.Frame.upd hm (by with_reducible assumption) rfl
    | (refine State.Frame.upd hm ?_ rfl)

/-- Writes: outbox reqs aszCount lanes free; registers: grdDefaultsCount grdEvalsCount grdLookupsCount grdMissesCount
grdTailMaxCycles grdVisitsCount mxeCfgAfmt mxeCfgGsize mxeCfgWfmt mxeConstCount mxeNanCount mxeOsatCount
mxeQsatCount mxeRowsCount mxeTilesCount stlPushCount stlTailMaxCycles stlTailsCount stlUnencCount. -/
theorem intakeDecideStep_frame {z s : State} {m r : Nat} {p sess tag} (hm : bitsIn 0x102800202 m) (hr : bitsIn 0x4ff0fc0000000000f00000000000000000000000000000000000000000000000000000000000000000000000000000000000000000 r)
    (hk : z.Frame m r s) : z.Frame m r (intakeDecideStep p sess tag s) := by
  unfold intakeDecideStep
  try dsimp only
  repeat' first
    | with_reducible assumption
    | with_reducible first | exact hm.within rfl | exact hr.within rfl | exact hr.at rfl
    | with_reducible first | apply State.Frame.ite | apply State.Frame.foldl | apply State.decideIntake_frame
    | (intro _ _ _; try dsimp only)
    | (intro _; try dsimp only)
    | split
    | exact State.Frame.upd hm (by with_reducible assumption) rfl
    | (refine State.Frame.upd hm ?_ rfl)

/-- Writes: outbox pits stalls reqs streams toks entries wbs lanes fab dbk; registers: dbkDroppedCount pitVqTailCount
stlPushFailCount. -/
theorem State.pushUnacked_frame {z s : State} {m r : Nat} {r' target} (hm : bitsIn 0x46049ac2 m) (hr : bitsIn 0x1000002000000000000000000000000000000000010000000000000000000000000000000000000000000000000 r)
    (hk : z.Frame m r s) : z.Frame m r (State.pushUnacked s r' target) := by
  unfold State.pushUnacked
  try dsimp only
  repeat' first
    | with_reducible assumption
    | with_reducible first | exact hm.within rfl | exact hr.within rfl | exact hr.at rfl
    | with_reducible first | apply State.Frame.ite | apply State.Frame.foldl | apply State.day_frame | apply State.failReq_frame | apply State.bump_frame
    | (intro _ _ _; try dsimp only)
    | (intro _; try dsimp only)
    | split
    | exact State.Frame.upd hm (by with_reducible assumption) rfl
    | (refine State.Frame.upd hm ?_ rfl)

/-- Writes: outbox pits stalls reqs toks entries wbs lanes fab; registers: pitVqTailCount. -/
theorem State.deliverIntake_frame {z s : State} {m r : Nat} {r'} (hm : bitsIn 0x60492c2 m) (hr : bitsIn 0x2000000000000000000000000000000000000000000000000000000000000000000000000000000000000 r)
    (hk : z.Frame m r s) : z.Frame m r (State.deliverIntake s r') := by
  unfold State.deliverIntake
  try dsimp only
  repeat' first
    | with_reducible assumption
    | with_reducible first | exact hm.within rfl | exact hr.within rfl | exact hr.at rfl
    | with_reducible first | apply State.Frame.ite | apply State.Frame.foldl | apply State.Frame.getD | apply State.writeSummary_frame | apply State.writeMem_frame | apply State.endReq_frame
    | (intro _ _ _; try dsimp only)
    | (intro _; try dsimp only)
    | split
    | exact State.Frame.upd hm (by with_reducible assumption) rfl
    | (refine State.Frame.upd hm ?_ rfl)

/-- Writes: outbox clk pits stalls reqs streams toks entries wbs lanes fab factorTick dbk; registers: dbkDroppedCount
pitVqTailCount stlPushFailCount tierLateCount tierStlLateCount tollMdlLoFactor. -/
theorem intakeDeliveryStep_frame {z s : State} {m r : Nat} {p sess tag} (hm : bitsIn 0x66049aca m) (hr : bitsIn 0x80000000000000001000002000000000000000000000000000000000010000000000800000000000000400000000000000000000000 r)
    (hk : z.Frame m r s) : z.Frame m r (intakeDeliveryStep p sess tag s) := by
  unfold intakeDeliveryStep
  try dsimp only
  repeat' first
    | with_reducible assumption
    | with_reducible first | exact hm.within rfl | exact hr.within rfl | exact hr.at rfl
    | with_reducible first | apply State.Frame.ite | apply State.Frame.foldl | apply State.deliverAt_frame | apply State.pushUnacked_frame | apply State.failLate_frame | apply State.deliverIntake_frame
    | (intro _ _ _; try dsimp only)
    | (intro _; try dsimp only)
    | split
    | exact State.Frame.upd hm (by with_reducible assumption) rfl
    | (refine State.Frame.upd hm ?_ rfl)

/-- Writes: outbox pits stalls reqs streams toks entries wbs samples lanes fab dbk arrivals free; registers:
aszDropsCount aszSamplesCount dbkDroppedCount mxeMisalignCount pitVqTailCount sveByteHitsCount sveTokenHitsCount
tknFallbackCount tknSplitCount tknTokensOutCount. -/
theorem State.vectorStep_frame {z s : State} {m r : Nat} {r' m'} (hm : bitsIn 0x1c7049ac2 m) (hr : bitsIn 0x10000000c0700000000002000000000001800000000000000000000010000000000000000000000000000000000000000000000000 r)
    (hk : z.Frame m r s) : z.Frame m r (State.vectorStep s r' m') := by
  unfold State.vectorStep
  try dsimp only
  repeat' first
    | with_reducible assumption
    | with_reducible first | exact hm.within rfl | exact hr.within rfl | exact hr.at rfl
    | with_reducible first | apply State.Frame.ite | apply State.Frame.foldl | apply State.failSplit_frame | apply State.arriveIntake_frame | apply State.issueReads_frame
    | (intro _ _ _; try dsimp only)
    | (intro _; try dsimp only)
    | split
    | exact State.Frame.upd hm (by with_reducible assumption) rfl
    | (refine State.Frame.upd hm ?_ rfl)

/-- Writes: outbox pits stalls reqs streams toks entries wbs samples lanes fab dbk arrivals free; registers:
aszDropsCount aszSamplesCount dbkDroppedCount mxeMisalignCount pitVqTailCount sveByteHitsCount sveTokenHitsCount
tknBytesInCount tknFallbackCount tknSplitCount tknTokensOutCount. -/
theorem payloadStep_frame {z s : State} {m r : Nat} {p sess tag data} (hm : bitsIn 0x1c7049ac2 m) (hr : bitsIn 0x10000000c0780000000002000000000001800000000000000000000010000000000000000000000000000000000000000000000000 r)
    (hk : z.Frame m r s) : z.Frame m r (payloadStep p sess tag data s) := by
  unfold payloadStep
  try dsimp only
  repeat' first
    | with_reducible assumption
    | with_reducible first | exact hm.within rfl | exact hr.within rfl | exact hr.at rfl
    | with_reducible first | apply State.Frame.ite | apply State.Frame.foldl | apply State.failReq_frame | apply State.updReq_frame | apply State.bump_frame | apply State.countCut_frame | apply State.vectorStep_frame | apply State.arriveIntake_frame
    | (intro _ _ _; try dsimp only)
    | (intro _; try dsimp only)
    | split
    | exact State.Frame.upd hm (by with_reducible assumption) rfl
    | (refine State.Frame.upd hm ?_ rfl)

/-- Writes: outbox pits stalls reqs streams toks entries wbs samples lanes fab dbk arrivals free; registers:
aszDropsCount aszSamplesCount dbkDroppedCount mxeMisalignCount pitVqTailCount sveByteHitsCount sveTokenHitsCount
tknFallbackCount tknSplitCount tknTokensOutCount. -/
theorem State.finalVector_frame {z s : State} {m r : Nat} {p sess tag} (hm : bitsIn 0x1c7049ac2 m) (hr : bitsIn 0x10000000c0700000000002000000000001800000000000000000000010000000000000000000000000000000000000000000000000 r)
    (hk : z.Frame m r s) : z.Frame m r (State.finalVector s p sess tag) := by
  unfold State.finalVector
  try dsimp only
  repeat' first
    | with_reducible assumption
    | with_reducible first | exact hm.within rfl | exact hr.within rfl | exact hr.at rfl
    | with_reducible first | apply State.Frame.ite | apply State.Frame.foldl | apply State.vectorStep_frame
    | (intro _ _ _; try dsimp only)
    | (intro _; try dsimp only)
    | split
    | exact State.Frame.upd hm (by with_reducible assumption) rfl
    | (refine State.Frame.upd hm ?_ rfl)

/-- Writes: outbox pits stalls reqs streams toks entries wbs samples lanes fab dbk arrivals free; registers:
aszDropsCount aszSamplesCount dbkDroppedCount mxeMisalignCount pitVqTailCount sveByteHitsCount sveTokenHitsCount
tknFallbackCount tknSplitCount tknTokensOutCount. -/
theorem finalReadStep_frame {z s : State} {m r : Nat} {p sess tag} (hm : bitsIn 0x1c7049ac2 m) (hr : bitsIn 0x10000000c0700000000002000000000001800000000000000000000010000000000000000000000000000000000000000000000000 r)
    (hk : z.Frame m r s) : z.Frame m r (finalReadStep p sess tag s) := by
  unfold finalReadStep
  try dsimp only
  repeat' first
    | with_reducible assumption
    | with_reducible first | exact hm.within rfl | exact hr.within rfl | exact hr.at rfl
    | with_reducible first | apply State.Frame.ite | apply State.Frame.foldl | apply State.Frame.getD | apply State.finalVector_frame | apply State.finalReads_frame
    | (intro _ _ _; try dsimp only)
    | (intro _; try dsimp only)
    | split
    | exact State.Frame.upd hm (by with_reducible assumption) rfl
    | (refine State.Frame.upd hm ?_ rfl)


end Sys2Proof.Machine
end

