-- ==== Sys2Proof/Laws/FrameStream.lean ====
section
/-! SUPPORT. What the functions of Machine/Stream.lean may write, and that they leave the rest of a state as it is. -/

set_option linter.unusedVariables false

namespace Sys2Proof.Machine

theorem State.bumpAt_frame {z s : State} {m r : Nat} {f : Fld} {i : Option Nat} {n : Nat} (hf : r.testBit f.ctorIdx = true)
    (h : State.Frame m r z s) : State.Frame m r z (s.bumpAt f i n) := by
  unfold State.bumpAt
  split
  · exact State.bump_frame hf h
  · exact h
/-- Writes: outbox pits stalls reqs dups streams toks entries wbs lanes fab; registers: pitVqTailCount. -/
theorem State.endFailed_frame {z s : State} {m r : Nat} {r' e} (hm : bitsIn 0x6049ec2 m) (hr : bitsIn 0x2000000000000000000000000000000000000000000000000000000000000000000000000000000000000 r)
    (hk : z.Frame m r s) : z.Frame m r (State.endFailed s r' e) := by
  unfold State.endFailed
  try dsimp only
  repeat' first
    | with_reducible assumption
    | with_reducible first | exact hm.within rfl | exact hr.within rfl | exact hr.at rfl
    | with_reducible first | apply State.Frame.ite | apply State.Frame.foldl | apply State.failDesc_frame | apply State.failReq_frame
    | (intro _ _ _; try dsimp only)
    | (intro _; try dsimp only)
    | split
    | exact State.Frame.upd hm (by with_reducible assumption) rfl
    | (refine State.Frame.upd hm ?_ rfl)

theorem State.flushFailed_frame {z s : State} {m r p sess n : Nat} (hm : bitsIn 0x6049ec2 m) (hr : bitsIn 0x2000000000000000000000000000000000000000000000000000000000000000000000000000000000000 r) (h : z.Frame m r s) :
    z.Frame m r (s.flushFailed p sess n) := by
  induction n generalizing s with
  | zero => exact h
  | succ n ih =>
    unfold State.flushFailed
    split
    · exact h
    · split
      · exact h
      · exact ih (State.endFailed_frame (hm.within rfl) (hr.within rfl) h)
/-- Writes: outbox pits stalls reqs dups streams toks entries wbs lanes fab; registers: pitVqTailCount. -/
theorem State.flush_frame {z s : State} {m r : Nat} {p sess} (hm : bitsIn 0x6049ec2 m) (hr : bitsIn 0x2000000000000000000000000000000000000000000000000000000000000000000000000000000000000 r)
    (hk : z.Frame m r s) : z.Frame m r (State.flush s p sess) := by
  unfold State.flush
  try dsimp only
  repeat' first
    | with_reducible assumption
    | with_reducible first | exact hm.within rfl | exact hr.within rfl | exact hr.at rfl
    | with_reducible first | apply State.Frame.ite | apply State.Frame.foldl | apply State.flushFailed_frame
    | (intro _ _ _; try dsimp only)
    | (intro _; try dsimp only)
    | split
    | exact State.Frame.upd hm (by with_reducible assumption) rfl
    | (refine State.Frame.upd hm ?_ rfl)

/-- Writes: outbox pits stalls reqs dups streams toks entries wbs lanes fab; registers: pitVqTailCount. -/
theorem State.failTok_frame {z s : State} {m r : Nat} {r' e} (hm : bitsIn 0x6049ec2 m) (hr : bitsIn 0x2000000000000000000000000000000000000000000000000000000000000000000000000000000000000 r)
    (hk : z.Frame m r s) : z.Frame m r (State.failTok s r' e) := by
  unfold State.failTok
  try dsimp only
  repeat' first
    | with_reducible assumption
    | with_reducible first | exact hm.within rfl | exact hr.within rfl | exact hr.at rfl
    | with_reducible first | apply State.Frame.ite | apply State.Frame.foldl | apply State.flush_frame | apply State.updReq_frame
    | (intro _ _ _; try dsimp only)
    | (intro _; try dsimp only)
    | split
    | exact State.Frame.upd hm (by with_reducible assumption) rfl
    | (refine State.Frame.upd hm ?_ rfl)

/-- Writes: outbox pits stalls reqs dups streams toks entries wbs lanes fab arrivals; registers: pitVqTailCount. -/
theorem State.queueDup_frame {z s : State} {m r : Nat} {r' e} (hm : bitsIn 0x86049ec2 m) (hr : bitsIn 0x2000000000000000000000000000000000000000000000000000000000000000000000000000000000000 r)
    (hk : z.Frame m r s) : z.Frame m r (State.queueDup s r' e) := by
  unfold State.queueDup
  try dsimp only
  repeat' first
    | with_reducible assumption
    | with_reducible first | exact hm.within rfl | exact hr.within rfl | exact hr.at rfl
    | with_reducible first | apply State.Frame.ite | apply State.Frame.foldl | apply State.flush_frame
    | (intro _ _ _; try dsimp only)
    | (intro _; try dsimp only)
    | split
    | exact State.Frame.upd hm (by with_reducible assumption) rfl
    | (refine State.Frame.upd hm ?_ rfl)

/-- Writes: reqs arrivals; registers: none. -/
theorem State.arrive_frame {z s : State} {m r : Nat} {r' due} (hm : bitsIn 0x80000200 m) (hr : bitsIn 0x0 r)
    (hk : z.Frame m r s) : z.Frame m r (State.arrive s r' due) := by
  unfold State.arrive
  try dsimp only
  repeat' first
    | with_reducible assumption
    | with_reducible first | exact hm.within rfl | exact hr.within rfl | exact hr.at rfl
    | with_reducible first | apply State.Frame.ite | apply State.Frame.foldl | apply State.updReq_frame
    | (intro _ _ _; try dsimp only)
    | (intro _; try dsimp only)
    | split
    | exact State.Frame.upd hm (by with_reducible assumption) rfl
    | (refine State.Frame.upd hm ?_ rfl)

/-- Writes: reqs arrivals; registers: none. -/
theorem State.arriveToken_frame {z s : State} {m r : Nat} {r'} (hm : bitsIn 0x80000200 m) (hr : bitsIn 0x0 r)
    (hk : z.Frame m r s) : z.Frame m r (State.arriveToken s r') := by
  unfold State.arriveToken
  try dsimp only
  repeat' first
    | with_reducible assumption
    | with_reducible first | exact hm.within rfl | exact hr.within rfl | exact hr.at rfl
    | with_reducible first | apply State.Frame.ite | apply State.Frame.foldl | apply State.arrive_frame
    | (intro _ _ _; try dsimp only)
    | (intro _; try dsimp only)
    | split
    | exact State.Frame.upd hm (by with_reducible assumption) rfl
    | (refine State.Frame.upd hm ?_ rfl)

/-- Writes: reqs arrivals free; registers: none. -/
theorem State.arriveCon_frame {z s : State} {m r : Nat} {r'} (hm : bitsIn 0x180000200 m) (hr : bitsIn 0x0 r)
    (hk : z.Frame m r s) : z.Frame m r (State.arriveCon s r') := by
  unfold State.arriveCon
  try dsimp only
  repeat' first
    | with_reducible assumption
    | with_reducible first | exact hm.within rfl | exact hr.within rfl | exact hr.at rfl
    | with_reducible first | apply State.Frame.ite | apply State.Frame.foldl | apply State.tookFree_frame | apply State.updReq_frame | apply State.arrive_frame
    | (intro _ _ _; try dsimp only)
    | (intro _; try dsimp only)
    | split
    | exact State.Frame.upd hm (by with_reducible assumption) rfl
    | (refine State.Frame.upd hm ?_ rfl)

/-- Writes: reqs; registers: none. -/
theorem State.snapCons_frame {z s : State} {m r : Nat} {x before} (hm : bitsIn 0x200 m) (hr : bitsIn 0x0 r)
    (hk : z.Frame m r s) : z.Frame m r (State.snapCons s x before) := by
  unfold State.snapCons
  try dsimp only
  repeat' first
    | with_reducible assumption
    | with_reducible first | exact hm.within rfl | exact hr.within rfl | exact hr.at rfl
    | with_reducible first | apply State.Frame.ite | apply State.Frame.foldl
    | (intro _ _ _; try dsimp only)
    | (intro _; try dsimp only)
    | split
    | exact State.Frame.upd hm (by with_reducible assumption) rfl
    | (refine State.Frame.upd hm ?_ rfl)

/-- Writes: reqs streams toks; registers: sveBannedCount sveForceDevCount svePassesCount sveStopsCount. -/
theorem State.passOpen_frame {z s : State} {m r : Nat} {r' x} (hm : bitsIn 0x1a00 m) (hr : bitsIn 0x1700000000000000000000000000000000000000000000000000000000000000000000000000000000000000000000000000 r)
    (hk : z.Frame m r s) : z.Frame m r (State.passOpen s r' x) := by
  unfold State.passOpen
  try dsimp only
  repeat' first
    | with_reducible assumption
    | with_reducible first | exact hm.within rfl | exact hr.within rfl | exact hr.at rfl
    | with_reducible first | apply State.Frame.ite | apply State.Frame.foldl | apply State.Frame.getD | apply State.snapCons_frame | apply State.updStream_frame | apply State.updReq_frame | apply State.bumpAt_frame
    | (intro _ _ _; try dsimp only)
    | (intro _; try dsimp only)
    | split
    | exact State.Frame.upd hm (by with_reducible assumption) rfl
    | (refine State.Frame.upd hm ?_ rfl)

/-- Writes: outbox pits stalls reqs dups streams toks entries wbs lanes fab; registers: pitVqTailCount sveBannedCount
sveForceDevCount svePassesCount sveStopsCount. -/
theorem passStep_frame {z s : State} {m r : Nat} {p sess tag} (hm : bitsIn 0x6049ec2 m) (hr : bitsIn 0x1700000000000002000000000000000000000000000000000000000000000000000000000000000000000000000000000000 r)
    (hk : z.Frame m r s) : z.Frame m r (passStep p sess tag s) := by
  unfold passStep
  try dsimp only
  repeat' first
    | with_reducible assumption
    | with_reducible first | exact hm.within rfl | exact hr.within rfl | exact hr.at rfl
    | with_reducible first | apply State.Frame.ite | apply State.Frame.foldl | apply State.updReq_frame | apply State.failTok_frame | apply State.passOpen_frame
    | (intro _ _ _; try dsimp only)
    | (intro _; try dsimp only)
    | split
    | exact State.Frame.upd hm (by with_reducible assumption) rfl
    | (refine State.Frame.upd hm ?_ rfl)

/-- Writes: aszCount; registers: mxeCfgAfmt mxeCfgGsize mxeCfgWfmt mxeConstCount mxeNanCount mxeOsatCount mxeQsatCount
mxeRowsCount. -/
theorem State.countStage_frame {z s : State} {m r : Nat} {i n st t} (hm : bitsIn 0x800000 m) (hr : bitsIn 0x4f70000000000000000000000000000000000000000000000000000000000000000000000000000000000000000000000000000000 r)
    (hk : z.Frame m r s) : z.Frame m r (State.countStage s i n st t) := by
  unfold State.countStage
  try dsimp only
  repeat' first
    | with_reducible assumption
    | with_reducible first | exact hm.within rfl | exact hr.within rfl | exact hr.at rfl
    | with_reducible first | apply State.Frame.ite | apply State.Frame.foldl | apply State.noteFormats_frame | apply State.countEngine_frame | apply State.bump_frame | apply State.countSlots_frame
    | (intro _ _ _; try dsimp only)
    | (intro _; try dsimp only)
    | split
    | exact State.Frame.upd hm (by with_reducible assumption) rfl
    | (refine State.Frame.upd hm ?_ rfl)

/-- Writes: stalls reqs toks rr aszCount free; registers: mxeCfgAfmt mxeCfgGsize mxeCfgWfmt mxeConstCount mxeNanCount
mxeOsatCount mxeQsatCount mxeRowsCount mxeTilesCount stlChainTokCount. -/
theorem serveStep_frame {z s : State} {m r : Nat} {i} (hm : bitsIn 0x100803280 m) (hr : bitsIn 0x4ff0000000000004000000000000000000000000000000000000000000000000000000000000000000000000000000000000000000 r)
    (hk : z.Frame m r s) : z.Frame m r (serveStep i s) := by
  unfold serveStep
  try dsimp only
  repeat' first
    | with_reducible assumption
    | with_reducible first | exact hm.within rfl | exact hr.within rfl | exact hr.at rfl
    | with_reducible first | apply State.Frame.ite | apply State.Frame.foldl | apply State.Frame.getD | apply State.updStl_frame | apply State.bump_frame | apply State.countStage_frame | apply State.tookFree_frame | apply State.updReq_frame
    | (intro _ _ _; try dsimp only)
    | (intro _; try dsimp only)
    | split
    | exact State.Frame.upd hm (by with_reducible assumption) rfl
    | (refine State.Frame.upd hm ?_ rfl)

/-- Writes: reqs streams; registers: none. -/
theorem State.resolveOpen_frame {z s : State} {m r : Nat} {r' x p} (hm : bitsIn 0xa00 m) (hr : bitsIn 0x0 r)
    (hk : z.Frame m r s) : z.Frame m r (State.resolveOpen s r' x p) := by
  unfold State.resolveOpen
  try dsimp only
  repeat' first
    | with_reducible assumption
    | with_reducible first | exact hm.within rfl | exact hr.within rfl | exact hr.at rfl
    | with_reducible first | apply State.Frame.ite | apply State.Frame.foldl | apply State.updStream_frame | apply State.updReq_frame
    | (intro _ _ _; try dsimp only)
    | (intro _; try dsimp only)
    | split
    | exact State.Frame.upd hm (by with_reducible assumption) rfl
    | (refine State.Frame.upd hm ?_ rfl)

/-- Writes: outbox pits stalls reqs dups streams toks entries wbs lanes fab; registers: pitVqTailCount. -/
theorem resolveStep_frame {z s : State} {m r : Nat} {p sess tag} (hm : bitsIn 0x6049ec2 m) (hr : bitsIn 0x2000000000000000000000000000000000000000000000000000000000000000000000000000000000000 r)
    (hk : z.Frame m r s) : z.Frame m r (resolveStep p sess tag s) := by
  unfold resolveStep
  try dsimp only
  repeat' first
    | with_reducible assumption
    | with_reducible first | exact hm.within rfl | exact hr.within rfl | exact hr.at rfl
    | with_reducible first | apply State.Frame.ite | apply State.Frame.foldl | apply State.updReq_frame | apply State.failTok_frame | apply State.resolveOpen_frame
    | (intro _ _ _; try dsimp only)
    | (intro _; try dsimp only)
    | split
    | exact State.Frame.upd hm (by with_reducible assumption) rfl
    | (refine State.Frame.upd hm ?_ rfl)

/-- Writes: outbox pits stalls reqs dups streams toks entries wbs samples lanes fab; registers: pitVqTailCount. -/
theorem State.endStream_frame {z s : State} {m r : Nat} {x fin} (hm : bitsIn 0x7049ec2 m) (hr : bitsIn 0x2000000000000000000000000000000000000000000000000000000000000000000000000000000000000 r)
    (hk : z.Frame m r s) : z.Frame m r (State.endStream s x fin) := by
  unfold State.endStream
  try dsimp only
  repeat' first
    | with_reducible assumption
    | with_reducible first | exact hm.within rfl | exact hr.within rfl | exact hr.at rfl
    | with_reducible first | apply State.Frame.ite | apply State.Frame.foldl | apply State.snapCons_frame | apply State.updEntry_frame | apply State.flush_frame | apply State.dropStream_frame
    | (intro _ _ _; try dsimp only)
    | (intro _; try dsimp only)
    | split
    | exact State.Frame.upd hm (by with_reducible assumption) rfl
    | (refine State.Frame.upd hm ?_ rfl)

/-- Writes: outbox streams entries wbs lanes fab; registers: none. -/
theorem State.checkpoint_frame {z s : State} {m r : Nat} {x r' tail} (hm : bitsIn 0x6048802 m) (hr : bitsIn 0x0 r)
    (hk : z.Frame m r s) : z.Frame m r (State.checkpoint s x r' tail) := by
  unfold State.checkpoint
  try dsimp only
  repeat' first
    | with_reducible assumption
    | with_reducible first | exact hm.within rfl | exact hr.within rfl | exact hr.at rfl
    | with_reducible first | apply State.Frame.ite | apply State.Frame.foldl | apply State.updStream_frame | apply State.updEntry_frame | apply State.askWb_frame
    | (intro _ _ _; try dsimp only)
    | (intro _; try dsimp only)
    | split
    | exact State.Frame.upd hm (by with_reducible assumption) rfl
    | (refine State.Frame.upd hm ?_ rfl)

/-- Writes: samples; registers: none. -/
theorem State.sampleToks_frame {z s : State} {m r : Nat} {r'} (hm : bitsIn 0x1000000 m) (hr : bitsIn 0x0 r)
    (hk : z.Frame m r s) : z.Frame m r (State.sampleToks s r').1 := by
  unfold State.sampleToks
  try dsimp only
  repeat' first
    | with_reducible assumption
    | with_reducible first | exact hm.within rfl | exact hr.within rfl | exact hr.at rfl
    | with_reducible first | apply State.Frame.ite | apply State.Frame.foldl | apply State.Frame.foldlFst
    | (intro _ _ _; try dsimp only)
    | (intro _; try dsimp only)
    | split
    | exact State.Frame.upd hm (by with_reducible assumption) rfl
    | (refine State.Frame.upd hm ?_ rfl)
    | dsimp only

theorem State.afterFlits_frame {z s : State} {m r n : Nat} {f} (hm : bitsIn 0x8 m) (hr : bitsIn 0x0 r) (h : z.Frame m r s)
    (hf : ∀ t, z.Frame m r t → z.Frame m r (f t)) : z.Frame m r (s.afterFlits n f) := by
  unfold State.afterFlits
  exact State.Frame.upd hm (hf _ (State.Frame.upd hm h rfl)) rfl
/-- Writes: outbox clk pits stalls reqs dups streams toks entries wbs samples lanes fab; registers: pitVqTailCount
tknJoinBytesCount tknJoinTokensCount. -/
theorem State.releaseTok_frame {z s : State} {m r : Nat} {r' res} (hm : bitsIn 0x7049eca m) (hr : bitsIn 0x1800000000002000000000000000000000000000000000000000000000000000000000000000000000000000000000000 r)
    (hk : z.Frame m r s) : z.Frame m r (State.releaseTok s r' res) := by
  unfold State.releaseTok
  try dsimp only
  repeat' first
    | with_reducible assumption
    | with_reducible first | exact hm.within rfl | exact hr.within rfl | exact hr.at rfl
    | with_reducible first | apply State.Frame.ite | apply State.Frame.foldl | apply State.Frame.getD | apply State.Frame.foldlFst | apply State.writeMem_frame | apply State.bumpAt_frame | apply State.updStream_frame | apply State.sampleToks_frame | apply State.afterFlits_frame | apply State.endReq_frame | apply State.flush_frame | apply State.checkpoint_frame | apply State.endStream_frame
    | (intro _ _ _; try dsimp only)
    | (intro _; try dsimp only)
    | split
    | with_reducible first | refine State.Frame.ofFst ‹_› ?_
    | exact State.Frame.upd hm (by with_reducible assumption) rfl
    | (refine State.Frame.upd hm ?_ rfl)
    | dsimp only

/-- Writes: outbox pits stalls reqs dups streams toks entries wbs samples lanes fab factorTick dbk; registers:
dbkDroppedCount pitVqTailCount tierLateCount tierStlLateCount tollMdlLoFactor. -/
theorem State.releaseFail_frame {z s : State} {m r : Nat} {r' res late} (hm : bitsIn 0x67049ec2 m) (hr : bitsIn 0x80000000000000000000002000000000000000000000000000000000010000000000800000000000000400000000000000000000000 r)
    (hk : z.Frame m r s) : z.Frame m r (State.releaseFail s r' res late) := by
  unfold State.releaseFail
  try dsimp only
  repeat' first
    | with_reducible assumption
    | with_reducible first | exact hm.within rfl | exact hr.within rfl | exact hr.at rfl
    | with_reducible first | apply State.Frame.ite | apply State.Frame.foldl | apply State.failReq_frame | apply State.failLate_frame | apply State.endStream_frame | apply State.flush_frame
    | (intro _ _ _; try dsimp only)
    | (intro _; try dsimp only)
    | split
    | exact State.Frame.upd hm (by with_reducible assumption) rfl
    | (refine State.Frame.upd hm ?_ rfl)

/-- Writes: outbox clk pits stalls reqs dups streams toks entries wbs samples lanes fab factorTick dbk; registers:
dbkDroppedCount pitVqTailCount tierLateCount tierStlLateCount tknJoinBytesCount tknJoinTokensCount tollMdlLoFactor. -/
theorem releaseStep_frame {z s : State} {m r : Nat} {p sess tag} (hm : bitsIn 0x67049eca m) (hr : bitsIn 0x80000000001800000000002000000000000000000000000000000000010000000000800000000000000400000000000000000000000 r)
    (hk : z.Frame m r s) : z.Frame m r (releaseStep p sess tag s) := by
  unfold releaseStep
  try dsimp only
  repeat' first
    | with_reducible assumption
    | with_reducible first | exact hm.within rfl | exact hr.within rfl | exact hr.at rfl
    | with_reducible first | apply State.Frame.ite | apply State.Frame.foldl | apply State.deliverAt_frame | apply State.releaseFail_frame | apply State.releaseTok_frame
    | (intro _ _ _; try dsimp only)
    | (intro _; try dsimp only)
    | split
    | exact State.Frame.upd hm (by with_reducible assumption) rfl
    | (refine State.Frame.upd hm ?_ rfl)

/-- Writes: outbox pits stalls reqs streams toks entries wbs samples lanes fab free; registers: aszDropsCount
aszSamplesCount pitVqTailCount. -/
theorem State.openStream_frame {z s : State} {m r : Nat} {r' x c m'} (hm : bitsIn 0x107049ac2 m) (hr : bitsIn 0x2000000000001800000000000000000000000000000000000000000000000000000000000000000000000 r)
    (hk : z.Frame m r s) : z.Frame m r (State.openStream s r' x c m') := by
  unfold State.openStream
  try dsimp only
  repeat' first
    | with_reducible assumption
    | with_reducible first | exact hm.within rfl | exact hr.within rfl | exact hr.at rfl
    | with_reducible first | apply State.Frame.ite | apply State.Frame.foldl | apply State.Frame.foldlFst | apply State.storeSample_frame | apply State.updEntry_frame | apply State.updStream_frame | apply State.endReq_frame
    | (intro _ _ _; try dsimp only)
    | (intro _; try dsimp only)
    | split
    | with_reducible first | refine State.Frame.ofFst ‹_› ?_
    | exact State.Frame.upd hm (by with_reducible assumption) rfl
    | (refine State.Frame.upd hm ?_ rfl)
    | dsimp only

/-- Writes: outbox pits stalls reqs streams toks entries wbs samples lanes fab free; registers: aszDropsCount
aszSamplesCount pitVqTailCount. -/
theorem streamOpenStep_frame {z s : State} {m r : Nat} {p sess} (hm : bitsIn 0x107049ac2 m) (hr : bitsIn 0x2000000000001800000000000000000000000000000000000000000000000000000000000000000000000 r)
    (hk : z.Frame m r s) : z.Frame m r (streamOpenStep p sess s) := by
  unfold streamOpenStep
  try dsimp only
  repeat' first
    | with_reducible assumption
    | with_reducible first | exact hm.within rfl | exact hr.within rfl | exact hr.at rfl
    | with_reducible first | apply State.Frame.ite | apply State.Frame.foldl | apply State.openStream_frame
    | (intro _ _ _; try dsimp only)
    | (intro _; try dsimp only)
    | split
    | exact State.Frame.upd hm (by with_reducible assumption) rfl
    | (refine State.Frame.upd hm ?_ rfl)

/-- Writes: outbox pits stalls reqs toks entries wbs lanes fab; registers: pitVqTailCount sveConstraintsCount. -/
theorem State.answerCon_frame {z s : State} {m r : Nat} {r'} (hm : bitsIn 0x60492c2 m) (hr : bitsIn 0x800000000000002000000000000000000000000000000000000000000000000000000000000000000000000000000000000 r)
    (hk : z.Frame m r s) : z.Frame m r (State.answerCon s r') := by
  unfold State.answerCon
  try dsimp only
  repeat' first
    | with_reducible assumption
    | with_reducible first | exact hm.within rfl | exact hr.within rfl | exact hr.at rfl
    | with_reducible first | apply State.Frame.ite | apply State.Frame.foldl | apply State.writeMem_frame | apply State.bumpAt_frame | apply State.endReq_frame
    | (intro _ _ _; try dsimp only)
    | (intro _; try dsimp only)
    | split
    | exact State.Frame.upd hm (by with_reducible assumption) rfl
    | (refine State.Frame.upd hm ?_ rfl)

/-- Writes: outbox pits stalls reqs toks entries wbs lanes fab; registers: pitVqTailCount sveConstraintsCount. -/
theorem conStep_frame {z s : State} {m r : Nat} {p sess tag} (hm : bitsIn 0x60492c2 m) (hr : bitsIn 0x800000000000002000000000000000000000000000000000000000000000000000000000000000000000000000000000000 r)
    (hk : z.Frame m r s) : z.Frame m r (conStep p sess tag s) := by
  unfold conStep
  try dsimp only
  repeat' first
    | with_reducible assumption
    | with_reducible first | exact hm.within rfl | exact hr.within rfl | exact hr.at rfl
    | with_reducible first | apply State.Frame.ite | apply State.Frame.foldl | apply State.answerCon_frame
    | (intro _ _ _; try dsimp only)
    | (intro _; try dsimp only)
    | split
    | exact State.Frame.upd hm (by with_reducible assumption) rfl
    | (refine State.Frame.upd hm ?_ rfl)


end Sys2Proof.Machine
end

