-- ==== Sys2Proof/Laws/FrameRoles.lean ====
section
/-! SUPPORT. What the functions of Machine/Roles.lean may write, and that they leave the rest of a state as it is. -/

set_option linter.unusedVariables false

namespace Sys2Proof.Machine

/-- Writes: stalls; registers: stlRoleChain stlRoleChgCount stlRoleRole stlRoleStage stlStatusDraining stlStatusLoading. -/
theorem State.takeRole_frame {z s : State} {m r : Nat} {i g} (hm : bitsIn 0x80 m) (hr : bitsIn 0x206d000000000000000000000000000000000000000000000000000000000000000000000000000000000000000 r)
    (hk : z.Frame m r s) : z.Frame m r (State.takeRole s i g) := by
  unfold State.takeRole
  try dsimp only
  repeat' first
    | with_reducible assumption
    | with_reducible first | exact hm.within rfl | exact hr.within rfl | exact hr.at rfl
    | with_reducible first | apply State.Frame.ite | apply State.Frame.foldl | apply State.wr_frame | apply State.wrB_frame | apply State.updStl_frame | apply State.bump_frame
    | (intro _ _ _; try dsimp only)
    | (intro _; try dsimp only)
    | split
    | exact State.Frame.upd hm (by with_reducible assumption) rfl
    | (refine State.Frame.upd hm ?_ rfl)

/-- Writes: stalls; registers: stlRoleChain stlRoleChgCount stlRoleRole stlRoleStage stlStatusDraining stlStatusLoading. -/
theorem State.startLoad_frame {z s : State} {m r : Nat} {i g} (hm : bitsIn 0x80 m) (hr : bitsIn 0x206d000000000000000000000000000000000000000000000000000000000000000000000000000000000000000 r)
    (hk : z.Frame m r s) : z.Frame m r (State.startLoad s i g) := by
  unfold State.startLoad
  try dsimp only
  repeat' first
    | with_reducible assumption
    | with_reducible first | exact hm.within rfl | exact hr.within rfl | exact hr.at rfl
    | with_reducible first | apply State.Frame.ite | apply State.Frame.foldl | apply State.takeRole_frame | apply State.wr_frame | apply State.wrB_frame | apply State.updStl_frame
    | (intro _ _ _; try dsimp only)
    | (intro _; try dsimp only)
    | split
    | exact State.Frame.upd hm (by with_reducible assumption) rfl
    | (refine State.Frame.upd hm ?_ rfl)

/-- Writes: stalls; registers: stlRoleChain stlRoleChgCount stlRoleRole stlRoleStage stlStatusDraining stlStatusLoading. -/
theorem State.giveRole_frame {z s : State} {m r : Nat} {i g} (hm : bitsIn 0x80 m) (hr : bitsIn 0x206d000000000000000000000000000000000000000000000000000000000000000000000000000000000000000 r)
    (hk : z.Frame m r s) : z.Frame m r (State.giveRole s i g) := by
  unfold State.giveRole
  try dsimp only
  repeat' first
    | with_reducible assumption
    | with_reducible first | exact hm.within rfl | exact hr.within rfl | exact hr.at rfl
    | with_reducible first | apply State.Frame.ite | apply State.Frame.foldl | apply State.updStl_frame | apply State.wrB_frame | apply State.startLoad_frame
    | (intro _ _ _; try dsimp only)
    | (intro _; try dsimp only)
    | split
    | exact State.Frame.upd hm (by with_reducible assumption) rfl
    | (refine State.Frame.upd hm ?_ rfl)

/-- Writes: stalls; registers: stlRoleChain stlRoleChgCount stlRoleRole stlRoleStage stlStatusDraining stlStatusLoading. -/
theorem State.settle_frame {z s : State} {m r : Nat} (hm : bitsIn 0x80 m) (hr : bitsIn 0x206d000000000000000000000000000000000000000000000000000000000000000000000000000000000000000 r)
    (hk : z.Frame m r s) : z.Frame m r (State.settle s) := by
  unfold State.settle
  try dsimp only
  repeat' first
    | with_reducible assumption
    | with_reducible first | exact hm.within rfl | exact hr.within rfl | exact hr.at rfl
    | with_reducible first | apply State.Frame.ite | apply State.Frame.foldl | apply State.startLoad_frame
    | (intro _ _ _; try dsimp only)
    | (intro _; try dsimp only)
    | split
    | exact State.Frame.upd hm (by with_reducible assumption) rfl
    | (refine State.Frame.upd hm ?_ rfl)

/-- Writes: pits stalls; registers: stlRoleChain stlRoleChgCount stlRoleRole stlRoleStage stlStatusDraining
stlStatusLoading. -/
theorem State.endStep_frame {z s : State} {m r : Nat} {p} (hm : bitsIn 0xc0 m) (hr : bitsIn 0x206d000000000000000000000000000000000000000000000000000000000000000000000000000000000000000 r)
    (hk : z.Frame m r s) : z.Frame m r (State.endStep s p) := by
  unfold State.endStep
  try dsimp only
  repeat' first
    | with_reducible assumption
    | with_reducible first | exact hm.within rfl | exact hr.within rfl | exact hr.at rfl
    | with_reducible first | apply State.Frame.ite | apply State.Frame.foldl | apply State.settle_frame | apply State.updPit_frame
    | (intro _ _ _; try dsimp only)
    | (intro _; try dsimp only)
    | split
    | exact State.Frame.upd hm (by with_reducible assumption) rfl
    | (refine State.Frame.upd hm ?_ rfl)

/-- Writes: pits stalls; registers: stlRoleChain stlRoleChgCount stlRoleRole stlRoleStage stlStatusDraining
stlStatusLoading. -/
theorem State.trimSteps_frame {z s : State} {m r : Nat} (hm : bitsIn 0xc0 m) (hr : bitsIn 0x206d000000000000000000000000000000000000000000000000000000000000000000000000000000000000000 r)
    (hk : z.Frame m r s) : z.Frame m r (State.trimSteps s) := by
  unfold State.trimSteps
  try dsimp only
  repeat' first
    | with_reducible assumption
    | with_reducible first | exact hm.within rfl | exact hr.within rfl | exact hr.at rfl
    | with_reducible first | apply State.Frame.ite | apply State.Frame.foldl | apply State.endStep_frame
    | (intro _ _ _; try dsimp only)
    | (intro _; try dsimp only)
    | split
    | exact State.Frame.upd hm (by with_reducible assumption) rfl
    | (refine State.Frame.upd hm ?_ rfl)

/-- Writes: clk pits stalls chains; registers: stlRoleChain stlRoleChgCount stlRoleRole stlRoleStage stlStatusDraining
stlStatusLoading tollEnergyLevelNj. -/
theorem State.loadDone_frame {z s : State} {m r : Nat} {i} (hm : bitsIn 0x40c8 m) (hr : bitsIn 0x206d000000000000000000000000000000000000000000000000000000080000000000000000000000000000000 r)
    (hk : z.Frame m r s) : z.Frame m r (State.loadDone s i) := by
  unfold State.loadDone
  try dsimp only
  repeat' first
    | with_reducible assumption
    | with_reducible first | exact hm.within rfl | exact hr.within rfl | exact hr.at rfl
    | with_reducible first | apply State.Frame.ite | apply State.Frame.foldl | apply State.takeRole_frame | apply State.beginStep_frame | apply State.updChain_frame
    | (intro _ _ _; try dsimp only)
    | (intro _; try dsimp only)
    | split
    | exact State.Frame.upd hm (by with_reducible assumption) rfl
    | (refine State.Frame.upd hm ?_ rfl)

/-- Writes: clk pits stalls chains; registers: stlRoleChain stlRoleChgCount stlRoleRole stlRoleStage stlStatusDraining
stlStatusLoading tollEnergyLevelNj. -/
theorem roleLoadStep_frame {z s : State} {m r : Nat} {i} (hm : bitsIn 0x40c8 m) (hr : bitsIn 0x206d000000000000000000000000000000000000000000000000000000080000000000000000000000000000000 r)
    (hk : z.Frame m r s) : z.Frame m r (roleLoadStep i s) := by
  unfold roleLoadStep
  try dsimp only
  repeat' first
    | with_reducible assumption
    | with_reducible first | exact hm.within rfl | exact hr.within rfl | exact hr.at rfl
    | with_reducible first | apply State.Frame.ite | apply State.Frame.foldl | apply State.loadDone_frame
    | (intro _ _ _; try dsimp only)
    | (intro _; try dsimp only)
    | split
    | exact State.Frame.upd hm (by with_reducible assumption) rfl
    | (refine State.Frame.upd hm ?_ rfl)

/-- Writes: stalls; registers: stlRoleChain stlRoleChgCount stlRoleRole stlRoleStage stlStatusDraining stlStatusLoading. -/
theorem State.loadChain_frame {z s : State} {m r : Nat} {c} (hm : bitsIn 0x80 m) (hr : bitsIn 0x206d000000000000000000000000000000000000000000000000000000000000000000000000000000000000000 r)
    (hk : z.Frame m r s) : z.Frame m r (State.loadChain s c) := by
  unfold State.loadChain
  try dsimp only
  repeat' first
    | with_reducible assumption
    | with_reducible first | exact hm.within rfl | exact hr.within rfl | exact hr.at rfl
    | with_reducible first | apply State.Frame.ite | apply State.Frame.foldl | apply State.giveRole_frame
    | (intro _ _ _; try dsimp only)
    | (intro _; try dsimp only)
    | split
    | exact State.Frame.upd hm (by with_reducible assumption) rfl
    | (refine State.Frame.upd hm ?_ rfl)

/-- Writes: stalls chains; registers: stlRoleChain stlRoleChgCount stlRoleRole stlRoleStage stlStatusDraining
stlStatusLoading. -/
theorem State.dropChain_frame {z s : State} {m r : Nat} {c dissolved} (hm : bitsIn 0x4080 m) (hr : bitsIn 0x206d000000000000000000000000000000000000000000000000000000000000000000000000000000000000000 r)
    (hk : z.Frame m r s) : z.Frame m r (State.dropChain s c dissolved) := by
  unfold State.dropChain
  try dsimp only
  repeat' first
    | with_reducible assumption
    | with_reducible first | exact hm.within rfl | exact hr.within rfl | exact hr.at rfl
    | with_reducible first | apply State.Frame.ite | apply State.Frame.foldl | apply State.updChain_frame | apply State.takeRole_frame
    | (intro _ _ _; try dsimp only)
    | (intro _; try dsimp only)
    | split
    | exact State.Frame.upd hm (by with_reducible assumption) rfl
    | (refine State.Frame.upd hm ?_ rfl)

/-- Writes: stalls; registers: stlRoleChain stlRoleChgCount stlRoleRole stlRoleStage stlStatusDraining stlStatusLoading. -/
theorem State.giveBack_frame {z s : State} {m r : Nat} {p} (hm : bitsIn 0x80 m) (hr : bitsIn 0x206d000000000000000000000000000000000000000000000000000000000000000000000000000000000000000 r)
    (hk : z.Frame m r s) : z.Frame m r (State.giveBack s p) := by
  unfold State.giveBack
  try dsimp only
  repeat' first
    | with_reducible assumption
    | with_reducible first | exact hm.within rfl | exact hr.within rfl | exact hr.at rfl
    | with_reducible first | apply State.Frame.ite | apply State.Frame.foldl | apply State.Frame.getD | apply State.updStl_frame | apply State.takeRole_frame | apply State.startLoad_frame
    | (intro _ _ _; try dsimp only)
    | (intro _; try dsimp only)
    | split
    | exact State.Frame.upd hm (by with_reducible assumption) rfl
    | (refine State.Frame.upd hm ?_ rfl)

/-- Writes: stalls chains free; registers: stlRoleChain stlRoleChgCount stlRoleRole stlRoleStage stlStatusDraining
stlStatusLoading. -/
theorem State.addSpread_frame {z s : State} {m r : Nat} {p} (hm : bitsIn 0x100004080 m) (hr : bitsIn 0x206d000000000000000000000000000000000000000000000000000000000000000000000000000000000000000 r)
    (hk : z.Frame m r s) : z.Frame m r (State.addSpread s p) := by
  unfold State.addSpread
  try dsimp only
  repeat' first
    | with_reducible assumption
    | with_reducible first | exact hm.within rfl | exact hr.within rfl | exact hr.at rfl
    | with_reducible first | apply State.Frame.ite | apply State.Frame.foldl | apply State.Frame.getD | apply State.giveRole_frame | apply State.tookFree_frame | apply State.dropChain_frame
    | (intro _ _ _; try dsimp only)
    | (intro _; try dsimp only)
    | split
    | exact State.Frame.upd hm (by with_reducible assumption) rfl
    | (refine State.Frame.upd hm ?_ rfl)

/-- Writes: pits stalls free; registers: stlRoleChain stlRoleChgCount stlRoleRole stlRoleStage stlStatusDraining
stlStatusLoading. -/
theorem State.cutSpread_frame {z s : State} {m r : Nat} {p} (hm : bitsIn 0x1000000c0 m) (hr : bitsIn 0x206d000000000000000000000000000000000000000000000000000000000000000000000000000000000000000 r)
    (hk : z.Frame m r s) : z.Frame m r (State.cutSpread s p) := by
  unfold State.cutSpread
  try dsimp only
  repeat' first
    | with_reducible assumption
    | with_reducible first | exact hm.within rfl | exact hr.within rfl | exact hr.at rfl
    | with_reducible first | apply State.Frame.ite | apply State.Frame.foldl | apply State.Frame.getD | apply State.updPit_frame | apply State.giveRole_frame | apply State.tookFree_frame
    | (intro _ _ _; try dsimp only)
    | (intro _; try dsimp only)
    | split
    | exact State.Frame.upd hm (by with_reducible assumption) rfl
    | (refine State.Frame.upd hm ?_ rfl)

/-- Writes: stalls; registers: stlRoleChain stlRoleChgCount stlRoleRole stlRoleStage stlStatusDraining stlStatusLoading. -/
theorem State.addChain_frame {z s : State} {m r : Nat} {p} (hm : bitsIn 0x80 m) (hr : bitsIn 0x206d000000000000000000000000000000000000000000000000000000000000000000000000000000000000000 r)
    (hk : z.Frame m r s) : z.Frame m r (State.addChain s p) := by
  unfold State.addChain
  try dsimp only
  repeat' first
    | with_reducible assumption
    | with_reducible first | exact hm.within rfl | exact hr.within rfl | exact hr.at rfl
    | with_reducible first | apply State.Frame.ite | apply State.Frame.foldl | apply State.loadChain_frame
    | (intro _ _ _; try dsimp only)
    | (intro _; try dsimp only)
    | split
    | exact State.Frame.upd hm (by with_reducible assumption) rfl
    | (refine State.Frame.upd hm ?_ rfl)

/-- Writes: stalls chains; registers: stlRoleChain stlRoleChgCount stlRoleRole stlRoleStage stlStatusDraining
stlStatusLoading. -/
theorem State.cutChains_frame {z s : State} {m r : Nat} {p} (hm : bitsIn 0x4080 m) (hr : bitsIn 0x206d000000000000000000000000000000000000000000000000000000000000000000000000000000000000000 r)
    (hk : z.Frame m r s) : z.Frame m r (State.cutChains s p) := by
  unfold State.cutChains
  try dsimp only
  repeat' first
    | with_reducible assumption
    | with_reducible first | exact hm.within rfl | exact hr.within rfl | exact hr.at rfl
    | with_reducible first | apply State.Frame.ite | apply State.Frame.foldl | apply State.Frame.getD | apply State.updChain_frame | apply State.dropChain_frame
    | (intro _ _ _; try dsimp only)
    | (intro _; try dsimp only)
    | split
    | exact State.Frame.upd hm (by with_reducible assumption) rfl
    | (refine State.Frame.upd hm ?_ rfl)

/-- Writes: stalls free; registers: stlRoleChain stlRoleChgCount stlRoleRole stlRoleStage stlStatusDraining
stlStatusLoading. -/
theorem State.reviewBench_frame {z s : State} {m r : Nat} {p} (hm : bitsIn 0x100000080 m) (hr : bitsIn 0x206d000000000000000000000000000000000000000000000000000000000000000000000000000000000000000 r)
    (hk : z.Frame m r s) : z.Frame m r (State.reviewBench s p) := by
  unfold State.reviewBench
  try dsimp only
  repeat' first
    | with_reducible assumption
    | with_reducible first | exact hm.within rfl | exact hr.within rfl | exact hr.at rfl
    | with_reducible first | apply State.Frame.ite | apply State.Frame.foldl | apply State.Frame.getD | apply State.giveRole_frame | apply State.tookFree_frame
    | (intro _ _ _; try dsimp only)
    | (intro _; try dsimp only)
    | split
    | exact State.Frame.upd hm (by with_reducible assumption) rfl
    | (refine State.Frame.upd hm ?_ rfl)

/-- Writes: pits stalls chains free; registers: stlRoleChain stlRoleChgCount stlRoleRole stlRoleStage stlStatusDraining
stlStatusLoading. -/
theorem State.reviewPitch_frame {z s : State} {m r : Nat} {p} (hm : bitsIn 0x1000040c0 m) (hr : bitsIn 0x206d000000000000000000000000000000000000000000000000000000000000000000000000000000000000000 r)
    (hk : z.Frame m r s) : z.Frame m r (State.reviewPitch s p) := by
  unfold State.reviewPitch
  try dsimp only
  repeat' first
    | with_reducible assumption
    | with_reducible first | exact hm.within rfl | exact hr.within rfl | exact hr.at rfl
    | with_reducible first | apply State.Frame.ite | apply State.Frame.foldl | apply State.cutChains_frame | apply State.addChain_frame | apply State.cutSpread_frame | apply State.addSpread_frame | apply State.giveBack_frame | apply State.updPit_frame | apply State.reviewBench_frame
    | (intro _ _ _; try dsimp only)
    | (intro _; try dsimp only)
    | split
    | exact State.Frame.upd hm (by with_reducible assumption) rfl
    | (refine State.Frame.upd hm ?_ rfl)

/-- Writes: clk pits stalls chains free; registers: stlRoleChain stlRoleChgCount stlRoleRole stlRoleStage
stlStatusDraining stlStatusLoading tollEnergyLevelNj. -/
theorem roleReviewStep_frame {z s : State} {m r : Nat} (hm : bitsIn 0x1000040c8 m) (hr : bitsIn 0x206d000000000000000000000000000000000000000000000000000000080000000000000000000000000000000 r)
    (hk : z.Frame m r s) : z.Frame m r (roleReviewStep s) := by
  unfold roleReviewStep
  try dsimp only
  repeat' first
    | with_reducible assumption
    | with_reducible first | exact hm.within rfl | exact hr.within rfl | exact hr.at rfl
    | with_reducible first | apply State.Frame.ite | apply State.Frame.foldl | apply State.beginSteps_frame | apply State.reviewPitch_frame | apply State.settle_frame
    | (intro _ _ _; try dsimp only)
    | (intro _; try dsimp only)
    | split
    | exact State.Frame.upd hm (by with_reducible assumption) rfl
    | (refine State.Frame.upd hm ?_ rfl)

/-- Writes: nothing but registers; registers: any register. -/
theorem State.resetStallRegs_frame {z s : State} {m r : Nat} {i alsoS} (hm : bitsIn 0x0 m) (hr : bitsIn 0x3fffffffffffffffffffffffffffffffffffffffffffffffffffffffffffffffffffffffffffffffffffffffffffffffffffffffffff r)
    (hk : z.Frame m r s) : z.Frame m r (State.resetStallRegs s i alsoS) := by
  unfold State.resetStallRegs
  try dsimp only
  repeat' first
    | with_reducible assumption
    | with_reducible first | exact hm.within rfl | exact hr.within rfl | exact hr.at rfl
    | with_reducible first | apply State.Frame.ite | apply State.Frame.foldl | apply State.drop_frame
    | exact hr.at (allRegs_at _)
    | (intro _ _ _; try dsimp only)
    | (intro _; try dsimp only)
    | split

/-- Writes: tier; registers: none. -/
theorem State.dropT0_frame {z s : State} {m r : Nat} {i} (hm : bitsIn 0x8000000 m) (hr : bitsIn 0x0 r)
    (hk : z.Frame m r s) : z.Frame m r (State.dropT0 s i) := by
  unfold State.dropT0
  try dsimp only
  repeat' first
    | with_reducible assumption
    | with_reducible first | exact hm.within rfl | exact hr.within rfl | exact hr.at rfl
    | with_reducible first | apply State.Frame.ite | apply State.Frame.foldl
    | (intro _ _ _; try dsimp only)
    | (intro _; try dsimp only)
    | split
    | exact State.Frame.upd hm (by with_reducible assumption) rfl
    | (refine State.Frame.upd hm ?_ rfl)

/-- Writes: stalls; registers: none. -/
theorem dozeStep_frame {z s : State} {m r : Nat} {i} (hm : bitsIn 0x80 m) (hr : bitsIn 0x0 r)
    (hk : z.Frame m r s) : z.Frame m r (dozeStep i s) := by
  unfold dozeStep
  try dsimp only
  repeat' first
    | with_reducible assumption
    | with_reducible first | exact hm.within rfl | exact hr.within rfl | exact hr.at rfl
    | with_reducible first | apply State.Frame.ite | apply State.Frame.foldl | apply State.updStl_frame
    | (intro _ _ _; try dsimp only)
    | (intro _; try dsimp only)
    | split
    | exact State.Frame.upd hm (by with_reducible assumption) rfl
    | (refine State.Frame.upd hm ?_ rfl)

/-- Writes: stalls tier; registers: any register. -/
theorem napStep_frame {z s : State} {m r : Nat} {i} (hm : bitsIn 0x8000080 m) (hr : bitsIn 0x3fffffffffffffffffffffffffffffffffffffffffffffffffffffffffffffffffffffffffffffffffffffffffffffffffffffffffff r)
    (hk : z.Frame m r s) : z.Frame m r (napStep i s) := by
  unfold napStep
  try dsimp only
  repeat' first
    | with_reducible assumption
    | with_reducible first | exact hm.within rfl | exact hr.within rfl | exact hr.at rfl
    | with_reducible first | apply State.Frame.ite | apply State.Frame.foldl | apply State.updStl_frame | apply State.dropT0_frame | apply State.resetStallRegs_frame
    | exact hr.at (allRegs_at _)
    | (intro _ _ _; try dsimp only)
    | (intro _; try dsimp only)
    | split
    | exact State.Frame.upd hm (by with_reducible assumption) rfl
    | (refine State.Frame.upd hm ?_ rfl)

/-- Writes: clk pits stalls chains; registers: stlRoleChain stlRoleChgCount stlRoleRole stlRoleStage stlStatusDraining
stlStatusLoading tollEnergyLevelNj. -/
theorem wakeStep_frame {z s : State} {m r : Nat} {i} (hm : bitsIn 0x40c8 m) (hr : bitsIn 0x206d000000000000000000000000000000000000000000000000000000080000000000000000000000000000000 r)
    (hk : z.Frame m r s) : z.Frame m r (wakeStep i s) := by
  unfold wakeStep
  try dsimp only
  repeat' first
    | with_reducible assumption
    | with_reducible first | exact hm.within rfl | exact hr.within rfl | exact hr.at rfl
    | with_reducible first | apply State.Frame.ite | apply State.Frame.foldl | apply State.updStl_frame | apply State.loadDone_frame
    | (intro _ _ _; try dsimp only)
    | (intro _; try dsimp only)
    | split
    | exact State.Frame.upd hm (by with_reducible assumption) rfl
    | (refine State.Frame.upd hm ?_ rfl)

/-- Writes: outbox pits stalls adms reqs dups streams toks entries wbs samples lanes fab; registers: pitVqTailCount. -/
theorem State.cutStream_frame {z s : State} {m r : Nat} {x} (hm : bitsIn 0x7049fc2 m) (hr : bitsIn 0x2000000000000000000000000000000000000000000000000000000000000000000000000000000000000 r)
    (hk : z.Frame m r s) : z.Frame m r (State.cutStream s x) := by
  unfold State.cutStream
  try dsimp only
  repeat' first
    | with_reducible assumption
    | with_reducible first | exact hm.within rfl | exact hr.within rfl | exact hr.at rfl
    | with_reducible first | apply State.Frame.ite | apply State.Frame.foldl | apply State.endStream_frame | apply State.updEntry_frame
    | (intro _ _ _; try dsimp only)
    | (intro _; try dsimp only)
    | split
    | exact State.Frame.upd hm (by with_reducible assumption) rfl
    | (refine State.Frame.upd hm ?_ rfl)

/-- Writes: adms streams; registers: none. -/
theorem State.movePin_frame {z s : State} {m r : Nat} {x c} (hm : bitsIn 0x900 m) (hr : bitsIn 0x0 r)
    (hk : z.Frame m r s) : z.Frame m r (State.movePin s x c) := by
  unfold State.movePin
  try dsimp only
  repeat' first
    | with_reducible assumption
    | with_reducible first | exact hm.within rfl | exact hr.within rfl | exact hr.at rfl
    | with_reducible first | apply State.Frame.ite | apply State.Frame.foldl | apply State.updStream_frame
    | (intro _ _ _; try dsimp only)
    | (intro _; try dsimp only)
    | split
    | exact State.Frame.upd hm (by with_reducible assumption) rfl
    | (refine State.Frame.upd hm ?_ rfl)

/-- Writes: stalls chains; registers: stlRoleChain stlRoleChgCount stlRoleRole stlRoleStage stlStatusDraining
stlStatusLoading. -/
theorem State.chainForPin_frame {z s : State} {m r : Nat} {p} (hm : bitsIn 0x4080 m) (hr : bitsIn 0x206d000000000000000000000000000000000000000000000000000000000000000000000000000000000000000 r)
    (hk : z.Frame m r s) : z.FrameSome m r (State.chainForPin s p) := by
  unfold State.chainForPin
  try dsimp only
  repeat' first
    | with_reducible assumption
    | with_reducible first | exact hm.within rfl | exact hr.within rfl | exact hr.at rfl
    | with_reducible first | apply State.Frame.ite | apply State.Frame.foldl | apply State.FrameSome.ite | apply State.FrameSome.ofSome | apply State.FrameSome.ofNone | apply State.updChain_frame | apply State.loadChain_frame
    | (intro _ _ _; try dsimp only)
    | (intro _; try dsimp only)
    | split
    | exact State.Frame.upd hm (by with_reducible assumption) rfl
    | (refine State.Frame.upd hm ?_ rfl)
    | dsimp only

/-- Writes: outbox pits stalls adms reqs dups streams toks chains entries wbs samples lanes fab; registers:
pitVqTailCount stlRoleChain stlRoleChgCount stlRoleRole stlRoleStage stlStatusDraining stlStatusLoading. -/
theorem State.repinAll_frame {z s : State} {m r : Nat} {p c} (hm : bitsIn 0x704dfc2 m) (hr : bitsIn 0x206d002000000000000000000000000000000000000000000000000000000000000000000000000000000000000 r)
    (hk : z.Frame m r s) : z.Frame m r (State.repinAll s p c).1 := by
  unfold State.repinAll
  try dsimp only
  repeat' first
    | with_reducible assumption
    | with_reducible first | exact hm.within rfl | exact hr.within rfl | exact hr.at rfl
    | with_reducible first | apply State.Frame.ite | apply State.Frame.foldl | apply State.FrameSome.ite | apply State.FrameSome.ofSome | apply State.FrameSome.ofNone | apply State.Frame.foldlFst | apply State.chainForPin_frame | apply State.movePin_frame | apply State.cutStream_frame
    | (intro _ _ _; try dsimp only)
    | (intro _; try dsimp only)
    | split
    | with_reducible first | refine State.Frame.ofSome ‹_› ?_
    | exact State.Frame.upd hm (by with_reducible assumption) rfl
    | (refine State.Frame.upd hm ?_ rfl)
    | dsimp only

/-- Writes: outbox pits stalls reqs dups streams toks entries wbs lanes fab; registers: pitVqTailCount. -/
theorem State.endLost_frame {z s : State} {m r : Nat} {r' i} (hm : bitsIn 0x6049ec2 m) (hr : bitsIn 0x2000000000000000000000000000000000000000000000000000000000000000000000000000000000000 r)
    (hk : z.Frame m r s) : z.Frame m r (State.endLost s r' i) := by
  unfold State.endLost
  try dsimp only
  repeat' first
    | with_reducible assumption
    | with_reducible first | exact hm.within rfl | exact hr.within rfl | exact hr.at rfl
    | with_reducible first | apply State.Frame.ite | apply State.Frame.foldl | apply State.endFailed_frame | apply State.failReq_frame
    | (intro _ _ _; try dsimp only)
    | (intro _; try dsimp only)
    | split
    | exact State.Frame.upd hm (by with_reducible assumption) rfl
    | (refine State.Frame.upd hm ?_ rfl)

/-- Writes: outbox pits stalls reqs dups streams toks entries wbs lanes fab; registers: pitVqTailCount. -/
theorem State.endStallReqs_frame {z s : State} {m r : Nat} {i c} (hm : bitsIn 0x6049ec2 m) (hr : bitsIn 0x2000000000000000000000000000000000000000000000000000000000000000000000000000000000000 r)
    (hk : z.Frame m r s) : z.Frame m r (State.endStallReqs s i c) := by
  unfold State.endStallReqs
  try dsimp only
  repeat' first
    | with_reducible assumption
    | with_reducible first | exact hm.within rfl | exact hr.within rfl | exact hr.at rfl
    | with_reducible first | apply State.Frame.ite | apply State.Frame.foldl | apply State.Frame.getD | apply State.endLost_frame
    | (intro _ _ _; try dsimp only)
    | (intro _; try dsimp only)
    | split
    | exact State.Frame.upd hm (by with_reducible assumption) rfl
    | (refine State.Frame.upd hm ?_ rfl)

/-- Writes: stalls; registers: none. -/
theorem State.markStopped_frame {z s : State} {m r : Nat} {is f} (hm : bitsIn 0x80 m) (hr : bitsIn 0x0 r)
    (hk : z.Frame m r s) : z.Frame m r (State.markStopped s is f) := by
  unfold State.markStopped
  try dsimp only
  repeat' first
    | with_reducible assumption
    | with_reducible first | exact hm.within rfl | exact hr.within rfl | exact hr.at rfl
    | with_reducible first | apply State.Frame.ite | apply State.Frame.foldl | apply State.updStl_frame
    | (intro _ _ _; try dsimp only)
    | (intro _; try dsimp only)
    | split
    | exact State.Frame.upd hm (by with_reducible assumption) rfl
    | (refine State.Frame.upd hm ?_ rfl)

theorem State.stopStalls_frame {z s : State} {m r : Nat} {is} (hm : bitsIn 0x704dfc2 m) (hr : bitsIn 0x206d002000000000000000000000000000000000000000000000000000000000000000000000000000000000000 r) (h : z.Frame m r s) :
    z.Frame m r (s.stopStalls is).1 := by
  unfold State.stopStalls
  dsimp only
  refine State.markStopped_frame (hm.within rfl) (hr.within rfl) (State.Frame.foldlFst (State.markStopped_frame (hm.within rfl)
    (hr.within rfl) (State.Frame.foldl (State.Frame.upd hm (State.Frame.foldl h ?_) rfl) ?_)) ?_)
  · exact fun t x ht => State.endStallReqs_frame (hm.within rfl) (hr.within rfl) ht
  · exact fun t x ht => State.dropChain_frame (hm.within rfl) (hr.within rfl) ht
  · exact fun t x ht => State.repinAll_frame (hm.within rfl) (hr.within rfl) ht
/-- Writes: outbox dbk; registers: dbkDroppedCount. -/
theorem State.dayChains_frame {z s : State} {m r : Nat} {cs} (hm : bitsIn 0x40000002 m) (hr : bitsIn 0x10000000000000000000000000000000000000000000000000 r)
    (hk : z.Frame m r s) : z.Frame m r (State.dayChains s cs) := by
  unfold State.dayChains
  try dsimp only
  repeat' first
    | with_reducible assumption
    | with_reducible first | exact hm.within rfl | exact hr.within rfl | exact hr.at rfl
    | with_reducible first | apply State.Frame.ite | apply State.Frame.foldl | apply State.day_frame
    | (intro _ _ _; try dsimp only)
    | (intro _; try dsimp only)
    | split
    | exact State.Frame.upd hm (by with_reducible assumption) rfl
    | (refine State.Frame.upd hm ?_ rfl)

/-- Writes: streams; registers: none. -/
theorem repinStep_frame {z s : State} {m r : Nat} {p sess} (hm : bitsIn 0x800 m) (hr : bitsIn 0x0 r)
    (hk : z.Frame m r s) : z.Frame m r (repinStep p sess s) := by
  unfold repinStep
  try dsimp only
  repeat' first
    | with_reducible assumption
    | with_reducible first | exact hm.within rfl | exact hr.within rfl | exact hr.at rfl
    | with_reducible first | apply State.Frame.ite | apply State.Frame.foldl | apply State.Frame.getD | apply State.updStream_frame
    | (intro _ _ _; try dsimp only)
    | (intro _; try dsimp only)
    | split
    | exact State.Frame.upd hm (by with_reducible assumption) rfl
    | (refine State.Frame.upd hm ?_ rfl)

/-- Writes: stalls tier; registers: any register. -/
theorem State.resetStall_frame {z s : State} {m r : Nat} {i} (hm : bitsIn 0x8000080 m) (hr : bitsIn 0x3fffffffffffffffffffffffffffffffffffffffffffffffffffffffffffffffffffffffffffffffffffffffffffffffffffffffffff r)
    (hk : z.Frame m r s) : z.Frame m r (State.resetStall s i) := by
  unfold State.resetStall
  try dsimp only
  repeat' first
    | with_reducible assumption
    | with_reducible first | exact hm.within rfl | exact hr.within rfl | exact hr.at rfl
    | with_reducible first | apply State.Frame.ite | apply State.Frame.foldl | apply State.updStl_frame | apply State.dropT0_frame | apply State.resetStallRegs_frame
    | exact hr.at (allRegs_at _)
    | (intro _ _ _; try dsimp only)
    | (intro _; try dsimp only)
    | split
    | exact State.Frame.upd hm (by with_reducible assumption) rfl
    | (refine State.Frame.upd hm ?_ rfl)

/-- Writes: outbox pits stalls adms reqs dups streams toks chains entries wbs samples lanes fab tier dbk; registers: any
register. -/
theorem State.writeStlReset_frame {z s : State} {m r : Nat} {w'} (hm : bitsIn 0x4f04dfc2 m) (hr : bitsIn 0x3fffffffffffffffffffffffffffffffffffffffffffffffffffffffffffffffffffffffffffffffffffffffffffffffffffffffffff r)
    (hk : z.Frame m r s) : z.Frame m r (State.writeStlReset s w') := by
  unfold State.writeStlReset
  try dsimp only
  repeat' first
    | with_reducible assumption
    | with_reducible first | exact hm.within rfl | exact hr.within rfl | exact hr.at rfl
    | with_reducible first | apply State.Frame.ite | apply State.Frame.foldl | apply State.Frame.foldlFst | apply State.stopStalls_frame | apply State.dayChains_frame | apply State.day_frame | apply State.trimSteps_frame | apply State.resetStall_frame
    | exact hr.at (allRegs_at _)
    | (intro _ _ _; try dsimp only)
    | (intro _; try dsimp only)
    | split
    | with_reducible first | refine State.Frame.ofFst ‹_› ?_
    | exact State.Frame.upd hm (by with_reducible assumption) rfl
    | (refine State.Frame.upd hm ?_ rfl)
    | dsimp only

/-- Writes: outbox pits stalls adms reqs dups streams toks chains entries wbs samples lanes fab tier dbk; registers: any
register. -/
theorem stallResetStep_frame {z s : State} {m r : Nat} {acc w'} (hm : bitsIn 0x4f04dfc2 m) (hr : bitsIn 0x3fffffffffffffffffffffffffffffffffffffffffffffffffffffffffffffffffffffffffffffffffffffffffffffffffffffffffff r)
    (hk : z.Frame m r s) : z.Frame m r (stallResetStep acc w' s) := by
  unfold stallResetStep
  try dsimp only
  repeat' first
    | with_reducible assumption
    | with_reducible first | exact hm.within rfl | exact hr.within rfl | exact hr.at rfl
    | with_reducible first | apply State.Frame.ite | apply State.Frame.foldl | apply State.FrameEither.ite | apply State.FrameEither.ofInl | apply State.FrameEither.ofInr | apply State.gate_frame | apply State.writeStlReset_frame
    | exact hr.at (allRegs_at _)
    | (intro _ _ _; try dsimp only)
    | (intro _; try dsimp only)
    | split
    | with_reducible first | refine State.Frame.ofInl ‹_› ?_ | refine State.Frame.ofInr ‹_› ?_
    | exact State.Frame.upd hm (by with_reducible assumption) rfl
    | (refine State.Frame.upd hm ?_ rfl)
    | dsimp only


end Sys2Proof.Machine
end

