-- ==== Sys2Proof/Laws/FrameHomes.lean ====
section
/-! SUPPORT. What the functions of Machine/Homes.lean may write, and that they leave the rest of a state as it is. -/

set_option linter.unusedVariables false

namespace Sys2Proof.Machine

/-- Writes: tier; registers: none. -/
theorem State.trimKept_frame {z s : State} {m r : Nat} {i} (hm : bitsIn 0x8000000 m) (hr : bitsIn 0x0 r)
    (hk : z.Frame m r s) : z.Frame m r (State.trimKept s i) := by
  unfold State.trimKept
  try dsimp only
  repeat' first
    | with_reducible assumption
    | with_reducible first | exact hm.within rfl | exact hr.within rfl | exact hr.at rfl
    | with_reducible first | apply State.Frame.ite | apply State.Frame.foldl
    | (intro _ _ _; try dsimp only)
    | (intro _; try dsimp only)
    | split
    | exact State.Frame.upd hm (by with_reducible assumption) rfl
    | (refine State.Frame.upd hm ?_ rfl)

/-- Writes: tier; registers: none. -/
theorem State.keep_frame {z s : State} {m r : Nat} {i t bytes} (hm : bitsIn 0x8000000 m) (hr : bitsIn 0x0 r)
    (hk : z.Frame m r s) : z.Frame m r (State.keep s i t bytes) := by
  unfold State.keep
  try dsimp only
  repeat' first
    | with_reducible assumption
    | with_reducible first | exact hm.within rfl | exact hr.within rfl | exact hr.at rfl
    | with_reducible first | apply State.Frame.ite | apply State.Frame.foldl | apply State.trimKept_frame
    | (intro _ _ _; try dsimp only)
    | (intro _; try dsimp only)
    | split
    | exact State.Frame.upd hm (by with_reducible assumption) rfl
    | (refine State.Frame.upd hm ?_ rfl)

theorem State.fetchMore_frame {z s : State} {m r i p sess tag n : Nat} (hm : bitsIn 0x8000200 m) (hr : bitsIn 0x0 r) (h : z.Frame m r s) :
    z.Frame m r (s.fetchMore i p sess tag n) := by
  induction n generalizing s with
  | zero => exact h
  | succ n ih =>
    unfold State.fetchMore
    split
    · exact h
    · dsimp only
      split
      · exact h
      · split
        · exact ih (State.updReq_frame (hm.within rfl) (hr.within rfl) (State.keep_frame (hm.within rfl) (hr.within rfl) h))
        · split
          · exact h
          · exact ih (State.updReq_frame (hm.within rfl) (hr.within rfl) h)
/-- Writes: reqs tier; registers: none. -/
theorem State.refill_frame {z s : State} {m r : Nat} {i} (hm : bitsIn 0x8000200 m) (hr : bitsIn 0x0 r)
    (hk : z.Frame m r s) : z.Frame m r (State.refill s i) := by
  unfold State.refill
  try dsimp only
  repeat' first
    | with_reducible assumption
    | with_reducible first | exact hm.within rfl | exact hr.within rfl | exact hr.at rfl
    | with_reducible first | apply State.Frame.ite | apply State.Frame.foldl | apply State.fetchMore_frame
    | (intro _ _ _; try dsimp only)
    | (intro _; try dsimp only)
    | split
    | exact State.Frame.upd hm (by with_reducible assumption) rfl
    | (refine State.Frame.upd hm ?_ rfl)

/-- Writes: outbox lanes fab; registers: none. -/
theorem State.writeHome_frame {z s : State} {m r : Nat} {p src t off} (hm : bitsIn 0x6000002 m) (hr : bitsIn 0x0 r)
    (hk : z.Frame m r s) : z.Frame m r (State.writeHome s p src t off) := by
  unfold State.writeHome
  try dsimp only
  repeat' first
    | with_reducible assumption
    | with_reducible first | exact hm.within rfl | exact hr.within rfl | exact hr.at rfl
    | with_reducible first | apply State.Frame.ite | apply State.Frame.foldl | apply State.emit_frame | apply State.poolWrite_frame
    | (intro _ _ _; try dsimp only)
    | (intro _; try dsimp only)
    | split
    | exact State.Frame.upd hm (by with_reducible assumption) rfl
    | (refine State.Frame.upd hm ?_ rfl)

/-- Writes: outbox lanes fab; registers: none. -/
theorem State.rewriteHomes_frame {z s : State} {m r : Nat} {p old new} (hm : bitsIn 0x6000002 m) (hr : bitsIn 0x0 r)
    (hk : z.Frame m r s) : z.Frame m r (State.rewriteHomes s p old new) := by
  unfold State.rewriteHomes
  try dsimp only
  repeat' first
    | with_reducible assumption
    | with_reducible first | exact hm.within rfl | exact hr.within rfl | exact hr.at rfl
    | with_reducible first | apply State.Frame.ite | apply State.Frame.foldl | apply State.writeHome_frame
    | (intro _ _ _; try dsimp only)
    | (intro _; try dsimp only)
    | split
    | exact State.Frame.upd hm (by with_reducible assumption) rfl
    | (refine State.Frame.upd hm ?_ rfl)

theorem State.withHomes_frame {z s : State} {m r p : Nat} {f} (hm : bitsIn 0x6000002 m) (hr : bitsIn 0x0 r) (h : z.Frame m r s)
    (hf : ∀ t, z.Frame m r t → z.Frame m r (f t)) : z.Frame m r (s.withHomes p f) := by
  unfold State.withHomes
  dsimp only
  exact State.Frame.ite (fun _ => State.rewriteHomes_frame (hm.within rfl) (hr.within rfl) (hf s h)) fun _ => hf s h
/-- Writes: outbox lanes fab; registers: none. -/
theorem State.readHome_frame {z s : State} {m r : Nat} {t src} (hm : bitsIn 0x6000002 m) (hr : bitsIn 0x0 r)
    (hk : z.Frame m r s) : z.Frame m r (State.readHome s t src) := by
  unfold State.readHome
  try dsimp only
  repeat' first
    | with_reducible assumption
    | with_reducible first | exact hm.within rfl | exact hr.within rfl | exact hr.at rfl
    | with_reducible first | apply State.Frame.ite | apply State.Frame.foldl | apply State.Frame.getD | apply State.emit_frame | apply State.poolRead_frame
    | (intro _ _ _; try dsimp only)
    | (intro _; try dsimp only)
    | split
    | exact State.Frame.upd hm (by with_reducible assumption) rfl
    | (refine State.Frame.upd hm ?_ rfl)


end Sys2Proof.Machine
end

