-- ==== Sys2Proof/Laws/FrameAssize.lean ====
section
/-! SUPPORT. What the functions of Machine/Assize.lean may write, and that they leave the rest of a state as it is. -/

set_option linter.unusedVariables false

namespace Sys2Proof.Machine

/-- Writes: free; registers: mxeCfgAfmt mxeCfgGsize mxeCfgWfmt mxeConstCount mxeNanCount mxeOsatCount mxeQsatCount
mxeRowsCount mxeTilesCount. -/
theorem State.countBench_frame {z s : State} {m r : Nat} {p m' rs} (hm : bitsIn 0x100000000 m) (hr : bitsIn 0x4ff0000000000000000000000000000000000000000000000000000000000000000000000000000000000000000000000000000000 r)
    (hk : z.Frame m r s) : z.Frame m r (State.countBench s p m' rs) := by
  unfold State.countBench
  try dsimp only
  repeat' first
    | with_reducible assumption
    | with_reducible first | exact hm.within rfl | exact hr.within rfl | exact hr.at rfl
    | with_reducible first | apply State.Frame.ite | apply State.Frame.foldl | apply State.countEngine_frame | apply State.bump_frame | apply State.tookFree_frame | apply State.noteTile_frame
    | (intro _ _ _; try dsimp only)
    | (intro _; try dsimp only)
    | split
    | exact State.Frame.upd hm (by with_reducible assumption) rfl
    | (refine State.Frame.upd hm ?_ rfl)

/-- Writes: asz; registers: aszBoundCount aszStepsCount. -/
theorem State.trainWith_frame {z s : State} {m r : Nat} {p m' a cm rs} (hm : bitsIn 0x400000 m) (hr : bitsIn 0x4100000000000000000000000000000000000000000000000000000000000000000000000 r)
    (hk : z.Frame m r s) : z.Frame m r (State.trainWith s p m' a cm rs) := by
  unfold State.trainWith
  try dsimp only
  repeat' first
    | with_reducible assumption
    | with_reducible first | exact hm.within rfl | exact hr.within rfl | exact hr.at rfl
    | with_reducible first | apply State.Frame.ite | apply State.Frame.foldl | apply State.bump_frame | apply State.updAsz_frame
    | (intro _ _ _; try dsimp only)
    | (intro _; try dsimp only)
    | split
    | exact State.Frame.upd hm (by with_reducible assumption) rfl
    | (refine State.Frame.upd hm ?_ rfl)

/-- Writes: clk pits stalls; registers: stlRoleChain stlRoleChgCount stlRoleRole stlRoleStage stlStatusDraining
stlStatusLoading tollEnergyLevelNj. -/
theorem State.nextStep_frame {z s : State} {m r : Nat} {p} (hm : bitsIn 0xc8 m) (hr : bitsIn 0x206d000000000000000000000000000000000000000000000000000000080000000000000000000000000000000 r)
    (hk : z.Frame m r s) : z.Frame m r (State.nextStep s p) := by
  unfold State.nextStep
  try dsimp only
  repeat' first
    | with_reducible assumption
    | with_reducible first | exact hm.within rfl | exact hr.within rfl | exact hr.at rfl
    | with_reducible first | apply State.Frame.ite | apply State.Frame.foldl | apply State.beginStep_frame | apply State.endStep_frame
    | (intro _ _ _; try dsimp only)
    | (intro _; try dsimp only)
    | split
    | exact State.Frame.upd hm (by with_reducible assumption) rfl
    | (refine State.Frame.upd hm ?_ rfl)

/-- Writes: clk pits stalls asz free; registers: aszBoundCount aszStepsCount mxeCfgAfmt mxeCfgGsize mxeCfgWfmt
mxeConstCount mxeNanCount mxeOsatCount mxeQsatCount mxeRowsCount mxeTilesCount stlRoleChain stlRoleChgCount
stlRoleRole stlRoleStage stlStatusDraining stlStatusLoading tollEnergyLevelNj. -/
theorem trainStep_frame {z s : State} {m r : Nat} {p m'} (hm : bitsIn 0x1004000c8 m) (hr : bitsIn 0x4ff000000000000206d000000000000004100000000000000000000000000000000000000080000000000000000000000000000000 r)
    (hk : z.Frame m r s) : z.Frame m r (trainStep p m' s) := by
  unfold trainStep
  try dsimp only
  repeat' first
    | with_reducible assumption
    | with_reducible first | exact hm.within rfl | exact hr.within rfl | exact hr.at rfl
    | with_reducible first | apply State.Frame.ite | apply State.Frame.foldl | apply State.countBench_frame | apply State.tookFree_frame | apply State.nextStep_frame | apply State.trainWith_frame
    | (intro _ _ _; try dsimp only)
    | (intro _; try dsimp only)
    | split
    | exact State.Frame.upd hm (by with_reducible assumption) rfl
    | (refine State.Frame.upd hm ?_ rfl)

/-- Writes: clk pits stalls; registers: stlRoleChain stlRoleChgCount stlRoleRole stlRoleStage stlStatusDraining
stlStatusLoading tollEnergyLevelNj. -/
theorem benchTimeoutStep_frame {z s : State} {m r : Nat} {p} (hm : bitsIn 0xc8 m) (hr : bitsIn 0x206d000000000000000000000000000000000000000000000000000000080000000000000000000000000000000 r)
    (hk : z.Frame m r s) : z.Frame m r (benchTimeoutStep p s) := by
  unfold benchTimeoutStep
  try dsimp only
  repeat' first
    | with_reducible assumption
    | with_reducible first | exact hm.within rfl | exact hr.within rfl | exact hr.at rfl
    | with_reducible first | apply State.Frame.ite | apply State.Frame.foldl | apply State.nextStep_frame
    | (intro _ _ _; try dsimp only)
    | (intro _; try dsimp only)
    | split
    | exact State.Frame.upd hm (by with_reducible assumption) rfl
    | (refine State.Frame.upd hm ?_ rfl)

/-- Writes: outbox clk pits stalls asz dbk free; registers: aszRejectsCount dbkDroppedCount mxeCfgAfmt mxeCfgGsize
mxeCfgWfmt mxeConstCount mxeNanCount mxeOsatCount mxeQsatCount mxeRowsCount mxeTilesCount stlRoleChain
stlRoleChgCount stlRoleRole stlRoleStage stlStatusDraining stlStatusLoading tollEnergyLevelNj. -/
theorem shadowStep_frame {z s : State} {m r : Nat} {p m'} (hm : bitsIn 0x1404000ca m) (hr : bitsIn 0x4ff000000000000206d000000000000000400000000000000000000010000000000000000080000000000000000000000000000000 r)
    (hk : z.Frame m r s) : z.Frame m r (shadowStep p m' s) := by
  unfold shadowStep
  try dsimp only
  repeat' first
    | with_reducible assumption
    | with_reducible first | exact hm.within rfl | exact hr.within rfl | exact hr.at rfl
    | with_reducible first | apply State.Frame.ite | apply State.Frame.foldl | apply State.countBench_frame | apply State.tookFree_frame | apply State.updAsz_frame | apply State.day_frame | apply State.bump_frame | apply State.nextStep_frame
    | (intro _ _ _; try dsimp only)
    | (intro _; try dsimp only)
    | split
    | exact State.Frame.upd hm (by with_reducible assumption) rfl
    | (refine State.Frame.upd hm ?_ rfl)

/-- Writes: outbox pits stalls asz lanes fab; registers: stlRoleChain stlRoleChgCount stlRoleRole stlRoleStage
stlStatusDraining stlStatusLoading. -/
theorem State.dropCycle_frame {z s : State} {m r : Nat} {p m' f} (hm : bitsIn 0x64000c2 m) (hr : bitsIn 0x206d000000000000000000000000000000000000000000000000000000000000000000000000000000000000000 r)
    (hk : z.Frame m r s) : z.Frame m r (State.dropCycle s p m' f) := by
  unfold State.dropCycle
  try dsimp only
  repeat' first
    | with_reducible assumption
    | with_reducible first | exact hm.within rfl | exact hr.within rfl | exact hr.at rfl
    | with_reducible first | apply State.Frame.ite | apply State.Frame.foldl | apply State.withHomes_frame | apply State.updAsz_frame | apply State.endStep_frame
    | (intro _ _ _; try dsimp only)
    | (intro _; try dsimp only)
    | split
    | exact State.Frame.upd hm (by with_reducible assumption) rfl
    | (refine State.Frame.upd hm ?_ rfl)

/-- Writes: outbox pits stalls asz lanes fab dbk; registers: dbkDroppedCount stlRoleChain stlRoleChgCount stlRoleRole
stlRoleStage stlStatusDraining stlStatusLoading. -/
theorem State.discard_frame {z s : State} {m r : Nat} {a reason} (hm : bitsIn 0x464000c2 m) (hr : bitsIn 0x206d000000000000000000000000000000000000010000000000000000000000000000000000000000000000000 r)
    (hk : z.Frame m r s) : z.Frame m r (State.discard s a reason) := by
  unfold State.discard
  try dsimp only
  repeat' first
    | with_reducible assumption
    | with_reducible first | exact hm.within rfl | exact hr.within rfl | exact hr.at rfl
    | with_reducible first | apply State.Frame.ite | apply State.Frame.foldl | apply State.day_frame | apply State.dropCycle_frame
    | (intro _ _ _; try dsimp only)
    | (intro _; try dsimp only)
    | split
    | exact State.Frame.upd hm (by with_reducible assumption) rfl
    | (refine State.Frame.upd hm ?_ rfl)

/-- Writes: outbox pits stalls asz lanes fab dbk; registers: dbkDroppedCount stlRoleChain stlRoleChgCount stlRoleRole
stlRoleStage stlStatusDraining stlStatusLoading. -/
theorem State.discardAll_frame {z s : State} {m r : Nat} {which reason} (hm : bitsIn 0x464000c2 m) (hr : bitsIn 0x206d000000000000000000000000000000000000010000000000000000000000000000000000000000000000000 r)
    (hk : z.Frame m r s) : z.Frame m r (State.discardAll s which reason) := by
  unfold State.discardAll
  try dsimp only
  repeat' first
    | with_reducible assumption
    | with_reducible first | exact hm.within rfl | exact hr.within rfl | exact hr.at rfl
    | with_reducible first | apply State.Frame.ite | apply State.Frame.foldl | apply State.discard_frame
    | (intro _ _ _; try dsimp only)
    | (intro _; try dsimp only)
    | split
    | exact State.Frame.upd hm (by with_reducible assumption) rfl
    | (refine State.Frame.upd hm ?_ rfl)

/-- Writes: outbox pits stalls asz lanes fab dbk; registers: aszStatusWsUncorr dbkDroppedCount stlRoleChain
stlRoleChgCount stlRoleRole stlRoleStage stlStatusDraining stlStatusLoading. -/
theorem State.calibLost_frame {z s : State} {m r : Nat} {p m' bank} (hm : bitsIn 0x464000c2 m) (hr : bitsIn 0x206d000000000000000020000000000000000000010000000000000000000000000000000000000000000000000 r)
    (hk : z.Frame m r s) : z.Frame m r (State.calibLost s p m' bank) := by
  unfold State.calibLost
  try dsimp only
  repeat' first
    | with_reducible assumption
    | with_reducible first | exact hm.within rfl | exact hr.within rfl | exact hr.at rfl
    | with_reducible first | apply State.Frame.ite | apply State.Frame.foldl | apply State.day_frame | apply State.wr_frame | apply State.dropCycle_frame
    | (intro _ _ _; try dsimp only)
    | (intro _; try dsimp only)
    | split
    | exact State.Frame.upd hm (by with_reducible assumption) rfl
    | (refine State.Frame.upd hm ?_ rfl)

/-- Writes: outbox pits stalls asz lanes fab dbk; registers: aszStatusWsUncorr dbkDroppedCount stlRoleChain
stlRoleChgCount stlRoleRole stlRoleStage stlStatusDraining stlStatusLoading. -/
theorem State.loseSet_frame {z s : State} {m r : Nat} {p m' bank} (hm : bitsIn 0x464000c2 m) (hr : bitsIn 0x206d000000000000000020000000000000000000010000000000000000000000000000000000000000000000000 r)
    (hk : z.Frame m r s) : z.Frame m r (State.loseSet s p m' bank) := by
  unfold State.loseSet
  try dsimp only
  repeat' first
    | with_reducible assumption
    | with_reducible first | exact hm.within rfl | exact hr.within rfl | exact hr.at rfl
    | with_reducible first | apply State.Frame.ite | apply State.Frame.foldl | apply State.Frame.getD | apply State.calibLost_frame
    | (intro _ _ _; try dsimp only)
    | (intro _; try dsimp only)
    | split
    | exact State.Frame.upd hm (by with_reducible assumption) rfl
    | (refine State.Frame.upd hm ?_ rfl)

/-- Writes: outbox asz lanes fab tier; registers: none. -/
theorem calibStagedStep_frame {z s : State} {m r : Nat} {p m'} (hm : bitsIn 0xe400002 m) (hr : bitsIn 0x0 r)
    (hk : z.Frame m r s) : z.Frame m r (calibStagedStep p m' s) := by
  unfold calibStagedStep
  try dsimp only
  repeat' first
    | with_reducible assumption
    | with_reducible first | exact hm.within rfl | exact hr.within rfl | exact hr.at rfl
    | with_reducible first | apply State.Frame.ite | apply State.Frame.foldl | apply State.withHomes_frame | apply State.updAsz_frame | apply State.trimKept_frame
    | (intro _ _ _; try dsimp only)
    | (intro _; try dsimp only)
    | split
    | exact State.Frame.upd hm (by with_reducible assumption) rfl
    | (refine State.Frame.upd hm ?_ rfl)

/-- Writes: clk pits asz; registers: tollEnergyLevelNj. -/
theorem State.startCycle_frame {z s : State} {m r : Nat} {p m'} (hm : bitsIn 0x400048 m) (hr : bitsIn 0x80000000000000000000000000000000 r)
    (hk : z.Frame m r s) : z.Frame m r (State.startCycle s p m') := by
  unfold State.startCycle
  try dsimp only
  repeat' first
    | with_reducible assumption
    | with_reducible first | exact hm.within rfl | exact hr.within rfl | exact hr.at rfl
    | with_reducible first | apply State.Frame.ite | apply State.Frame.foldl | apply State.Frame.getD | apply State.beginStep_frame | apply State.updAsz_frame
    | (intro _ _ _; try dsimp only)
    | (intro _; try dsimp only)
    | split
    | exact State.Frame.upd hm (by with_reducible assumption) rfl
    | (refine State.Frame.upd hm ?_ rfl)

/-- Writes: clk pits asz; registers: tollEnergyLevelNj. -/
theorem State.kick_frame {z s : State} {m r : Nat} {p} (hm : bitsIn 0x400048 m) (hr : bitsIn 0x80000000000000000000000000000000 r)
    (hk : z.Frame m r s) : z.Frame m r (State.kick s p) := by
  unfold State.kick
  try dsimp only
  repeat' first
    | with_reducible assumption
    | with_reducible first | exact hm.within rfl | exact hr.within rfl | exact hr.at rfl
    | with_reducible first | apply State.Frame.ite | apply State.Frame.foldl | apply State.startCycle_frame
    | (intro _ _ _; try dsimp only)
    | (intro _; try dsimp only)
    | split
    | exact State.Frame.upd hm (by with_reducible assumption) rfl
    | (refine State.Frame.upd hm ?_ rfl)

/-- Writes: outbox clk pits asz dbk; registers: dbkDroppedCount glbDenyCount glbDenyLastAccessor glbDenyLastAddr
glbDenyLastWrite tollEnergyLevelNj. -/
theorem kickStep_frame {z s : State} {m r : Nat} {acc p} (hm : bitsIn 0x4040004a m) (hr : bitsIn 0x10000000000000000080000000000000000000000003c00000 r)
    (hk : z.Frame m r s) : z.Frame m r (kickStep acc p s) := by
  unfold kickStep
  try dsimp only
  repeat' first
    | with_reducible assumption
    | with_reducible first | exact hm.within rfl | exact hr.within rfl | exact hr.at rfl
    | with_reducible first | apply State.Frame.ite | apply State.Frame.foldl | apply State.FrameEither.ite | apply State.FrameEither.ofInl | apply State.FrameEither.ofInr | apply State.gate_frame | apply State.kick_frame
    | (intro _ _ _; try dsimp only)
    | (intro _; try dsimp only)
    | split
    | with_reducible first | refine State.Frame.ofInl ‹_› ?_ | refine State.Frame.ofInr ‹_› ?_
    | exact State.Frame.upd hm (by with_reducible assumption) rfl
    | (refine State.Frame.upd hm ?_ rfl)
    | dsimp only

/-- Writes: outbox pits stalls asz lanes fab dbk; registers: aszPitCtrlFreeze dbkDroppedCount stlRoleChain
stlRoleChgCount stlRoleRole stlRoleStage stlStatusDraining stlStatusLoading. -/
theorem State.setFreeze_frame {z s : State} {m r : Nat} {p b} (hm : bitsIn 0x464000c2 m) (hr : bitsIn 0x206d000000000004000000000000000000000000010000000000000000000000000000000000000000000000000 r)
    (hk : z.Frame m r s) : z.Frame m r (State.setFreeze s p b) := by
  unfold State.setFreeze
  try dsimp only
  repeat' first
    | with_reducible assumption
    | with_reducible first | exact hm.within rfl | exact hr.within rfl | exact hr.at rfl
    | with_reducible first | apply State.Frame.ite | apply State.Frame.foldl | apply State.wrB_frame | apply State.discardAll_frame
    | (intro _ _ _; try dsimp only)
    | (intro _; try dsimp only)
    | split
    | exact State.Frame.upd hm (by with_reducible assumption) rfl
    | (refine State.Frame.upd hm ?_ rfl)

/-- Writes: outbox pits stalls asz lanes fab dbk; registers: aszPitCtrlFreeze dbkDroppedCount glbDenyCount
glbDenyLastAccessor glbDenyLastAddr glbDenyLastWrite stlRoleChain stlRoleChgCount stlRoleRole stlRoleStage
stlStatusDraining stlStatusLoading. -/
theorem freezeStep_frame {z s : State} {m r : Nat} {acc p} (hm : bitsIn 0x464000c2 m) (hr : bitsIn 0x206d000000000004000000000000000000000000010000000000000000000000000000000000000000003c00000 r)
    (hk : z.Frame m r s) : z.Frame m r (freezeStep acc p s) := by
  unfold freezeStep
  try dsimp only
  repeat' first
    | with_reducible assumption
    | with_reducible first | exact hm.within rfl | exact hr.within rfl | exact hr.at rfl
    | with_reducible first | apply State.Frame.ite | apply State.Frame.foldl | apply State.FrameEither.ite | apply State.FrameEither.ofInl | apply State.FrameEither.ofInr | apply State.gate_frame | apply State.setFreeze_frame
    | (intro _ _ _; try dsimp only)
    | (intro _; try dsimp only)
    | split
    | with_reducible first | refine State.Frame.ofInl ‹_› ?_ | refine State.Frame.ofInr ‹_› ?_
    | exact State.Frame.upd hm (by with_reducible assumption) rfl
    | (refine State.Frame.upd hm ?_ rfl)
    | dsimp only

/-- Writes: outbox pits stalls asz lanes fab dbk; registers: aszCtrlEnable dbkDroppedCount stlRoleChain stlRoleChgCount
stlRoleRole stlRoleStage stlStatusDraining stlStatusLoading. -/
theorem State.setAssize_frame {z s : State} {m r : Nat} {b} (hm : bitsIn 0x464000c2 m) (hr : bitsIn 0x206d000000000000000008000000000000000000010000000000000000000000000000000000000000000000000 r)
    (hk : z.Frame m r s) : z.Frame m r (State.setAssize s b) := by
  unfold State.setAssize
  try dsimp only
  repeat' first
    | with_reducible assumption
    | with_reducible first | exact hm.within rfl | exact hr.within rfl | exact hr.at rfl
    | with_reducible first | apply State.Frame.ite | apply State.Frame.foldl | apply State.wrB_frame | apply State.discardAll_frame
    | (intro _ _ _; try dsimp only)
    | (intro _; try dsimp only)
    | split
    | exact State.Frame.upd hm (by with_reducible assumption) rfl
    | (refine State.Frame.upd hm ?_ rfl)

/-- Writes: outbox pits stalls asz lanes fab dbk; registers: aszCtrlEnable dbkDroppedCount glbDenyCount
glbDenyLastAccessor glbDenyLastAddr glbDenyLastWrite stlRoleChain stlRoleChgCount stlRoleRole stlRoleStage
stlStatusDraining stlStatusLoading. -/
theorem assizeEnableStep_frame {z s : State} {m r : Nat} {acc b} (hm : bitsIn 0x464000c2 m) (hr : bitsIn 0x206d000000000000000008000000000000000000010000000000000000000000000000000000000000003c00000 r)
    (hk : z.Frame m r s) : z.Frame m r (assizeEnableStep acc b s) := by
  unfold assizeEnableStep
  try dsimp only
  repeat' first
    | with_reducible assumption
    | with_reducible first | exact hm.within rfl | exact hr.within rfl | exact hr.at rfl
    | with_reducible first | apply State.Frame.ite | apply State.Frame.foldl | apply State.FrameEither.ite | apply State.FrameEither.ofInl | apply State.FrameEither.ofInr | apply State.gate_frame | apply State.setAssize_frame
    | (intro _ _ _; try dsimp only)
    | (intro _; try dsimp only)
    | split
    | with_reducible first | refine State.Frame.ofInl ‹_› ?_ | refine State.Frame.ofInr ‹_› ?_
    | exact State.Frame.upd hm (by with_reducible assumption) rfl
    | (refine State.Frame.upd hm ?_ rfl)
    | dsimp only

/-- Writes: outbox asz aszCount dbk; registers: aszSatwinCount aszSlotClipShare aszSlotClipSpan aszSlotSatCount
dbkDroppedCount. -/
theorem State.evalSlot_frame {z s : State} {m r : Nat} {p i c} (hm : bitsIn 0x40c00002 m) (hr : bitsIn 0xe0000002000000000000000000000010000000000000000000000000000000000000000000000000 r)
    (hk : z.Frame m r s) : z.Frame m r (State.evalSlot s p i c).1 := by
  unfold State.evalSlot
  try dsimp only
  repeat' first
    | with_reducible assumption
    | with_reducible first | exact hm.within rfl | exact hr.within rfl | exact hr.at rfl
    | with_reducible first | apply State.Frame.ite | apply State.Frame.foldl | apply State.Frame.getD | apply State.Frame.foldlFst | apply State.wr_frame | apply State.updAsz_frame | apply State.day_frame | apply State.bump_frame
    | (intro _ _ _; try dsimp only)
    | (intro _; try dsimp only)
    | split
    | exact State.Frame.upd hm (by with_reducible assumption) rfl
    | (refine State.Frame.upd hm ?_ rfl)
    | dsimp only

/-- Writes: outbox asz factorTick dbk free; registers: dbkDroppedCount tollMdlLoFactor. -/
theorem State.endWatch_frame {z s : State} {m r : Nat} {a m'} (hm : bitsIn 0x160400002 m) (hr : bitsIn 0x10000000000800000000000000000000000000000000000000 r)
    (hk : z.Frame m r s) : z.Frame m r (State.endWatch s a m') := by
  unfold State.endWatch
  try dsimp only
  repeat' first
    | with_reducible assumption
    | with_reducible first | exact hm.within rfl | exact hr.within rfl | exact hr.at rfl
    | with_reducible first | apply State.Frame.ite | apply State.Frame.foldl | apply State.tookFree_frame | apply State.updAsz_frame | apply State.lowerFactor_frame | apply State.day_frame
    | (intro _ _ _; try dsimp only)
    | (intro _; try dsimp only)
    | split
    | exact State.Frame.upd hm (by with_reducible assumption) rfl
    | (refine State.Frame.upd hm ?_ rfl)

/-- Writes: outbox clk pits stalls asz lanes fab factorTick dbk free; registers: dbkDroppedCount stlRoleChain
stlRoleChgCount stlRoleRole stlRoleStage stlStatusDraining stlStatusLoading tollEnergyLevelNj tollMdlLoFactor. -/
theorem State.windowModel_frame {z s : State} {m r : Nat} {p m' trip} (hm : bitsIn 0x1664000ca m) (hr : bitsIn 0x206d000000000000000000000000000000000000010000000000800000080000000000000000000000000000000 r)
    (hk : z.Frame m r s) : z.Frame m r (State.windowModel s p m' trip) := by
  unfold State.windowModel
  try dsimp only
  repeat' first
    | with_reducible assumption
    | with_reducible first | exact hm.within rfl | exact hr.within rfl | exact hr.at rfl
    | with_reducible first | apply State.Frame.ite | apply State.Frame.foldl | apply State.Frame.getD | apply State.endWatch_frame | apply State.updAsz_frame | apply State.discard_frame | apply State.startCycle_frame
    | (intro _ _ _; try dsimp only)
    | (intro _; try dsimp only)
    | split
    | exact State.Frame.upd hm (by with_reducible assumption) rfl
    | (refine State.Frame.upd hm ?_ rfl)

/-- Writes: outbox clk pits stalls asz aszCount lanes fab factorTick dbk free; registers: aszSatwinCount
aszSlotClipShare aszSlotClipSpan aszSlotSatCount dbkDroppedCount stlRoleChain stlRoleChgCount stlRoleRole
stlRoleStage stlStatusDraining stlStatusLoading tollEnergyLevelNj tollMdlLoFactor. -/
theorem windowStep_frame {z s : State} {m r : Nat} {p} (hm : bitsIn 0x166c000ca m) (hr : bitsIn 0x206d0000000e0000002000000000000000000000010000000000800000080000000000000000000000000000000 r)
    (hk : z.Frame m r s) : z.Frame m r (windowStep p s) := by
  unfold windowStep
  try dsimp only
  repeat' first
    | with_reducible assumption
    | with_reducible first | exact hm.within rfl | exact hr.within rfl | exact hr.at rfl
    | with_reducible first | apply State.Frame.ite | apply State.Frame.foldl | apply State.Frame.foldlFst | apply State.updPit_frame | apply State.windowModel_frame | apply State.evalSlot_frame
    | (intro _ _ _; try dsimp only)
    | (intro _; try dsimp only)
    | split
    | with_reducible first | refine State.Frame.ofFst ‹_› ?_
    | exact State.Frame.upd hm (by with_reducible assumption) rfl
    | (refine State.Frame.upd hm ?_ rfl)
    | dsimp only

theorem State.commitOne_frame {z : State} {x : State × Gen} {m r : Nat} {b epoch} (hm : bitsIn 0x40400002 m) (hr : bitsIn 0x18000000200000000000000000000010000000000000000000000000000000000000000000000000 r)
    (h : z.Frame m r x.1) : z.Frame m r (State.commitOne x b epoch).1 := by
  unfold State.commitOne
  split
  · exact h
  · dsimp only
    exact State.updAsz_frame (hm.within rfl) (hr.within rfl) (State.Frame.foldl (State.Frame.foldl (State.day_frame (hm.within rfl)
      (hr.within rfl) (State.bump_frame (hr.at rfl) h)) fun t x ht => State.wr_frame (hr.at rfl) ht) fun t x ht => State.wr_frame (hr.at rfl) ht)
theorem State.commitAll_frame {z s : State} {m r p epoch : Nat} {g} (hm : bitsIn 0x40400002 m) (hr : bitsIn 0x18000000200000000000000000000010000000000000000000000000000000000000000000000000 r) (h : z.Frame m r s) :
    z.Frame m r (s.commitAll p epoch g).1 := by
  unfold State.commitAll
  exact State.Frame.foldlFst h fun t x ht => State.commitOne_frame (hm.within rfl) (hr.within rfl) ht
/-- Writes: outbox; registers: aszPitExpStatBusy aszPitExpStatShort. -/
theorem State.startExport_frame {z s : State} {m r : Nat} {p} (hm : bitsIn 0x2 m) (hr : bitsIn 0x180000000000000000000000000000000000000000000000000000000000000000000000000000 r)
    (hk : z.Frame m r s) : z.Frame m r (State.startExport s p) := by
  unfold State.startExport
  try dsimp only
  repeat' first
    | with_reducible assumption
    | with_reducible first | exact hm.within rfl | exact hr.within rfl | exact hr.at rfl
    | with_reducible first | apply State.Frame.ite | apply State.Frame.foldl | apply State.wr_frame | apply State.emit_frame
    | (intro _ _ _; try dsimp only)
    | (intro _; try dsimp only)
    | split
    | exact State.Frame.upd hm (by with_reducible assumption) rfl
    | (refine State.Frame.upd hm ?_ rfl)

/-- Writes: outbox dbk; registers: aszPitExpStatBusy aszPitExpStatShort dbkDroppedCount glbDenyCount glbDenyLastAccessor
glbDenyLastAddr glbDenyLastWrite. -/
theorem exportStep_frame {z s : State} {m r : Nat} {acc p} (hm : bitsIn 0x40000002 m) (hr : bitsIn 0x180000000000000000000000000010000000000000000000000000000000000000000003c00000 r)
    (hk : z.Frame m r s) : z.Frame m r (exportStep acc p s) := by
  unfold exportStep
  try dsimp only
  repeat' first
    | with_reducible assumption
    | with_reducible first | exact hm.within rfl | exact hr.within rfl | exact hr.at rfl
    | with_reducible first | apply State.Frame.ite | apply State.Frame.foldl | apply State.FrameEither.ite | apply State.FrameEither.ofInl | apply State.FrameEither.ofInr | apply State.gate_frame | apply State.startExport_frame
    | (intro _ _ _; try dsimp only)
    | (intro _; try dsimp only)
    | split
    | with_reducible first | refine State.Frame.ofInl ‹_› ?_ | refine State.Frame.ofInr ‹_› ?_
    | exact State.Frame.upd hm (by with_reducible assumption) rfl
    | (refine State.Frame.upd hm ?_ rfl)
    | dsimp only

/-- Writes: nothing but registers; registers: aszPitExpStatBusy aszPitExpStatDone. -/
theorem exportDoneStep_frame {z s : State} {m r : Nat} {p} (hm : bitsIn 0x0 m) (hr : bitsIn 0x280000000000000000000000000000000000000000000000000000000000000000000000000000 r)
    (hk : z.Frame m r s) : z.Frame m r (exportDoneStep p s) := by
  unfold exportDoneStep
  try dsimp only
  repeat' first
    | with_reducible assumption
    | with_reducible first | exact hm.within rfl | exact hr.within rfl | exact hr.at rfl
    | with_reducible first | apply State.Frame.ite | apply State.Frame.foldl | apply State.wr_frame
    | (intro _ _ _; try dsimp only)
    | (intro _; try dsimp only)
    | split


end Sys2Proof.Machine
end

