-- ==== Sys2Proof/Laws/FrameAmend.lean ====
section
/-! SUPPORT. What the functions of Machine/Amend.lean may write, and that they leave the rest of a state as it is. -/

set_option linter.unusedVariables false

namespace Sys2Proof.Machine

/-- Writes: nothing but registers; registers: tollMdlLoFallback tollMdlLoModel tollMdlLoPitch tollMdlLoStream
tollMdlLoValid. -/
theorem State.putMdl_frame {z s : State} {m r : Nat} {i m'} (hm : bitsIn 0x0 m) (hr : bitsIn 0x1c600000000000000000000000000000000000000 r)
    (hk : z.Frame m r s) : z.Frame m r (State.putMdl s i m') := by
  unfold State.putMdl
  try dsimp only
  repeat' first
    | with_reducible assumption
    | with_reducible first | exact hm.within rfl | exact hr.within rfl | exact hr.at rfl
    | with_reducible first | apply State.Frame.ite | apply State.Frame.foldl | apply State.wr_frame | apply State.wrB_frame
    | (intro _ _ _; try dsimp only)
    | (intro _; try dsimp only)
    | split

/-- Writes: nothing but registers; registers: aszSlotIdLayer aszSlotIdModel aszSlotIdPitch aszSlotIdValid. -/
theorem State.putSlot_frame {z s : State} {m r : Nat} {i c} (hm : bitsIn 0x0 m) (hr : bitsIn 0x3c00000000000000000000000000000000000000000000000000000000000000000000000000000 r)
    (hk : z.Frame m r s) : z.Frame m r (State.putSlot s i c) := by
  unfold State.putSlot
  try dsimp only
  repeat' first
    | with_reducible assumption
    | with_reducible first | exact hm.within rfl | exact hr.within rfl | exact hr.at rfl
    | with_reducible first | apply State.Frame.ite | apply State.Frame.foldl | apply State.wr_frame
    | (intro _ _ _; try dsimp only)
    | (intro _; try dsimp only)
    | split

/-- Writes: nothing but registers; registers: any register. -/
theorem State.dropEntryRegs_frame {z s : State} {m r : Nat} {lo hi i} (hm : bitsIn 0x0 m) (hr : bitsIn 0x3fffffffffffffffffffffffffffffffffffffffffffffffffffffffffffffffffffffffffffffffffffffffffffffffffffffffffff r)
    (hk : z.Frame m r s) : z.Frame m r (State.dropEntryRegs s lo hi i) := by
  unfold State.dropEntryRegs
  try dsimp only
  repeat' first
    | with_reducible assumption
    | with_reducible first | exact hm.within rfl | exact hr.within rfl | exact hr.at rfl
    | with_reducible first | apply State.Frame.ite | apply State.Frame.foldl | apply State.drop_frame
    | exact hr.at (allRegs_at _)
    | (intro _ _ _; try dsimp only)
    | (intro _; try dsimp only)
    | split

/-- Writes: nothing but registers; registers: any register. -/
theorem State.syncMdls_frame {z s : State} {m r : Nat} {p g} (hm : bitsIn 0x0 m) (hr : bitsIn 0x3fffffffffffffffffffffffffffffffffffffffffffffffffffffffffffffffffffffffffffffffffffffffffffffffffffffffffff r)
    (hk : z.Frame m r s) : z.Frame m r (State.syncMdls s p g) := by
  unfold State.syncMdls
  try dsimp only
  repeat' first
    | with_reducible assumption
    | with_reducible first | exact hm.within rfl | exact hr.within rfl | exact hr.at rfl
    | with_reducible first | apply State.Frame.ite | apply State.Frame.foldl | apply State.Frame.getD | apply State.dropEntryRegs_frame | apply State.putMdl_frame
    | exact hr.at (allRegs_at _)
    | (intro _ _ _; try dsimp only)
    | (intro _; try dsimp only)
    | split

/-- Writes: aszCount; registers: any register. -/
theorem State.syncSlots_frame {z s : State} {m r : Nat} {p g} (hm : bitsIn 0x800000 m) (hr : bitsIn 0x3fffffffffffffffffffffffffffffffffffffffffffffffffffffffffffffffffffffffffffffffffffffffffffffffffffffffffff r)
    (hk : z.Frame m r s) : z.Frame m r (State.syncSlots s p g) := by
  unfold State.syncSlots
  try dsimp only
  repeat' first
    | with_reducible assumption
    | with_reducible first | exact hm.within rfl | exact hr.within rfl | exact hr.at rfl
    | with_reducible first | apply State.Frame.ite | apply State.Frame.foldl | apply State.Frame.getD | apply State.dropEntryRegs_frame | apply State.putSlot_frame
    | exact hr.at (allRegs_at _)
    | (intro _ _ _; try dsimp only)
    | (intro _; try dsimp only)
    | split
    | exact State.Frame.upd hm (by with_reducible assumption) rfl
    | (refine State.Frame.upd hm ?_ rfl)

/-- Writes: asz; registers: none. -/
theorem State.syncAsz_frame {z s : State} {m r : Nat} {p g} (hm : bitsIn 0x400000 m) (hr : bitsIn 0x0 r)
    (hk : z.Frame m r s) : z.Frame m r (State.syncAsz s p g) := by
  unfold State.syncAsz
  try dsimp only
  repeat' first
    | with_reducible assumption
    | with_reducible first | exact hm.within rfl | exact hr.within rfl | exact hr.at rfl
    | with_reducible first | apply State.Frame.ite | apply State.Frame.foldl
    | (intro _ _ _; try dsimp only)
    | (intro _; try dsimp only)
    | split
    | exact State.Frame.upd hm (by with_reducible assumption) rfl
    | (refine State.Frame.upd hm ?_ rfl)

/-- Writes: outbox pits amd lanes fab dbk; registers: chrAmdErrCode chrAmdErrDetail chrAmdStatusState dbkDroppedCount. -/
theorem State.amdRefuse_frame {z s : State} {m r : Nat} {code detail} (hm : bitsIn 0x46200042 m) (hr : bitsIn 0x320000000010000000000000000000000000000000000000000000000000 r)
    (hk : z.Frame m r s) : z.Frame m r (State.amdRefuse s code detail) := by
  unfold State.amdRefuse
  try dsimp only
  repeat' first
    | with_reducible assumption
    | with_reducible first | exact hm.within rfl | exact hr.within rfl | exact hr.at rfl
    | with_reducible first | apply State.Frame.ite | apply State.Frame.foldl | apply State.Frame.getD | apply State.wr_frame | apply State.withHomes_frame | apply State.day_frame | apply State.updPit_frame
    | (intro _ _ _; try dsimp only)
    | (intro _; try dsimp only)
    | split
    | exact State.Frame.upd hm (by with_reducible assumption) rfl
    | (refine State.Frame.upd hm ?_ rfl)

/-- Writes: outbox pits amd lanes fab dbk; registers: chrAmdErrCode chrAmdErrDetail chrAmdStatusState dbkDroppedCount. -/
theorem State.amdReset_frame {z s : State} {m r : Nat} {which} (hm : bitsIn 0x46200042 m) (hr : bitsIn 0x320000000010000000000000000000000000000000000000000000000000 r)
    (hk : z.Frame m r s) : z.Frame m r (State.amdReset s which) := by
  unfold State.amdReset
  try dsimp only
  repeat' first
    | with_reducible assumption
    | with_reducible first | exact hm.within rfl | exact hr.within rfl | exact hr.at rfl
    | with_reducible first | apply State.Frame.ite | apply State.Frame.foldl | apply State.amdRefuse_frame
    | (intro _ _ _; try dsimp only)
    | (intro _; try dsimp only)
    | split
    | exact State.Frame.upd hm (by with_reducible assumption) rfl
    | (refine State.Frame.upd hm ?_ rfl)

/-- Writes: outbox pits amd lanes fab dbk; registers: chrAmdErrCode chrAmdErrDetail chrAmdStatusState dbkDroppedCount. -/
theorem State.amdPlace_frame {z s : State} {m r : Nat} {p g regs} (hm : bitsIn 0x46200042 m) (hr : bitsIn 0x320000000010000000000000000000000000000000000000000000000000 r)
    (hk : z.Frame m r s) : z.Frame m r (State.amdPlace s p g regs) := by
  unfold State.amdPlace
  try dsimp only
  repeat' first
    | with_reducible assumption
    | with_reducible first | exact hm.within rfl | exact hr.within rfl | exact hr.at rfl
    | with_reducible first | apply State.Frame.ite | apply State.Frame.foldl | apply State.amdRefuse_frame | apply State.wr_frame | apply State.updPit_frame
    | (intro _ _ _; try dsimp only)
    | (intro _; try dsimp only)
    | split
    | exact State.Frame.upd hm (by with_reducible assumption) rfl
    | (refine State.Frame.upd hm ?_ rfl)

/-- Writes: outbox pits amd lanes fab dbk; registers: chrAmdErrCode chrAmdErrDetail chrAmdStatusState dbkDroppedCount. -/
theorem State.amdRefit_frame {z s : State} {m r : Nat} (hm : bitsIn 0x46200042 m) (hr : bitsIn 0x320000000010000000000000000000000000000000000000000000000000 r)
    (hk : z.Frame m r s) : z.Frame m r (State.amdRefit s) := by
  unfold State.amdRefit
  try dsimp only
  repeat' first
    | with_reducible assumption
    | with_reducible first | exact hm.within rfl | exact hr.within rfl | exact hr.at rfl
    | with_reducible first | apply State.Frame.ite | apply State.Frame.foldl | apply State.amdPlace_frame | apply State.amdRefuse_frame
    | (intro _ _ _; try dsimp only)
    | (intro _; try dsimp only)
    | split
    | exact State.Frame.upd hm (by with_reducible assumption) rfl
    | (refine State.Frame.upd hm ?_ rfl)

/-- Writes: outbox pits amd lanes fab dbk; registers: chrAmdErrCode chrAmdErrDetail chrAmdStatusBusyErr
chrAmdStatusPitch chrAmdStatusState dbkDroppedCount. -/
theorem State.amdCtrl_frame {z s : State} {m r : Nat} {w'} (hm : bitsIn 0x46200042 m) (hr : bitsIn 0x3e0000000010000000000000000000000000000000000000000000000000 r)
    (hk : z.Frame m r s) : z.Frame m r (State.amdCtrl s w') := by
  unfold State.amdCtrl
  try dsimp only
  repeat' first
    | with_reducible assumption
    | with_reducible first | exact hm.within rfl | exact hr.within rfl | exact hr.at rfl
    | with_reducible first | apply State.Frame.ite | apply State.Frame.foldl | apply State.amdRefuse_frame | apply State.wr_frame | apply State.emit_frame
    | (intro _ _ _; try dsimp only)
    | (intro _; try dsimp only)
    | split
    | exact State.Frame.upd hm (by with_reducible assumption) rfl
    | (refine State.Frame.upd hm ?_ rfl)

/-- Writes: outbox pits amd lanes fab dbk; registers: chrAmdErrCode chrAmdErrDetail chrAmdStatusBusyErr
chrAmdStatusPitch chrAmdStatusState dbkDroppedCount glbDenyCount glbDenyLastAccessor glbDenyLastAddr
glbDenyLastWrite. -/
theorem amdSubmitStep_frame {z s : State} {m r : Nat} {acc w'} (hm : bitsIn 0x46200042 m) (hr : bitsIn 0x3e0000000010000000000000000000000000000000000000000003c00000 r)
    (hk : z.Frame m r s) : z.Frame m r (amdSubmitStep acc w' s) := by
  unfold amdSubmitStep
  try dsimp only
  repeat' first
    | with_reducible assumption
    | with_reducible first | exact hm.within rfl | exact hr.within rfl | exact hr.at rfl
    | with_reducible first | apply State.Frame.ite | apply State.Frame.foldl | apply State.FrameEither.ite | apply State.FrameEither.ofInl | apply State.FrameEither.ofInr | apply State.gate_frame | apply State.amdCtrl_frame
    | (intro _ _ _; try dsimp only)
    | (intro _; try dsimp only)
    | split
    | with_reducible first | refine State.Frame.ofInl ‹_› ?_ | refine State.Frame.ofInr ‹_› ?_
    | exact State.Frame.upd hm (by with_reducible assumption) rfl
    | (refine State.Frame.upd hm ?_ rfl)
    | dsimp only

/-- Writes: outbox pits amd lanes fab dbk; registers: chrAmdErrCode chrAmdErrDetail chrAmdStatusBusyErr
chrAmdStatusPitch chrAmdStatusState dbkDroppedCount glbDenyCount glbDenyLastAccessor glbDenyLastAddr
glbDenyLastWrite. -/
theorem amdCancelStep_frame {z s : State} {m r : Nat} {acc} (hm : bitsIn 0x46200042 m) (hr : bitsIn 0x3e0000000010000000000000000000000000000000000000000003c00000 r)
    (hk : z.Frame m r s) : z.Frame m r (amdCancelStep acc s) := by
  unfold amdCancelStep
  try dsimp only
  repeat' first
    | with_reducible assumption
    | with_reducible first | exact hm.within rfl | exact hr.within rfl | exact hr.at rfl
    | with_reducible first | apply State.Frame.ite | apply State.Frame.foldl | apply State.FrameEither.ite | apply State.FrameEither.ofInl | apply State.FrameEither.ofInr | apply State.gate_frame | apply State.amdCtrl_frame
    | (intro _ _ _; try dsimp only)
    | (intro _; try dsimp only)
    | split
    | with_reducible first | refine State.Frame.ofInl ‹_› ?_ | refine State.Frame.ofInr ‹_› ?_
    | exact State.Frame.upd hm (by with_reducible assumption) rfl
    | (refine State.Frame.upd hm ?_ rfl)
    | dsimp only

/-- Writes: outbox pits amd lanes fab dbk; registers: chrAmdErrCode chrAmdErrDetail chrAmdStatusPitch chrAmdStatusState
dbkDroppedCount. -/
theorem amdReadStep_frame {z s : State} {m r : Nat} {data} (hm : bitsIn 0x46200042 m) (hr : bitsIn 0x360000000010000000000000000000000000000000000000000000000000 r)
    (hk : z.Frame m r s) : z.Frame m r (amdReadStep data s) := by
  unfold amdReadStep
  try dsimp only
  repeat' first
    | with_reducible assumption
    | with_reducible first | exact hm.within rfl | exact hr.within rfl | exact hr.at rfl
    | with_reducible first | apply State.Frame.ite | apply State.Frame.foldl | apply State.amdRefuse_frame | apply State.wr_frame | apply State.amdPlace_frame
    | (intro _ _ _; try dsimp only)
    | (intro _; try dsimp only)
    | split
    | exact State.Frame.upd hm (by with_reducible assumption) rfl
    | (refine State.Frame.upd hm ?_ rfl)

/-- Writes: amd; registers: chrAmdStatusState. -/
theorem amdWaitEndStep_frame {z s : State} {m r : Nat} (hm : bitsIn 0x200000 m) (hr : bitsIn 0x20000000000000000000000000000000000000000000000000000000000 r)
    (hk : z.Frame m r s) : z.Frame m r (amdWaitEndStep s) := by
  unfold amdWaitEndStep
  try dsimp only
  repeat' first
    | with_reducible assumption
    | with_reducible first | exact hm.within rfl | exact hr.within rfl | exact hr.at rfl
    | with_reducible first | apply State.Frame.ite | apply State.Frame.foldl | apply State.wr_frame
    | (intro _ _ _; try dsimp only)
    | (intro _; try dsimp only)
    | split
    | exact State.Frame.upd hm (by with_reducible assumption) rfl
    | (refine State.Frame.upd hm ?_ rfl)

/-- Writes: outbox pits amd lanes fab dbk; registers: chrAmdErrCode chrAmdErrDetail chrAmdStatusState dbkDroppedCount. -/
theorem amdTimeoutStep_frame {z s : State} {m r : Nat} (hm : bitsIn 0x46200042 m) (hr : bitsIn 0x320000000010000000000000000000000000000000000000000000000000 r)
    (hk : z.Frame m r s) : z.Frame m r (amdTimeoutStep s) := by
  unfold amdTimeoutStep
  try dsimp only
  repeat' first
    | with_reducible assumption
    | with_reducible first | exact hm.within rfl | exact hr.within rfl | exact hr.at rfl
    | with_reducible first | apply State.Frame.ite | apply State.Frame.foldl | apply State.amdRefuse_frame
    | (intro _ _ _; try dsimp only)
    | (intro _; try dsimp only)
    | split
    | exact State.Frame.upd hm (by with_reducible assumption) rfl
    | (refine State.Frame.upd hm ?_ rfl)


end Sys2Proof.Machine
end

