-- ==== Sys2Proof/Laws/FrameEpoch.lean ====
section
/-! SUPPORT. What the functions of Machine/Epoch.lean may write, and that they leave the rest of a state as it is. -/

set_option linter.unusedVariables false

namespace Sys2Proof.Machine

/-- Writes: nothing but registers; registers: any register. -/
theorem State.loadReg_frame {z s : State} {m r : Nat} {a v} (hm : bitsIn 0x0 m) (hr : bitsIn 0x3fffffffffffffffffffffffffffffffffffffffffffffffffffffffffffffffffffffffffffffffffffffffffffffffffffffffffff r)
    (hk : z.Frame m r s) : z.Frame m r (State.loadReg s a v) := by
  unfold State.loadReg
  try dsimp only
  repeat' first
    | with_reducible assumption
    | with_reducible first | exact hm.within rfl | exact hr.within rfl | exact hr.at rfl
    | with_reducible first | apply State.Frame.ite | apply State.Frame.foldl | apply State.wr_frame
    | exact hr.at (allRegs_at _)
    | (intro _ _ _; try dsimp only)
    | (intro _; try dsimp only)
    | split

/-- Writes: nothing but registers; registers: glbStlAllocPitch glbStlAllocValid stlRoleAlloc stlRolePitch. -/
theorem State.putAlloc_frame {z s : State} {m r : Nat} {i b} (hm : bitsIn 0x0 m) (hr : bitsIn 0x12000000000000000000000000000000000000000000000000000000000000000000000000000006000000000 r)
    (hk : z.Frame m r s) : z.Frame m r (State.putAlloc s i b) := by
  unfold State.putAlloc
  try dsimp only
  repeat' first
    | with_reducible assumption
    | with_reducible first | exact hm.within rfl | exact hr.within rfl | exact hr.at rfl
    | with_reducible first | apply State.Frame.ite | apply State.Frame.foldl | apply State.wr_frame
    | (intro _ _ _; try dsimp only)
    | (intro _; try dsimp only)
    | split

/-- Writes: outbox lanes; registers: none. -/
theorem State.sendDigest_frame {z s : State} {m r : Nat} {p dkind dst} (hm : bitsIn 0x2000002 m) (hr : bitsIn 0x0 r)
    (hk : z.Frame m r s) : z.Frame m r (State.sendDigest s p dkind dst) := by
  unfold State.sendDigest
  try dsimp only
  repeat' first
    | with_reducible assumption
    | with_reducible first | exact hm.within rfl | exact hr.within rfl | exact hr.at rfl
    | with_reducible first | apply State.Frame.ite | apply State.Frame.foldl | apply State.sendFrame_frame
    | (intro _ _ _; try dsimp only)
    | (intro _; try dsimp only)
    | split
    | exact State.Frame.upd hm (by with_reducible assumption) rfl
    | (refine State.Frame.upd hm ?_ rfl)

/-- Writes: outbox lanes; registers: none. -/
theorem State.sendDigests_frame {z s : State} {m r : Nat} {p} (hm : bitsIn 0x2000002 m) (hr : bitsIn 0x0 r)
    (hk : z.Frame m r s) : z.Frame m r (State.sendDigests s p) := by
  unfold State.sendDigests
  try dsimp only
  repeat' first
    | with_reducible assumption
    | with_reducible first | exact hm.within rfl | exact hr.within rfl | exact hr.at rfl
    | with_reducible first | apply State.Frame.ite | apply State.Frame.foldl | apply State.sendDigest_frame
    | (intro _ _ _; try dsimp only)
    | (intro _; try dsimp only)
    | split
    | exact State.Frame.upd hm (by with_reducible assumption) rfl
    | (refine State.Frame.upd hm ?_ rfl)

/-- Writes: outbox stalls tier dbk; registers: dbkDroppedCount glbStlAllocPitch glbStlAllocValid stlRoleAlloc
stlRolePitch. -/
theorem State.moveStall_frame {z s : State} {m r : Nat} {x} (hm : bitsIn 0x48000082 m) (hr : bitsIn 0x12000000000000000000000000000000000000010000000000000000000000000000000000000006000000000 r)
    (hk : z.Frame m r s) : z.Frame m r (State.moveStall s x) := by
  unfold State.moveStall
  try dsimp only
  repeat' first
    | with_reducible assumption
    | with_reducible first | exact hm.within rfl | exact hr.within rfl | exact hr.at rfl
    | with_reducible first | apply State.Frame.ite | apply State.Frame.foldl | apply State.updStl_frame | apply State.dropT0_frame | apply State.putAlloc_frame | apply State.day_frame
    | (intro _ _ _; try dsimp only)
    | (intro _; try dsimp only)
    | split
    | exact State.Frame.upd hm (by with_reducible assumption) rfl
    | (refine State.Frame.upd hm ?_ rfl)

/-- Writes: outbox pits stalls asz lanes fab dbk; registers: dbkDroppedCount stlRoleChain stlRoleChgCount stlRoleRole
stlRoleStage stlStatusDraining stlStatusLoading. -/
theorem State.dropChanged_frame {z s : State} {m r : Nat} {p} (hm : bitsIn 0x464000c2 m) (hr : bitsIn 0x206d000000000000000000000000000000000000010000000000000000000000000000000000000000000000000 r)
    (hk : z.Frame m r s) : z.Frame m r (State.dropChanged s p) := by
  unfold State.dropChanged
  try dsimp only
  repeat' first
    | with_reducible assumption
    | with_reducible first | exact hm.within rfl | exact hr.within rfl | exact hr.at rfl
    | with_reducible first | apply State.Frame.ite | apply State.Frame.foldl | apply State.discardAll_frame
    | (intro _ _ _; try dsimp only)
    | (intro _; try dsimp only)
    | split
    | exact State.Frame.upd hm (by with_reducible assumption) rfl
    | (refine State.Frame.upd hm ?_ rfl)

/-- Writes: nothing but registers; registers: aszSlotStateConst aszSlotStateQsteps tollMdlLoDeferred tollMdlLoDown. -/
theorem State.freshModel_frame {z s : State} {m r : Nat} {p ds m'} (hm : bitsIn 0x0 m) (hr : bitsIn 0x18000000000000000000000000000000000000003000000000000000000000000000000000000000 r)
    (hk : z.Frame m r s) : z.Frame m r (State.freshModel s p ds m') := by
  unfold State.freshModel
  try dsimp only
  repeat' first
    | with_reducible assumption
    | with_reducible first | exact hm.within rfl | exact hr.within rfl | exact hr.at rfl
    | with_reducible first | apply State.Frame.ite | apply State.Frame.foldl | apply State.wr_frame
    | (intro _ _ _; try dsimp only)
    | (intro _; try dsimp only)
    | split

/-- Writes: outbox pits stalls chr amd asz aszCount lanes tier dbk; registers: any register. -/
theorem State.amdApplied_frame {z s : State} {m r : Nat} {p e g} (hm : bitsIn 0x4ae800c2 m) (hr : bitsIn 0x3fffffffffffffffffffffffffffffffffffffffffffffffffffffffffffffffffffffffffffffffffffffffffffffffffffffffffff r)
    (hk : z.Frame m r s) : z.Frame m r (State.amdApplied s p e g) := by
  unfold State.amdApplied
  try dsimp only
  repeat' first
    | with_reducible assumption
    | with_reducible first | exact hm.within rfl | exact hr.within rfl | exact hr.at rfl
    | with_reducible first | apply State.Frame.ite | apply State.Frame.foldl | apply State.Frame.getD | apply State.moveStall_frame | apply State.syncAsz_frame | apply State.syncSlots_frame | apply State.syncMdls_frame | apply State.freshModel_frame | apply State.loadReg_frame | apply State.wr_frame | apply State.updPit_frame | apply State.day_frame | apply State.sendDigests_frame
    | exact hr.at (allRegs_at _)
    | (intro _ _ _; try dsimp only)
    | (intro _; try dsimp only)
    | split
    | exact State.Frame.upd hm (by with_reducible assumption) rfl
    | (refine State.Frame.upd hm ?_ rfl)

/-- Writes: amd; registers: none. -/
theorem State.followAmd_frame {z s : State} {m r : Nat} {p g} (hm : bitsIn 0x200000 m) (hr : bitsIn 0x0 r)
    (hk : z.Frame m r s) : z.Frame m r (State.followAmd s p g) := by
  unfold State.followAmd
  try dsimp only
  repeat' first
    | with_reducible assumption
    | with_reducible first | exact hm.within rfl | exact hr.within rfl | exact hr.at rfl
    | with_reducible first | apply State.Frame.ite | apply State.Frame.foldl
    | (intro _ _ _; try dsimp only)
    | (intro _; try dsimp only)
    | split
    | exact State.Frame.upd hm (by with_reducible assumption) rfl
    | (refine State.Frame.upd hm ?_ rfl)

/-- Writes: outbox pits amd lanes fab dbk; registers: chrAmdErrCode chrAmdErrDetail chrAmdStatusState dbkDroppedCount. -/
theorem State.refuseMoves_frame {z s : State} {m r : Nat} {p} (hm : bitsIn 0x46200042 m) (hr : bitsIn 0x320000000010000000000000000000000000000000000000000000000000 r)
    (hk : z.Frame m r s) : z.Frame m r (State.refuseMoves s p) := by
  unfold State.refuseMoves
  try dsimp only
  repeat' first
    | with_reducible assumption
    | with_reducible first | exact hm.within rfl | exact hr.within rfl | exact hr.at rfl
    | with_reducible first | apply State.Frame.ite | apply State.Frame.foldl | apply State.amdRefuse_frame
    | (intro _ _ _; try dsimp only)
    | (intro _; try dsimp only)
    | split
    | exact State.Frame.upd hm (by with_reducible assumption) rfl
    | (refine State.Frame.upd hm ?_ rfl)

theorem State.raiseTo_frame {z s : State} {m r p e : Nat} (hm : bitsIn 0x4ef800c2 m) (hr : bitsIn 0x3fffffffffffffffffffffffffffffffffffffffffffffffffffffffffffffffffffffffffffffffffffffffffffffffffffffffffff r) (h : z.Frame m r s) :
    z.Frame m r (s.raiseTo p e) := by
  unfold State.raiseTo
  have hs : z.Frame m r (s.refuseMoves p) := State.refuseMoves_frame (hm.within rfl) (hr.within rfl) h
  generalize s.refuseMoves p = t at hs
  dsimp only
  have hd : z.Frame m r (if t.stagedOn p = true then t.dropChanged p else t) :=
    State.Frame.ite (fun _ => State.dropChanged_frame (hm.within rfl) (hr.within rfl) hs) fun _ => hs
  generalize (if t.stagedOn p = true then t.dropChanged p else t) = u at hd
  have hc : z.Frame m r (u.commitAll p e (t.genNow p)).1 := State.commitAll_frame (hm.within rfl) (hr.within rfl) hd
  generalize u.commitAll p e (t.genNow p) = v at hc
  refine State.Frame.ite (fun _ => State.amdApplied_frame (hm.within rfl) (hr.within rfl) ?_) fun _ =>
    State.followAmd_frame (hm.within rfl) (hr.within rfl) ?_
  all_goals exact State.wr_frame (hr.at rfl) (State.Frame.ite (fun _ => hc) fun _ => State.Frame.upd hm hc rfl)
/-- Writes: outbox pits stalls chr gens amd asz aszCount lanes fab tier dbk; registers: any register. -/
theorem State.raiseEpoch_frame {z s : State} {m r : Nat} {p} (hm : bitsIn 0x4ef800c2 m) (hr : bitsIn 0x3fffffffffffffffffffffffffffffffffffffffffffffffffffffffffffffffffffffffffffffffffffffffffffffffffffffffffff r)
    (hk : z.Frame m r s) : z.Frame m r (State.raiseEpoch s p) := by
  unfold State.raiseEpoch
  try dsimp only
  repeat' first
    | with_reducible assumption
    | with_reducible first | exact hm.within rfl | exact hr.within rfl | exact hr.at rfl
    | with_reducible first | apply State.Frame.ite | apply State.Frame.foldl | apply State.withHomes_frame | apply State.raiseTo_frame
    | exact hr.at (allRegs_at _)
    | (intro _ _ _; try dsimp only)
    | (intro _; try dsimp only)
    | split
    | exact State.Frame.upd hm (by with_reducible assumption) rfl
    | (refine State.Frame.upd hm ?_ rfl)

/-- Writes: outbox pits stalls chr gens amd asz aszCount lanes fab tier dbk; registers: any register. -/
theorem State.startBell_frame {z s : State} {m r : Nat} {p} (hm : bitsIn 0x4ef800c2 m) (hr : bitsIn 0x3fffffffffffffffffffffffffffffffffffffffffffffffffffffffffffffffffffffffffffffffffffffffffffffffffffffffffff r)
    (hk : z.Frame m r s) : z.Frame m r (State.startBell s p) := by
  unfold State.startBell
  try dsimp only
  repeat' first
    | with_reducible assumption
    | with_reducible first | exact hm.within rfl | exact hr.within rfl | exact hr.at rfl
    | with_reducible first | apply State.Frame.ite | apply State.Frame.foldl | apply State.raiseEpoch_frame | apply State.updPit_frame
    | exact hr.at (allRegs_at _)
    | (intro _ _ _; try dsimp only)
    | (intro _; try dsimp only)
    | split
    | exact State.Frame.upd hm (by with_reducible assumption) rfl
    | (refine State.Frame.upd hm ?_ rfl)

/-- Writes: outbox pits stalls chr gens amd asz aszCount lanes fab tier dbk; registers: any register. -/
theorem State.ringBell_frame {z s : State} {m r : Nat} {p} (hm : bitsIn 0x4ef800c2 m) (hr : bitsIn 0x3fffffffffffffffffffffffffffffffffffffffffffffffffffffffffffffffffffffffffffffffffffffffffffffffffffffffffff r)
    (hk : z.Frame m r s) : z.Frame m r (State.ringBell s p) := by
  unfold State.ringBell
  try dsimp only
  repeat' first
    | with_reducible assumption
    | with_reducible first | exact hm.within rfl | exact hr.within rfl | exact hr.at rfl
    | with_reducible first | apply State.Frame.ite | apply State.Frame.foldl | apply State.wr_frame | apply State.startBell_frame | apply State.emit_frame
    | exact hr.at (allRegs_at _)
    | (intro _ _ _; try dsimp only)
    | (intro _; try dsimp only)
    | split
    | exact State.Frame.upd hm (by with_reducible assumption) rfl
    | (refine State.Frame.upd hm ?_ rfl)

/-- Writes: outbox pits stalls chr gens amd asz aszCount lanes fab tier dbk; registers: any register. -/
theorem bellRingStep_frame {z s : State} {m r : Nat} {acc p} (hm : bitsIn 0x4ef800c2 m) (hr : bitsIn 0x3fffffffffffffffffffffffffffffffffffffffffffffffffffffffffffffffffffffffffffffffffffffffffffffffffffffffffff r)
    (hk : z.Frame m r s) : z.Frame m r (bellRingStep acc p s) := by
  unfold bellRingStep
  try dsimp only
  repeat' first
    | with_reducible assumption
    | with_reducible first | exact hm.within rfl | exact hr.within rfl | exact hr.at rfl
    | with_reducible first | apply State.Frame.ite | apply State.Frame.foldl | apply State.FrameEither.ite | apply State.FrameEither.ofInl | apply State.FrameEither.ofInr | apply State.gate_frame | apply State.ringBell_frame
    | exact hr.at (allRegs_at _)
    | (intro _ _ _; try dsimp only)
    | (intro _; try dsimp only)
    | split
    | with_reducible first | refine State.Frame.ofInl ‹_› ?_ | refine State.Frame.ofInr ‹_› ?_
    | exact State.Frame.upd hm (by with_reducible assumption) rfl
    | (refine State.Frame.upd hm ?_ rfl)
    | dsimp only

/-- Writes: outbox pits stalls chr gens amd asz aszCount lanes fab tier dbk; registers: any register. -/
theorem bellCompleteStep_frame {z s : State} {m r : Nat} {p} (hm : bitsIn 0x4ef800c2 m) (hr : bitsIn 0x3fffffffffffffffffffffffffffffffffffffffffffffffffffffffffffffffffffffffffffffffffffffffffffffffffffffffffff r)
    (hk : z.Frame m r s) : z.Frame m r (bellCompleteStep p s) := by
  unfold bellCompleteStep
  try dsimp only
  repeat' first
    | with_reducible assumption
    | with_reducible first | exact hm.within rfl | exact hr.within rfl | exact hr.at rfl
    | with_reducible first | apply State.Frame.ite | apply State.Frame.foldl | apply State.updPit_frame | apply State.putRecord_frame | apply State.startBell_frame
    | exact hr.at (allRegs_at _)
    | (intro _ _ _; try dsimp only)
    | (intro _; try dsimp only)
    | split
    | exact State.Frame.upd hm (by with_reducible assumption) rfl
    | (refine State.Frame.upd hm ?_ rfl)

/-- Writes: outbox pits stalls chr gens amd asz aszCount lanes fab tier dbk; registers: any register. -/
theorem State.afterStaged_frame {z s : State} {m r : Nat} {p} (hm : bitsIn 0x4ef800c2 m) (hr : bitsIn 0x3fffffffffffffffffffffffffffffffffffffffffffffffffffffffffffffffffffffffffffffffffffffffffffffffffffffffffff r)
    (hk : z.Frame m r s) : z.Frame m r (State.afterStaged s p) := by
  unfold State.afterStaged
  try dsimp only
  repeat' first
    | with_reducible assumption
    | with_reducible first | exact hm.within rfl | exact hr.within rfl | exact hr.at rfl
    | with_reducible first | apply State.Frame.ite | apply State.Frame.foldl | apply State.raiseEpoch_frame | apply State.startBell_frame
    | exact hr.at (allRegs_at _)
    | (intro _ _ _; try dsimp only)
    | (intro _; try dsimp only)
    | split
    | exact State.Frame.upd hm (by with_reducible assumption) rfl
    | (refine State.Frame.upd hm ?_ rfl)

/-- Writes: outbox pits stalls chr gens amd asz aszCount lanes fab tier dbk; registers: any register. -/
theorem amdStagedStep_frame {z s : State} {m r : Nat} (hm : bitsIn 0x4ef800c2 m) (hr : bitsIn 0x3fffffffffffffffffffffffffffffffffffffffffffffffffffffffffffffffffffffffffffffffffffffffffffffffffffffffffff r)
    (hk : z.Frame m r s) : z.Frame m r (amdStagedStep s) := by
  unfold amdStagedStep
  try dsimp only
  repeat' first
    | with_reducible assumption
    | with_reducible first | exact hm.within rfl | exact hr.within rfl | exact hr.at rfl
    | with_reducible first | apply State.Frame.ite | apply State.Frame.foldl | apply State.afterStaged_frame | apply State.withHomes_frame | apply State.wr_frame
    | exact hr.at (allRegs_at _)
    | (intro _ _ _; try dsimp only)
    | (intro _; try dsimp only)
    | split
    | exact State.Frame.upd hm (by with_reducible assumption) rfl
    | (refine State.Frame.upd hm ?_ rfl)


end Sys2Proof.Machine
end

