-- ==== Sys2Proof/Laws/FrameHostPort.lean ====
section
/-! SUPPORT. What the functions of Machine/HostPort.lean may write, and that they leave the rest of a state as it is. -/

set_option linter.unusedVariables false

namespace Sys2Proof.Machine

/-- Writes: outbox; registers: none. -/
theorem State.readDesc_frame {z s : State} {m r : Nat} {p c} (hm : bitsIn 0x2 m) (hr : bitsIn 0x0 r)
    (hk : z.Frame m r s) : z.Frame m r (State.readDesc s p c) := by
  unfold State.readDesc
  try dsimp only
  repeat' first
    | with_reducible assumption
    | with_reducible first | exact hm.within rfl | exact hr.within rfl | exact hr.at rfl
    | with_reducible first | apply State.Frame.ite | apply State.Frame.foldl | apply State.emit_frame
    | (intro _ _ _; try dsimp only)
    | (intro _; try dsimp only)
    | split
    | exact State.Frame.upd hm (by with_reducible assumption) rfl
    | (refine State.Frame.upd hm ?_ rfl)

/-- Writes: outbox dbk; registers: dbkDroppedCount pitSqTailCount pitStatusSqOvf. -/
theorem State.ringDoorbell_frame {z s : State} {m r : Nat} {p t} (hm : bitsIn 0x40000002 m) (hr : bitsIn 0x80800000000000000000000000000000010000000000000000000000000000000000000000000000000 r)
    (hk : z.Frame m r s) : z.Frame m r (State.ringDoorbell s p t) := by
  unfold State.ringDoorbell
  try dsimp only
  repeat' first
    | with_reducible assumption
    | with_reducible first | exact hm.within rfl | exact hr.within rfl | exact hr.at rfl
    | with_reducible first | apply State.Frame.ite | apply State.Frame.foldl | apply State.day_frame | apply State.wr_frame | apply State.readDesc_frame
    | (intro _ _ _; try dsimp only)
    | (intro _; try dsimp only)
    | split
    | exact State.Frame.upd hm (by with_reducible assumption) rfl
    | (refine State.Frame.upd hm ?_ rfl)

/-- Writes: outbox dbk; registers: dbkDroppedCount glbDenyCount glbDenyLastAccessor glbDenyLastAddr glbDenyLastWrite
pitSqTailCount pitStatusSqOvf. -/
theorem doorbellStep_frame {z s : State} {m r : Nat} {acc p t} (hm : bitsIn 0x40000002 m) (hr : bitsIn 0x80800000000000000000000000000000010000000000000000000000000000000000000000003c00000 r)
    (hk : z.Frame m r s) : z.Frame m r (doorbellStep acc p t s) := by
  unfold doorbellStep
  try dsimp only
  repeat' first
    | with_reducible assumption
    | with_reducible first | exact hm.within rfl | exact hr.within rfl | exact hr.at rfl
    | with_reducible first | apply State.Frame.ite | apply State.Frame.foldl | apply State.FrameEither.ite | apply State.FrameEither.ofInl | apply State.FrameEither.ofInr | apply State.gate_frame | apply State.ringDoorbell_frame
    | (intro _ _ _; try dsimp only)
    | (intro _; try dsimp only)
    | split
    | with_reducible first | refine State.Frame.ofInl ‹_› ?_ | refine State.Frame.ofInr ‹_› ?_
    | exact State.Frame.upd hm (by with_reducible assumption) rfl
    | (refine State.Frame.upd hm ?_ rfl)
    | dsimp only

/-- Writes: nothing but registers; registers: pitStatusVqHeadErr pitVqHeadCount. -/
theorem State.setVqHead_frame {z s : State} {m r : Nat} {p h'} (hm : bitsIn 0x0 m) (hr : bitsIn 0x1001000000000000000000000000000000000000000000000000000000000000000000000000000000000 r)
    (hk : z.Frame m r s) : z.Frame m r (State.setVqHead s p h') := by
  unfold State.setVqHead
  try dsimp only
  repeat' first
    | with_reducible assumption
    | with_reducible first | exact hm.within rfl | exact hr.within rfl | exact hr.at rfl
    | with_reducible first | apply State.Frame.ite | apply State.Frame.foldl | apply State.wr_frame
    | (intro _ _ _; try dsimp only)
    | (intro _; try dsimp only)
    | split

/-- Writes: outbox dbk; registers: dbkDroppedCount glbDenyCount glbDenyLastAccessor glbDenyLastAddr glbDenyLastWrite
pitStatusVqHeadErr pitVqHeadCount. -/
theorem vqHeadStep_frame {z s : State} {m r : Nat} {acc p h'} (hm : bitsIn 0x40000002 m) (hr : bitsIn 0x1001000000000000000000000000000000010000000000000000000000000000000000000000003c00000 r)
    (hk : z.Frame m r s) : z.Frame m r (vqHeadStep acc p h' s) := by
  unfold vqHeadStep
  try dsimp only
  repeat' first
    | with_reducible assumption
    | with_reducible first | exact hm.within rfl | exact hr.within rfl | exact hr.at rfl
    | with_reducible first | apply State.Frame.ite | apply State.Frame.foldl | apply State.FrameEither.ite | apply State.FrameEither.ofInl | apply State.FrameEither.ofInr | apply State.gate_frame | apply State.setVqHead_frame
    | (intro _ _ _; try dsimp only)
    | (intro _; try dsimp only)
    | split
    | with_reducible first | refine State.Frame.ofInl ‹_› ?_ | refine State.Frame.ofInr ‹_› ?_
    | exact State.Frame.upd hm (by with_reducible assumption) rfl
    | (refine State.Frame.upd hm ?_ rfl)
    | dsimp only

/-- Writes: asz; registers: none. -/
theorem State.countSample_frame {z s : State} {m r : Nat} {r'} (hm : bitsIn 0x400000 m) (hr : bitsIn 0x0 r)
    (hk : z.Frame m r s) : z.Frame m r (State.countSample s r').1 := by
  unfold State.countSample
  try dsimp only
  repeat' first
    | with_reducible assumption
    | with_reducible first | exact hm.within rfl | exact hr.within rfl | exact hr.at rfl
    | with_reducible first | apply State.Frame.ite | apply State.Frame.foldl | apply State.Frame.getD | apply State.Frame.foldlFst | apply State.updAsz_frame
    | (intro _ _ _; try dsimp only)
    | (intro _; try dsimp only)
    | split
    | exact State.Frame.upd hm (by with_reducible assumption) rfl
    | (refine State.Frame.upd hm ?_ rfl)
    | dsimp only

/-- Writes: stalls; registers: none. -/
theorem State.wakeDoze_frame {z s : State} {m r : Nat} {i} (hm : bitsIn 0x80 m) (hr : bitsIn 0x0 r)
    (hk : z.Frame m r s) : z.Frame m r (State.wakeDoze s i) := by
  unfold State.wakeDoze
  try dsimp only
  repeat' first
    | with_reducible assumption
    | with_reducible first | exact hm.within rfl | exact hr.within rfl | exact hr.at rfl
    | with_reducible first | apply State.Frame.ite | apply State.Frame.foldl | apply State.updStl_frame
    | (intro _ _ _; try dsimp only)
    | (intro _; try dsimp only)
    | split
    | exact State.Frame.upd hm (by with_reducible assumption) rfl
    | (refine State.Frame.upd hm ?_ rfl)

/-- Writes: outbox pits entries revives wbs lanes fab; registers: pitVqTailCount. -/
theorem State.wantEntry_frame {z s : State} {m r : Nat} {r' a} (hm : bitsIn 0x6058042 m) (hr : bitsIn 0x2000000000000000000000000000000000000000000000000000000000000000000000000000000000000 r)
    (hk : z.Frame m r s) : z.FrameEither m r (State.wantEntry s r' a) := by
  unfold State.wantEntry
  try dsimp only
  repeat' first
    | with_reducible assumption
    | with_reducible first | exact hm.within rfl | exact hr.within rfl | exact hr.at rfl
    | with_reducible first | apply State.Frame.ite | apply State.Frame.foldl | apply State.Frame.getD | apply State.FrameEither.ite | apply State.FrameEither.ofInl | apply State.FrameEither.ofInr | apply State.startRevive_frame | apply State.failDesc_frame
    | (intro _ _ _; try dsimp only)
    | (intro _; try dsimp only)
    | split
    | exact State.Frame.upd hm (by with_reducible assumption) rfl
    | (refine State.Frame.upd hm ?_ rfl)
    | dsimp only

/-- Writes: reqs; registers: none. -/
theorem State.putReq_frame {z s : State} {m r : Nat} {r'} (hm : bitsIn 0x200 m) (hr : bitsIn 0x0 r)
    (hk : z.Frame m r s) : z.Frame m r (State.putReq s r') := by
  unfold State.putReq
  try dsimp only
  repeat' first
    | with_reducible assumption
    | with_reducible first | exact hm.within rfl | exact hr.within rfl | exact hr.at rfl
    | with_reducible first | apply State.Frame.ite | apply State.Frame.foldl
    | (intro _ _ _; try dsimp only)
    | (intro _; try dsimp only)
    | split
    | exact State.Frame.upd hm (by with_reducible assumption) rfl
    | (refine State.Frame.upd hm ?_ rfl)

/-- Writes: outbox pits stalls reqs entries revives wbs asz samples lanes fab tier arrivals free; registers:
aszDropsCount aszSamplesCount pitVqTailCount sveByteHitsCount sveTokenHitsCount tknFallbackCount tknSplitCount
tknTokensOutCount. -/
theorem State.startIntake_frame {z s : State} {m r : Nat} {r' a} (hm : bitsIn 0x18f4582c2 m) (hr : bitsIn 0xc0700000000002000000000001800000000000000000000000000000000000000000000000000000000000000000000000 r)
    (hk : z.Frame m r s) : z.Frame m r (State.startIntake s r' a) := by
  unfold State.startIntake
  try dsimp only
  repeat' first
    | with_reducible assumption
    | with_reducible first | exact hm.within rfl | exact hr.within rfl | exact hr.at rfl
    | with_reducible first | apply State.Frame.ite | apply State.Frame.foldl | apply State.Frame.getD | apply State.FrameEither.ite | apply State.FrameEither.ofInl | apply State.FrameEither.ofInr | apply State.Frame.foldlFst | apply State.failDesc_frame | apply State.tookFree_frame | apply State.wantEntry_frame | apply State.countSample_frame | apply State.wakeDoze_frame | apply State.putReq_frame | apply State.arriveIntake_frame | apply State.refill_frame | apply State.readMem_frame
    | (intro _ _ _; try dsimp only)
    | (intro _; try dsimp only)
    | split
    | with_reducible first | refine State.Frame.ofFst ‹_› ?_ | refine State.Frame.ofInl ‹_› ?_ | refine State.Frame.ofInr ‹_› ?_
    | exact State.Frame.upd hm (by with_reducible assumption) rfl
    | (refine State.Frame.upd hm ?_ rfl)
    | dsimp only

/-- Writes: stalls chains; registers: stlRoleChain stlRoleChgCount stlRoleRole stlRoleStage stlStatusDraining
stlStatusLoading. -/
theorem State.openChain_frame {z s : State} {m r : Nat} {r'} (hm : bitsIn 0x4080 m) (hr : bitsIn 0x206d000000000000000000000000000000000000000000000000000000000000000000000000000000000000000 r)
    (hk : z.Frame m r s) : z.FrameSome m r (State.openChain s r') := by
  unfold State.openChain
  try dsimp only
  repeat' first
    | with_reducible assumption
    | with_reducible first | exact hm.within rfl | exact hr.within rfl | exact hr.at rfl
    | with_reducible first | apply State.Frame.ite | apply State.Frame.foldl | apply State.FrameSome.ite | apply State.FrameSome.ofSome | apply State.FrameSome.ofNone | apply State.chainForPin_frame
    | (intro _ _ _; try dsimp only)
    | (intro _; try dsimp only)
    | split
    | with_reducible first | refine State.Frame.ofSome ‹_› ?_
    | exact State.Frame.upd hm (by with_reducible assumption) rfl
    | (refine State.Frame.upd hm ?_ rfl)
    | dsimp only

/-- Writes: outbox pits stalls reqs streams chains entries revives wbs asz lanes fab arrivals; registers: pitVqTailCount
stlRoleChain stlRoleChgCount stlRoleRole stlRoleStage stlStatusDraining stlStatusLoading. -/
theorem State.startOpen_frame {z s : State} {m r : Nat} {r' a} (hm : bitsIn 0x8645cac2 m) (hr : bitsIn 0x206d002000000000000000000000000000000000000000000000000000000000000000000000000000000000000 r)
    (hk : z.Frame m r s) : z.Frame m r (State.startOpen s r' a) := by
  unfold State.startOpen
  try dsimp only
  repeat' first
    | with_reducible assumption
    | with_reducible first | exact hm.within rfl | exact hr.within rfl | exact hr.at rfl
    | with_reducible first | apply State.Frame.ite | apply State.Frame.foldl | apply State.Frame.getD | apply State.FrameEither.ite | apply State.FrameEither.ofInl | apply State.FrameEither.ofInr | apply State.FrameSome.ite | apply State.FrameSome.ofSome | apply State.FrameSome.ofNone | apply State.Frame.foldlFst | apply State.openChain_frame | apply State.failDesc_frame | apply State.wantEntry_frame | apply State.countSample_frame | apply State.putReq_frame | apply State.arrive_frame
    | (intro _ _ _; try dsimp only)
    | (intro _; try dsimp only)
    | split
    | with_reducible first | refine State.Frame.ofFst ‹_› ?_ | refine State.Frame.ofInl ‹_› ?_ | refine State.Frame.ofInr ‹_› ?_ | refine State.Frame.ofSome ‹_› ?_
    | exact State.Frame.upd hm (by with_reducible assumption) rfl
    | (refine State.Frame.upd hm ?_ rfl)
    | dsimp only

/-- Writes: outbox reqs lanes fab arrivals; registers: none. -/
theorem State.startToken_frame {z s : State} {m r : Nat} {r'} (hm : bitsIn 0x86000202 m) (hr : bitsIn 0x0 r)
    (hk : z.Frame m r s) : z.Frame m r (State.startToken s r') := by
  unfold State.startToken
  try dsimp only
  repeat' first
    | with_reducible assumption
    | with_reducible first | exact hm.within rfl | exact hr.within rfl | exact hr.at rfl
    | with_reducible first | apply State.Frame.ite | apply State.Frame.foldl | apply State.putReq_frame | apply State.readMem_frame | apply State.arriveToken_frame
    | (intro _ _ _; try dsimp only)
    | (intro _; try dsimp only)
    | split
    | exact State.Frame.upd hm (by with_reducible assumption) rfl
    | (refine State.Frame.upd hm ?_ rfl)

/-- Writes: outbox pits stalls reqs streams chains entries revives wbs asz samples lanes fab tier arrivals free;
registers: aszDropsCount aszSamplesCount pitVqTailCount stlRoleChain stlRoleChgCount stlRoleRole stlRoleStage
stlStatusDraining stlStatusLoading sveByteHitsCount sveTokenHitsCount tknFallbackCount tknSplitCount
tknTokensOutCount. -/
theorem State.startReq_frame {z s : State} {m r : Nat} {r' a} (hm : bitsIn 0x18f45cac2 m) (hr : bitsIn 0xc070000206d002000000000001800000000000000000000000000000000000000000000000000000000000000000000000 r)
    (hk : z.Frame m r s) : z.Frame m r (State.startReq s r' a) := by
  unfold State.startReq
  try dsimp only
  repeat' first
    | with_reducible assumption
    | with_reducible first | exact hm.within rfl | exact hr.within rfl | exact hr.at rfl
    | with_reducible first | apply State.Frame.ite | apply State.Frame.foldl | apply State.startIntake_frame | apply State.startOpen_frame | apply State.startToken_frame | apply State.arriveCon_frame | apply State.putReq_frame
    | (intro _ _ _; try dsimp only)
    | (intro _; try dsimp only)
    | split
    | exact State.Frame.upd hm (by with_reducible assumption) rfl
    | (refine State.Frame.upd hm ?_ rfl)

/-- Writes: outbox pits stalls reqs dups streams toks entries wbs lanes fab arrivals; registers: pitVqTailCount. -/
theorem State.endDesc_frame {z s : State} {m r : Nat} {r' e} (hm : bitsIn 0x86049ec2 m) (hr : bitsIn 0x2000000000000000000000000000000000000000000000000000000000000000000000000000000000000 r)
    (hk : z.Frame m r s) : z.Frame m r (State.endDesc s r' e) := by
  unfold State.endDesc
  try dsimp only
  repeat' first
    | with_reducible assumption
    | with_reducible first | exact hm.within rfl | exact hr.within rfl | exact hr.at rfl
    | with_reducible first | apply State.Frame.ite | apply State.Frame.foldl | apply State.failDesc_frame | apply State.failTok_frame | apply State.arriveToken_frame | apply State.putReq_frame | apply State.queueDup_frame
    | (intro _ _ _; try dsimp only)
    | (intro _; try dsimp only)
    | split
    | exact State.Frame.upd hm (by with_reducible assumption) rfl
    | (refine State.Frame.upd hm ?_ rfl)

/-- Writes: outbox dbk; registers: dbkDroppedCount pitUnadmitCount. -/
theorem State.unadmitted_frame {z s : State} {m r : Nat} {p p0 p1 p2} (hm : bitsIn 0x40000002 m) (hr : bitsIn 0x8000000000000000000000000000000010000000000000000000000000000000000000000000000000 r)
    (hk : z.Frame m r s) : z.Frame m r (State.unadmitted s p p0 p1 p2) := by
  unfold State.unadmitted
  try dsimp only
  repeat' first
    | with_reducible assumption
    | with_reducible first | exact hm.within rfl | exact hr.within rfl | exact hr.at rfl
    | with_reducible first | apply State.Frame.ite | apply State.Frame.foldl | apply State.day_frame | apply State.bump_frame
    | (intro _ _ _; try dsimp only)
    | (intro _; try dsimp only)
    | split
    | exact State.Frame.upd hm (by with_reducible assumption) rfl
    | (refine State.Frame.upd hm ?_ rfl)

/-- Writes: outbox pits stalls adms reqs dups streams toks chains entries revives wbs asz samples lanes fab tier dbk
arrivals free; registers: aszDropsCount aszSamplesCount dbkDroppedCount pitUnadmitCount pitVqTailCount stlRoleChain
stlRoleChgCount stlRoleRole stlRoleStage stlStatusDraining stlStatusLoading sveByteHitsCount sveTokenHitsCount
tknFallbackCount tknSplitCount tknTokensOutCount. -/
theorem State.takeDesc_frame {z s : State} {m r : Nat} {p d slot} (hm : bitsIn 0x1cf45dfc2 m) (hr : bitsIn 0xc070000206d002008000000001800000000000000000000010000000000000000000000000000000000000000000000000 r)
    (hk : z.Frame m r s) : z.Frame m r (State.takeDesc s p d slot) := by
  unfold State.takeDesc
  try dsimp only
  repeat' first
    | with_reducible assumption
    | with_reducible first | exact hm.within rfl | exact hr.within rfl | exact hr.at rfl
    | with_reducible first | apply State.Frame.ite | apply State.Frame.foldl | apply State.unadmitted_frame | apply State.endDesc_frame | apply State.updEntry_frame | apply State.startReq_frame
    | (intro _ _ _; try dsimp only)
    | (intro _; try dsimp only)
    | split
    | exact State.Frame.upd hm (by with_reducible assumption) rfl
    | (refine State.Frame.upd hm ?_ rfl)

/-- Writes: outbox pits stalls adms reqs dups streams toks chains entries revives wbs asz samples lanes fab tier dbk
arrivals free; registers: aszDropsCount aszSamplesCount dbkDroppedCount pitSqHeadCount pitUnadmitCount
pitVqTailCount stlRoleChain stlRoleChgCount stlRoleRole stlRoleStage stlStatusDraining stlStatusLoading
sveByteHitsCount sveTokenHitsCount tknFallbackCount tknSplitCount tknTokensOutCount. -/
theorem descStep_frame {z s : State} {m r : Nat} {p data} (hm : bitsIn 0x1cf45dfc2 m) (hr : bitsIn 0xc070000206d002108000000001800000000000000000000010000000000000000000000000000000000000000000000000 r)
    (hk : z.Frame m r s) : z.Frame m r (descStep p data s) := by
  unfold descStep
  try dsimp only
  repeat' first
    | with_reducible assumption
    | with_reducible first | exact hm.within rfl | exact hr.within rfl | exact hr.at rfl
    | with_reducible first | apply State.Frame.ite | apply State.Frame.foldl | apply State.bump_frame | apply State.unadmitted_frame | apply State.takeDesc_frame
    | (intro _ _ _; try dsimp only)
    | (intro _; try dsimp only)
    | split
    | exact State.Frame.upd hm (by with_reducible assumption) rfl
    | (refine State.Frame.upd hm ?_ rfl)

/-- Writes: outbox pits stalls reqs streams toks entries wbs lanes fab; registers: pitVqTailCount. -/
theorem segListStep_frame {z s : State} {m r : Nat} {p sess tag data} (hm : bitsIn 0x6049ac2 m) (hr : bitsIn 0x2000000000000000000000000000000000000000000000000000000000000000000000000000000000000 r)
    (hk : z.Frame m r s) : z.Frame m r (segListStep p sess tag data s) := by
  unfold segListStep
  try dsimp only
  repeat' first
    | with_reducible assumption
    | with_reducible first | exact hm.within rfl | exact hr.within rfl | exact hr.at rfl
    | with_reducible first | apply State.Frame.ite | apply State.Frame.foldl | apply State.failReq_frame | apply State.beginPayload_frame | apply State.updReq_frame
    | (intro _ _ _; try dsimp only)
    | (intro _; try dsimp only)
    | split
    | exact State.Frame.upd hm (by with_reducible assumption) rfl
    | (refine State.Frame.upd hm ?_ rfl)

/-- Writes: outbox pits stalls reqs dups streams toks entries wbs lanes fab arrivals; registers: pitVqTailCount. -/
theorem tokBufStep_frame {z s : State} {m r : Nat} {p sess tag data} (hm : bitsIn 0x86049ec2 m) (hr : bitsIn 0x2000000000000000000000000000000000000000000000000000000000000000000000000000000000000 r)
    (hk : z.Frame m r s) : z.Frame m r (tokBufStep p sess tag data s) := by
  unfold tokBufStep
  try dsimp only
  repeat' first
    | with_reducible assumption
    | with_reducible first | exact hm.within rfl | exact hr.within rfl | exact hr.at rfl
    | with_reducible first | apply State.Frame.ite | apply State.Frame.foldl | apply State.arriveToken_frame | apply State.updReq_frame | apply State.flush_frame | apply State.failTok_frame
    | (intro _ _ _; try dsimp only)
    | (intro _; try dsimp only)
    | split
    | exact State.Frame.upd hm (by with_reducible assumption) rfl
    | (refine State.Frame.upd hm ?_ rfl)

/-- Writes: outbox pits; registers: none. -/
theorem irqTimerStep_frame {z s : State} {m r : Nat} {p} (hm : bitsIn 0x42 m) (hr : bitsIn 0x0 r)
    (hk : z.Frame m r s) : z.Frame m r (irqTimerStep p s) := by
  unfold irqTimerStep
  try dsimp only
  repeat' first
    | with_reducible assumption
    | with_reducible first | exact hm.within rfl | exact hr.within rfl | exact hr.at rfl
    | with_reducible first | apply State.Frame.ite | apply State.Frame.foldl | apply State.sendIrq_frame
    | (intro _ _ _; try dsimp only)
    | (intro _; try dsimp only)
    | split
    | exact State.Frame.upd hm (by with_reducible assumption) rfl
    | (refine State.Frame.upd hm ?_ rfl)

/-- Writes: outbox dbk; registers: dbkDroppedCount. -/
theorem flitErrStep_frame {z s : State} {m r : Nat} {chan} (hm : bitsIn 0x40000002 m) (hr : bitsIn 0x10000000000000000000000000000000000000000000000000 r)
    (hk : z.Frame m r s) : z.Frame m r (flitErrStep chan s) := by
  unfold flitErrStep
  try dsimp only
  repeat' first
    | with_reducible assumption
    | with_reducible first | exact hm.within rfl | exact hr.within rfl | exact hr.at rfl
    | with_reducible first | apply State.Frame.ite | apply State.Frame.foldl | apply State.day_frame
    | (intro _ _ _; try dsimp only)
    | (intro _; try dsimp only)
    | split
    | exact State.Frame.upd hm (by with_reducible assumption) rfl
    | (refine State.Frame.upd hm ?_ rfl)


end Sys2Proof.Machine
end

