-- ==== Sys2Proof/Laws/FramePitchCtl.lean ====
section
/-! SUPPORT. What the functions of Machine/PitchCtl.lean may write, and that they leave the rest of a state as it is. -/

set_option linter.unusedVariables false

namespace Sys2Proof.Machine

/-- Writes: outbox lanes fab; registers: none. -/
theorem State.writeAllHomes_frame {z s : State} {m r : Nat} {p} (hm : bitsIn 0x6000002 m) (hr : bitsIn 0x0 r)
    (hk : z.Frame m r s) : z.Frame m r (State.writeAllHomes s p) := by
  unfold State.writeAllHomes
  try dsimp only
  repeat' first
    | with_reducible assumption
    | with_reducible first | exact hm.within rfl | exact hr.within rfl | exact hr.at rfl
    | with_reducible first | apply State.Frame.ite | apply State.Frame.foldl | apply State.writeHome_frame
    | (intro _ _ _; try dsimp only)
    | (intro _; try dsimp only)
    | split
    | exact State.Frame.upd hm (by with_reducible assumption) rfl
    | (refine State.Frame.upd hm ?_ rfl)

/-- Writes: nothing but registers; registers: pitCtrlEnable pitStatusEnabled tierPitHomeUsedMib tierPitStatusHomeBusy. -/
theorem State.nowEnabled_frame {z s : State} {m r : Nat} {p} (hm : bitsIn 0x0 m) (hr : bitsIn 0x300000000000000000000000000000000000000000000000000002400000000000000000000000000 r)
    (hk : z.Frame m r s) : z.Frame m r (State.nowEnabled s p) := by
  unfold State.nowEnabled
  try dsimp only
  repeat' first
    | with_reducible assumption
    | with_reducible first | exact hm.within rfl | exact hr.within rfl | exact hr.at rfl
    | with_reducible first | apply State.Frame.ite | apply State.Frame.foldl | apply State.wr_frame
    | (intro _ _ _; try dsimp only)
    | (intro _; try dsimp only)
    | split

/-- Writes: outbox lanes fab; registers: ldgPitStatusCfgErr pitCtrlEnable pitStatusCfgErr pitStatusEnabled
tierPitHomeUsedMib tierPitStatusCfgErr tierPitStatusHomeBusy. -/
theorem State.enable_frame {z s : State} {m r : Nat} {p} (hm : bitsIn 0x6000002 m) (hr : bitsIn 0x700000000000000000000000000000000000000000000000000002c00000010000000000000000000 r)
    (hk : z.Frame m r s) : z.Frame m r (State.enable s p) := by
  unfold State.enable
  try dsimp only
  repeat' first
    | with_reducible assumption
    | with_reducible first | exact hm.within rfl | exact hr.within rfl | exact hr.at rfl
    | with_reducible first | apply State.Frame.ite | apply State.Frame.foldl | apply State.wr_frame | apply State.nowEnabled_frame | apply State.writeAllHomes_frame
    | (intro _ _ _; try dsimp only)
    | (intro _; try dsimp only)
    | split
    | exact State.Frame.upd hm (by with_reducible assumption) rfl
    | (refine State.Frame.upd hm ?_ rfl)

/-- Writes: outbox lanes fab dbk; registers: dbkDroppedCount glbDenyCount glbDenyLastAccessor glbDenyLastAddr
glbDenyLastWrite ldgPitStatusCfgErr pitCtrlEnable pitStatusCfgErr pitStatusEnabled tierPitHomeUsedMib
tierPitStatusCfgErr tierPitStatusHomeBusy. -/
theorem enableStep_frame {z s : State} {m r : Nat} {acc p} (hm : bitsIn 0x46000002 m) (hr : bitsIn 0x700000000000000000000000000000010000000000000000000002c00000010000000000003c00000 r)
    (hk : z.Frame m r s) : z.Frame m r (enableStep acc p s) := by
  unfold enableStep
  try dsimp only
  repeat' first
    | with_reducible assumption
    | with_reducible first | exact hm.within rfl | exact hr.within rfl | exact hr.at rfl
    | with_reducible first | apply State.Frame.ite | apply State.Frame.foldl | apply State.FrameEither.ite | apply State.FrameEither.ofInl | apply State.FrameEither.ofInr | apply State.gate_frame | apply State.enable_frame
    | (intro _ _ _; try dsimp only)
    | (intro _; try dsimp only)
    | split
    | with_reducible first | refine State.Frame.ofInl ‹_› ?_ | refine State.Frame.ofInr ‹_› ?_
    | exact State.Frame.upd hm (by with_reducible assumption) rfl
    | (refine State.Frame.upd hm ?_ rfl)
    | dsimp only

/-- Writes: nothing but registers; registers: pitCtrlEnable pitStatusEnabled tierPitHomeUsedMib tierPitStatusHomeBusy. -/
theorem homesWrittenStep_frame {z s : State} {m r : Nat} {p} (hm : bitsIn 0x0 m) (hr : bitsIn 0x300000000000000000000000000000000000000000000000000002400000000000000000000000000 r)
    (hk : z.Frame m r s) : z.Frame m r (homesWrittenStep p s) := by
  unfold homesWrittenStep
  try dsimp only
  repeat' first
    | with_reducible assumption
    | with_reducible first | exact hm.within rfl | exact hr.within rfl | exact hr.at rfl
    | with_reducible first | apply State.Frame.ite | apply State.Frame.foldl | apply State.nowEnabled_frame
    | (intro _ _ _; try dsimp only)
    | (intro _; try dsimp only)
    | split

/-- Writes: pits adms; registers: pitCtrlEnable. -/
theorem State.disable_frame {z s : State} {m r : Nat} {p} (hm : bitsIn 0x140 m) (hr : bitsIn 0x100000000000000000000000000000000000000000000000000000000000000000000000000000000 r)
    (hk : z.Frame m r s) : z.Frame m r (State.disable s p) := by
  unfold State.disable
  try dsimp only
  repeat' first
    | with_reducible assumption
    | with_reducible first | exact hm.within rfl | exact hr.within rfl | exact hr.at rfl
    | with_reducible first | apply State.Frame.ite | apply State.Frame.foldl | apply State.updPit_frame | apply State.wr_frame
    | (intro _ _ _; try dsimp only)
    | (intro _; try dsimp only)
    | split
    | exact State.Frame.upd hm (by with_reducible assumption) rfl
    | (refine State.Frame.upd hm ?_ rfl)

/-- Writes: outbox pits adms dbk; registers: dbkDroppedCount glbDenyCount glbDenyLastAccessor glbDenyLastAddr
glbDenyLastWrite pitCtrlEnable. -/
theorem disableStep_frame {z s : State} {m r : Nat} {acc p} (hm : bitsIn 0x40000142 m) (hr : bitsIn 0x100000000000000000000000000000010000000000000000000000000000000000000000003c00000 r)
    (hk : z.Frame m r s) : z.Frame m r (disableStep acc p s) := by
  unfold disableStep
  try dsimp only
  repeat' first
    | with_reducible assumption
    | with_reducible first | exact hm.within rfl | exact hr.within rfl | exact hr.at rfl
    | with_reducible first | apply State.Frame.ite | apply State.Frame.foldl | apply State.FrameEither.ite | apply State.FrameEither.ofInl | apply State.FrameEither.ofInr | apply State.gate_frame | apply State.disable_frame
    | (intro _ _ _; try dsimp only)
    | (intro _; try dsimp only)
    | split
    | with_reducible first | refine State.Frame.ofInl ‹_› ?_ | refine State.Frame.ofInr ‹_› ?_
    | exact State.Frame.upd hm (by with_reducible assumption) rfl
    | (refine State.Frame.upd hm ?_ rfl)
    | dsimp only

/-- Writes: outbox pits stalls adms reqs dups streams toks entries wbs samples lanes fab; registers: pitVqTailCount. -/
theorem State.endQuietStreams_frame {z s : State} {m r : Nat} {p} (hm : bitsIn 0x7049fc2 m) (hr : bitsIn 0x2000000000000000000000000000000000000000000000000000000000000000000000000000000000000 r)
    (hk : z.Frame m r s) : z.Frame m r (State.endQuietStreams s p) := by
  unfold State.endQuietStreams
  try dsimp only
  repeat' first
    | with_reducible assumption
    | with_reducible first | exact hm.within rfl | exact hr.within rfl | exact hr.at rfl
    | with_reducible first | apply State.Frame.ite | apply State.Frame.foldl | apply State.cutStream_frame
    | (intro _ _ _; try dsimp only)
    | (intro _; try dsimp only)
    | split
    | exact State.Frame.upd hm (by with_reducible assumption) rfl
    | (refine State.Frame.upd hm ?_ rfl)

/-- Writes: outbox pits stalls chr gens amd asz aszCount lanes fab tier dbk; registers: any register. -/
theorem State.drained_frame {z s : State} {m r : Nat} {p} (hm : bitsIn 0x4ef800c2 m) (hr : bitsIn 0x3fffffffffffffffffffffffffffffffffffffffffffffffffffffffffffffffffffffffffffffffffffffffffffffffffffffffffff r)
    (hk : z.Frame m r s) : z.Frame m r (State.drained s p) := by
  unfold State.drained
  try dsimp only
  repeat' first
    | with_reducible assumption
    | with_reducible first | exact hm.within rfl | exact hr.within rfl | exact hr.at rfl
    | with_reducible first | apply State.Frame.ite | apply State.Frame.foldl | apply State.bump_frame | apply State.wr_frame | apply State.updPit_frame | apply State.raiseEpoch_frame
    | exact hr.at (allRegs_at _)
    | (intro _ _ _; try dsimp only)
    | (intro _; try dsimp only)
    | split
    | exact State.Frame.upd hm (by with_reducible assumption) rfl
    | (refine State.Frame.upd hm ?_ rfl)

/-- Writes: outbox pits stalls adms reqs dups streams toks entries wbs chr gens amd asz aszCount samples lanes fab tier
dbk; registers: any register. -/
theorem drainCompleteStep_frame {z s : State} {m r : Nat} {p} (hm : bitsIn 0x4ffc9fc2 m) (hr : bitsIn 0x3fffffffffffffffffffffffffffffffffffffffffffffffffffffffffffffffffffffffffffffffffffffffffffffffffffffffffff r)
    (hk : z.Frame m r s) : z.Frame m r (drainCompleteStep p s) := by
  unfold drainCompleteStep
  try dsimp only
  repeat' first
    | with_reducible assumption
    | with_reducible first | exact hm.within rfl | exact hr.within rfl | exact hr.at rfl
    | with_reducible first | apply State.Frame.ite | apply State.Frame.foldl | apply State.endQuietStreams_frame | apply State.drained_frame
    | exact hr.at (allRegs_at _)
    | (intro _ _ _; try dsimp only)
    | (intro _; try dsimp only)
    | split
    | exact State.Frame.upd hm (by with_reducible assumption) rfl
    | (refine State.Frame.upd hm ?_ rfl)

/-- Writes: pits adms reqs dups streams toks entries revives; registers: none. -/
theorem State.endPitch_frame {z s : State} {m r : Nat} {p} (hm : bitsIn 0x19f40 m) (hr : bitsIn 0x0 r)
    (hk : z.Frame m r s) : z.Frame m r (State.endPitch s p) := by
  unfold State.endPitch
  try dsimp only
  repeat' first
    | with_reducible assumption
    | with_reducible first | exact hm.within rfl | exact hr.within rfl | exact hr.at rfl
    | with_reducible first | apply State.Frame.ite | apply State.Frame.foldl | apply State.updPit_frame
    | (intro _ _ _; try dsimp only)
    | (intro _; try dsimp only)
    | split
    | exact State.Frame.upd hm (by with_reducible assumption) rfl
    | (refine State.Frame.upd hm ?_ rfl)

theorem State.resetPitchRegs_frame {z s : State} {m r p : Nat} (hm : bitsIn 0x40000000 m) (hr : bitsIn 0x3fffffffffffffffffffffffffffffffffffffffffffffffffffffffffffffffffffffffffffffffffffffffffffffffffffffffffff r) (h : z.Frame m r s) :
    z.Frame m r (s.resetPitchRegs p) :=
  State.drop_frame hr (s := { s with dbk := { s.dbk with views := s.dbk.views.set p {} } }) (State.Frame.upd hm h rfl)
/-- Writes: outbox entries parks lanes fab tier; registers: none. -/
theorem State.clearEntries_frame {z s : State} {m r : Nat} {p} (hm : bitsIn 0xe028002 m) (hr : bitsIn 0x0 r)
    (hk : z.Frame m r s) : z.Frame m r (State.clearEntries s p) := by
  unfold State.clearEntries
  try dsimp only
  repeat' first
    | with_reducible assumption
    | with_reducible first | exact hm.within rfl | exact hr.within rfl | exact hr.at rfl
    | with_reducible first | apply State.Frame.ite | apply State.Frame.foldl | apply State.startPark_frame | apply State.freeEntry_frame
    | (intro _ _ _; try dsimp only)
    | (intro _; try dsimp only)
    | split
    | exact State.Frame.upd hm (by with_reducible assumption) rfl
    | (refine State.Frame.upd hm ?_ rfl)

/-- Writes: outbox pits stalls asz aszCount samples lanes fab dbk; registers: dbkDroppedCount stlRoleChain
stlRoleChgCount stlRoleRole stlRoleStage stlStatusDraining stlStatusLoading. -/
theorem State.resetAsz_frame {z s : State} {m r : Nat} {p} (hm : bitsIn 0x47c000c2 m) (hr : bitsIn 0x206d000000000000000000000000000000000000010000000000000000000000000000000000000000000000000 r)
    (hk : z.Frame m r s) : z.Frame m r (State.resetAsz s p) := by
  unfold State.resetAsz
  try dsimp only
  repeat' first
    | with_reducible assumption
    | with_reducible first | exact hm.within rfl | exact hr.within rfl | exact hr.at rfl
    | with_reducible first | apply State.Frame.ite | apply State.Frame.foldl | apply State.discardAll_frame
    | (intro _ _ _; try dsimp only)
    | (intro _; try dsimp only)
    | split
    | exact State.Frame.upd hm (by with_reducible assumption) rfl
    | (refine State.Frame.upd hm ?_ rfl)

/-- Writes: outbox pits stalls adms reqs dups streams toks entries revives parks amd asz aszCount samples lanes fab tier
dbk; registers: any register. -/
theorem State.resetPitch_frame {z s : State} {m r : Nat} {p} (hm : bitsIn 0x4fe39fc2 m) (hr : bitsIn 0x3fffffffffffffffffffffffffffffffffffffffffffffffffffffffffffffffffffffffffffffffffffffffffffffffffffffffffff r)
    (hk : z.Frame m r s) : z.Frame m r (State.resetPitch s p) := by
  unfold State.resetPitch
  try dsimp only
  repeat' first
    | with_reducible assumption
    | with_reducible first | exact hm.within rfl | exact hr.within rfl | exact hr.at rfl
    | with_reducible first | apply State.Frame.ite | apply State.Frame.foldl | apply State.amdReset_frame | apply State.clearEntries_frame | apply State.resetAsz_frame | apply State.endPitch_frame | apply State.day_frame | apply State.resetPitchRegs_frame
    | exact hr.at (allRegs_at _)
    | (intro _ _ _; try dsimp only)
    | (intro _; try dsimp only)
    | split
    | exact State.Frame.upd hm (by with_reducible assumption) rfl
    | (refine State.Frame.upd hm ?_ rfl)

/-- Writes: outbox pits stalls adms reqs dups streams toks entries revives parks amd asz aszCount samples lanes fab tier
dbk; registers: any register. -/
theorem pitchResetStep_frame {z s : State} {m r : Nat} {acc p} (hm : bitsIn 0x4fe39fc2 m) (hr : bitsIn 0x3fffffffffffffffffffffffffffffffffffffffffffffffffffffffffffffffffffffffffffffffffffffffffffffffffffffffffff r)
    (hk : z.Frame m r s) : z.Frame m r (pitchResetStep acc p s) := by
  unfold pitchResetStep
  try dsimp only
  repeat' first
    | with_reducible assumption
    | with_reducible first | exact hm.within rfl | exact hr.within rfl | exact hr.at rfl
    | with_reducible first | apply State.Frame.ite | apply State.Frame.foldl | apply State.FrameEither.ite | apply State.FrameEither.ofInl | apply State.FrameEither.ofInr | apply State.gate_frame | apply State.resetPitch_frame
    | exact hr.at (allRegs_at _)
    | (intro _ _ _; try dsimp only)
    | (intro _; try dsimp only)
    | split
    | with_reducible first | refine State.Frame.ofInl ‹_› ?_ | refine State.Frame.ofInr ‹_› ?_
    | exact State.Frame.upd hm (by with_reducible assumption) rfl
    | (refine State.Frame.upd hm ?_ rfl)
    | dsimp only


end Sys2Proof.Machine
end

