-- ==== Sys2Proof/Laws/FrameSecurity.lean ====
section
/-! SUPPORT. What the functions of Machine/Security.lean may write, and that they leave the rest of a state as it is. -/

set_option linter.unusedVariables false

namespace Sys2Proof.Machine

/-- Writes: outbox dbk; registers: dbkDroppedCount glbKeyCfgKeyver glbKeyStatRotErr. -/
theorem State.rotateKey_frame {z s : State} {m r : Nat} {p} (hm : bitsIn 0x40000002 m) (hr : bitsIn 0x10000000000000000000000000000000000000110000000000 r)
    (hk : z.Frame m r s) : z.Frame m r (State.rotateKey s p) := by
  unfold State.rotateKey
  try dsimp only
  repeat' first
    | with_reducible assumption
    | with_reducible first | exact hm.within rfl | exact hr.within rfl | exact hr.at rfl
    | with_reducible first | apply State.Frame.ite | apply State.Frame.foldl | apply State.wr_frame | apply State.day_frame
    | (intro _ _ _; try dsimp only)
    | (intro _; try dsimp only)
    | split
    | exact State.Frame.upd hm (by with_reducible assumption) rfl
    | (refine State.Frame.upd hm ?_ rfl)

/-- Writes: outbox dbk; registers: dbkDroppedCount glbDenyCount glbDenyLastAccessor glbDenyLastAddr glbDenyLastWrite
glbKeyCfgKeyver glbKeyStatRotErr. -/
theorem keyRotateStep_frame {z s : State} {m r : Nat} {acc p} (hm : bitsIn 0x40000002 m) (hr : bitsIn 0x10000000000000000000000000000000000000110003c00000 r)
    (hk : z.Frame m r s) : z.Frame m r (keyRotateStep acc p s) := by
  unfold keyRotateStep
  try dsimp only
  repeat' first
    | with_reducible assumption
    | with_reducible first | exact hm.within rfl | exact hr.within rfl | exact hr.at rfl
    | with_reducible first | apply State.Frame.ite | apply State.Frame.foldl | apply State.FrameEither.ite | apply State.FrameEither.ofInl | apply State.FrameEither.ofInr | apply State.gate_frame | apply State.rotateKey_frame
    | (intro _ _ _; try dsimp only)
    | (intro _; try dsimp only)
    | split
    | with_reducible first | refine State.Frame.ofInl ‹_› ?_ | refine State.Frame.ofInr ‹_› ?_
    | exact State.Frame.upd hm (by with_reducible assumption) rfl
    | (refine State.Frame.upd hm ?_ rfl)
    | dsimp only

/-- Writes: outbox dbk; registers: dbkDroppedCount glbKeyCfgKeyverMin glbKeyStatMinErr. -/
theorem State.raiseKeyMin_frame {z s : State} {m r : Nat} {p v} (hm : bitsIn 0x40000002 m) (hr : bitsIn 0x10000000000000000000000000000000000000220000000000 r)
    (hk : z.Frame m r s) : z.Frame m r (State.raiseKeyMin s p v) := by
  unfold State.raiseKeyMin
  try dsimp only
  repeat' first
    | with_reducible assumption
    | with_reducible first | exact hm.within rfl | exact hr.within rfl | exact hr.at rfl
    | with_reducible first | apply State.Frame.ite | apply State.Frame.foldl | apply State.wr_frame | apply State.day_frame
    | (intro _ _ _; try dsimp only)
    | (intro _; try dsimp only)
    | split
    | exact State.Frame.upd hm (by with_reducible assumption) rfl
    | (refine State.Frame.upd hm ?_ rfl)

/-- Writes: outbox dbk; registers: dbkDroppedCount glbDenyCount glbDenyLastAccessor glbDenyLastAddr glbDenyLastWrite
glbKeyCfgKeyverMin glbKeyStatMinErr. -/
theorem keyMinStep_frame {z s : State} {m r : Nat} {acc p v} (hm : bitsIn 0x40000002 m) (hr : bitsIn 0x10000000000000000000000000000000000000220003c00000 r)
    (hk : z.Frame m r s) : z.Frame m r (keyMinStep acc p v s) := by
  unfold keyMinStep
  try dsimp only
  repeat' first
    | with_reducible assumption
    | with_reducible first | exact hm.within rfl | exact hr.within rfl | exact hr.at rfl
    | with_reducible first | apply State.Frame.ite | apply State.Frame.foldl | apply State.FrameEither.ite | apply State.FrameEither.ofInl | apply State.FrameEither.ofInr | apply State.gate_frame | apply State.raiseKeyMin_frame
    | (intro _ _ _; try dsimp only)
    | (intro _; try dsimp only)
    | split
    | with_reducible first | refine State.Frame.ofInl ‹_› ?_ | refine State.Frame.ofInr ‹_› ?_
    | exact State.Frame.upd hm (by with_reducible assumption) rfl
    | (refine State.Frame.upd hm ?_ rfl)
    | dsimp only

/-- Writes: outbox pits stalls adms reqs dups streams toks entries revives asz aszCount samples lanes fab dbk;
registers: any register. -/
theorem State.zeroPitch_frame {z s : State} {m r : Nat} {p} (hm : bitsIn 0x47c19fc2 m) (hr : bitsIn 0x3fffffffffffffffffffffffffffffffffffffffffffffffffffffffffffffffffffffffffffffffffffffffffffffffffffffffffff r)
    (hk : z.Frame m r s) : z.Frame m r (State.zeroPitch s p) := by
  unfold State.zeroPitch
  try dsimp only
  repeat' first
    | with_reducible assumption
    | with_reducible first | exact hm.within rfl | exact hr.within rfl | exact hr.at rfl
    | with_reducible first | apply State.Frame.ite | apply State.Frame.foldl | apply State.resetAsz_frame | apply State.endPitch_frame | apply State.resetPitchRegs_frame
    | exact hr.at (allRegs_at _)
    | (intro _ _ _; try dsimp only)
    | (intro _; try dsimp only)
    | split
    | exact State.Frame.upd hm (by with_reducible assumption) rfl
    | (refine State.Frame.upd hm ?_ rfl)

/-- Writes: pwr; registers: chrStatusState. -/
theorem State.dropImageRead_frame {z s : State} {m r : Nat} (hm : bitsIn 0x10 m) (hr : bitsIn 0x400000000000000000000000000000000000000000000000000000 r)
    (hk : z.Frame m r s) : z.Frame m r (State.dropImageRead s) := by
  unfold State.dropImageRead
  try dsimp only
  repeat' first
    | with_reducible assumption
    | with_reducible first | exact hm.within rfl | exact hr.within rfl | exact hr.at rfl
    | with_reducible first | apply State.Frame.ite | apply State.Frame.foldl | apply State.wr_frame
    | (intro _ _ _; try dsimp only)
    | (intro _; try dsimp only)
    | split
    | exact State.Frame.upd hm (by with_reducible assumption) rfl
    | (refine State.Frame.upd hm ?_ rfl)

theorem State.zeroise_frame {z s : State} {m r : Nat} (hm : bitsIn 0x57e79fd2 m) (hr : bitsIn 0x3fffffffffffffffffffffffffffffffffffffffffffffffffffffffffffffffffffffffffffffffffffffffffffffffffffffffffff r) (h : z.Frame m r s) :
    z.Frame m r s.zeroise := by
  unfold State.zeroise
  have h1 := State.dropImageRead_frame (hm.within rfl) (hr.within rfl) h
  have h2 := State.amdReset_frame (which := fun _ => true) (hm.within rfl) (hr.within rfl) (State.Frame.foldl (f := State.zeroPitch)
    (xs := List.range 64) h1 fun t x ht => State.zeroPitch_frame (hm.within rfl) (hr.within rfl) ht)
  have h3 := State.Frame.foldl (f := fun (a : State) p => a.wr .glbKeyStatReady p 0) (xs := List.range 64) h2
    fun t x ht => State.wr_frame (hr.at (allRegs_at _)) ht
  revert h3
  dsimp only
  generalize (List.range 64).foldl (fun (a : State) p => a.wr .glbKeyStatReady p 0) _ = t
  intro h3
  exact State.Frame.upd hm h3 rfl
/-- Writes: outbox pwr pits stalls adms reqs dups streams toks entries revives parks wbs amd asz aszCount samples lanes
fab keys dbk; registers: any register. -/
theorem State.writeZeroise_frame {z s : State} {m r : Nat} {key} (hm : bitsIn 0x57e79fd2 m) (hr : bitsIn 0x3fffffffffffffffffffffffffffffffffffffffffffffffffffffffffffffffffffffffffffffffffffffffffffffffffffffffffff r)
    (hk : z.Frame m r s) : z.Frame m r (State.writeZeroise s key) := by
  unfold State.writeZeroise
  try dsimp only
  repeat' first
    | with_reducible assumption
    | with_reducible first | exact hm.within rfl | exact hr.within rfl | exact hr.at rfl
    | with_reducible first | apply State.Frame.ite | apply State.Frame.foldl | apply State.zeroise_frame
    | exact hr.at (allRegs_at _)
    | (intro _ _ _; try dsimp only)
    | (intro _; try dsimp only)
    | split
    | exact State.Frame.upd hm (by with_reducible assumption) rfl
    | (refine State.Frame.upd hm ?_ rfl)

/-- Writes: outbox pwr pits stalls adms reqs dups streams toks entries revives parks wbs amd asz aszCount samples lanes
fab keys dbk; registers: any register. -/
theorem zeroiseStep_frame {z s : State} {m r : Nat} {acc key} (hm : bitsIn 0x57e79fd2 m) (hr : bitsIn 0x3fffffffffffffffffffffffffffffffffffffffffffffffffffffffffffffffffffffffffffffffffffffffffffffffffffffffffff r)
    (hk : z.Frame m r s) : z.Frame m r (zeroiseStep acc key s) := by
  unfold zeroiseStep
  try dsimp only
  repeat' first
    | with_reducible assumption
    | with_reducible first | exact hm.within rfl | exact hr.within rfl | exact hr.at rfl
    | with_reducible first | apply State.Frame.ite | apply State.Frame.foldl | apply State.FrameEither.ite | apply State.FrameEither.ofInl | apply State.FrameEither.ofInr | apply State.gate_frame | apply State.writeZeroise_frame
    | exact hr.at (allRegs_at _)
    | (intro _ _ _; try dsimp only)
    | (intro _; try dsimp only)
    | split
    | with_reducible first | refine State.Frame.ofInl ‹_› ?_ | refine State.Frame.ofInr ‹_› ?_
    | exact State.Frame.upd hm (by with_reducible assumption) rfl
    | (refine State.Frame.upd hm ?_ rfl)
    | dsimp only

/-- Writes: outbox pwr gens samples tier dbk; registers: dbkDroppedCount glbSecStatusZeroised. -/
theorem zeroisedStep_frame {z s : State} {m r : Nat} (hm : bitsIn 0x49100012 m) (hr : bitsIn 0x10000000000000000000000000000000000000000000200000 r)
    (hk : z.Frame m r s) : z.Frame m r (zeroisedStep s) := by
  unfold zeroisedStep
  try dsimp only
  repeat' first
    | with_reducible assumption
    | with_reducible first | exact hm.within rfl | exact hr.within rfl | exact hr.at rfl
    | with_reducible first | apply State.Frame.ite | apply State.Frame.foldl | apply State.day_frame | apply State.wr_frame
    | (intro _ _ _; try dsimp only)
    | (intro _; try dsimp only)
    | split
    | exact State.Frame.upd hm (by with_reducible assumption) rfl
    | (refine State.Frame.upd hm ?_ rfl)

/-- Writes: clk; registers: none. -/
theorem State.latchTime_frame {z s : State} {m r : Nat} {acc} (hm : bitsIn 0x8 m) (hr : bitsIn 0x0 r)
    (hk : z.Frame m r s) : z.Frame m r (State.latchTime s acc) := by
  unfold State.latchTime
  try dsimp only
  repeat' first
    | with_reducible assumption
    | with_reducible first | exact hm.within rfl | exact hr.within rfl | exact hr.at rfl
    | with_reducible first | apply State.Frame.ite | apply State.Frame.foldl
    | (intro _ _ _; try dsimp only)
    | (intro _; try dsimp only)
    | split
    | exact State.Frame.upd hm (by with_reducible assumption) rfl
    | (refine State.Frame.upd hm ?_ rfl)

/-- Writes: outbox clk dbk; registers: dbkDroppedCount glbDenyCount glbDenyLastAccessor glbDenyLastAddr
glbDenyLastWrite. -/
theorem optimeReadStep_frame {z s : State} {m r : Nat} {acc} (hm : bitsIn 0x4000000a m) (hr : bitsIn 0x10000000000000000000000000000000000000000003c00000 r)
    (hk : z.Frame m r s) : z.Frame m r (optimeReadStep acc s) := by
  unfold optimeReadStep
  try dsimp only
  repeat' first
    | with_reducible assumption
    | with_reducible first | exact hm.within rfl | exact hr.within rfl | exact hr.at rfl
    | with_reducible first | apply State.Frame.ite | apply State.Frame.foldl | apply State.emit_frame | apply State.deny_frame | apply State.latchTime_frame
    | (intro _ _ _; try dsimp only)
    | (intro _; try dsimp only)
    | split
    | exact State.Frame.upd hm (by with_reducible assumption) rfl
    | (refine State.Frame.upd hm ?_ rfl)


end Sys2Proof.Machine
end

