-- ==== Sys2Proof/Laws/FrameTiers.lean ====
section
/-! SUPPORT. What the functions of Machine/Tiers.lean may write, and that they leave the rest of a state as it is. -/

set_option linter.unusedVariables false

namespace Sys2Proof.Machine

/-- Writes: outbox pits stalls reqs dups streams toks entries wbs lanes fab; registers: pitVqTailCount. -/
theorem State.failTier_frame {z s : State} {m r : Nat} {r' tier} (hm : bitsIn 0x6049ec2 m) (hr : bitsIn 0x2000000000000000000000000000000000000000000000000000000000000000000000000000000000000 r)
    (hk : z.Frame m r s) : z.Frame m r (State.failTier s r' tier) := by
  unfold State.failTier
  try dsimp only
  repeat' first
    | with_reducible assumption
    | with_reducible first | exact hm.within rfl | exact hr.within rfl | exact hr.at rfl
    | with_reducible first | apply State.Frame.ite | apply State.Frame.foldl | apply State.failTok_frame | apply State.failReq_frame
    | (intro _ _ _; try dsimp only)
    | (intro _; try dsimp only)
    | split
    | exact State.Frame.upd hm (by with_reducible assumption) rfl
    | (refine State.Frame.upd hm ?_ rfl)

/-- Writes: reqs; registers: none. -/
theorem State.account_frame {z s : State} {m r : Nat} (hm : bitsIn 0x200 m) (hr : bitsIn 0x0 r)
    (hk : z.Frame m r s) : z.Frame m r (State.account s) := by
  unfold State.account
  try dsimp only
  repeat' first
    | with_reducible assumption
    | with_reducible first | exact hm.within rfl | exact hr.within rfl | exact hr.at rfl
    | with_reducible first | apply State.Frame.ite | apply State.Frame.foldl
    | (intro _ _ _; try dsimp only)
    | (intro _; try dsimp only)
    | split
    | exact State.Frame.upd hm (by with_reducible assumption) rfl
    | (refine State.Frame.upd hm ?_ rfl)

/-- Writes: reqs; registers: none. -/
theorem State.mapWaits_frame {z s : State} {m r : Nat} {t f} (hm : bitsIn 0x200 m) (hr : bitsIn 0x0 r)
    (hk : z.Frame m r s) : z.Frame m r (State.mapWaits s t f) := by
  unfold State.mapWaits
  try dsimp only
  repeat' first
    | with_reducible assumption
    | with_reducible first | exact hm.within rfl | exact hr.within rfl | exact hr.at rfl
    | with_reducible first | apply State.Frame.ite | apply State.Frame.foldl
    | (intro _ _ _; try dsimp only)
    | (intro _; try dsimp only)
    | split
    | exact State.Frame.upd hm (by with_reducible assumption) rfl
    | (refine State.Frame.upd hm ?_ rfl)

/-- Writes: outbox pits stalls reqs dups streams toks entries wbs lanes fab; registers: pitVqTailCount. -/
theorem tileDeadlineStep_frame {z s : State} {m r : Nat} {i p sess tag layer trow tcol} (hm : bitsIn 0x6049ec2 m) (hr : bitsIn 0x2000000000000000000000000000000000000000000000000000000000000000000000000000000000000 r)
    (hk : z.Frame m r s) : z.Frame m r (tileDeadlineStep i p sess tag layer trow tcol s) := by
  unfold tileDeadlineStep
  try dsimp only
  repeat' first
    | with_reducible assumption
    | with_reducible first | exact hm.within rfl | exact hr.within rfl | exact hr.at rfl
    | with_reducible first | apply State.Frame.ite | apply State.Frame.foldl | apply State.failTier_frame | apply State.updReq_frame
    | (intro _ _ _; try dsimp only)
    | (intro _; try dsimp only)
    | split
    | exact State.Frame.upd hm (by with_reducible assumption) rfl
    | (refine State.Frame.upd hm ?_ rfl)

/-- Writes: reqs free; registers: tierStlWaitMaxCycles. -/
theorem State.endWaits_frame {z s : State} {m r : Nat} {i t} (hm : bitsIn 0x100000200 m) (hr : bitsIn 0x100000000000000000000000000000000000000000000000000000000000000000000000000000000000000000000000000000000000 r)
    (hk : z.Frame m r s) : z.Frame m r (State.endWaits s i t) := by
  unfold State.endWaits
  try dsimp only
  repeat' first
    | with_reducible assumption
    | with_reducible first | exact hm.within rfl | exact hr.within rfl | exact hr.at rfl
    | with_reducible first | apply State.Frame.ite | apply State.Frame.foldl | apply State.tookFree_frame | apply State.wrMax_frame
    | (intro _ _ _; try dsimp only)
    | (intro _; try dsimp only)
    | split
    | exact State.Frame.upd hm (by with_reducible assumption) rfl
    | (refine State.Frame.upd hm ?_ rfl)

/-- Writes: nothing but registers; registers: tollMdlLoDeferred. -/
theorem State.noteDeferred_frame {z s : State} {m r : Nat} {p m'} (hm : bitsIn 0x0 m) (hr : bitsIn 0x1000000000000000000000000000000000000000 r)
    (hk : z.Frame m r s) : z.Frame m r (State.noteDeferred s p m') := by
  unfold State.noteDeferred
  try dsimp only
  repeat' first
    | with_reducible assumption
    | with_reducible first | exact hm.within rfl | exact hr.within rfl | exact hr.at rfl
    | with_reducible first | apply State.Frame.ite | apply State.Frame.foldl | apply State.wrB_frame
    | (intro _ _ _; try dsimp only)
    | (intro _; try dsimp only)
    | split

/-- Writes: nothing but registers; registers: tollMdlLoDeferred tollMdlLoDown. -/
theorem State.markDown_frame {z s : State} {m r : Nat} {p m'} (hm : bitsIn 0x0 m) (hr : bitsIn 0x3000000000000000000000000000000000000000 r)
    (hk : z.Frame m r s) : z.Frame m r (State.markDown s p m') := by
  unfold State.markDown
  try dsimp only
  repeat' first
    | with_reducible assumption
    | with_reducible first | exact hm.within rfl | exact hr.within rfl | exact hr.at rfl
    | with_reducible first | apply State.Frame.ite | apply State.Frame.foldl | apply State.wr_frame
    | (intro _ _ _; try dsimp only)
    | (intro _; try dsimp only)
    | split

/-- Writes: free; registers: none. -/
theorem State.srcTier_frame {z s : State} {m r : Nat} {h'} (hm : bitsIn 0x100000000 m) (hr : bitsIn 0x0 r)
    (hk : z.Frame m r s) : z.Frame m r (State.srcTier s h').2 := by
  unfold State.srcTier
  try dsimp only
  repeat' first
    | with_reducible assumption
    | with_reducible first | exact hm.within rfl | exact hr.within rfl | exact hr.at rfl
    | with_reducible first | apply State.Frame.ite | apply State.Frame.foldl | apply State.tookFree_frame
    | (intro _ _ _; try dsimp only)
    | (intro _; try dsimp only)
    | split
    | exact State.Frame.upd hm (by with_reducible assumption) rfl
    | (refine State.Frame.upd hm ?_ rfl)
    | dsimp only

/-- Writes: tier; registers: none. -/
theorem State.setBad_frame {z s : State} {m r : Nat} {b} (hm : bitsIn 0x8000000 m) (hr : bitsIn 0x0 r)
    (hk : z.Frame m r s) : z.Frame m r (State.setBad s b) := by
  unfold State.setBad
  try dsimp only
  repeat' first
    | with_reducible assumption
    | with_reducible first | exact hm.within rfl | exact hr.within rfl | exact hr.at rfl
    | with_reducible first | apply State.Frame.ite | apply State.Frame.foldl
    | (intro _ _ _; try dsimp only)
    | (intro _; try dsimp only)
    | split
    | exact State.Frame.upd hm (by with_reducible assumption) rfl
    | (refine State.Frame.upd hm ?_ rfl)

/-- Writes: outbox pits stalls reqs dups streams toks entries wbs lanes fab tier dbk; registers: dbkDroppedCount
pitVqTailCount tierStatusHomeLost tollMdlLoDeferred tollMdlLoDown. -/
theorem State.homeLost_frame {z s : State} {m r : Nat} {b} (hm : bitsIn 0x4e049ec2 m) (hr : bitsIn 0x2000000000000000000000000000000000010000000003000000000000000000200000000000000000000 r)
    (hk : z.Frame m r s) : z.Frame m r (State.homeLost s b) := by
  unfold State.homeLost
  try dsimp only
  repeat' first
    | with_reducible assumption
    | with_reducible first | exact hm.within rfl | exact hr.within rfl | exact hr.at rfl
    | with_reducible first | apply State.Frame.ite | apply State.Frame.foldl | apply State.setBad_frame | apply State.failTier_frame | apply State.wr_frame | apply State.markDown_frame | apply State.day_frame
    | (intro _ _ _; try dsimp only)
    | (intro _; try dsimp only)
    | split
    | exact State.Frame.upd hm (by with_reducible assumption) rfl
    | (refine State.Frame.upd hm ?_ rfl)

/-- Writes: outbox pits stalls reqs dups streams toks entries wbs lanes fab tier dbk; registers: dbkDroppedCount
pitVqTailCount tierStatusHomeLost tollMdlLoDeferred tollMdlLoDown. -/
theorem State.restoreFrom_frame {z s : State} {m r : Nat} {b x2} (hm : bitsIn 0x4e049ec2 m) (hr : bitsIn 0x2000000000000000000000000000000000010000000003000000000000000000200000000000000000000 r)
    (hk : z.Frame m r s) : z.Frame m r (State.restoreFrom s b x2) := by
  unfold State.restoreFrom
  try dsimp only
  repeat' first
    | with_reducible assumption
    | with_reducible first | exact hm.within rfl | exact hr.within rfl | exact hr.at rfl
    | with_reducible first | apply State.Frame.ite | apply State.Frame.foldl | apply State.homeLost_frame | apply State.readHome_frame | apply State.setBad_frame
    | (intro _ _ _; try dsimp only)
    | (intro _; try dsimp only)
    | split
    | exact State.Frame.upd hm (by with_reducible assumption) rfl
    | (refine State.Frame.upd hm ?_ rfl)

/-- Writes: outbox pits stalls reqs dups streams toks entries wbs asz lanes fab tier dbk; registers: aszStatusWsUncorr
dbkDroppedCount pitVqTailCount stlRoleChain stlRoleChgCount stlRoleRole stlRoleStage stlStatusDraining
stlStatusLoading tierStatusHomeLost tollMdlLoDeferred tollMdlLoDown. -/
theorem State.poisonTile_frame {z s : State} {m r : Nat} {t bank} (hm : bitsIn 0x4e449ec2 m) (hr : bitsIn 0x206d002000000000000020000000000000000000010000000003000000000000000000200000000000000000000 r)
    (hk : z.Frame m r s) : z.Frame m r (State.poisonTile s t bank) := by
  unfold State.poisonTile
  try dsimp only
  repeat' first
    | with_reducible assumption
    | with_reducible first | exact hm.within rfl | exact hr.within rfl | exact hr.at rfl
    | with_reducible first | apply State.Frame.ite | apply State.Frame.foldl | apply State.calibLost_frame | apply State.mapWaits_frame | apply State.restoreFrom_frame | apply State.noteDeferred_frame
    | (intro _ _ _; try dsimp only)
    | (intro _; try dsimp only)
    | split
    | exact State.Frame.upd hm (by with_reducible assumption) rfl
    | (refine State.Frame.upd hm ?_ rfl)

/-- Writes: tier; registers: none. -/
theorem State.queueBank_frame {z s : State} {m r : Nat} {b} (hm : bitsIn 0x8000000 m) (hr : bitsIn 0x0 r)
    (hk : z.Frame m r s) : z.Frame m r (State.queueBank s b) := by
  unfold State.queueBank
  try dsimp only
  repeat' first
    | with_reducible assumption
    | with_reducible first | exact hm.within rfl | exact hr.within rfl | exact hr.at rfl
    | with_reducible first | apply State.Frame.ite | apply State.Frame.foldl
    | (intro _ _ _; try dsimp only)
    | (intro _; try dsimp only)
    | split
    | exact State.Frame.upd hm (by with_reducible assumption) rfl
    | (refine State.Frame.upd hm ?_ rfl)

/-- Writes: tier; registers: glbFaultsCount tierStatusT1Uncorr tierUncorrCount. -/
theorem State.t1Error_frame {z s : State} {m r : Nat} {bank} (hm : bitsIn 0x8000000 m) (hr : bitsIn 0x400000100100000000000000000000 r)
    (hk : z.Frame m r s) : z.Frame m r (State.t1Error s bank) := by
  unfold State.t1Error
  try dsimp only
  repeat' first
    | with_reducible assumption
    | with_reducible first | exact hm.within rfl | exact hr.within rfl | exact hr.at rfl
    | with_reducible first | apply State.Frame.ite | apply State.Frame.foldl | apply State.queueBank_frame | apply State.bump_frame | apply State.wr_frame
    | (intro _ _ _; try dsimp only)
    | (intro _; try dsimp only)
    | split
    | exact State.Frame.upd hm (by with_reducible assumption) rfl
    | (refine State.Frame.upd hm ?_ rfl)

/-- Writes: reqs; registers: none. -/
theorem State.endFetch_frame {z s : State} {m r : Nat} {i t} (hm : bitsIn 0x200 m) (hr : bitsIn 0x0 r)
    (hk : z.Frame m r s) : z.Frame m r (State.endFetch s i t) := by
  unfold State.endFetch
  try dsimp only
  repeat' first
    | with_reducible assumption
    | with_reducible first | exact hm.within rfl | exact hr.within rfl | exact hr.at rfl
    | with_reducible first | apply State.Frame.ite | apply State.Frame.foldl
    | (intro _ _ _; try dsimp only)
    | (intro _; try dsimp only)
    | split
    | exact State.Frame.upd hm (by with_reducible assumption) rfl
    | (refine State.Frame.upd hm ?_ rfl)

/-- Writes: outbox reqs tier factorTick dbk free; registers: dbkDroppedCount tierStlLateCount tierStlWaitMaxCycles
tollMdlLoFactor. -/
theorem State.tileGood_frame {z s : State} {m r : Nat} {i t} (hm : bitsIn 0x168000202 m) (hr : bitsIn 0x180000000000000000000000000000000000000000000000000000000010000000000800000000000000000000000000000000000000 r)
    (hk : z.Frame m r s) : z.Frame m r (State.tileGood s i t) := by
  unfold State.tileGood
  try dsimp only
  repeat' first
    | with_reducible assumption
    | with_reducible first | exact hm.within rfl | exact hr.within rfl | exact hr.at rfl
    | with_reducible first | apply State.Frame.ite | apply State.Frame.foldl | apply State.endWaits_frame | apply State.account_frame | apply State.endFetch_frame | apply State.refill_frame | apply State.keep_frame | apply State.lateReport_frame | apply State.bump_frame
    | (intro _ _ _; try dsimp only)
    | (intro _; try dsimp only)
    | split
    | exact State.Frame.upd hm (by with_reducible assumption) rfl
    | (refine State.Frame.upd hm ?_ rfl)

/-- Writes: outbox pits stalls reqs streams toks entries wbs lanes fab; registers: mxeStatusTileErr pitVqTailCount. -/
theorem State.tileMalformed_frame {z s : State} {m r : Nat} {i t} (hm : bitsIn 0x6049ac2 m) (hr : bitsIn 0x2000000000000000002000000000000000000000000000000000000000000000000000000000000000000000000000000000000 r)
    (hk : z.Frame m r s) : z.Frame m r (State.tileMalformed s i t) := by
  unfold State.tileMalformed
  try dsimp only
  repeat' first
    | with_reducible assumption
    | with_reducible first | exact hm.within rfl | exact hr.within rfl | exact hr.at rfl
    | with_reducible first | apply State.Frame.ite | apply State.Frame.foldl | apply State.wr_frame | apply State.failReq_frame
    | (intro _ _ _; try dsimp only)
    | (intro _; try dsimp only)
    | split
    | exact State.Frame.upd hm (by with_reducible assumption) rfl
    | (refine State.Frame.upd hm ?_ rfl)

/-- Writes: outbox pits stalls reqs dups streams toks entries wbs asz lanes fab tier factorTick dbk free; registers:
aszStatusWsUncorr dbkDroppedCount glbFaultsCount mxeCrcCount mxeStatusCrcErr mxeStatusTileErr pitVqTailCount
stlRoleChain stlRoleChgCount stlRoleRole stlRoleStage stlStatusDraining stlStatusLoading tierCorrCount
tierStatusHomeLost tierStatusT1Uncorr tierStlFetchCount tierStlLateCount tierStlWaitMaxCycles tierUncorrCount
tollMdlLoDeferred tollMdlLoDown tollMdlLoFactor. -/
theorem tileArrivalStep_frame {z s : State} {m r : Nat} {i m' layer trow tcol bseq data corrected} (hm : bitsIn 0x16e449ec2 m) (hr : bitsIn 0x1c200600000000000206d002000000000000020000000000000000000010000000003800000000400000180300000000000000000000 r)
    (hk : z.Frame m r s) : z.Frame m r (tileArrivalStep i m' layer trow tcol bseq data corrected s) := by
  unfold tileArrivalStep
  try dsimp only
  repeat' first
    | with_reducible assumption
    | with_reducible first | exact hm.within rfl | exact hr.within rfl | exact hr.at rfl
    | with_reducible first | apply State.Frame.ite | apply State.Frame.foldl | apply State.bump_frame | apply State.tileGood_frame | apply State.tileMalformed_frame | apply State.wr_frame | apply State.poisonTile_frame | apply State.t1Error_frame | apply State.tookFree_frame
    | (intro _ _ _; try dsimp only)
    | (intro _; try dsimp only)
    | split
    | exact State.Frame.upd hm (by with_reducible assumption) rfl
    | (refine State.Frame.upd hm ?_ rfl)

/-- Writes: outbox pits stalls reqs dups streams toks entries wbs samples lanes fab factorTick dbk; registers:
dbkDroppedCount pitVqTailCount tierLateCount tierStlLateCount tollMdlLoFactor. -/
theorem State.endWaiting_frame {z s : State} {m r : Nat} {r'} (hm : bitsIn 0x67049ec2 m) (hr : bitsIn 0x80000000000000000000002000000000000000000000000000000000010000000000800000000000000400000000000000000000000 r)
    (hk : z.Frame m r s) : z.Frame m r (State.endWaiting s r') := by
  unfold State.endWaiting
  try dsimp only
  repeat' first
    | with_reducible assumption
    | with_reducible first | exact hm.within rfl | exact hr.within rfl | exact hr.at rfl
    | with_reducible first | apply State.Frame.ite | apply State.Frame.foldl | apply State.failTier_frame | apply State.failLate_frame | apply State.releaseFail_frame
    | (intro _ _ _; try dsimp only)
    | (intro _; try dsimp only)
    | split
    | exact State.Frame.upd hm (by with_reducible assumption) rfl
    | (refine State.Frame.upd hm ?_ rfl)

/-- Writes: outbox pits stalls reqs dups streams toks entries wbs samples lanes fab factorTick dbk; registers:
dbkDroppedCount pitVqTailCount tierLateCount tierStlLateCount tollMdlLoFactor. -/
theorem slackExhaustedStep_frame {z s : State} {m r : Nat} {p sess tag} (hm : bitsIn 0x67049ec2 m) (hr : bitsIn 0x80000000000000000000002000000000000000000000000000000000010000000000800000000000000400000000000000000000000 r)
    (hk : z.Frame m r s) : z.Frame m r (slackExhaustedStep p sess tag s) := by
  unfold slackExhaustedStep
  try dsimp only
  repeat' first
    | with_reducible assumption
    | with_reducible first | exact hm.within rfl | exact hr.within rfl | exact hr.at rfl
    | with_reducible first | apply State.Frame.ite | apply State.Frame.foldl | apply State.endWaiting_frame
    | (intro _ _ _; try dsimp only)
    | (intro _; try dsimp only)
    | split
    | exact State.Frame.upd hm (by with_reducible assumption) rfl
    | (refine State.Frame.upd hm ?_ rfl)

/-- Writes: outbox pits stalls reqs dups streams toks entries wbs samples lanes fab factorTick dbk; registers:
dbkDroppedCount pitVqTailCount tierLateCount tierStlLateCount tollMdlLoFactor. -/
theorem pretailStep_frame {z s : State} {m r : Nat} {p sess tag} (hm : bitsIn 0x67049ec2 m) (hr : bitsIn 0x80000000000000000000002000000000000000000000000000000000010000000000800000000000000400000000000000000000000 r)
    (hk : z.Frame m r s) : z.Frame m r (pretailStep p sess tag s) := by
  unfold pretailStep
  try dsimp only
  repeat' first
    | with_reducible assumption
    | with_reducible first | exact hm.within rfl | exact hr.within rfl | exact hr.at rfl
    | with_reducible first | apply State.Frame.ite | apply State.Frame.foldl | apply State.endWaiting_frame
    | (intro _ _ _; try dsimp only)
    | (intro _; try dsimp only)
    | split
    | exact State.Frame.upd hm (by with_reducible assumption) rfl
    | (refine State.Frame.upd hm ?_ rfl)

theorem State.reloadTable_frame {z s : State} {m r i type id tier : Nat} (hm : bitsIn 0x48000002 m) (hr : bitsIn 0x8008040000000000000000000000000000000000000000000010000000000000000000000000000000000000000000000000 r) (h : z.Frame m r s) :
    z.Frame m r (s.reloadTable i type id tier) := by
  have hf : r.testBit (uncorrBit type).ctorIdx = true := by
    unfold uncorrBit
    split
    · exact hr.at rfl
    · split <;> exact hr.at rfl
  unfold State.reloadTable
  dsimp only
  split
  · exact State.emit_frame (hm.within rfl) (hr.within rfl) (State.day_frame (hm.within rfl) (hr.within rfl)
      (State.wr_frame hf (State.Frame.upd hm h rfl)))
  · exact State.day_frame (hm.within rfl) (hr.within rfl) (State.wr_frame hf (State.Frame.upd hm h rfl))
/-- Writes: nothing but registers; registers: grdStatusUncorr. -/
theorem State.markStockStalls_frame {z s : State} {m r : Nat} (hm : bitsIn 0x0 m) (hr : bitsIn 0x8000000000000000000000000000000000000000000000000000000000000000000000000000000000000000000000000000 r)
    (hk : z.Frame m r s) : z.Frame m r (State.markStockStalls s) := by
  unfold State.markStockStalls
  try dsimp only
  repeat' first
    | with_reducible assumption
    | with_reducible first | exact hm.within rfl | exact hr.within rfl | exact hr.at rfl
    | with_reducible first | apply State.Frame.ite | apply State.Frame.foldl | apply State.wr_frame
    | (intro _ _ _; try dsimp only)
    | (intro _; try dsimp only)
    | split

/-- Writes: outbox tier dbk; registers: dbkDroppedCount grdStatusUncorr. -/
theorem State.poisonStock_frame {z s : State} {m r : Nat} {p id off bank} (hm : bitsIn 0x48000002 m) (hr : bitsIn 0x8000000000000000000000000000000000000000000000000010000000000000000000000000000000000000000000000000 r)
    (hk : z.Frame m r s) : z.Frame m r (State.poisonStock s p id off bank) := by
  unfold State.poisonStock
  try dsimp only
  repeat' first
    | with_reducible assumption
    | with_reducible first | exact hm.within rfl | exact hr.within rfl | exact hr.at rfl
    | with_reducible first | apply State.Frame.ite | apply State.Frame.foldl | apply State.Frame.getD | apply State.day_frame | apply State.markStockStalls_frame | apply State.emit_frame
    | (intro _ _ _; try dsimp only)
    | (intro _; try dsimp only)
    | split
    | exact State.Frame.upd hm (by with_reducible assumption) rfl
    | (refine State.Frame.upd hm ?_ rfl)

/-- Writes: outbox entries lanes fab tier; registers: none. -/
theorem State.backToPark_frame {z s : State} {m r : Nat} {e} (hm : bitsIn 0xe008002 m) (hr : bitsIn 0x0 r)
    (hk : z.Frame m r s) : z.Frame m r (State.backToPark s e) := by
  unfold State.backToPark
  try dsimp only
  repeat' first
    | with_reducible assumption
    | with_reducible first | exact hm.within rfl | exact hr.within rfl | exact hr.at rfl
    | with_reducible first | apply State.Frame.ite | apply State.Frame.foldl | apply State.freeEntry_frame | apply State.writeWays_frame
    | (intro _ _ _; try dsimp only)
    | (intro _; try dsimp only)
    | split
    | exact State.Frame.upd hm (by with_reducible assumption) rfl
    | (refine State.Frame.upd hm ?_ rfl)

/-- Writes: outbox pits stalls adms reqs dups streams toks entries parks wbs samples lanes fab tier dbk free; registers:
dbkDroppedCount ldgLostCount pitVqTailCount. -/
theorem State.loseEntry_frame {z s : State} {m r : Nat} {p sess} (hm : bitsIn 0x14f069fc2 m) (hr : bitsIn 0x2000000000000000000000000000000000010000000000000000000000000000000000200000000000000 r)
    (hk : z.Frame m r s) : z.Frame m r (State.loseEntry s p sess) := by
  unfold State.loseEntry
  try dsimp only
  repeat' first
    | with_reducible assumption
    | with_reducible first | exact hm.within rfl | exact hr.within rfl | exact hr.at rfl
    | with_reducible first | apply State.Frame.ite | apply State.Frame.foldl | apply State.Frame.getD | apply State.failTier_frame | apply State.cutStream_frame | apply State.backToPark_frame | apply State.day_frame | apply State.bump_frame | apply State.tookFree_frame | apply State.updEntry_frame
    | (intro _ _ _; try dsimp only)
    | (intro _; try dsimp only)
    | split
    | exact State.Frame.upd hm (by with_reducible assumption) rfl
    | (refine State.Frame.upd hm ?_ rfl)

/-- Writes: outbox pits stalls adms reqs dups streams toks entries parks wbs asz samples lanes fab tier dbk free;
registers: aszStatusWsUncorr dbkDroppedCount glbFaultsCount grdStatusUncorr ldgLostCount ldgStatusUncorr
pitVqTailCount stlRoleChain stlRoleChgCount stlRoleRole stlRoleStage stlStatusDraining stlStatusLoading
sveStatusUncorr tierStatusHomeLost tierStatusT1Uncorr tierUncorrCount tknStatusUncorr tollMdlLoDeferred
tollMdlLoDown. -/
theorem t1UncorrStep_frame {z s : State} {m r : Nat} {bank part} (hm : bitsIn 0x14f469fc2 m) (hr : bitsIn 0x800804000206d002000000000000020000000000000000000010000000003000000000400000100300000202000000000000 r)
    (hk : z.Frame m r s) : z.Frame m r (t1UncorrStep bank part s) := by
  unfold t1UncorrStep
  try dsimp only
  repeat' first
    | with_reducible assumption
    | with_reducible first | exact hm.within rfl | exact hr.within rfl | exact hr.at rfl
    | with_reducible first | apply State.Frame.ite | apply State.Frame.foldl | apply State.t1Error_frame | apply State.poisonTile_frame | apply State.reloadTable_frame | apply State.poisonStock_frame | apply State.loseEntry_frame | apply State.wr_frame | apply State.loseSet_frame
    | (intro _ _ _; try dsimp only)
    | (intro _; try dsimp only)
    | split
    | exact State.Frame.upd hm (by with_reducible assumption) rfl
    | (refine State.Frame.upd hm ?_ rfl)

/-- Writes: nothing but registers; registers: tierCorrCount. -/
theorem patrolStep_frame {z s : State} {m r : Nat} {n} (hm : bitsIn 0x0 m) (hr : bitsIn 0x80000000000000000000000 r)
    (hk : z.Frame m r s) : z.Frame m r (patrolStep n s) := by
  unfold patrolStep
  try dsimp only
  repeat' first
    | with_reducible assumption
    | with_reducible first | exact hm.within rfl | exact hr.within rfl | exact hr.at rfl
    | with_reducible first | apply State.Frame.ite | apply State.Frame.foldl | apply State.bump_frame
    | (intro _ _ _; try dsimp only)
    | (intro _; try dsimp only)
    | split

/-- Writes: outbox reqs lanes fab tier dbk free; registers: dbkDroppedCount tierRestoresCount tollMdlLoDeferred. -/
theorem State.restored_frame {z s : State} {m r : Nat} {b h' bytes} (hm : bitsIn 0x14e000202 m) (hr : bitsIn 0x10000000001000000000000000200000000000000000000000 r)
    (hk : z.Frame m r s) : z.Frame m r (State.restored s b h' bytes) := by
  unfold State.restored
  try dsimp only
  repeat' first
    | with_reducible assumption
    | with_reducible first | exact hm.within rfl | exact hr.within rfl | exact hr.at rfl
    | with_reducible first | apply State.Frame.ite | apply State.Frame.foldl | apply State.Frame.getD | apply State.srcTier_frame | apply State.mapWaits_frame | apply State.day_frame | apply State.bump_frame | apply State.writeHome_frame | apply State.noteDeferred_frame
    | (intro _ _ _; try dsimp only)
    | (intro _; try dsimp only)
    | split
    | with_reducible first | refine State.Frame.ofSnd ‹_› ?_
    | exact State.Frame.upd hm (by with_reducible assumption) rfl
    | (refine State.Frame.upd hm ?_ rfl)
    | dsimp only

/-- Writes: outbox pits stalls reqs dups streams toks entries wbs lanes fab tier dbk free; registers: dbkDroppedCount
pitVqTailCount tierStatusHomeLost tollMdlLoDeferred tollMdlLoDown. -/
theorem State.restoreFail_frame {z s : State} {m r : Nat} {b} (hm : bitsIn 0x14e049ec2 m) (hr : bitsIn 0x2000000000000000000000000000000000010000000003000000000000000000200000000000000000000 r)
    (hk : z.Frame m r s) : z.Frame m r (State.restoreFail s b) := by
  unfold State.restoreFail
  try dsimp only
  repeat' first
    | with_reducible assumption
    | with_reducible first | exact hm.within rfl | exact hr.within rfl | exact hr.at rfl
    | with_reducible first | apply State.Frame.ite | apply State.Frame.foldl | apply State.srcTier_frame | apply State.noteDeferred_frame | apply State.restoreFrom_frame
    | (intro _ _ _; try dsimp only)
    | (intro _; try dsimp only)
    | split
    | with_reducible first | refine State.Frame.ofSnd ‹_› ?_
    | exact State.Frame.upd hm (by with_reducible assumption) rfl
    | (refine State.Frame.upd hm ?_ rfl)
    | dsimp only

/-- Writes: outbox pits stalls reqs dups streams toks entries wbs lanes fab tier dbk free; registers: dbkDroppedCount
pitVqTailCount tierRestoresCount tierStatusHomeLost tollMdlLoDeferred tollMdlLoDown. -/
theorem restoreStep_frame {z s : State} {m r : Nat} {t data} (hm : bitsIn 0x14e049ec2 m) (hr : bitsIn 0x2000000000000000000000000000000000010000000003000000000000000200200000000000000000000 r)
    (hk : z.Frame m r s) : z.Frame m r (restoreStep t data s) := by
  unfold restoreStep
  try dsimp only
  repeat' first
    | with_reducible assumption
    | with_reducible first | exact hm.within rfl | exact hr.within rfl | exact hr.at rfl
    | with_reducible first | apply State.Frame.ite | apply State.Frame.foldl | apply State.restoreFail_frame | apply State.restored_frame
    | (intro _ _ _; try dsimp only)
    | (intro _; try dsimp only)
    | split
    | exact State.Frame.upd hm (by with_reducible assumption) rfl
    | (refine State.Frame.upd hm ?_ rfl)

/-- Writes: outbox pits stalls reqs dups streams toks entries revives parks wbs lanes fab tier dbk free; registers:
dbkDroppedCount ldgLostCount ldgStatusPoolFail pitVqTailCount tierStatusHomeLost tollMdlLoDeferred tollMdlLoDown. -/
theorem poolTimeoutStep_frame {z s : State} {m r : Nat} {pool} (hm : bitsIn 0x14e079ec2 m) (hr : bitsIn 0x2000000000000000000000000000000000010000000003000000000000000000200000204000000000000 r)
    (hk : z.Frame m r s) : z.Frame m r (poolTimeoutStep pool s) := by
  unfold poolTimeoutStep
  try dsimp only
  repeat' first
    | with_reducible assumption
    | with_reducible first | exact hm.within rfl | exact hr.within rfl | exact hr.at rfl
    | with_reducible first | apply State.Frame.ite | apply State.Frame.foldl | apply ledgerTimeoutStep_frame | apply State.account_frame | apply State.restoreFail_frame
    | (intro _ _ _; try dsimp only)
    | (intro _; try dsimp only)
    | split
    | exact State.Frame.upd hm (by with_reducible assumption) rfl
    | (refine State.Frame.upd hm ?_ rfl)

/-- Writes: tier; registers: none. -/
theorem State.dropReload_frame {z s : State} {m r : Nat} {x} (hm : bitsIn 0x8000000 m) (hr : bitsIn 0x0 r)
    (hk : z.Frame m r s) : z.Frame m r (State.dropReload s x) := by
  unfold State.dropReload
  try dsimp only
  repeat' first
    | with_reducible assumption
    | with_reducible first | exact hm.within rfl | exact hr.within rfl | exact hr.at rfl
    | with_reducible first | apply State.Frame.ite | apply State.Frame.foldl
    | (intro _ _ _; try dsimp only)
    | (intro _; try dsimp only)
    | split
    | exact State.Frame.upd hm (by with_reducible assumption) rfl
    | (refine State.Frame.upd hm ?_ rfl)

/-- Writes: outbox pits stalls reqs dups streams toks entries wbs lanes fab tier dbk; registers: dbkDroppedCount
grdStatusUncorr pitVqTailCount sveStatusUncorr tierStatusHomeLost tierStatusT1Uncorr tierUncorrCount tknStatusUncorr
tollMdlLoDeferred tollMdlLoDown. -/
theorem tableReloadStep_frame {z s : State} {m r : Nat} {i type id data} (hm : bitsIn 0x4e049ec2 m) (hr : bitsIn 0x8008040000000002000000000000000000000000000000000010000000003000000000000000100300000000000000000000 r)
    (hk : z.Frame m r s) : z.Frame m r (tableReloadStep i type id data s) := by
  unfold tableReloadStep
  try dsimp only
  repeat' first
    | with_reducible assumption
    | with_reducible first | exact hm.within rfl | exact hr.within rfl | exact hr.at rfl
    | with_reducible first | apply State.Frame.ite | apply State.Frame.foldl | apply State.dropReload_frame | apply State.account_frame | apply State.reloadTable_frame | apply State.bump_frame | apply State.wr_frame | apply State.failTier_frame | apply State.markDown_frame
    | (intro _ _ _; try dsimp only)
    | (intro _; try dsimp only)
    | split
    | exact State.Frame.upd hm (by with_reducible assumption) rfl
    | (refine State.Frame.upd hm ?_ rfl)

/-- Writes: tier; registers: none. -/
theorem State.dropLine_frame {z s : State} {m r : Nat} {x} (hm : bitsIn 0x8000000 m) (hr : bitsIn 0x0 r)
    (hk : z.Frame m r s) : z.Frame m r (State.dropLine s x) := by
  unfold State.dropLine
  try dsimp only
  repeat' first
    | with_reducible assumption
    | with_reducible first | exact hm.within rfl | exact hr.within rfl | exact hr.at rfl
    | with_reducible first | apply State.Frame.ite | apply State.Frame.foldl
    | (intro _ _ _; try dsimp only)
    | (intro _; try dsimp only)
    | split
    | exact State.Frame.upd hm (by with_reducible assumption) rfl
    | (refine State.Frame.upd hm ?_ rfl)

/-- Writes: outbox pits stalls reqs dups streams toks entries wbs lanes fab tier; registers: pitVqTailCount
tierStatusHomeLost tollMdlLoDeferred tollMdlLoDown. -/
theorem stockRereadStep_frame {z s : State} {m r : Nat} {p id line data} (hm : bitsIn 0xe049ec2 m) (hr : bitsIn 0x2000000000000000000000000000000000000000000003000000000000000000200000000000000000000 r)
    (hk : z.Frame m r s) : z.Frame m r (stockRereadStep p id line data s) := by
  unfold stockRereadStep
  try dsimp only
  repeat' first
    | with_reducible assumption
    | with_reducible first | exact hm.within rfl | exact hr.within rfl | exact hr.at rfl
    | with_reducible first | apply State.Frame.ite | apply State.Frame.foldl | apply State.dropLine_frame | apply State.account_frame | apply State.failTier_frame | apply State.wr_frame | apply State.markDown_frame
    | (intro _ _ _; try dsimp only)
    | (intro _; try dsimp only)
    | split
    | exact State.Frame.upd hm (by with_reducible assumption) rfl
    | (refine State.Frame.upd hm ?_ rfl)


end Sys2Proof.Machine
end

