-- ==== Sys2Proof/Laws/FrameDaybook.lean ====
section
/-! SUPPORT. What the functions of Machine/Daybook.lean may write, and that they leave the rest of a state as it is. -/

set_option linter.unusedVariables false

namespace Sys2Proof.Machine

/-- Writes: outbox dbk; registers: dbkLiveCount dbkStatusFull dbkTopPos. -/
theorem State.programOne_frame {z s : State} {m r : Nat} {r' isOpen} (hm : bitsIn 0x40000002 m) (hr : bitsIn 0xc0800000000000000000000000000000000000000000000000 r)
    (hk : z.Frame m r s) : z.Frame m r (State.programOne s r' isOpen) := by
  unfold State.programOne
  try dsimp only
  repeat' first
    | with_reducible assumption
    | with_reducible first | exact hm.within rfl | exact hr.within rfl | exact hr.at rfl
    | with_reducible first | apply State.Frame.ite | apply State.Frame.foldl | apply State.emit_frame | apply State.wr_frame
    | (intro _ _ _; try dsimp only)
    | (intro _; try dsimp only)
    | split
    | exact State.Frame.upd hm (by with_reducible assumption) rfl
    | (refine State.Frame.upd hm ?_ rfl)

/-- Writes: outbox dbk; registers: dbkLiveCount dbkStatusFull dbkTopPos. -/
theorem State.programHead_frame {z s : State} {m r : Nat} {flushed} (hm : bitsIn 0x40000002 m) (hr : bitsIn 0xc0800000000000000000000000000000000000000000000000 r)
    (hk : z.Frame m r s) : z.Frame m r (State.programHead s flushed) := by
  unfold State.programHead
  try dsimp only
  repeat' first
    | with_reducible assumption
    | with_reducible first | exact hm.within rfl | exact hr.within rfl | exact hr.at rfl
    | with_reducible first | apply State.Frame.ite | apply State.Frame.foldl | apply State.programOne_frame
    | (intro _ _ _; try dsimp only)
    | (intro _; try dsimp only)
    | split
    | exact State.Frame.upd hm (by with_reducible assumption) rfl
    | (refine State.Frame.upd hm ?_ rfl)

theorem State.programN_frame {z s : State} {m r n : Nat} {b} (hm : bitsIn 0x40000002 m) (hr : bitsIn 0xc0800000000000000000000000000000000000000000000000 r) (h : z.Frame m r s) :
    z.Frame m r (s.programN b n) := by
  induction n generalizing s with
  | zero => exact h
  | succ n ih =>
    unfold State.programN
    split
    · exact ih (State.programHead_frame (hm.within rfl) (hr.within rfl) h)
    · exact h
/-- Writes: outbox dbk; registers: dbkLiveCount dbkStatusFull dbkTopPos. -/
theorem programStep_frame {z s : State} {m r : Nat} (hm : bitsIn 0x40000002 m) (hr : bitsIn 0xc0800000000000000000000000000000000000000000000000 r)
    (hk : z.Frame m r s) : z.Frame m r (programStep s) := by
  unfold programStep
  try dsimp only
  repeat' first
    | with_reducible assumption
    | with_reducible first | exact hm.within rfl | exact hr.within rfl | exact hr.at rfl
    | with_reducible first | apply State.Frame.ite | apply State.Frame.foldl | apply State.programN_frame
    | (intro _ _ _; try dsimp only)
    | (intro _; try dsimp only)
    | split
    | exact State.Frame.upd hm (by with_reducible assumption) rfl
    | (refine State.Frame.upd hm ?_ rfl)

/-- Writes: outbox dbk; registers: wchSlotSeqSeq. -/
theorem State.saveSlot_frame {z s : State} {m r : Nat} {clean} (hm : bitsIn 0x40000002 m) (hr : bitsIn 0x400000000000000000000000000000000000000000000000 r)
    (hk : z.Frame m r s) : z.Frame m r (State.saveSlot s clean) := by
  unfold State.saveSlot
  try dsimp only
  repeat' first
    | with_reducible assumption
    | with_reducible first | exact hm.within rfl | exact hr.within rfl | exact hr.at rfl
    | with_reducible first | apply State.Frame.ite | apply State.Frame.foldl | apply State.Frame.getD | apply State.emit_frame | apply State.wr_frame
    | (intro _ _ _; try dsimp only)
    | (intro _; try dsimp only)
    | split
    | exact State.Frame.upd hm (by with_reducible assumption) rfl
    | (refine State.Frame.upd hm ?_ rfl)

/-- Writes: outbox dbk; registers: dbkLiveCount dbkStatusFull dbkTopPos wchSlotSeqSeq. -/
theorem State.flushDbk_frame {z s : State} {m r : Nat} {lead} (hm : bitsIn 0x40000002 m) (hr : bitsIn 0xc0c00000000000000000000000000000000000000000000000 r)
    (hk : z.Frame m r s) : z.Frame m r (State.flushDbk s lead) := by
  unfold State.flushDbk
  try dsimp only
  repeat' first
    | with_reducible assumption
    | with_reducible first | exact hm.within rfl | exact hr.within rfl | exact hr.at rfl
    | with_reducible first | apply State.Frame.ite | apply State.Frame.foldl | apply State.saveSlot_frame | apply State.dbkClose_frame | apply State.programOne_frame | apply State.programN_frame
    | (intro _ _ _; try dsimp only)
    | (intro _; try dsimp only)
    | split
    | exact State.Frame.upd hm (by with_reducible assumption) rfl
    | (refine State.Frame.upd hm ?_ rfl)

/-- Writes: outbox dbk; registers: none. -/
theorem eraseStep_frame {z s : State} {m r : Nat} (hm : bitsIn 0x40000002 m) (hr : bitsIn 0x0 r)
    (hk : z.Frame m r s) : z.Frame m r (eraseStep s) := by
  unfold eraseStep
  try dsimp only
  repeat' first
    | with_reducible assumption
    | with_reducible first | exact hm.within rfl | exact hr.within rfl | exact hr.at rfl
    | with_reducible first | apply State.Frame.ite | apply State.Frame.foldl | apply State.emit_frame
    | (intro _ _ _; try dsimp only)
    | (intro _; try dsimp only)
    | split
    | exact State.Frame.upd hm (by with_reducible assumption) rfl
    | (refine State.Frame.upd hm ?_ rfl)

/-- Writes: dbk; registers: none. -/
theorem State.updView_frame {z s : State} {m r : Nat} {v f} (hm : bitsIn 0x40000000 m) (hr : bitsIn 0x0 r)
    (hk : z.Frame m r s) : z.Frame m r (State.updView s v f) := by
  unfold State.updView
  try dsimp only
  repeat' first
    | with_reducible assumption
    | with_reducible first | exact hm.within rfl | exact hr.within rfl | exact hr.at rfl
    | with_reducible first | apply State.Frame.ite | apply State.Frame.foldl
    | (intro _ _ _; try dsimp only)
    | (intro _; try dsimp only)
    | split
    | exact State.Frame.upd hm (by with_reducible assumption) rfl
    | (refine State.Frame.upd hm ?_ rfl)

theorem State.latch_frame {z s : State} {m r v : Nat} {x} (hm : bitsIn 0x140000000 m) (hr : bitsIn 0x2e0008000000000000000000000000000000000000000000000000 r) (h : z.Frame m r s) :
    z.Frame m r (s.latch v x) := by
  unfold State.latch
  dsimp only
  refine State.updView_frame (hm.within rfl) (hr.within rfl) ?_
  have h' := State.wrB_frame (f := .dbkVStatSkipped) (i := v) (b := (s.view v).skipped) (hr.at rfl) (State.wrB_frame (f := .dbkVStatOpen)
    (i := v) (b := s.isOpenAt x) (hr.at rfl) (State.wrB_frame (f := .dbkVStatCrcBad) (i := v) (b := x.what.isNone) (hr.at rfl)
      (State.Frame.foldl (xs := List.range 8) (f := fun (a : State) j => a.wr .dbkVDataBytes (8 * v + j) (match x.what with
        | some r => getLe (r.bytes r.rep) (4 * j) 4
        | none => Config.freeValue (s.free + j))) h fun t x ht => State.wr_frame (hr.at rfl) ht)))
  split
  · exact State.setFree_frame (hm.at rfl) (State.wr_frame (hr.at rfl) h')
  · exact h'
/-- Writes: dbk free; registers: dbkStatusCrcSeen dbkVDataBytes dbkVStatCrcBad dbkVStatOpen dbkVStatSkipped. -/
theorem State.moveView_frame {z s : State} {m r : Nat} {v} (hm : bitsIn 0x140000000 m) (hr : bitsIn 0x2e0008000000000000000000000000000000000000000000000000 r)
    (hk : z.Frame m r s) : z.Frame m r (State.moveView s v).2 := by
  unfold State.moveView
  try dsimp only
  repeat' first
    | with_reducible assumption
    | with_reducible first | exact hm.within rfl | exact hr.within rfl | exact hr.at rfl
    | with_reducible first | apply State.Frame.ite | apply State.Frame.foldl | apply State.latch_frame | apply State.updView_frame
    | (intro _ _ _; try dsimp only)
    | (intro _; try dsimp only)
    | split
    | exact State.Frame.upd hm (by with_reducible assumption) rfl
    | (refine State.Frame.upd hm ?_ rfl)
    | dsimp only

theorem State.viewRead_frame {z s : State} {m r v : Nat} {acc f eff} (hm : bitsIn 0x40000002 m) (hr : bitsIn 0x10000000000000000000000000000000000000000003c00000 r) (h : z.Frame m r s)
    (he : ∀ t, z.Frame m r t → z.Frame m r (eff t).2) : z.Frame m r (s.viewRead acc f v eff) := by
  unfold State.viewRead
  dsimp only
  split
  · exact State.emit_frame (hm.within rfl) (hr.within rfl) h
  · split
    · exact State.emit_frame (hm.within rfl) (hr.within rfl) (State.deny_frame (hm.within rfl) (hr.within rfl) h)
    · split
      · exact State.emit_frame (hm.within rfl) (hr.within rfl) h
      · exact State.emit_frame (hm.within rfl) (hr.within rfl) (he s h)
theorem viewNextStep_frame {z s : State} {m r v : Nat} {acc} (hm : bitsIn 0x140000002 m) (hr : bitsIn 0x2e0018000000000000000000000000000000000000000003c00000 r) (h : z.Frame m r s) :
    z.Frame m r (viewNextStep acc v s) :=
  State.viewRead_frame (hm.within rfl) (hr.within rfl) h fun _ ht => State.moveView_frame (hm.within rfl) (hr.within rfl) ht
/-- Writes: dbk; registers: none. -/
theorem viewFetchStep_frame {z s : State} {m r : Nat} {v} (hm : bitsIn 0x40000000 m) (hr : bitsIn 0x0 r)
    (hk : z.Frame m r s) : z.Frame m r (viewFetchStep v s) := by
  unfold viewFetchStep
  try dsimp only
  repeat' first
    | with_reducible assumption
    | with_reducible first | exact hm.within rfl | exact hr.within rfl | exact hr.at rfl
    | with_reducible first | apply State.Frame.ite | apply State.Frame.foldl | apply State.updView_frame
    | (intro _ _ _; try dsimp only)
    | (intro _; try dsimp only)
    | split
    | exact State.Frame.upd hm (by with_reducible assumption) rfl
    | (refine State.Frame.upd hm ?_ rfl)

theorem viewRewindStep_frame {z s : State} {m r v : Nat} {acc} (hm : bitsIn 0x40000002 m) (hr : bitsIn 0x10000000000000000000000000000000000000000003c00000 r) (h : z.Frame m r s) :
    z.Frame m r (viewRewindStep acc v s) :=
  State.viewRead_frame (hm.within rfl) (hr.within rfl) h fun _ ht => State.updView_frame (hm.within rfl) (hr.within rfl) ht
/-- Writes: outbox dbk; registers: dbkClrStatErr dbkDroppedCount. -/
theorem State.clearRefused_frame {z s : State} {m r : Nat} {code count} (hm : bitsIn 0x40000002 m) (hr : bitsIn 0x8010000000000000000000000000000000000000000000000000 r)
    (hk : z.Frame m r s) : z.Frame m r (State.clearRefused s code count) := by
  unfold State.clearRefused
  try dsimp only
  repeat' first
    | with_reducible assumption
    | with_reducible first | exact hm.within rfl | exact hr.within rfl | exact hr.at rfl
    | with_reducible first | apply State.Frame.ite | apply State.Frame.foldl | apply State.day_frame | apply State.wr_frame
    | (intro _ _ _; try dsimp only)
    | (intro _; try dsimp only)
    | split
    | exact State.Frame.upd hm (by with_reducible assumption) rfl
    | (refine State.Frame.upd hm ?_ rfl)

/-- Writes: outbox dbk; registers: dbkClrStatErr dbkClrStatState dbkDroppedCount. -/
theorem State.submitClear_frame {z s : State} {m r : Nat} (hm : bitsIn 0x40000002 m) (hr : bitsIn 0xc010000000000000000000000000000000000000000000000000 r)
    (hk : z.Frame m r s) : z.Frame m r (State.submitClear s) := by
  unfold State.submitClear
  try dsimp only
  repeat' first
    | with_reducible assumption
    | with_reducible first | exact hm.within rfl | exact hr.within rfl | exact hr.at rfl
    | with_reducible first | apply State.Frame.ite | apply State.Frame.foldl | apply State.clearRefused_frame | apply State.wr_frame | apply State.emit_frame
    | (intro _ _ _; try dsimp only)
    | (intro _; try dsimp only)
    | split
    | exact State.Frame.upd hm (by with_reducible assumption) rfl
    | (refine State.Frame.upd hm ?_ rfl)

/-- Writes: outbox dbk; registers: dbkClrStatErr dbkClrStatState dbkDroppedCount. -/
theorem State.writeClear_frame {z s : State} {m r : Nat} {w'} (hm : bitsIn 0x40000002 m) (hr : bitsIn 0xc010000000000000000000000000000000000000000000000000 r)
    (hk : z.Frame m r s) : z.Frame m r (State.writeClear s w') := by
  unfold State.writeClear
  try dsimp only
  repeat' first
    | with_reducible assumption
    | with_reducible first | exact hm.within rfl | exact hr.within rfl | exact hr.at rfl
    | with_reducible first | apply State.Frame.ite | apply State.Frame.foldl | apply State.submitClear_frame
    | (intro _ _ _; try dsimp only)
    | (intro _; try dsimp only)
    | split
    | exact State.Frame.upd hm (by with_reducible assumption) rfl
    | (refine State.Frame.upd hm ?_ rfl)

/-- Writes: outbox dbk; registers: dbkClrStatErr dbkClrStatState dbkDroppedCount glbDenyCount glbDenyLastAccessor
glbDenyLastAddr glbDenyLastWrite. -/
theorem clearSubmitStep_frame {z s : State} {m r : Nat} {acc w'} (hm : bitsIn 0x40000002 m) (hr : bitsIn 0xc010000000000000000000000000000000000000000003c00000 r)
    (hk : z.Frame m r s) : z.Frame m r (clearSubmitStep acc w' s) := by
  unfold clearSubmitStep
  try dsimp only
  repeat' first
    | with_reducible assumption
    | with_reducible first | exact hm.within rfl | exact hr.within rfl | exact hr.at rfl
    | with_reducible first | apply State.Frame.ite | apply State.Frame.foldl | apply State.FrameEither.ite | apply State.FrameEither.ofInl | apply State.FrameEither.ofInr | apply State.gate_frame | apply State.writeClear_frame
    | (intro _ _ _; try dsimp only)
    | (intro _; try dsimp only)
    | split
    | with_reducible first | refine State.Frame.ofInl ‹_› ?_ | refine State.Frame.ofInr ‹_› ?_
    | exact State.Frame.upd hm (by with_reducible assumption) rfl
    | (refine State.Frame.upd hm ?_ rfl)
    | dsimp only

/-- Writes: outbox dbk; registers: dbkClrStatErr dbkClrStatState dbkDroppedCount. -/
theorem clearCheckedStep_frame {z s : State} {m r : Nat} {data} (hm : bitsIn 0x40000002 m) (hr : bitsIn 0xc010000000000000000000000000000000000000000000000000 r)
    (hk : z.Frame m r s) : z.Frame m r (clearCheckedStep data s) := by
  unfold clearCheckedStep
  try dsimp only
  repeat' first
    | with_reducible assumption
    | with_reducible first | exact hm.within rfl | exact hr.within rfl | exact hr.at rfl
    | with_reducible first | apply State.Frame.ite | apply State.Frame.foldl | apply State.wr_frame | apply State.clearRefused_frame
    | (intro _ _ _; try dsimp only)
    | (intro _; try dsimp only)
    | split
    | exact State.Frame.upd hm (by with_reducible assumption) rfl
    | (refine State.Frame.upd hm ?_ rfl)

/-- Writes: dbk; registers: dbkVStatSkipped. -/
theorem State.skipViews_frame {z s : State} {m r : Nat} {count} (hm : bitsIn 0x40000000 m) (hr : bitsIn 0x20000000000000000000000000000000000000000000000000000 r)
    (hk : z.Frame m r s) : z.Frame m r (State.skipViews s count) := by
  unfold State.skipViews
  try dsimp only
  repeat' first
    | with_reducible assumption
    | with_reducible first | exact hm.within rfl | exact hr.within rfl | exact hr.at rfl
    | with_reducible first | apply State.Frame.ite | apply State.Frame.foldl | apply State.wr_frame | apply State.updView_frame
    | (intro _ _ _; try dsimp only)
    | (intro _; try dsimp only)
    | split
    | exact State.Frame.upd hm (by with_reducible assumption) rfl
    | (refine State.Frame.upd hm ?_ rfl)

theorem clearCommitStep_frame {z s : State} {m r : Nat} (hm : bitsIn 0x40000002 m) (hr : bitsIn 0x200e0800000000000000000000000000000000000000000000000 r) (h : z.Frame m r s) :
    z.Frame m r (clearCommitStep s) := by
  unfold clearCommitStep
  split
  · exact h
  · exact State.setDbk_frame (hm.at rfl) (State.wrB_frame (hr.at rfl) (State.wr_frame (hr.at rfl) (State.wr_frame (hr.at rfl)
      (State.skipViews_frame (hm.within rfl) (hr.within rfl) (State.programOne_frame (hm.within rfl) (hr.within rfl)
        (State.dbkClose_frame (hm.within rfl) (hr.within rfl) h))))))

end Sys2Proof.Machine
end

