-- ==== Sys2Proof/Laws/FrameFaults.lean ====
section
/-! SUPPORT. What the functions of Machine/Faults.lean may write, and that they leave the rest of a state as it is. -/

set_option linter.unusedVariables false

namespace Sys2Proof.Machine

/-- Writes: stalls; registers: glbFaultsCount stlFaultCause stlFaultUnit stlFaultsCount stlTransCount. -/
theorem State.countFault_frame {z s : State} {m r : Nat} {i unit cause} (hm : bitsIn 0x80 m) (hr : bitsIn 0x498000000000000000000000000000000000000000000000000000000000000400000000000000000000000000000 r)
    (hk : z.Frame m r s) : z.Frame m r (State.countFault s i unit cause) := by
  unfold State.countFault
  try dsimp only
  repeat' first
    | with_reducible assumption
    | with_reducible first | exact hm.within rfl | exact hr.within rfl | exact hr.at rfl
    | with_reducible first | apply State.Frame.ite | apply State.Frame.foldl | apply State.updStl_frame | apply State.bump_frame | apply State.wr_frame
    | (intro _ _ _; try dsimp only)
    | (intro _; try dsimp only)
    | split
    | exact State.Frame.upd hm (by with_reducible assumption) rfl
    | (refine State.Frame.upd hm ?_ rfl)

/-- Writes: outbox stalls tier dbk; registers: any register. -/
theorem State.beginTest_frame {z s : State} {m r : Nat} {i} (hm : bitsIn 0x48000082 m) (hr : bitsIn 0x3fffffffffffffffffffffffffffffffffffffffffffffffffffffffffffffffffffffffffffffffffffffffffffffffffffffffffff r)
    (hk : z.Frame m r s) : z.Frame m r (State.beginTest s i) := by
  unfold State.beginTest
  try dsimp only
  repeat' first
    | with_reducible assumption
    | with_reducible first | exact hm.within rfl | exact hr.within rfl | exact hr.at rfl
    | with_reducible first | apply State.Frame.ite | apply State.Frame.foldl | apply State.updStl_frame | apply State.resetStall_frame | apply State.day_frame | apply State.wr_frame
    | exact hr.at (allRegs_at _)
    | (intro _ _ _; try dsimp only)
    | (intro _; try dsimp only)
    | split
    | exact State.Frame.upd hm (by with_reducible assumption) rfl
    | (refine State.Frame.upd hm ?_ rfl)

/-- Writes: outbox pits stalls adms reqs dups streams toks chains entries wbs samples lanes fab tier dbk; registers: any
register. -/
theorem stallFaultStep_frame {z s : State} {m r : Nat} {i unit cause tagPitch} (hm : bitsIn 0x4f04dfc2 m) (hr : bitsIn 0x3fffffffffffffffffffffffffffffffffffffffffffffffffffffffffffffffffffffffffffffffffffffffffffffffffffffffffff r)
    (hk : z.Frame m r s) : z.Frame m r (stallFaultStep i unit cause tagPitch s) := by
  unfold stallFaultStep
  try dsimp only
  repeat' first
    | with_reducible assumption
    | with_reducible first | exact hm.within rfl | exact hr.within rfl | exact hr.at rfl
    | with_reducible first | apply State.Frame.ite | apply State.Frame.foldl | apply State.Frame.foldlFst | apply State.day_frame | apply State.updStl_frame | apply State.stopStalls_frame | apply State.countFault_frame | apply State.dayChains_frame | apply State.trimSteps_frame | apply State.beginTest_frame
    | exact hr.at (allRegs_at _)
    | (intro _ _ _; try dsimp only)
    | (intro _; try dsimp only)
    | split
    | with_reducible first | refine State.Frame.ofFst ‹_› ?_
    | exact State.Frame.upd hm (by with_reducible assumption) rfl
    | (refine State.Frame.upd hm ?_ rfl)
    | dsimp only

/-- Writes: outbox pits stalls asz lanes fab dbk; registers: dbkDroppedCount stlRoleChain stlRoleChgCount stlRoleRole
stlRoleStage stlStatusDraining stlStatusLoading. -/
theorem State.dropStranded_frame {z s : State} {m r : Nat} {p} (hm : bitsIn 0x464000c2 m) (hr : bitsIn 0x206d000000000000000000000000000000000000010000000000000000000000000000000000000000000000000 r)
    (hk : z.Frame m r s) : z.Frame m r (State.dropStranded s p) := by
  unfold State.dropStranded
  try dsimp only
  repeat' first
    | with_reducible assumption
    | with_reducible first | exact hm.within rfl | exact hr.within rfl | exact hr.at rfl
    | with_reducible first | apply State.Frame.ite | apply State.Frame.foldl | apply State.discardAll_frame
    | (intro _ _ _; try dsimp only)
    | (intro _; try dsimp only)
    | split
    | exact State.Frame.upd hm (by with_reducible assumption) rfl
    | (refine State.Frame.upd hm ?_ rfl)

/-- Writes: outbox pits stalls chains asz lanes fab dbk; registers: dbkDroppedCount glbRetiredCount stlFaultRetired
stlFaultTesting stlRoleChain stlRoleChgCount stlRoleRole stlRoleStage stlStatusDraining stlStatusLoading. -/
theorem State.retire_frame {z s : State} {m r : Nat} {i} (hm : bitsIn 0x464040c2 m) (hr : bitsIn 0x6206d000000000000000000000000000000000000010000000000000000000800000000000000000000000000000 r)
    (hk : z.Frame m r s) : z.Frame m r (State.retire s i) := by
  unfold State.retire
  try dsimp only
  repeat' first
    | with_reducible assumption
    | with_reducible first | exact hm.within rfl | exact hr.within rfl | exact hr.at rfl
    | with_reducible first | apply State.Frame.ite | apply State.Frame.foldl | apply State.wr_frame | apply State.updStl_frame | apply State.bump_frame | apply State.dropStranded_frame | apply State.trimSteps_frame
    | (intro _ _ _; try dsimp only)
    | (intro _; try dsimp only)
    | split
    | exact State.Frame.upd hm (by with_reducible assumption) rfl
    | (refine State.Frame.upd hm ?_ rfl)

/-- Writes: outbox pits stalls chains asz lanes fab dbk; registers: dbkDroppedCount glbRetiredCount stlFaultRetired
stlFaultTesting stlRoleChain stlRoleChgCount stlRoleRole stlRoleStage stlStatusDraining stlStatusLoading. -/
theorem State.retireBy_frame {z s : State} {m r : Nat} {i step} (hm : bitsIn 0x464040c2 m) (hr : bitsIn 0x6206d000000000000000000000000000000000000010000000000000000000800000000000000000000000000000 r)
    (hk : z.Frame m r s) : z.Frame m r (State.retireBy s i step) := by
  unfold State.retireBy
  try dsimp only
  repeat' first
    | with_reducible assumption
    | with_reducible first | exact hm.within rfl | exact hr.within rfl | exact hr.at rfl
    | with_reducible first | apply State.Frame.ite | apply State.Frame.foldl | apply State.retire_frame | apply State.day_frame
    | (intro _ _ _; try dsimp only)
    | (intro _; try dsimp only)
    | split
    | exact State.Frame.upd hm (by with_reducible assumption) rfl
    | (refine State.Frame.upd hm ?_ rfl)

/-- Writes: outbox pits stalls chains asz lanes fab dbk free; registers: dbkDroppedCount glbRetiredCount stlFaultRetired
stlFaultTesting stlRoleChain stlRoleChgCount stlRoleRole stlRoleStage stlStatusDraining stlStatusLoading
stlTestLastPass stlTestLastStep. -/
theorem stallTestStep_frame {z s : State} {m r : Nat} {i step} (hm : bitsIn 0x1464040c2 m) (hr : bitsIn 0x36206d000000000000000000000000000000000000010000000000000000000800000000000000000000000000000 r)
    (hk : z.Frame m r s) : z.Frame m r (stallTestStep i step s) := by
  unfold stallTestStep
  try dsimp only
  repeat' first
    | with_reducible assumption
    | with_reducible first | exact hm.within rfl | exact hr.within rfl | exact hr.at rfl
    | with_reducible first | apply State.Frame.ite | apply State.Frame.foldl | apply State.tookFree_frame | apply State.wr_frame | apply State.wrB_frame | apply State.retireBy_frame | apply State.updStl_frame | apply State.day_frame
    | (intro _ _ _; try dsimp only)
    | (intro _; try dsimp only)
    | split
    | exact State.Frame.upd hm (by with_reducible assumption) rfl
    | (refine State.Frame.upd hm ?_ rfl)

/-- Writes: outbox pits stalls reqs dups streams toks entries wbs lanes fab tier dbk; registers: dbkDroppedCount
grdStatusUncorr mxeStatusUncorr pitVqTailCount sveStatusUncorr tierStlStatusPoison tknStatusUncorr. -/
theorem State.t0Data_frame {z s : State} {m r : Nat} {i x2} (hm : bitsIn 0x4e049ec2 m) (hr : bitsIn 0x10008008008040000000002000000000000000000000000000000000010000000000000000000000000000000000000000000000000 r)
    (hk : z.Frame m r s) : z.Frame m r (State.t0Data s i x2) := by
  unfold State.t0Data
  try dsimp only
  repeat' first
    | with_reducible assumption
    | with_reducible first | exact hm.within rfl | exact hr.within rfl | exact hr.at rfl
    | with_reducible first | apply State.Frame.ite | apply State.Frame.foldl | apply State.wr_frame | apply State.reloadTable_frame | apply State.failTier_frame
    | (intro _ _ _; try dsimp only)
    | (intro _; try dsimp only)
    | split
    | exact State.Frame.upd hm (by with_reducible assumption) rfl
    | (refine State.Frame.upd hm ?_ rfl)

/-- Writes: outbox pits stalls adms reqs dups streams toks chains entries wbs asz samples lanes fab tier dbk; registers:
dbkDroppedCount glbFaultsCount glbRetiredCount grdStatusUncorr mxeStatusUncorr pitVqTailCount stlFaultCause
stlFaultRetired stlFaultTesting stlFaultUnit stlFaultsCount stlRoleChain stlRoleChgCount stlRoleRole stlRoleStage
stlStatusDraining stlStatusLoading stlTransCount sveStatusUncorr tierStlStatusPoison tierStlT0CorrCount
tknStatusUncorr. -/
theorem t0FaultStep_frame {z s : State} {m r : Nat} {i part} (hm : bitsIn 0x4f44dfc2 m) (hr : bitsIn 0x2100080080080404fa06d002000000000000000000000000000000000010000000000000000000c00000000000000000000000000000 r)
    (hk : z.Frame m r s) : z.Frame m r (t0FaultStep i part s) := by
  unfold t0FaultStep
  try dsimp only
  repeat' first
    | with_reducible assumption
    | with_reducible first | exact hm.within rfl | exact hr.within rfl | exact hr.at rfl
    | with_reducible first | apply State.Frame.ite | apply State.Frame.foldl | apply State.Frame.foldlFst | apply State.bump_frame | apply State.countFault_frame | apply State.t0Data_frame | apply State.stopStalls_frame | apply State.dayChains_frame | apply State.retireBy_frame | apply State.day_frame
    | (intro _ _ _; try dsimp only)
    | (intro _; try dsimp only)
    | split
    | with_reducible first | refine State.Frame.ofFst ‹_› ?_
    | exact State.Frame.upd hm (by with_reducible assumption) rfl
    | (refine State.Frame.upd hm ?_ rfl)
    | dsimp only

/-- Writes: outbox stalls dbk free; registers: dbkDroppedCount glbFaultsCount stlFaultCause stlFaultUnit stlFaultsCount
stlTransCount. -/
theorem State.quadStall_frame {z s : State} {m r : Nat} {cause i} (hm : bitsIn 0x140000082 m) (hr : bitsIn 0x498000000000000000000000000000000000000000010000000000000000000400000000000000000000000000000 r)
    (hk : z.Frame m r s) : z.Frame m r (State.quadStall s cause i) := by
  unfold State.quadStall
  try dsimp only
  repeat' first
    | with_reducible assumption
    | with_reducible first | exact hm.within rfl | exact hr.within rfl | exact hr.at rfl
    | with_reducible first | apply State.Frame.ite | apply State.Frame.foldl | apply State.updStl_frame | apply State.countFault_frame | apply State.tookFree_frame | apply State.day_frame
    | (intro _ _ _; try dsimp only)
    | (intro _; try dsimp only)
    | split
    | exact State.Frame.upd hm (by with_reducible assumption) rfl
    | (refine State.Frame.upd hm ?_ rfl)

/-- Writes: outbox pits stalls adms reqs dups streams toks chains entries wbs samples lanes fab dbk free; registers:
dbkDroppedCount glbFaultsCount pitVqTailCount stlFaultCause stlFaultUnit stlFaultsCount stlRoleChain stlRoleChgCount
stlRoleRole stlRoleStage stlStatusDraining stlStatusLoading stlTransCount. -/
theorem State.quadFault_frame {z s : State} {m r : Nat} {q cause} (hm : bitsIn 0x14704dfc2 m) (hr : bitsIn 0x49a06d002000000000000000000000000000000000010000000000000000000400000000000000000000000000000 r)
    (hk : z.Frame m r s) : z.Frame m r (State.quadFault s q cause) := by
  unfold State.quadFault
  try dsimp only
  repeat' first
    | with_reducible assumption
    | with_reducible first | exact hm.within rfl | exact hr.within rfl | exact hr.at rfl
    | with_reducible first | apply State.Frame.ite | apply State.Frame.foldl | apply State.Frame.foldlFst | apply State.stopStalls_frame | apply State.dayChains_frame | apply State.trimSteps_frame | apply State.quadStall_frame
    | (intro _ _ _; try dsimp only)
    | (intro _; try dsimp only)
    | split
    | with_reducible first | refine State.Frame.ofFst ‹_› ?_
    | exact State.Frame.upd hm (by with_reducible assumption) rfl
    | (refine State.Frame.upd hm ?_ rfl)
    | dsimp only

/-- Writes: outbox stalls tier dbk; registers: any register. -/
theorem quadRecoveredStep_frame {z s : State} {m r : Nat} {q} (hm : bitsIn 0x48000082 m) (hr : bitsIn 0x3fffffffffffffffffffffffffffffffffffffffffffffffffffffffffffffffffffffffffffffffffffffffffffffffffffffffffff r)
    (hk : z.Frame m r s) : z.Frame m r (quadRecoveredStep q s) := by
  unfold quadRecoveredStep
  try dsimp only
  repeat' first
    | with_reducible assumption
    | with_reducible first | exact hm.within rfl | exact hr.within rfl | exact hr.at rfl
    | with_reducible first | apply State.Frame.ite | apply State.Frame.foldl | apply State.day_frame | apply State.beginTest_frame
    | exact hr.at (allRegs_at _)
    | (intro _ _ _; try dsimp only)
    | (intro _; try dsimp only)
    | split
    | exact State.Frame.upd hm (by with_reducible assumption) rfl
    | (refine State.Frame.upd hm ?_ rfl)

/-- Writes: outbox pits stalls chains asz lanes fab dbk; registers: dbkDroppedCount glbFaultStatusQuadOut
glbRetiredCount stlFaultRetired stlFaultTesting stlRoleChain stlRoleChgCount stlRoleRole stlRoleStage
stlStatusDraining stlStatusLoading. -/
theorem qwaitStep_frame {z s : State} {m r : Nat} {q} (hm : bitsIn 0x464040c2 m) (hr : bitsIn 0x6206d000000000000000000000000000000000000010000000000000000000a00000000000000000000000000000 r)
    (hk : z.Frame m r s) : z.Frame m r (qwaitStep q s) := by
  unfold qwaitStep
  try dsimp only
  repeat' first
    | with_reducible assumption
    | with_reducible first | exact hm.within rfl | exact hr.within rfl | exact hr.at rfl
    | with_reducible first | apply State.Frame.ite | apply State.Frame.foldl | apply State.day_frame | apply State.retire_frame | apply State.wr_frame
    | (intro _ _ _; try dsimp only)
    | (intro _; try dsimp only)
    | split
    | exact State.Frame.upd hm (by with_reducible assumption) rfl
    | (refine State.Frame.upd hm ?_ rfl)

theorem State.shedModels_frame {z s : State} {m r : Nat} {xs} (hm : bitsIn 0x40000002 m) (hr : bitsIn 0x10000000003000000000000000000000000000000000000000 r) (h : z.Frame m r s) :
    z.Frame m r (s.shedModels xs) := by
  induction xs generalizing s with
  | nil => exact h
  | cons x xs ih =>
    unfold State.shedModels
    split
    · exact h
    · exact ih (State.day_frame (hm.within rfl) (hr.within rfl) (State.markDown_frame (hm.within rfl) (hr.within rfl) h))
/-- Writes: outbox pits stalls asz lanes fab dbk; registers: aszStatusWsUncorr dbkDroppedCount stlRoleChain
stlRoleChgCount stlRoleRole stlRoleStage stlStatusDraining stlStatusLoading. -/
theorem State.loseSets_frame {z s : State} {m r : Nat} {bank which} (hm : bitsIn 0x464000c2 m) (hr : bitsIn 0x206d000000000000000020000000000000000000010000000000000000000000000000000000000000000000000 r)
    (hk : z.Frame m r s) : z.Frame m r (State.loseSets s bank which) := by
  unfold State.loseSets
  try dsimp only
  repeat' first
    | with_reducible assumption
    | with_reducible first | exact hm.within rfl | exact hr.within rfl | exact hr.at rfl
    | with_reducible first | apply State.Frame.ite | apply State.Frame.foldl | apply State.loseSet_frame
    | (intro _ _ _; try dsimp only)
    | (intro _; try dsimp only)
    | split
    | exact State.Frame.upd hm (by with_reducible assumption) rfl
    | (refine State.Frame.upd hm ?_ rfl)

/-- Writes: outbox pits stalls asz samples lanes fab dbk; registers: aszStatusWsUncorr dbkDroppedCount stlRoleChain
stlRoleChgCount stlRoleRole stlRoleStage stlStatusDraining stlStatusLoading tollMdlLoDeferred tollMdlLoDown. -/
theorem State.fitRegion_frame {z s : State} {m r : Nat} {bank} (hm : bitsIn 0x474000c2 m) (hr : bitsIn 0x206d000000000000000020000000000000000000010000000003000000000000000000000000000000000000000 r)
    (hk : z.Frame m r s) : z.Frame m r (State.fitRegion s bank) := by
  unfold State.fitRegion
  try dsimp only
  repeat' first
    | with_reducible assumption
    | with_reducible first | exact hm.within rfl | exact hr.within rfl | exact hr.at rfl
    | with_reducible first | apply State.Frame.ite | apply State.Frame.foldl | apply State.loseSets_frame | apply State.shedModels_frame
    | (intro _ _ _; try dsimp only)
    | (intro _; try dsimp only)
    | split
    | exact State.Frame.upd hm (by with_reducible assumption) rfl
    | (refine State.Frame.upd hm ?_ rfl)

/-- Writes: outbox pits stalls adms reqs dups streams toks entries parks wbs amd asz samples lanes fab tier dbk free;
registers: aszStatusWsUncorr chrAmdErrCode chrAmdErrDetail chrAmdStatusState dbkDroppedCount glbRetiredCount
ldgLostCount pitVqTailCount stlRoleChain stlRoleChgCount stlRoleRole stlRoleStage stlStatusDraining stlStatusLoading
tierBankOutHiMap tierBankOutLoMap tierStatusBanksOut tierStatusHomeLost tollMdlLoDeferred tollMdlLoDown. -/
theorem State.retireBank_frame {z s : State} {m r : Nat} {b} (hm : bitsIn 0x14f669fc2 m) (hr : bitsIn 0x206d002000000000000020000000000320000000010000000003000000000800000060a00000200000000000000 r)
    (hk : z.Frame m r s) : z.Frame m r (State.retireBank s b) := by
  unfold State.retireBank
  try dsimp only
  repeat' first
    | with_reducible assumption
    | with_reducible first | exact hm.within rfl | exact hr.within rfl | exact hr.at rfl
    | with_reducible first | apply State.Frame.ite | apply State.Frame.foldl | apply State.bump_frame | apply State.wr_frame | apply State.day_frame | apply State.loseEntry_frame | apply State.loseSets_frame | apply State.amdRefit_frame | apply State.fitRegion_frame | apply State.poisonTile_frame
    | (intro _ _ _; try dsimp only)
    | (intro _; try dsimp only)
    | split
    | exact State.Frame.upd hm (by with_reducible assumption) rfl
    | (refine State.Frame.upd hm ?_ rfl)

/-- Writes: outbox pits stalls adms reqs dups streams toks entries parks wbs amd asz samples lanes fab tier dbk free;
registers: aszStatusWsUncorr chrAmdErrCode chrAmdErrDetail chrAmdStatusState dbkDroppedCount glbRetiredCount
ldgLostCount pitVqTailCount stlRoleChain stlRoleChgCount stlRoleRole stlRoleStage stlStatusDraining stlStatusLoading
tierBankOutHiMap tierBankOutLoMap tierStatusBanksOut tierStatusHomeLost tollMdlLoDeferred tollMdlLoDown. -/
theorem bankTestStep_frame {z s : State} {m r : Nat} {b pass} (hm : bitsIn 0x14f669fc2 m) (hr : bitsIn 0x206d002000000000000020000000000320000000010000000003000000000800000060a00000200000000000000 r)
    (hk : z.Frame m r s) : z.Frame m r (bankTestStep b pass s) := by
  unfold bankTestStep
  try dsimp only
  repeat' first
    | with_reducible assumption
    | with_reducible first | exact hm.within rfl | exact hr.within rfl | exact hr.at rfl
    | with_reducible first | apply State.Frame.ite | apply State.Frame.foldl | apply State.retireBank_frame | apply State.day_frame
    | (intro _ _ _; try dsimp only)
    | (intro _; try dsimp only)
    | split
    | exact State.Frame.upd hm (by with_reducible assumption) rfl
    | (refine State.Frame.upd hm ?_ rfl)

/-- Writes: toll pits adms reqs dups streams toks revives parks wbs; registers: none. -/
theorem State.endAll_frame {z s : State} {m r : Nat} (hm : bitsIn 0x71f44 m) (hr : bitsIn 0x0 r)
    (hk : z.Frame m r s) : z.Frame m r (State.endAll s) := by
  unfold State.endAll
  try dsimp only
  repeat' first
    | with_reducible assumption
    | with_reducible first | exact hm.within rfl | exact hr.within rfl | exact hr.at rfl
    | with_reducible first | apply State.Frame.ite | apply State.Frame.foldl
    | (intro _ _ _; try dsimp only)
    | (intro _; try dsimp only)
    | split
    | exact State.Frame.upd hm (by with_reducible assumption) rfl
    | (refine State.Frame.upd hm ?_ rfl)

/-- Writes: outbox toll pwr pits adms reqs dups streams toks revives parks wbs dbk; registers: dbkLiveCount
dbkStatusFull dbkTopPos glbFaultStatusSharedFault glbFaultsCount glbSharedSyndSyndrome glbSharedSyndUnit
tollStatusReady wchSlotSeqSeq. -/
theorem sharedFaultStep_frame {z s : State} {m r : Nat} {unit synd} (hm : bitsIn 0x40071f56 m) (hr : bitsIn 0xc0c00000000000000007480000000000000000000000000000 r)
    (hk : z.Frame m r s) : z.Frame m r (sharedFaultStep unit synd s) := by
  unfold sharedFaultStep
  try dsimp only
  repeat' first
    | with_reducible assumption
    | with_reducible first | exact hm.within rfl | exact hr.within rfl | exact hr.at rfl
    | with_reducible first | apply State.Frame.ite | apply State.Frame.foldl | apply State.wr_frame | apply State.bump_frame | apply State.endAll_frame | apply State.flushDbk_frame
    | (intro _ _ _; try dsimp only)
    | (intro _; try dsimp only)
    | split
    | exact State.Frame.upd hm (by with_reducible assumption) rfl
    | (refine State.Frame.upd hm ?_ rfl)


end Sys2Proof.Machine
end

