-- ==== Sys2Proof/Laws/FrameReset.lean ====
section
/-! SUPPORT. What the functions of Machine/Reset.lean may write, and that they leave the rest of a state as it is. -/

set_option linter.unusedVariables false

namespace Sys2Proof.Machine

theorem State.blockReset_frame {z s : State} {m r : Nat} {b} (hm : bitsIn 0xffffffde m) (hr : bitsIn 0x3fffffffffffffffffffffffffffffffffffffffffffffffffffffffffffffffffffffffffffffffffffffffffffffffffffffffffff r) (h : z.Frame m r s) :
    z.Frame m r (s.blockReset b) := by
  unfold State.blockReset
  dsimp only
  have h' : z.Frame m r (if b = true then s else s.dbkClose) :=
    State.Frame.ite (fun _ => h) fun _ => State.dbkClose_frame (hm.within rfl) (hr.within rfl) h
  generalize (if b = true then s else s.dbkClose) = t at h'
  refine ⟨fun c hc => ?_, fun f hf _ => by rw [hr.at (allRegs_at f)] at hf; cases hf⟩
  refine Part.same_trans (h'.part c hc) ?_
  cases c <;> first
    | rfl
    | (rw [hm.at rfl] at hc; cases hc)
/-- Writes: outbox toll clk pwr pits stalls adms reqs dups streams toks rr chains entries revives parks wbs chr gens amd
asz aszCount samples lanes fab tier keys factorTick dbk arrivals; registers: any register. -/
theorem State.warmReset_frame {z s : State} {m r : Nat} {cause} (hm : bitsIn 0xffffffde m) (hr : bitsIn 0x3fffffffffffffffffffffffffffffffffffffffffffffffffffffffffffffffffffffffffffffffffffffffffffffffffffffffffff r)
    (hk : z.Frame m r s) : z.Frame m r (State.warmReset s cause) := by
  unfold State.warmReset
  try dsimp only
  repeat' first
    | with_reducible assumption
    | with_reducible first | exact hm.within rfl | exact hr.within rfl | exact hr.at rfl
    | with_reducible first | apply State.Frame.ite | apply State.Frame.foldl | apply State.day_frame | apply State.wr_frame | apply State.blockReset_frame
    | exact hr.at (allRegs_at _)
    | (intro _ _ _; try dsimp only)
    | (intro _; try dsimp only)
    | split
    | exact State.Frame.upd hm (by with_reducible assumption) rfl
    | (refine State.Frame.upd hm ?_ rfl)


end Sys2Proof.Machine
end

