-- ==== Sys2Proof/Laws/FrameCharter.lean ====
section
/-! SUPPORT. What the functions of Machine/Charter.lean may write, and that they leave the rest of a state as it is. -/

set_option linter.unusedVariables false

namespace Sys2Proof.Machine

/-- Writes: clk; registers: wchPcycCount wchSlotSeqSeq. -/
theorem State.setCounters_frame {z s : State} {m r : Nat} {optime pcyc seq} (hm : bitsIn 0x8 m) (hr : bitsIn 0x400002000000000000000000000000000000000000000000 r)
    (hk : z.Frame m r s) : z.Frame m r (State.setCounters s optime pcyc seq) := by
  unfold State.setCounters
  try dsimp only
  repeat' first
    | with_reducible assumption
    | with_reducible first | exact hm.within rfl | exact hr.within rfl | exact hr.at rfl
    | with_reducible first | apply State.Frame.ite | apply State.Frame.foldl | apply State.wr_frame
    | (intro _ _ _; try dsimp only)
    | (intro _; try dsimp only)
    | split
    | exact State.Frame.upd hm (by with_reducible assumption) rfl
    | (refine State.Frame.upd hm ?_ rfl)

/-- Writes: outbox dbk; registers: dbkDroppedCount wchStatusCntLost. -/
theorem State.lostCounters_frame {z s : State} {m r : Nat} {cause} (hm : bitsIn 0x40000002 m) (hr : bitsIn 0x10000000080000000000000000000000000000000000000000 r)
    (hk : z.Frame m r s) : z.Frame m r (State.lostCounters s cause) := by
  unfold State.lostCounters
  try dsimp only
  repeat' first
    | with_reducible assumption
    | with_reducible first | exact hm.within rfl | exact hr.within rfl | exact hr.at rfl
    | with_reducible first | apply State.Frame.ite | apply State.Frame.foldl | apply State.day_frame | apply State.wr_frame
    | (intro _ _ _; try dsimp only)
    | (intro _; try dsimp only)
    | split
    | exact State.Frame.upd hm (by with_reducible assumption) rfl
    | (refine State.Frame.upd hm ?_ rfl)

/-- Writes: outbox clk pwr dbk; registers: dbkDroppedCount wchPcycCount wchSlotSeqSeq wchStatusCntLost. -/
theorem State.restoreCounters_frame {z s : State} {m r : Nat} (hm : bitsIn 0x4000001a m) (hr : bitsIn 0x10400002080000000000000000000000000000000000000000 r)
    (hk : z.Frame m r s) : z.Frame m r (State.restoreCounters s) := by
  unfold State.restoreCounters
  try dsimp only
  repeat' first
    | with_reducible assumption
    | with_reducible first | exact hm.within rfl | exact hr.within rfl | exact hr.at rfl
    | with_reducible first | apply State.Frame.ite | apply State.Frame.foldl | apply State.lostCounters_frame | apply State.setCounters_frame
    | (intro _ _ _; try dsimp only)
    | (intro _; try dsimp only)
    | split
    | exact State.Frame.upd hm (by with_reducible assumption) rfl
    | (refine State.Frame.upd hm ?_ rfl)

/-- Writes: pwr; registers: chrStatusState. -/
theorem State.startFailed_frame {z s : State} {m r : Nat} (hm : bitsIn 0x10 m) (hr : bitsIn 0x400000000000000000000000000000000000000000000000000000 r)
    (hk : z.Frame m r s) : z.Frame m r (State.startFailed s) := by
  unfold State.startFailed
  try dsimp only
  repeat' first
    | with_reducible assumption
    | with_reducible first | exact hm.within rfl | exact hr.within rfl | exact hr.at rfl
    | with_reducible first | apply State.Frame.ite | apply State.Frame.foldl | apply State.wr_frame
    | (intro _ _ _; try dsimp only)
    | (intro _; try dsimp only)
    | split
    | exact State.Frame.upd hm (by with_reducible assumption) rfl
    | (refine State.Frame.upd hm ?_ rfl)

/-- Writes: nothing but registers; registers: chrErrCode chrErrOffOffset. -/
theorem State.chrErr_frame {z s : State} {m r : Nat} {code off} (hm : bitsIn 0x0 m) (hr : bitsIn 0x6000000000000000000000000000000000000000000000000000000 r)
    (hk : z.Frame m r s) : z.Frame m r (State.chrErr s code off) := by
  unfold State.chrErr
  try dsimp only
  repeat' first
    | with_reducible assumption
    | with_reducible first | exact hm.within rfl | exact hr.within rfl | exact hr.at rfl
    | with_reducible first | apply State.Frame.ite | apply State.Frame.foldl | apply State.wr_frame
    | (intro _ _ _; try dsimp only)
    | (intro _; try dsimp only)
    | split

/-- Writes: outbox pwr; registers: chrStatusImage chrStatusState. -/
theorem State.readImage_frame {z s : State} {m r : Nat} {alt} (hm : bitsIn 0x12 m) (hr : bitsIn 0xc00000000000000000000000000000000000000000000000000000 r)
    (hk : z.Frame m r s) : z.Frame m r (State.readImage s alt) := by
  unfold State.readImage
  try dsimp only
  repeat' first
    | with_reducible assumption
    | with_reducible first | exact hm.within rfl | exact hr.within rfl | exact hr.at rfl
    | with_reducible first | apply State.Frame.ite | apply State.Frame.foldl | apply State.wrB_frame | apply State.wr_frame | apply State.emit_frame
    | (intro _ _ _; try dsimp only)
    | (intro _; try dsimp only)
    | split
    | exact State.Frame.upd hm (by with_reducible assumption) rfl
    | (refine State.Frame.upd hm ?_ rfl)

/-- Writes: outbox clk pwr dbk free; registers: chrStatusImage chrStatusState chrXspiDbkDev chrXspiDbkFail chrXspiDummy
dbkDroppedCount wchPcycCount wchSlotSeqSeq wchStatusCntLost. -/
theorem State.useLoc_frame {z s : State} {m r : Nat} {l dbkDev} (hm : bitsIn 0x14000001a m) (hr : bitsIn 0x700c00010400002080000000000000000000000000000000000000000 r)
    (hk : z.Frame m r s) : z.Frame m r (State.useLoc s l dbkDev) := by
  unfold State.useLoc
  try dsimp only
  repeat' first
    | with_reducible assumption
    | with_reducible first | exact hm.within rfl | exact hr.within rfl | exact hr.at rfl
    | with_reducible first | apply State.Frame.ite | apply State.Frame.foldl | apply State.wrB_frame | apply State.wr_frame | apply State.tookFree_frame | apply State.readImage_frame | apply State.restoreCounters_frame
    | (intro _ _ _; try dsimp only)
    | (intro _; try dsimp only)
    | split
    | exact State.Frame.upd hm (by with_reducible assumption) rfl
    | (refine State.Frame.upd hm ?_ rfl)

/-- Writes: nothing but registers; registers: dbkDevtagBits. -/
theorem State.formDevTag_frame {z s : State} {m r : Nat} {tag} (hm : bitsIn 0x0 m) (hr : bitsIn 0x400000000000000000000000000000000000000000000000000 r)
    (hk : z.Frame m r s) : z.Frame m r (State.formDevTag tag s) := by
  unfold State.formDevTag
  try dsimp only
  repeat' first
    | with_reducible assumption
    | with_reducible first | exact hm.within rfl | exact hr.within rfl | exact hr.at rfl
    | with_reducible first | apply State.Frame.ite | apply State.Frame.foldl | apply State.wr_frame
    | (intro _ _ _; try dsimp only)
    | (intro _; try dsimp only)
    | split

/-- Writes: outbox clk pwr dbk free; registers: chrErrCode chrErrOffOffset chrStatusImage chrStatusState chrXspiDbkDev
chrXspiDbkFail chrXspiDummy dbkDevtagBits dbkDroppedCount glbSecStatusKatFail glbSecStatusKatOk wchPcycCount
wchSlotSeqSeq wchStatusCntLost. -/
theorem startStep_frame {z s : State} {m r : Nat} {kat xspi dbkDev loc0 loc1} (hm : bitsIn 0x14000001a m) (hr : bitsIn 0x706c00410400002080000000000000000000000000000000000180000 r)
    (hk : z.Frame m r s) : z.Frame m r (startStep kat xspi dbkDev loc0 loc1 s) := by
  unfold startStep
  try dsimp only
  repeat' first
    | with_reducible assumption
    | with_reducible first | exact hm.within rfl | exact hr.within rfl | exact hr.at rfl
    | with_reducible first | apply State.Frame.ite | apply State.Frame.foldl | apply State.day_frame | apply State.wr_frame | apply State.formDevTag_frame | apply State.startFailed_frame | apply State.chrErr_frame | apply State.useLoc_frame
    | (intro _ _ _; try dsimp only)
    | (intro _; try dsimp only)
    | split
    | exact State.Frame.upd hm (by with_reducible assumption) rfl
    | (refine State.Frame.upd hm ?_ rfl)

/-- Writes: free; registers: dbkBasePos dbkLiveCount dbkNslotCount dbkStatusFull dbkStatusNvOff dbkTopPos. -/
theorem State.scanStore_frame {z s : State} {m r : Nat} (hm : bitsIn 0x100000000 m) (hr : bitsIn 0x2e1800000000000000000000000000000000000000000000000 r)
    (hk : z.Frame m r s) : z.Frame m r (State.scanStore s) := by
  unfold State.scanStore
  try dsimp only
  repeat' first
    | with_reducible assumption
    | with_reducible first | exact hm.within rfl | exact hr.within rfl | exact hr.at rfl
    | with_reducible first | apply State.Frame.ite | apply State.Frame.foldl | apply State.Frame.getD | apply State.wr_frame | apply State.tookFree_frame | apply State.wrB_frame
    | (intro _ _ _; try dsimp only)
    | (intro _; try dsimp only)
    | split
    | exact State.Frame.upd hm (by with_reducible assumption) rfl
    | (refine State.Frame.upd hm ?_ rfl)

/-- Writes: outbox clk pwr dbk free; registers: dbkBasePos dbkDroppedCount dbkLiveCount dbkNslotCount dbkStatusFull
dbkStatusNvOff dbkTopPos wchSlotSeqSeq. -/
theorem State.slotRow_frame {z s : State} {m r : Nat} (hm : bitsIn 0x14000001a m) (hr : bitsIn 0x2f1c00000000000000000000000000000000000000000000000 r)
    (hk : z.Frame m r s) : z.Frame m r (State.slotRow s) := by
  unfold State.slotRow
  try dsimp only
  repeat' first
    | with_reducible assumption
    | with_reducible first | exact hm.within rfl | exact hr.within rfl | exact hr.at rfl
    | with_reducible first | apply State.Frame.ite | apply State.Frame.foldl | apply State.scanStore_frame | apply State.saveSlot_frame | apply State.day_frame
    | (intro _ _ _; try dsimp only)
    | (intro _; try dsimp only)
    | split
    | exact State.Frame.upd hm (by with_reducible assumption) rfl
    | (refine State.Frame.upd hm ?_ rfl)

/-- Writes: outbox pwr dbk; registers: chrErrCode chrErrOffOffset chrStatusImage chrStatusState dbkDroppedCount. -/
theorem State.rejectImage_frame {z s : State} {m r : Nat} {alt code off} (hm : bitsIn 0x40000012 m) (hr : bitsIn 0x6c00010000000000000000000000000000000000000000000000000 r)
    (hk : z.Frame m r s) : z.Frame m r (State.rejectImage s alt code off) := by
  unfold State.rejectImage
  try dsimp only
  repeat' first
    | with_reducible assumption
    | with_reducible first | exact hm.within rfl | exact hr.within rfl | exact hr.at rfl
    | with_reducible first | apply State.Frame.ite | apply State.Frame.foldl | apply State.day_frame | apply State.chrErr_frame | apply State.startFailed_frame | apply State.readImage_frame
    | (intro _ _ _; try dsimp only)
    | (intro _; try dsimp only)
    | split
    | exact State.Frame.upd hm (by with_reducible assumption) rfl
    | (refine State.Frame.upd hm ?_ rfl)

/-- Writes: outbox fuse dbk; registers: dbkDroppedCount. -/
theorem State.burnFuses_frame {z s : State} {m r : Nat} {h'} (hm : bitsIn 0x40000022 m) (hr : bitsIn 0x10000000000000000000000000000000000000000000000000 r)
    (hk : z.Frame m r s) : z.Frame m r (State.burnFuses s h') := by
  unfold State.burnFuses
  try dsimp only
  repeat' first
    | with_reducible assumption
    | with_reducible first | exact hm.within rfl | exact hr.within rfl | exact hr.at rfl
    | with_reducible first | apply State.Frame.ite | apply State.Frame.foldl | apply State.day_frame
    | (intro _ _ _; try dsimp only)
    | (intro _; try dsimp only)
    | split
    | exact State.Frame.upd hm (by with_reducible assumption) rfl
    | (refine State.Frame.upd hm ?_ rfl)

/-- Writes: nothing but registers; registers: any register. -/
theorem State.loadRegs_frame {z s : State} {m r : Nat} {regs used} (hm : bitsIn 0x0 m) (hr : bitsIn 0x3fffffffffffffffffffffffffffffffffffffffffffffffffffffffffffffffffffffffffffffffffffffffffffffffffffffffffff r)
    (hk : z.Frame m r s) : z.Frame m r (State.loadRegs s regs used) := by
  unfold State.loadRegs
  try dsimp only
  repeat' first
    | with_reducible assumption
    | with_reducible first | exact hm.within rfl | exact hr.within rfl | exact hr.at rfl
    | with_reducible first | apply State.Frame.ite | apply State.Frame.foldl | apply State.wr_frame
    | exact hr.at (allRegs_at _)
    | (intro _ _ _; try dsimp only)
    | (intro _; try dsimp only)
    | split

/-- Writes: nothing but registers; registers: glbKeyCfgKeyver glbKeyCfgKeyverMin glbKeyCfgSrc glbKeyStatReady. -/
theorem State.loadKey_frame {z s : State} {m r : Nat} {c} (hm : bitsIn 0x0 m) (hr : bitsIn 0xb8000000000 r)
    (hk : z.Frame m r s) : z.Frame m r (State.loadKey s c) := by
  unfold State.loadKey
  try dsimp only
  repeat' first
    | with_reducible assumption
    | with_reducible first | exact hm.within rfl | exact hr.within rfl | exact hr.at rfl
    | with_reducible first | apply State.Frame.ite | apply State.Frame.foldl | apply State.wr_frame | apply State.wrB_frame
    | (intro _ _ _; try dsimp only)
    | (intro _; try dsimp only)
    | split

/-- Writes: nothing but registers; registers: glbGuildHiMap glbGuildLoMap glbGuildPoolsMask glbGuildSlotPitch
glbGuildSlotValid. -/
theorem State.loadGuild_frame {z s : State} {m r : Nat} {x} (hm : bitsIn 0x0 m) (hr : bitsIn 0x1c00018000000 r)
    (hk : z.Frame m r s) : z.Frame m r (State.loadGuild s x) := by
  unfold State.loadGuild
  try dsimp only
  repeat' first
    | with_reducible assumption
    | with_reducible first | exact hm.within rfl | exact hr.within rfl | exact hr.at rfl
    | with_reducible first | apply State.Frame.ite | apply State.Frame.foldl | apply State.wrB_frame | apply State.wr_frame
    | (intro _ _ _; try dsimp only)
    | (intro _; try dsimp only)
    | split

/-- Writes: fab; registers: none. -/
theorem State.loadShards_frame {z s : State} {m r : Nat} {x} (hm : bitsIn 0x4000000 m) (hr : bitsIn 0x0 r)
    (hk : z.Frame m r s) : z.Frame m r (State.loadShards s x) := by
  unfold State.loadShards
  try dsimp only
  repeat' first
    | with_reducible assumption
    | with_reducible first | exact hm.within rfl | exact hr.within rfl | exact hr.at rfl
    | with_reducible first | apply State.Frame.ite | apply State.Frame.foldl
    | (intro _ _ _; try dsimp only)
    | (intro _; try dsimp only)
    | split
    | exact State.Frame.upd hm (by with_reducible assumption) rfl
    | (refine State.Frame.upd hm ?_ rfl)

/-- Writes: nothing but registers; registers: stlRoleChain stlRoleRole stlRoleStage. -/
theorem State.initRole_frame {z s : State} {m r : Nat} {i role chain stage} (hm : bitsIn 0x0 m) (hr : bitsIn 0xd000000000000000000000000000000000000000000000000000000000000000000000000000000000000000 r)
    (hk : z.Frame m r s) : z.Frame m r (State.initRole s i role chain stage) := by
  unfold State.initRole
  try dsimp only
  repeat' first
    | with_reducible assumption
    | with_reducible first | exact hm.within rfl | exact hr.within rfl | exact hr.at rfl
    | with_reducible first | apply State.Frame.ite | apply State.Frame.foldl | apply State.wr_frame
    | (intro _ _ _; try dsimp only)
    | (intro _; try dsimp only)
    | split

/-- Writes: nothing but registers; registers: stlRoleChain stlRoleRole stlRoleStage. -/
theorem State.initChain_frame {z s : State} {m r : Nat} {c} (hm : bitsIn 0x0 m) (hr : bitsIn 0xd000000000000000000000000000000000000000000000000000000000000000000000000000000000000000 r)
    (hk : z.Frame m r s) : z.Frame m r (State.initChain s c) := by
  unfold State.initChain
  try dsimp only
  repeat' first
    | with_reducible assumption
    | with_reducible first | exact hm.within rfl | exact hr.within rfl | exact hr.at rfl
    | with_reducible first | apply State.Frame.ite | apply State.Frame.foldl | apply State.initRole_frame
    | (intro _ _ _; try dsimp only)
    | (intro _; try dsimp only)
    | split

/-- Writes: chains; registers: stlRoleChain stlRoleRole stlRoleStage. -/
theorem State.initRoles_frame {z s : State} {m r : Nat} {r'} (hm : bitsIn 0x4000 m) (hr : bitsIn 0xd000000000000000000000000000000000000000000000000000000000000000000000000000000000000000 r)
    (hk : z.Frame m r s) : z.Frame m r (State.initRoles s r') := by
  unfold State.initRoles
  try dsimp only
  repeat' first
    | with_reducible assumption
    | with_reducible first | exact hm.within rfl | exact hr.within rfl | exact hr.at rfl
    | with_reducible first | apply State.Frame.ite | apply State.Frame.foldl | apply State.initChain_frame | apply State.initRole_frame
    | (intro _ _ _; try dsimp only)
    | (intro _; try dsimp only)
    | split
    | exact State.Frame.upd hm (by with_reducible assumption) rfl
    | (refine State.Frame.upd hm ?_ rfl)

/-- Writes: nothing but registers; registers: chrDigestBits chrSizeBytes chrSvnSvn glbFuseKeyslotActive glbHpClkMhz
glbHpClkTailCyc. -/
theorem State.reportImage_frame {z s : State} {m r : Nat} {b h'} (hm : bitsIn 0x0 m) (hr : bitsIn 0x58000000000000000000000000000000000000000000000080000018 r)
    (hk : z.Frame m r s) : z.Frame m r (State.reportImage s b h') := by
  unfold State.reportImage
  try dsimp only
  repeat' first
    | with_reducible assumption
    | with_reducible first | exact hm.within rfl | exact hr.within rfl | exact hr.at rfl
    | with_reducible first | apply State.Frame.ite | apply State.Frame.foldl | apply State.wr_frame
    | (intro _ _ _; try dsimp only)
    | (intro _; try dsimp only)
    | split

/-- Writes: nothing but registers; registers: chrStatusLocked. -/
theorem State.lockAtLoad_frame {z s : State} {m r : Nat} {h'} (hm : bitsIn 0x0 m) (hr : bitsIn 0x1000000000000000000000000000000000000000000000000000000 r)
    (hk : z.Frame m r s) : z.Frame m r (State.lockAtLoad s h') := by
  unfold State.lockAtLoad
  try dsimp only
  repeat' first
    | with_reducible assumption
    | with_reducible first | exact hm.within rfl | exact hr.within rfl | exact hr.at rfl
    | with_reducible first | apply State.Frame.ite | apply State.Frame.foldl | apply State.wr_frame
    | (intro _ _ _; try dsimp only)
    | (intro _; try dsimp only)
    | split

/-- Writes: pwr chains chr gens asz fab keys; registers: any register. -/
theorem State.loadCharter_frame {z s : State} {m r : Nat} {b v} (hm : bitsIn 0x14584010 m) (hr : bitsIn 0x3fffffffffffffffffffffffffffffffffffffffffffffffffffffffffffffffffffffffffffffffffffffffffffffffffffffffffff r)
    (hk : z.Frame m r s) : z.Frame m r (State.loadCharter s b v) := by
  unfold State.loadCharter
  try dsimp only
  repeat' first
    | with_reducible assumption
    | with_reducible first | exact hm.within rfl | exact hr.within rfl | exact hr.at rfl
    | with_reducible first | apply State.Frame.ite | apply State.Frame.foldl | apply State.wr_frame | apply State.reportImage_frame | apply State.loadRegs_frame | apply State.putAlloc_frame | apply State.loadKey_frame | apply State.loadGuild_frame | apply State.putMdl_frame | apply State.putSlot_frame | apply State.syncAsz_frame | apply State.loadShards_frame | apply State.lockAtLoad_frame | apply State.initRoles_frame
    | exact hr.at (allRegs_at _)
    | (intro _ _ _; try dsimp only)
    | (intro _; try dsimp only)
    | split
    | exact State.Frame.upd hm (by with_reducible assumption) rfl
    | (refine State.Frame.upd hm ?_ rfl)

/-- Writes: outbox clk pwr fuse chains chr gens asz fab keys dbk free; registers: any register. -/
theorem imageReadStep_frame {z s : State} {m r : Nat} {data} (hm : bitsIn 0x15458403a m) (hr : bitsIn 0x3fffffffffffffffffffffffffffffffffffffffffffffffffffffffffffffffffffffffffffffffffffffffffffffffffffffffffff r)
    (hk : z.Frame m r s) : z.Frame m r (imageReadStep data s) := by
  unfold imageReadStep
  try dsimp only
  repeat' first
    | with_reducible assumption
    | with_reducible first | exact hm.within rfl | exact hr.within rfl | exact hr.at rfl
    | with_reducible first | apply State.Frame.ite | apply State.Frame.foldl | apply State.wr_frame | apply State.slotRow_frame | apply State.rejectImage_frame | apply State.loadCharter_frame | apply State.burnFuses_frame
    | exact hr.at (allRegs_at _)
    | (intro _ _ _; try dsimp only)
    | (intro _; try dsimp only)
    | split
    | exact State.Frame.upd hm (by with_reducible assumption) rfl
    | (refine State.Frame.upd hm ?_ rfl)

/-- Writes: nothing but registers; registers: fabPitStatusJoined. -/
theorem State.joinLowest_frame {z s : State} {m r : Nat} {p} (hm : bitsIn 0x0 m) (hr : bitsIn 0x400000000000000000000000000000000000000000000000000000000000000000000 r)
    (hk : z.Frame m r s) : z.Frame m r (State.joinLowest s p) := by
  unfold State.joinLowest
  try dsimp only
  repeat' first
    | with_reducible assumption
    | with_reducible first | exact hm.within rfl | exact hr.within rfl | exact hr.at rfl
    | with_reducible first | apply State.Frame.ite | apply State.Frame.foldl | apply State.wr_frame
    | (intro _ _ _; try dsimp only)
    | (intro _; try dsimp only)
    | split

/-- Writes: outbox pwr pits stalls lanes dbk; registers: chrStartMsMs chrStatusState dbkDroppedCount fabPitStatusJoined
tollStatusReady. -/
theorem tollReadyStep_frame {z s : State} {m r : Nat} (hm : bitsIn 0x420000d2 m) (hr : bitsIn 0x400000000000020400010000000000000000004000000000000000000000000000000 r)
    (hk : z.Frame m r s) : z.Frame m r (tollReadyStep s) := by
  unfold tollReadyStep
  try dsimp only
  repeat' first
    | with_reducible assumption
    | with_reducible first | exact hm.within rfl | exact hr.within rfl | exact hr.at rfl
    | with_reducible first | apply State.Frame.ite | apply State.Frame.foldl | apply State.wr_frame | apply State.day_frame | apply State.sendDigests_frame | apply State.joinLowest_frame
    | (intro _ _ _; try dsimp only)
    | (intro _; try dsimp only)
    | split
    | exact State.Frame.upd hm (by with_reducible assumption) rfl
    | (refine State.Frame.upd hm ?_ rfl)

/-- Writes: nothing but registers; registers: chrStatusLocked. -/
theorem State.writeLock_frame {z s : State} {m r : Nat} {w'} (hm : bitsIn 0x0 m) (hr : bitsIn 0x1000000000000000000000000000000000000000000000000000000 r)
    (hk : z.Frame m r s) : z.Frame m r (State.writeLock s w') := by
  unfold State.writeLock
  try dsimp only
  repeat' first
    | with_reducible assumption
    | with_reducible first | exact hm.within rfl | exact hr.within rfl | exact hr.at rfl
    | with_reducible first | apply State.Frame.ite | apply State.Frame.foldl | apply State.wr_frame
    | (intro _ _ _; try dsimp only)
    | (intro _; try dsimp only)
    | split

/-- Writes: outbox dbk; registers: chrStatusLocked dbkDroppedCount glbDenyCount glbDenyLastAccessor glbDenyLastAddr
glbDenyLastWrite. -/
theorem lockSetStep_frame {z s : State} {m r : Nat} {acc w'} (hm : bitsIn 0x40000002 m) (hr : bitsIn 0x1000010000000000000000000000000000000000000000003c00000 r)
    (hk : z.Frame m r s) : z.Frame m r (lockSetStep acc w' s) := by
  unfold lockSetStep
  try dsimp only
  repeat' first
    | with_reducible assumption
    | with_reducible first | exact hm.within rfl | exact hr.within rfl | exact hr.at rfl
    | with_reducible first | apply State.Frame.ite | apply State.Frame.foldl | apply State.FrameEither.ite | apply State.FrameEither.ofInl | apply State.FrameEither.ofInr | apply State.gate_frame | apply State.writeLock_frame
    | (intro _ _ _; try dsimp only)
    | (intro _; try dsimp only)
    | split
    | with_reducible first | refine State.Frame.ofInl ‹_› ?_ | refine State.Frame.ofInr ‹_› ?_
    | exact State.Frame.upd hm (by with_reducible assumption) rfl
    | (refine State.Frame.upd hm ?_ rfl)
    | dsimp only

/-- Writes: nothing but registers; registers: chrStatusLocked. -/
theorem lockTimeoutStep_frame {z s : State} {m r : Nat} (hm : bitsIn 0x0 m) (hr : bitsIn 0x1000000000000000000000000000000000000000000000000000000 r)
    (hk : z.Frame m r s) : z.Frame m r (lockTimeoutStep s) := by
  unfold lockTimeoutStep
  try dsimp only
  repeat' first
    | with_reducible assumption
    | with_reducible first | exact hm.within rfl | exact hr.within rfl | exact hr.at rfl
    | with_reducible first | apply State.Frame.ite | apply State.Frame.foldl | apply State.wr_frame
    | (intro _ _ _; try dsimp only)
    | (intro _; try dsimp only)
    | split


end Sys2Proof.Machine
end

