-- ==== Sys2Proof/Laws/FrameWatchman.lean ====
section
/-! SUPPORT. What the functions of Machine/Watchman.lean may write, and that they leave the rest of a state as it is. -/

set_option linter.unusedVariables false

namespace Sys2Proof.Machine

/-- Writes: outbox dbk; registers: wchSlotSeqSeq. -/
theorem slotSaveStep_frame {z s : State} {m r : Nat} (hm : bitsIn 0x40000002 m) (hr : bitsIn 0x400000000000000000000000000000000000000000000000 r)
    (hk : z.Frame m r s) : z.Frame m r (slotSaveStep s) := by
  unfold slotSaveStep
  try dsimp only
  repeat' first
    | with_reducible assumption
    | with_reducible first | exact hm.within rfl | exact hr.within rfl | exact hr.at rfl
    | with_reducible first | apply State.Frame.ite | apply State.Frame.foldl | apply State.saveSlot_frame
    | (intro _ _ _; try dsimp only)
    | (intro _; try dsimp only)
    | split
    | exact State.Frame.upd hm (by with_reducible assumption) rfl
    | (refine State.Frame.upd hm ?_ rfl)

/-- Writes: clk; registers: none. -/
theorem trimStep_frame {z s : State} {m r : Nat} (hm : bitsIn 0x8 m) (hr : bitsIn 0x0 r)
    (hk : z.Frame m r s) : z.Frame m r (trimStep s) := by
  unfold trimStep
  try dsimp only
  repeat' first
    | with_reducible assumption
    | with_reducible first | exact hm.within rfl | exact hr.within rfl | exact hr.at rfl
    | with_reducible first | apply State.Frame.ite | apply State.Frame.foldl
    | (intro _ _ _; try dsimp only)
    | (intro _; try dsimp only)
    | split
    | exact State.Frame.upd hm (by with_reducible assumption) rfl
    | (refine State.Frame.upd hm ?_ rfl)

/-- Writes: clk; registers: none. -/
theorem crystalStep_frame {z s : State} {m r : Nat} (hm : bitsIn 0x8 m) (hr : bitsIn 0x0 r)
    (hk : z.Frame m r s) : z.Frame m r (crystalStep s) := by
  unfold crystalStep
  try dsimp only
  repeat' first
    | with_reducible assumption
    | with_reducible first | exact hm.within rfl | exact hr.within rfl | exact hr.at rfl
    | with_reducible first | apply State.Frame.ite | apply State.Frame.foldl
    | (intro _ _ _; try dsimp only)
    | (intro _; try dsimp only)
    | split
    | exact State.Frame.upd hm (by with_reducible assumption) rfl
    | (refine State.Frame.upd hm ?_ rfl)

/-- Writes: outbox clk dbk; registers: dbkDroppedCount wchStatusXtalFail. -/
theorem xtalFailStep_frame {z s : State} {m r : Nat} (hm : bitsIn 0x4000000a m) (hr : bitsIn 0x10000000040000000000000000000000000000000000000000 r)
    (hk : z.Frame m r s) : z.Frame m r (xtalFailStep s) := by
  unfold xtalFailStep
  try dsimp only
  repeat' first
    | with_reducible assumption
    | with_reducible first | exact hm.within rfl | exact hr.within rfl | exact hr.at rfl
    | with_reducible first | apply State.Frame.ite | apply State.Frame.foldl | apply State.day_frame | apply State.wr_frame
    | (intro _ _ _; try dsimp only)
    | (intro _; try dsimp only)
    | split
    | exact State.Frame.upd hm (by with_reducible assumption) rfl
    | (refine State.Frame.upd hm ?_ rfl)

/-- Writes: outbox toll clk pwr pits stalls adms reqs dups streams toks rr chains entries revives parks wbs chr gens amd
asz aszCount samples lanes fab tier keys factorTick dbk arrivals; registers: any register. -/
theorem State.wake_frame {z s : State} {m r : Nat} (hm : bitsIn 0xffffffde m) (hr : bitsIn 0x3fffffffffffffffffffffffffffffffffffffffffffffffffffffffffffffffffffffffffffffffffffffffffffffffffffffffffff r)
    (hk : z.Frame m r s) : z.Frame m r (State.wake s) := by
  unfold State.wake
  try dsimp only
  repeat' first
    | with_reducible assumption
    | with_reducible first | exact hm.within rfl | exact hr.within rfl | exact hr.at rfl
    | with_reducible first | apply State.Frame.ite | apply State.Frame.foldl | apply State.day_frame | apply State.warmReset_frame
    | exact hr.at (allRegs_at _)
    | (intro _ _ _; try dsimp only)
    | (intro _; try dsimp only)
    | split
    | exact State.Frame.upd hm (by with_reducible assumption) rfl
    | (refine State.Frame.upd hm ?_ rfl)

/-- Writes: outbox toll clk pwr pits stalls adms reqs dups streams toks rr chains entries revives parks wbs chr gens amd
asz aszCount samples lanes fab tier keys factorTick dbk arrivals; registers: any register. -/
theorem hibWakeStep_frame {z s : State} {m r : Nat} (hm : bitsIn 0xffffffde m) (hr : bitsIn 0x3fffffffffffffffffffffffffffffffffffffffffffffffffffffffffffffffffffffffffffffffffffffffffffffffffffffffffff r)
    (hk : z.Frame m r s) : z.Frame m r (hibWakeStep s) := by
  unfold hibWakeStep
  try dsimp only
  repeat' first
    | with_reducible assumption
    | with_reducible first | exact hm.within rfl | exact hr.within rfl | exact hr.at rfl
    | with_reducible first | apply State.Frame.ite | apply State.Frame.foldl | apply State.wake_frame
    | exact hr.at (allRegs_at _)
    | (intro _ _ _; try dsimp only)
    | (intro _; try dsimp only)
    | split
    | exact State.Frame.upd hm (by with_reducible assumption) rfl
    | (refine State.Frame.upd hm ?_ rfl)

/-- Writes: outbox toll clk pwr pits stalls adms reqs dups streams toks rr chains entries revives parks wbs chr gens amd
asz aszCount samples lanes fab tier keys factorTick dbk arrivals; registers: any register. -/
theorem State.event_frame {z s : State} {m r : Nat} {k} (hm : bitsIn 0xffffffde m) (hr : bitsIn 0x3fffffffffffffffffffffffffffffffffffffffffffffffffffffffffffffffffffffffffffffffffffffffffffffffffffffffffff r)
    (hk : z.Frame m r s) : z.Frame m r (State.event s k) := by
  unfold State.event
  try dsimp only
  repeat' first
    | with_reducible assumption
    | with_reducible first | exact hm.within rfl | exact hr.within rfl | exact hr.at rfl
    | with_reducible first | apply State.Frame.ite | apply State.Frame.foldl | apply State.wr_frame | apply State.wake_frame
    | exact hr.at (allRegs_at _)
    | (intro _ _ _; try dsimp only)
    | (intro _; try dsimp only)
    | split
    | exact State.Frame.upd hm (by with_reducible assumption) rfl
    | (refine State.Frame.upd hm ?_ rfl)

/-- Writes: outbox toll clk pwr pits stalls adms reqs dups streams toks rr chains entries revives parks wbs chr gens amd
asz aszCount samples lanes fab tier keys factorTick dbk arrivals; registers: any register. -/
theorem wakeTimerStep_frame {z s : State} {m r : Nat} (hm : bitsIn 0xffffffde m) (hr : bitsIn 0x3fffffffffffffffffffffffffffffffffffffffffffffffffffffffffffffffffffffffffffffffffffffffffffffffffffffffffff r)
    (hk : z.Frame m r s) : z.Frame m r (wakeTimerStep s) := by
  unfold wakeTimerStep
  try dsimp only
  repeat' first
    | with_reducible assumption
    | with_reducible first | exact hm.within rfl | exact hr.within rfl | exact hr.at rfl
    | with_reducible first | apply State.Frame.ite | apply State.Frame.foldl | apply State.event_frame
    | exact hr.at (allRegs_at _)
    | (intro _ _ _; try dsimp only)
    | (intro _; try dsimp only)
    | split
    | exact State.Frame.upd hm (by with_reducible assumption) rfl
    | (refine State.Frame.upd hm ?_ rfl)

/-- Writes: outbox toll clk pwr pits stalls adms reqs dups streams toks rr chains entries revives parks wbs chr gens amd
asz aszCount samples lanes fab tier keys factorTick dbk arrivals; registers: any register. -/
theorem wakeTollStep_frame {z s : State} {m r : Nat} (hm : bitsIn 0xffffffde m) (hr : bitsIn 0x3fffffffffffffffffffffffffffffffffffffffffffffffffffffffffffffffffffffffffffffffffffffffffffffffffffffffffff r)
    (hk : z.Frame m r s) : z.Frame m r (wakeTollStep s) := by
  unfold wakeTollStep
  try dsimp only
  repeat' first
    | with_reducible assumption
    | with_reducible first | exact hm.within rfl | exact hr.within rfl | exact hr.at rfl
    | with_reducible first | apply State.Frame.ite | apply State.Frame.foldl | apply State.event_frame
    | exact hr.at (allRegs_at _)
    | (intro _ _ _; try dsimp only)
    | (intro _; try dsimp only)
    | split
    | exact State.Frame.upd hm (by with_reducible assumption) rfl
    | (refine State.Frame.upd hm ?_ rfl)

/-- Writes: outbox toll clk pwr pits stalls adms reqs dups streams toks rr chains entries revives parks wbs chr gens amd
asz aszCount samples lanes fab tier keys factorTick dbk arrivals; registers: any register. -/
theorem wakeTempStep_frame {z s : State} {m r : Nat} {deg} (hm : bitsIn 0xffffffde m) (hr : bitsIn 0x3fffffffffffffffffffffffffffffffffffffffffffffffffffffffffffffffffffffffffffffffffffffffffffffffffffffffffff r)
    (hk : z.Frame m r s) : z.Frame m r (wakeTempStep deg s) := by
  unfold wakeTempStep
  try dsimp only
  repeat' first
    | with_reducible assumption
    | with_reducible first | exact hm.within rfl | exact hr.within rfl | exact hr.at rfl
    | with_reducible first | apply State.Frame.ite | apply State.Frame.foldl | apply State.event_frame
    | exact hr.at (allRegs_at _)
    | (intro _ _ _; try dsimp only)
    | (intro _; try dsimp only)
    | split
    | exact State.Frame.upd hm (by with_reducible assumption) rfl
    | (refine State.Frame.upd hm ?_ rfl)

/-- Writes: outbox toll clk pwr pits stalls adms reqs dups streams toks rr chains entries revives parks wbs chr gens amd
asz aszCount samples lanes fab tier keys factorTick dbk arrivals; registers: any register. -/
theorem wakeDroopStep_frame {z s : State} {m r : Nat} (hm : bitsIn 0xffffffde m) (hr : bitsIn 0x3fffffffffffffffffffffffffffffffffffffffffffffffffffffffffffffffffffffffffffffffffffffffffffffffffffffffffff r)
    (hk : z.Frame m r s) : z.Frame m r (wakeDroopStep s) := by
  unfold wakeDroopStep
  try dsimp only
  repeat' first
    | with_reducible assumption
    | with_reducible first | exact hm.within rfl | exact hr.within rfl | exact hr.at rfl
    | with_reducible first | apply State.Frame.ite | apply State.Frame.foldl | apply State.event_frame
    | exact hr.at (allRegs_at _)
    | (intro _ _ _; try dsimp only)
    | (intro _; try dsimp only)
    | split
    | exact State.Frame.upd hm (by with_reducible assumption) rfl
    | (refine State.Frame.upd hm ?_ rfl)

/-- Writes: toll pwr pits adms reqs dups streams toks entries revives parks wbs keys dbk; registers: none. -/
theorem State.forceHibernate_frame {z s : State} {m r : Nat} {trip droop} (hm : bitsIn 0x50079f54 m) (hr : bitsIn 0x0 r)
    (hk : z.Frame m r s) : z.Frame m r (State.forceHibernate s trip droop) := by
  unfold State.forceHibernate
  try dsimp only
  repeat' first
    | with_reducible assumption
    | with_reducible first | exact hm.within rfl | exact hr.within rfl | exact hr.at rfl
    | with_reducible first | apply State.Frame.ite | apply State.Frame.foldl | apply State.endAll_frame
    | (intro _ _ _; try dsimp only)
    | (intro _; try dsimp only)
    | split
    | exact State.Frame.upd hm (by with_reducible assumption) rfl
    | (refine State.Frame.upd hm ?_ rfl)

theorem State.orderHibernate_frame {z s : State} {m r : Nat} (hm : bitsIn 0x4e028116 m) (hr : bitsIn 0x10000000000000000000000000000000000000000000000000 r) (h : z.Frame m r s) :
    z.Frame m r s.orderHibernate := by
  unfold State.orderHibernate
  have h1 := State.Frame.foldl (f := State.clearEntries) (xs := List.range 64) h
    fun t x ht => State.clearEntries_frame (hm.within rfl) (hr.within rfl) ht
  revert h1
  generalize (List.range 64).foldl State.clearEntries s = t
  intro h1
  dsimp only
  have h2 := State.day_frame (code := 0x0003) (pitch := 0) (p0 := (s.entries.filter (fun e => (s.parkTier e.pitch).isSome)).length)
    (p1 := 0) (p2 := 0) (hm.within rfl) (hr.within rfl) h1
  revert h2
  generalize t.day 0x0003 0 _ = u
  intro h2
  exact State.Frame.upd hm h2 rfl
/-- Writes: outbox toll pwr adms entries parks lanes fab tier dbk; registers: dbkDroppedCount wchStatusHibRefused. -/
theorem State.writeHib_frame {z s : State} {m r : Nat} {key} (hm : bitsIn 0x4e028116 m) (hr : bitsIn 0x10000000200000000000000000000000000000000000000000 r)
    (hk : z.Frame m r s) : z.Frame m r (State.writeHib s key) := by
  unfold State.writeHib
  try dsimp only
  repeat' first
    | with_reducible assumption
    | with_reducible first | exact hm.within rfl | exact hr.within rfl | exact hr.at rfl
    | with_reducible first | apply State.Frame.ite | apply State.Frame.foldl | apply State.orderHibernate_frame | apply State.wr_frame
    | (intro _ _ _; try dsimp only)
    | (intro _; try dsimp only)
    | split
    | exact State.Frame.upd hm (by with_reducible assumption) rfl
    | (refine State.Frame.upd hm ?_ rfl)

/-- Writes: outbox toll pwr adms entries parks lanes fab tier dbk; registers: dbkDroppedCount glbDenyCount
glbDenyLastAccessor glbDenyLastAddr glbDenyLastWrite wchStatusHibRefused. -/
theorem hibEnterStep_frame {z s : State} {m r : Nat} {acc key} (hm : bitsIn 0x4e028116 m) (hr : bitsIn 0x10000000200000000000000000000000000000000003c00000 r)
    (hk : z.Frame m r s) : z.Frame m r (hibEnterStep acc key s) := by
  unfold hibEnterStep
  try dsimp only
  repeat' first
    | with_reducible assumption
    | with_reducible first | exact hm.within rfl | exact hr.within rfl | exact hr.at rfl
    | with_reducible first | apply State.Frame.ite | apply State.Frame.foldl | apply State.FrameEither.ite | apply State.FrameEither.ofInl | apply State.FrameEither.ofInr | apply State.gate_frame | apply State.writeHib_frame
    | (intro _ _ _; try dsimp only)
    | (intro _; try dsimp only)
    | split
    | with_reducible first | refine State.Frame.ofInl ‹_› ?_ | refine State.Frame.ofInr ‹_› ?_
    | exact State.Frame.upd hm (by with_reducible assumption) rfl
    | (refine State.Frame.upd hm ?_ rfl)
    | dsimp only

/-- Writes: nothing but registers; registers: wchTempNowDeg wchTempNowSensor. -/
theorem State.noteTemp_frame {z s : State} {m r : Nat} {sensor deg} (hm : bitsIn 0x0 m) (hr : bitsIn 0x300000000000000000000000000000000000000000000 r)
    (hk : z.Frame m r s) : z.Frame m r (State.noteTemp s sensor deg) := by
  unfold State.noteTemp
  try dsimp only
  repeat' first
    | with_reducible assumption
    | with_reducible first | exact hm.within rfl | exact hr.within rfl | exact hr.at rfl
    | with_reducible first | apply State.Frame.ite | apply State.Frame.foldl | apply State.wr_frame
    | (intro _ _ _; try dsimp only)
    | (intro _; try dsimp only)
    | split

/-- Writes: outbox dbk; registers: dbkDroppedCount wchStatusHot wchTempNowDeg wchTempNowSensor. -/
theorem hotStep_frame {z s : State} {m r : Nat} {sensor deg} (hm : bitsIn 0x40000002 m) (hr : bitsIn 0x10000300100000000000000000000000000000000000000000 r)
    (hk : z.Frame m r s) : z.Frame m r (hotStep sensor deg s) := by
  unfold hotStep
  try dsimp only
  repeat' first
    | with_reducible assumption
    | with_reducible first | exact hm.within rfl | exact hr.within rfl | exact hr.at rfl
    | with_reducible first | apply State.Frame.ite | apply State.Frame.foldl | apply State.noteTemp_frame | apply State.day_frame | apply State.wr_frame
    | (intro _ _ _; try dsimp only)
    | (intro _; try dsimp only)
    | split
    | exact State.Frame.upd hm (by with_reducible assumption) rfl
    | (refine State.Frame.upd hm ?_ rfl)

/-- Writes: nothing but registers; registers: wchStatusHot wchTempNowDeg wchTempNowSensor. -/
theorem coolStep_frame {z s : State} {m r : Nat} {sensor deg} (hm : bitsIn 0x0 m) (hr : bitsIn 0x300100000000000000000000000000000000000000000 r)
    (hk : z.Frame m r s) : z.Frame m r (coolStep sensor deg s) := by
  unfold coolStep
  try dsimp only
  repeat' first
    | with_reducible assumption
    | with_reducible first | exact hm.within rfl | exact hr.within rfl | exact hr.at rfl
    | with_reducible first | apply State.Frame.ite | apply State.Frame.foldl | apply State.noteTemp_frame | apply State.wr_frame
    | (intro _ _ _; try dsimp only)
    | (intro _; try dsimp only)
    | split

/-- Writes: outbox toll pwr pits adms reqs dups streams toks entries revives parks wbs keys dbk; registers:
dbkDroppedCount wchTempNowDeg wchTempNowSensor. -/
theorem tripStep_frame {z s : State} {m r : Nat} {sensor deg} (hm : bitsIn 0x50079f56 m) (hr : bitsIn 0x10000300000000000000000000000000000000000000000000 r)
    (hk : z.Frame m r s) : z.Frame m r (tripStep sensor deg s) := by
  unfold tripStep
  try dsimp only
  repeat' first
    | with_reducible assumption
    | with_reducible first | exact hm.within rfl | exact hr.within rfl | exact hr.at rfl
    | with_reducible first | apply State.Frame.ite | apply State.Frame.foldl | apply State.noteTemp_frame | apply State.forceHibernate_frame | apply State.day_frame
    | (intro _ _ _; try dsimp only)
    | (intro _; try dsimp only)
    | split
    | exact State.Frame.upd hm (by with_reducible assumption) rfl
    | (refine State.Frame.upd hm ?_ rfl)

/-- Writes: outbox toll pwr pits stalls adms reqs dups streams toks chains entries revives parks wbs samples lanes fab
keys dbk free; registers: dbkDroppedCount glbFaultsCount pitVqTailCount stlFaultCause stlFaultUnit stlFaultsCount
stlRoleChain stlRoleChgCount stlRoleRole stlRoleStage stlStatusDraining stlStatusLoading stlTransCount
wchStatusDroop. -/
theorem droopStep_frame {z s : State} {m r : Nat} {rail} (hm : bitsIn 0x15707dfd6 m) (hr : bitsIn 0x49a06d002000000000000000000000000000000000010000000400000000000400000000000000000000000000000 r)
    (hk : z.Frame m r s) : z.Frame m r (droopStep rail s) := by
  unfold droopStep
  try dsimp only
  repeat' first
    | with_reducible assumption
    | with_reducible first | exact hm.within rfl | exact hr.within rfl | exact hr.at rfl
    | with_reducible first | apply State.Frame.ite | apply State.Frame.foldl | apply State.day_frame | apply State.wr_frame | apply State.quadFault_frame | apply State.forceHibernate_frame
    | (intro _ _ _; try dsimp only)
    | (intro _; try dsimp only)
    | split
    | exact State.Frame.upd hm (by with_reducible assumption) rfl
    | (refine State.Frame.upd hm ?_ rfl)

/-- Writes: outbox pits stalls adms reqs dups streams toks chains entries wbs samples lanes fab dbk free; registers:
dbkDroppedCount glbFaultsCount pitVqTailCount stlFaultCause stlFaultUnit stlFaultsCount stlRoleChain stlRoleChgCount
stlRoleRole stlRoleStage stlStatusDraining stlStatusLoading stlTransCount. -/
theorem pllLossStep_frame {z s : State} {m r : Nat} {q} (hm : bitsIn 0x14704dfc2 m) (hr : bitsIn 0x49a06d002000000000000000000000000000000000010000000000000000000400000000000000000000000000000 r)
    (hk : z.Frame m r s) : z.Frame m r (pllLossStep q s) := by
  unfold pllLossStep
  try dsimp only
  repeat' first
    | with_reducible assumption
    | with_reducible first | exact hm.within rfl | exact hr.within rfl | exact hr.at rfl
    | with_reducible first | apply State.Frame.ite | apply State.Frame.foldl | apply State.quadFault_frame
    | (intro _ _ _; try dsimp only)
    | (intro _; try dsimp only)
    | split
    | exact State.Frame.upd hm (by with_reducible assumption) rfl
    | (refine State.Frame.upd hm ?_ rfl)

/-- Writes: outbox toll clk pwr pits stalls adms reqs dups streams toks rr chains entries revives parks wbs chr gens amd
asz aszCount samples lanes fab tier keys factorTick dbk arrivals; registers: any register. -/
theorem celLossStep_frame {z s : State} {m r : Nat} (hm : bitsIn 0xffffffde m) (hr : bitsIn 0x3fffffffffffffffffffffffffffffffffffffffffffffffffffffffffffffffffffffffffffffffffffffffffffffffffffffffffff r)
    (hk : z.Frame m r s) : z.Frame m r (celLossStep s) := by
  unfold celLossStep
  try dsimp only
  repeat' first
    | with_reducible assumption
    | with_reducible first | exact hm.within rfl | exact hr.within rfl | exact hr.at rfl
    | with_reducible first | apply State.Frame.ite | apply State.Frame.foldl | apply State.warmReset_frame
    | exact hr.at (allRegs_at _)
    | (intro _ _ _; try dsimp only)
    | (intro _; try dsimp only)
    | split
    | exact State.Frame.upd hm (by with_reducible assumption) rfl
    | (refine State.Frame.upd hm ?_ rfl)

/-- Writes: outbox toll clk pwr pits stalls adms reqs dups streams toks rr chains entries revives parks wbs chr gens amd
asz aszCount samples lanes fab tier keys factorTick dbk arrivals; registers: any register. -/
theorem hpLossStep_frame {z s : State} {m r : Nat} (hm : bitsIn 0xffffffde m) (hr : bitsIn 0x3fffffffffffffffffffffffffffffffffffffffffffffffffffffffffffffffffffffffffffffffffffffffffffffffffffffffffff r)
    (hk : z.Frame m r s) : z.Frame m r (hpLossStep s) := by
  unfold hpLossStep
  try dsimp only
  repeat' first
    | with_reducible assumption
    | with_reducible first | exact hm.within rfl | exact hr.within rfl | exact hr.at rfl
    | with_reducible first | apply State.Frame.ite | apply State.Frame.foldl | apply State.warmReset_frame
    | exact hr.at (allRegs_at _)
    | (intro _ _ _; try dsimp only)
    | (intro _; try dsimp only)
    | split
    | exact State.Frame.upd hm (by with_reducible assumption) rfl
    | (refine State.Frame.upd hm ?_ rfl)

/-- Writes: outbox toll clk pwr pits stalls adms reqs dups streams toks rr chains entries revives parks wbs chr gens amd
asz aszCount samples lanes fab tier keys factorTick dbk arrivals; registers: any register. -/
theorem powerOnStep_frame {z s : State} {m r : Nat} (hm : bitsIn 0xffffffde m) (hr : bitsIn 0x3fffffffffffffffffffffffffffffffffffffffffffffffffffffffffffffffffffffffffffffffffffffffffffffffffffffffffff r)
    (hk : z.Frame m r s) : z.Frame m r (powerOnStep s) := by
  unfold powerOnStep
  try dsimp only
  repeat' first
    | with_reducible assumption
    | with_reducible first | exact hm.within rfl | exact hr.within rfl | exact hr.at rfl
    | with_reducible first | apply State.Frame.ite | apply State.Frame.foldl | apply State.blockReset_frame
    | exact hr.at (allRegs_at _)
    | (intro _ _ _; try dsimp only)
    | (intro _; try dsimp only)
    | split
    | exact State.Frame.upd hm (by with_reducible assumption) rfl
    | (refine State.Frame.upd hm ?_ rfl)

/-- Writes: outbox toll clk pwr pits stalls adms reqs dups streams toks rr chains entries revives parks wbs chr gens amd
asz aszCount samples lanes fab tier keys factorTick dbk arrivals; registers: any register. -/
theorem State.writeWreset_frame {z s : State} {m r : Nat} {key} (hm : bitsIn 0xffffffde m) (hr : bitsIn 0x3fffffffffffffffffffffffffffffffffffffffffffffffffffffffffffffffffffffffffffffffffffffffffffffffffffffffffff r)
    (hk : z.Frame m r s) : z.Frame m r (State.writeWreset s key) := by
  unfold State.writeWreset
  try dsimp only
  repeat' first
    | with_reducible assumption
    | with_reducible first | exact hm.within rfl | exact hr.within rfl | exact hr.at rfl
    | with_reducible first | apply State.Frame.ite | apply State.Frame.foldl | apply State.warmReset_frame
    | exact hr.at (allRegs_at _)
    | (intro _ _ _; try dsimp only)
    | (intro _; try dsimp only)
    | split
    | exact State.Frame.upd hm (by with_reducible assumption) rfl
    | (refine State.Frame.upd hm ?_ rfl)

/-- Writes: outbox toll clk pwr pits stalls adms reqs dups streams toks rr chains entries revives parks wbs chr gens amd
asz aszCount samples lanes fab tier keys factorTick dbk arrivals; registers: any register. -/
theorem warmResetStep_frame {z s : State} {m r : Nat} {src} (hm : bitsIn 0xffffffde m) (hr : bitsIn 0x3fffffffffffffffffffffffffffffffffffffffffffffffffffffffffffffffffffffffffffffffffffffffffffffffffffffffffff r)
    (hk : z.Frame m r s) : z.Frame m r (warmResetStep src s) := by
  unfold warmResetStep
  try dsimp only
  repeat' first
    | with_reducible assumption
    | with_reducible first | exact hm.within rfl | exact hr.within rfl | exact hr.at rfl
    | with_reducible first | apply State.Frame.ite | apply State.Frame.foldl | apply State.FrameEither.ite | apply State.FrameEither.ofInl | apply State.FrameEither.ofInr | apply State.warmReset_frame | apply State.gate_frame | apply State.writeWreset_frame
    | exact hr.at (allRegs_at _)
    | (intro _ _ _; try dsimp only)
    | (intro _; try dsimp only)
    | split
    | with_reducible first | refine State.Frame.ofInl ‹_› ?_ | refine State.Frame.ofInr ‹_› ?_
    | exact State.Frame.upd hm (by with_reducible assumption) rfl
    | (refine State.Frame.upd hm ?_ rfl)
    | dsimp only

/-- Writes: outbox toll pwr pits adms reqs dups streams toks entries revives parks wbs dbk; registers: dbkDroppedCount
dbkLiveCount dbkStatusFull dbkTopPos wchSlotSeqSeq. -/
theorem powerFailStep_frame {z s : State} {m r : Nat} (hm : bitsIn 0x40079f56 m) (hr : bitsIn 0xd0c00000000000000000000000000000000000000000000000 r)
    (hk : z.Frame m r s) : z.Frame m r (powerFailStep s) := by
  unfold powerFailStep
  try dsimp only
  repeat' first
    | with_reducible assumption
    | with_reducible first | exact hm.within rfl | exact hr.within rfl | exact hr.at rfl
    | with_reducible first | apply State.Frame.ite | apply State.Frame.foldl | apply State.endAll_frame | apply State.flushDbk_frame | apply State.day_frame
    | (intro _ _ _; try dsimp only)
    | (intro _; try dsimp only)
    | split
    | exact State.Frame.upd hm (by with_reducible assumption) rfl
    | (refine State.Frame.upd hm ?_ rfl)

/-- Writes: outbox toll clk pwr pits stalls adms reqs dups streams toks rr chains entries revives parks wbs chr gens amd
asz aszCount samples lanes fab tier keys factorTick dbk arrivals; registers: any register. -/
theorem pfailRiseStep_frame {z s : State} {m r : Nat} (hm : bitsIn 0xffffffde m) (hr : bitsIn 0x3fffffffffffffffffffffffffffffffffffffffffffffffffffffffffffffffffffffffffffffffffffffffffffffffffffffffffff r)
    (hk : z.Frame m r s) : z.Frame m r (pfailRiseStep s) := by
  unfold pfailRiseStep
  try dsimp only
  repeat' first
    | with_reducible assumption
    | with_reducible first | exact hm.within rfl | exact hr.within rfl | exact hr.at rfl
    | with_reducible first | apply State.Frame.ite | apply State.Frame.foldl | apply State.warmReset_frame | apply State.wr_frame
    | exact hr.at (allRegs_at _)
    | (intro _ _ _; try dsimp only)
    | (intro _; try dsimp only)
    | split
    | exact State.Frame.upd hm (by with_reducible assumption) rfl
    | (refine State.Frame.upd hm ?_ rfl)


end Sys2Proof.Machine
end

