-- ==== Sys2Proof/Laws/FrameLanes.lean ====
section
/-! SUPPORT. What the functions of Machine/Lanes.lean may write, and that they leave the rest of a state as it is. -/

set_option linter.unusedVariables false

namespace Sys2Proof.Machine

/-- Writes: fab; registers: fabDropCount fabStatusMgrSeen. -/
theorem State.frameIn_frame {z s : State} {m r : Nat} {l b} (hm : bitsIn 0x4000000 m) (hr : bitsIn 0x40010000000000000000000000000000000000000000000000000000000000000 r)
    (hk : z.Frame m r s) : z.Frame m r (State.frameIn s l b) := by
  unfold State.frameIn
  try dsimp only
  repeat' first
    | with_reducible assumption
    | with_reducible first | exact hm.within rfl | exact hr.within rfl | exact hr.at rfl
    | with_reducible first | apply State.Frame.ite | apply State.Frame.foldl | apply State.bump_frame | apply State.wr_frame
    | (intro _ _ _; try dsimp only)
    | (intro _; try dsimp only)
    | split
    | exact State.Frame.upd hm (by with_reducible assumption) rfl
    | (refine State.Frame.upd hm ?_ rfl)

/-- Writes: outbox lanes; registers: none. -/
theorem State.sendHello_frame {z s : State} {m r : Nat} {l} (hm : bitsIn 0x2000002 m) (hr : bitsIn 0x0 r)
    (hk : z.Frame m r s) : z.Frame m r (State.sendHello s l) := by
  unfold State.sendHello
  try dsimp only
  repeat' first
    | with_reducible assumption
    | with_reducible first | exact hm.within rfl | exact hr.within rfl | exact hr.at rfl
    | with_reducible first | apply State.Frame.ite | apply State.Frame.foldl | apply State.laneSend_frame
    | (intro _ _ _; try dsimp only)
    | (intro _; try dsimp only)
    | split
    | exact State.Frame.upd hm (by with_reducible assumption) rfl
    | (refine State.Frame.upd hm ?_ rfl)

/-- Writes: outbox lanes; registers: none. -/
theorem State.linkStart_frame {z s : State} {m r : Nat} {l} (hm : bitsIn 0x2000002 m) (hr : bitsIn 0x0 r)
    (hk : z.Frame m r s) : z.Frame m r (State.linkStart s l) := by
  unfold State.linkStart
  try dsimp only
  repeat' first
    | with_reducible assumption
    | with_reducible first | exact hm.within rfl | exact hr.within rfl | exact hr.at rfl
    | with_reducible first | apply State.Frame.ite | apply State.Frame.foldl | apply State.sendHello_frame | apply State.updLane_frame
    | (intro _ _ _; try dsimp only)
    | (intro _; try dsimp only)
    | split
    | exact State.Frame.upd hm (by with_reducible assumption) rfl
    | (refine State.Frame.upd hm ?_ rfl)

/-- Writes: outbox lanes; registers: none. -/
theorem equalisedStep_frame {z s : State} {m r : Nat} {l} (hm : bitsIn 0x2000002 m) (hr : bitsIn 0x0 r)
    (hk : z.Frame m r s) : z.Frame m r (equalisedStep l s) := by
  unfold equalisedStep
  try dsimp only
  repeat' first
    | with_reducible assumption
    | with_reducible first | exact hm.within rfl | exact hr.within rfl | exact hr.at rfl
    | with_reducible first | apply State.Frame.ite | apply State.Frame.foldl | apply State.updLane_frame | apply State.linkStart_frame
    | (intro _ _ _; try dsimp only)
    | (intro _; try dsimp only)
    | split
    | exact State.Frame.upd hm (by with_reducible assumption) rfl
    | (refine State.Frame.upd hm ?_ rfl)

/-- Writes: outbox lanes; registers: none. -/
theorem State.resend_frame {z s : State} {m r : Nat} {l fs} (hm : bitsIn 0x2000002 m) (hr : bitsIn 0x0 r)
    (hk : z.Frame m r s) : z.Frame m r (State.resend s l fs) := by
  unfold State.resend
  try dsimp only
  repeat' first
    | with_reducible assumption
    | with_reducible first | exact hm.within rfl | exact hr.within rfl | exact hr.at rfl
    | with_reducible first | apply State.Frame.ite | apply State.Frame.foldl | apply State.laneSend_frame
    | (intro _ _ _; try dsimp only)
    | (intro _; try dsimp only)
    | split
    | exact State.Frame.upd hm (by with_reducible assumption) rfl
    | (refine State.Frame.upd hm ?_ rfl)

/-- Writes: outbox lanes dbk; registers: dbkDroppedCount glbFaultsCount. -/
theorem State.laneDown_frame {z s : State} {m r : Nat} {l cause} (hm : bitsIn 0x42000002 m) (hr : bitsIn 0x10000000000000000000400000000000000000000000000000 r)
    (hk : z.Frame m r s) : z.Frame m r (State.laneDown s l cause) := by
  unfold State.laneDown
  try dsimp only
  repeat' first
    | with_reducible assumption
    | with_reducible first | exact hm.within rfl | exact hr.within rfl | exact hr.at rfl
    | with_reducible first | apply State.Frame.ite | apply State.Frame.foldl | apply State.updLane_frame | apply State.day_frame | apply State.bump_frame | apply State.resend_frame
    | (intro _ _ _; try dsimp only)
    | (intro _; try dsimp only)
    | split
    | exact State.Frame.upd hm (by with_reducible assumption) rfl
    | (refine State.Frame.upd hm ?_ rfl)

/-- Writes: outbox lanes dbk; registers: dbkDroppedCount glbFaultsCount. -/
theorem fecLossStep_frame {z s : State} {m r : Nat} {l} (hm : bitsIn 0x42000002 m) (hr : bitsIn 0x10000000000000000000400000000000000000000000000000 r)
    (hk : z.Frame m r s) : z.Frame m r (fecLossStep l s) := by
  unfold fecLossStep
  try dsimp only
  repeat' first
    | with_reducible assumption
    | with_reducible first | exact hm.within rfl | exact hr.within rfl | exact hr.at rfl
    | with_reducible first | apply State.Frame.ite | apply State.Frame.foldl | apply State.laneDown_frame
    | (intro _ _ _; try dsimp only)
    | (intro _; try dsimp only)
    | split
    | exact State.Frame.upd hm (by with_reducible assumption) rfl
    | (refine State.Frame.upd hm ?_ rfl)

/-- Writes: outbox lanes dbk; registers: dbkDroppedCount glbRetiredCount. -/
theorem State.retireLane_frame {z s : State} {m r : Nat} {l} (hm : bitsIn 0x42000002 m) (hr : bitsIn 0x10000000000000000000800000000000000000000000000000 r)
    (hk : z.Frame m r s) : z.Frame m r (State.retireLane s l) := by
  unfold State.retireLane
  try dsimp only
  repeat' first
    | with_reducible assumption
    | with_reducible first | exact hm.within rfl | exact hr.within rfl | exact hr.at rfl
    | with_reducible first | apply State.Frame.ite | apply State.Frame.foldl | apply State.bump_frame | apply State.day_frame | apply State.updLane_frame
    | (intro _ _ _; try dsimp only)
    | (intro _; try dsimp only)
    | split
    | exact State.Frame.upd hm (by with_reducible assumption) rfl
    | (refine State.Frame.upd hm ?_ rfl)

/-- Writes: outbox lanes dbk; registers: dbkDroppedCount glbRetiredCount. -/
theorem laneTestStep_frame {z s : State} {m r : Nat} {l pass} (hm : bitsIn 0x42000002 m) (hr : bitsIn 0x10000000000000000000800000000000000000000000000000 r)
    (hk : z.Frame m r s) : z.Frame m r (laneTestStep l pass s) := by
  unfold laneTestStep
  try dsimp only
  repeat' first
    | with_reducible assumption
    | with_reducible first | exact hm.within rfl | exact hr.within rfl | exact hr.at rfl
    | with_reducible first | apply State.Frame.ite | apply State.Frame.foldl | apply State.retireLane_frame | apply State.linkStart_frame | apply State.day_frame
    | (intro _ _ _; try dsimp only)
    | (intro _; try dsimp only)
    | split
    | exact State.Frame.upd hm (by with_reducible assumption) rfl
    | (refine State.Frame.upd hm ?_ rfl)

/-- Writes: outbox lanes dbk; registers: dbkDroppedCount fabLnRetryCount glbFaultsCount. -/
theorem State.replayFrom_frame {z s : State} {m r : Nat} {l ack} (hm : bitsIn 0x42000002 m) (hr : bitsIn 0x10000000000000000010000000000000000000400000000000000000000000000000 r)
    (hk : z.Frame m r s) : z.Frame m r (State.replayFrom s l ack) := by
  unfold State.replayFrom
  try dsimp only
  repeat' first
    | with_reducible assumption
    | with_reducible first | exact hm.within rfl | exact hr.within rfl | exact hr.at rfl
    | with_reducible first | apply State.Frame.ite | apply State.Frame.foldl | apply State.laneDown_frame | apply State.bump_frame | apply State.updLane_frame | apply State.emit_frame
    | (intro _ _ _; try dsimp only)
    | (intro _; try dsimp only)
    | split
    | exact State.Frame.upd hm (by with_reducible assumption) rfl
    | (refine State.Frame.upd hm ?_ rfl)

/-- Writes: outbox lanes dbk; registers: dbkDroppedCount fabLnRetryCount glbFaultsCount. -/
theorem retryStep_frame {z s : State} {m r : Nat} {l ack} (hm : bitsIn 0x42000002 m) (hr : bitsIn 0x10000000000000000010000000000000000000400000000000000000000000000000 r)
    (hk : z.Frame m r s) : z.Frame m r (retryStep l ack s) := by
  unfold retryStep
  try dsimp only
  repeat' first
    | with_reducible assumption
    | with_reducible first | exact hm.within rfl | exact hr.within rfl | exact hr.at rfl
    | with_reducible first | apply State.Frame.ite | apply State.Frame.foldl | apply State.replayFrom_frame
    | (intro _ _ _; try dsimp only)
    | (intro _; try dsimp only)
    | split
    | exact State.Frame.upd hm (by with_reducible assumption) rfl
    | (refine State.Frame.upd hm ?_ rfl)

/-- Writes: outbox; registers: none. -/
theorem State.askRetry_frame {z s : State} {m r : Nat} {l} (hm : bitsIn 0x2 m) (hr : bitsIn 0x0 r)
    (hk : z.Frame m r s) : z.Frame m r (State.askRetry s l) := by
  unfold State.askRetry
  try dsimp only
  repeat' first
    | with_reducible assumption
    | with_reducible first | exact hm.within rfl | exact hr.within rfl | exact hr.at rfl
    | with_reducible first | apply State.Frame.ite | apply State.Frame.foldl | apply State.emit_frame
    | (intro _ _ _; try dsimp only)
    | (intro _; try dsimp only)
    | split
    | exact State.Frame.upd hm (by with_reducible assumption) rfl
    | (refine State.Frame.upd hm ?_ rfl)

/-- Writes: outbox lanes fab; registers: fabDropCount fabStatusMgrSeen. -/
theorem State.dataFlit_frame {z s : State} {m r : Nat} {l b} (hm : bitsIn 0x6000002 m) (hr : bitsIn 0x40010000000000000000000000000000000000000000000000000000000000000 r)
    (hk : z.Frame m r s) : z.Frame m r (State.dataFlit s l b) := by
  unfold State.dataFlit
  try dsimp only
  repeat' first
    | with_reducible assumption
    | with_reducible first | exact hm.within rfl | exact hr.within rfl | exact hr.at rfl
    | with_reducible first | apply State.Frame.ite | apply State.Frame.foldl | apply State.updLane_frame | apply State.frameIn_frame | apply State.bump_frame | apply State.emit_frame
    | (intro _ _ _; try dsimp only)
    | (intro _; try dsimp only)
    | split
    | exact State.Frame.upd hm (by with_reducible assumption) rfl
    | (refine State.Frame.upd hm ?_ rfl)

/-- Writes: outbox lanes fab dbk; registers: dbkDroppedCount fabDropCount fabLnCorrCount fabLnRetryCount
fabLnUncorrCount fabStatusMgrSeen glbFaultsCount. -/
theorem flitStep_frame {z s : State} {m r : Nat} {l uncorr corrected b} (hm : bitsIn 0x46000002 m) (hr : bitsIn 0x1c040010000000000010000000000000000000400000000000000000000000000000 r)
    (hk : z.Frame m r s) : z.Frame m r (flitStep l uncorr corrected b s) := by
  unfold flitStep
  try dsimp only
  repeat' first
    | with_reducible assumption
    | with_reducible first | exact hm.within rfl | exact hr.within rfl | exact hr.at rfl
    | with_reducible first | apply State.Frame.ite | apply State.Frame.foldl | apply State.bump_frame | apply State.askRetry_frame | apply State.updLane_frame | apply State.laneDrain_frame | apply State.replayFrom_frame | apply State.dataFlit_frame
    | (intro _ _ _; try dsimp only)
    | (intro _; try dsimp only)
    | split
    | exact State.Frame.upd hm (by with_reducible assumption) rfl
    | (refine State.Frame.upd hm ?_ rfl)

/-- Writes: outbox dbk; registers: dbkDroppedCount. -/
theorem State.takeover_frame {z s : State} {m r : Nat} {p shards} (hm : bitsIn 0x40000002 m) (hr : bitsIn 0x10000000000000000000000000000000000000000000000000 r)
    (hk : z.Frame m r s) : z.Frame m r (State.takeover s p shards) := by
  unfold State.takeover
  try dsimp only
  repeat' first
    | with_reducible assumption
    | with_reducible first | exact hm.within rfl | exact hr.within rfl | exact hr.at rfl
    | with_reducible first | apply State.Frame.ite | apply State.Frame.foldl | apply State.day_frame
    | (intro _ _ _; try dsimp only)
    | (intro _; try dsimp only)
    | split
    | exact State.Frame.upd hm (by with_reducible assumption) rfl
    | (refine State.Frame.upd hm ?_ rfl)

/-- Writes: outbox lanes fab dbk; registers: dbkDroppedCount. -/
theorem State.passShards_frame {z s : State} {m r : Nat} {d p} (hm : bitsIn 0x46000002 m) (hr : bitsIn 0x10000000000000000000000000000000000000000000000000 r)
    (hk : z.Frame m r s) : z.Frame m r (State.passShards s d p) := by
  unfold State.passShards
  try dsimp only
  repeat' first
    | with_reducible assumption
    | with_reducible first | exact hm.within rfl | exact hr.within rfl | exact hr.at rfl
    | with_reducible first | apply State.Frame.ite | apply State.Frame.foldl | apply State.announce_frame | apply State.takeover_frame
    | (intro _ _ _; try dsimp only)
    | (intro _; try dsimp only)
    | split
    | exact State.Frame.upd hm (by with_reducible assumption) rfl
    | (refine State.Frame.upd hm ?_ rfl)

/-- Writes: outbox lanes fab dbk; registers: dbkDroppedCount. -/
theorem State.markLost_frame {z s : State} {m r : Nat} {d} (hm : bitsIn 0x46000002 m) (hr : bitsIn 0x10000000000000000000000000000000000000000000000000 r)
    (hk : z.Frame m r s) : z.Frame m r (State.markLost s d) := by
  unfold State.markLost
  try dsimp only
  repeat' first
    | with_reducible assumption
    | with_reducible first | exact hm.within rfl | exact hr.within rfl | exact hr.at rfl
    | with_reducible first | apply State.Frame.ite | apply State.Frame.foldl | apply State.passShards_frame
    | (intro _ _ _; try dsimp only)
    | (intro _; try dsimp only)
    | split
    | exact State.Frame.upd hm (by with_reducible assumption) rfl
    | (refine State.Frame.upd hm ?_ rfl)

/-- Writes: outbox lanes fab dbk; registers: dbkDroppedCount. -/
theorem State.findLoss_frame {z s : State} {m r : Nat} {d} (hm : bitsIn 0x46000002 m) (hr : bitsIn 0x10000000000000000000000000000000000000000000000000 r)
    (hk : z.Frame m r s) : z.Frame m r (State.findLoss s d) := by
  unfold State.findLoss
  try dsimp only
  repeat' first
    | with_reducible assumption
    | with_reducible first | exact hm.within rfl | exact hr.within rfl | exact hr.at rfl
    | with_reducible first | apply State.Frame.ite | apply State.Frame.foldl | apply State.sendFrame_frame | apply State.markLost_frame | apply State.day_frame
    | (intro _ _ _; try dsimp only)
    | (intro _; try dsimp only)
    | split
    | exact State.Frame.upd hm (by with_reducible assumption) rfl
    | (refine State.Frame.upd hm ?_ rfl)

/-- Writes: outbox lanes fab dbk; registers: dbkDroppedCount glbFaultsCount. -/
theorem heartbeatMissStep_frame {z s : State} {m r : Nat} {l} (hm : bitsIn 0x46000002 m) (hr : bitsIn 0x10000000000000000000400000000000000000000000000000 r)
    (hk : z.Frame m r s) : z.Frame m r (heartbeatMissStep l s) := by
  unfold heartbeatMissStep
  try dsimp only
  repeat' first
    | with_reducible assumption
    | with_reducible first | exact hm.within rfl | exact hr.within rfl | exact hr.at rfl
    | with_reducible first | apply State.Frame.ite | apply State.Frame.foldl | apply State.updLane_frame | apply State.laneDown_frame | apply State.findLoss_frame
    | (intro _ _ _; try dsimp only)
    | (intro _; try dsimp only)
    | split
    | exact State.Frame.upd hm (by with_reducible assumption) rfl
    | (refine State.Frame.upd hm ?_ rfl)

/-- Writes: outbox lanes fab; registers: none. -/
theorem heartbeatSendStep_frame {z s : State} {m r : Nat} (hm : bitsIn 0x6000002 m) (hr : bitsIn 0x0 r)
    (hk : z.Frame m r s) : z.Frame m r (heartbeatSendStep s) := by
  unfold heartbeatSendStep
  try dsimp only
  repeat' first
    | with_reducible assumption
    | with_reducible first | exact hm.within rfl | exact hr.within rfl | exact hr.at rfl
    | with_reducible first | apply State.Frame.ite | apply State.Frame.foldl | apply State.laneSend_frame
    | (intro _ _ _; try dsimp only)
    | (intro _; try dsimp only)
    | split
    | exact State.Frame.upd hm (by with_reducible assumption) rfl
    | (refine State.Frame.upd hm ?_ rfl)


end Sys2Proof.Machine
end

