-- ==== Sys2Proof/Laws/FrameDomain.lean ====
section
/-! SUPPORT. What the functions of Machine/Domain.lean may write, and that they leave the rest of a state as it is. -/

set_option linter.unusedVariables false

namespace Sys2Proof.Machine

theorem State.takeFrame_frame {z s t : State} {m r l k : Nat} {b f} (hm : bitsIn 0x4000000 m) (h : z.Frame m r s)
    (e : s.takeFrame l k b = some (t, f)) : z.Frame m r t := by
  unfold State.takeFrame at e
  dsimp only at e
  split at e
  · cases e
  · cases e
    exact State.Frame.upd hm h rfl
theorem State.onFrame_frame {z s : State} {m r l k : Nat} {b act} (hm : bitsIn 0x4000000 m) (h : z.Frame m r s)
    (ha : ∀ t f, z.Frame m r t → z.Frame m r (act t f)) : z.Frame m r (s.onFrame l k b act) := by
  unfold State.onFrame
  split
  · rename_i x e
    exact ha _ _ (State.takeFrame_frame hm h e)
  · exact h
/-- Writes: outbox lanes dbk; registers: dbkDroppedCount fabStatusVerLow. -/
theorem State.helloFrame_frame {z s : State} {m r : Nat} {l f} (hm : bitsIn 0x42000002 m) (hr : bitsIn 0x20000000000010000000000000000000000000000000000000000000000000 r)
    (hk : z.Frame m r s) : z.Frame m r (State.helloFrame s l f) := by
  unfold State.helloFrame
  try dsimp only
  repeat' first
    | with_reducible assumption
    | with_reducible first | exact hm.within rfl | exact hr.within rfl | exact hr.at rfl
    | with_reducible first | apply State.Frame.ite | apply State.Frame.foldl | apply State.updLane_frame | apply State.day_frame | apply State.wr_frame | apply State.sendDigests_frame
    | (intro _ _ _; try dsimp only)
    | (intro _; try dsimp only)
    | split
    | exact State.Frame.upd hm (by with_reducible assumption) rfl
    | (refine State.Frame.upd hm ?_ rfl)

/-- Writes: lanes; registers: none. -/
theorem State.heartbeatFrame_frame {z s : State} {m r : Nat} {l} (hm : bitsIn 0x2000000 m) (hr : bitsIn 0x0 r)
    (hk : z.Frame m r s) : z.Frame m r (State.heartbeatFrame s l) := by
  unfold State.heartbeatFrame
  try dsimp only
  repeat' first
    | with_reducible assumption
    | with_reducible first | exact hm.within rfl | exact hr.within rfl | exact hr.at rfl
    | with_reducible first | apply State.Frame.ite | apply State.Frame.foldl | apply State.updLane_frame
    | (intro _ _ _; try dsimp only)
    | (intro _; try dsimp only)
    | split
    | exact State.Frame.upd hm (by with_reducible assumption) rfl
    | (refine State.Frame.upd hm ?_ rfl)

/-- Writes: outbox fab dbk; registers: dbkDroppedCount fabPitStatusJoined fabPitStatusMismatch. -/
theorem State.digestFrame_frame {z s : State} {m r : Nat} {f} (hm : bitsIn 0x44000002 m) (hr : bitsIn 0xc00000000000000000010000000000000000000000000000000000000000000000000 r)
    (hk : z.Frame m r s) : z.Frame m r (State.digestFrame s f) := by
  unfold State.digestFrame
  try dsimp only
  repeat' first
    | with_reducible assumption
    | with_reducible first | exact hm.within rfl | exact hr.within rfl | exact hr.at rfl
    | with_reducible first | apply State.Frame.ite | apply State.Frame.foldl | apply State.wr_frame | apply State.day_frame
    | (intro _ _ _; try dsimp only)
    | (intro _; try dsimp only)
    | split
    | exact State.Frame.upd hm (by with_reducible assumption) rfl
    | (refine State.Frame.upd hm ?_ rfl)

/-- Writes: outbox lanes fab; registers: fabConflictsCount. -/
theorem State.findConflict_frame {z s : State} {m r : Nat} {p sess other} (hm : bitsIn 0x6000002 m) (hr : bitsIn 0x20000000000000000000000000000000000000000000000000000000000000000 r)
    (hk : z.Frame m r s) : z.Frame m r (State.findConflict s p sess other) := by
  unfold State.findConflict
  try dsimp only
  repeat' first
    | with_reducible assumption
    | with_reducible first | exact hm.within rfl | exact hr.within rfl | exact hr.at rfl
    | with_reducible first | apply State.Frame.ite | apply State.Frame.foldl | apply State.bump_frame | apply State.sendFrame_frame
    | (intro _ _ _; try dsimp only)
    | (intro _; try dsimp only)
    | split
    | exact State.Frame.upd hm (by with_reducible assumption) rfl
    | (refine State.Frame.upd hm ?_ rfl)

/-- Writes: outbox pits stalls reqs dups streams toks entries revives parks wbs lanes fab tier dbk; registers:
dbkDroppedCount pitVqTailCount. -/
theorem State.settleClaim_frame {z s : State} {m r : Nat} {p sess dev epoch} (hm : bitsIn 0x4e079ec2 m) (hr : bitsIn 0x2000000000000000000000000000000000010000000000000000000000000000000000000000000000000 r)
    (hk : z.Frame m r s) : z.Frame m r (State.settleClaim s p sess dev epoch) := by
  unfold State.settleClaim
  try dsimp only
  repeat' first
    | with_reducible assumption
    | with_reducible first | exact hm.within rfl | exact hr.within rfl | exact hr.at rfl
    | with_reducible first | apply State.Frame.ite | apply State.Frame.foldl | apply State.loseSession_frame
    | (intro _ _ _; try dsimp only)
    | (intro _; try dsimp only)
    | split
    | exact State.Frame.upd hm (by with_reducible assumption) rfl
    | (refine State.Frame.upd hm ?_ rfl)

/-- Writes: outbox lanes fab; registers: fabConflictsCount. -/
theorem State.probeFrame_frame {z s : State} {m r : Nat} {f} (hm : bitsIn 0x6000002 m) (hr : bitsIn 0x20000000000000000000000000000000000000000000000000000000000000000 r)
    (hk : z.Frame m r s) : z.Frame m r (State.probeFrame s f) := by
  unfold State.probeFrame
  try dsimp only
  repeat' first
    | with_reducible assumption
    | with_reducible first | exact hm.within rfl | exact hr.within rfl | exact hr.at rfl
    | with_reducible first | apply State.Frame.ite | apply State.Frame.foldl | apply State.Frame.getD | apply State.sendFrame_frame | apply State.findConflict_frame
    | (intro _ _ _; try dsimp only)
    | (intro _; try dsimp only)
    | split
    | exact State.Frame.upd hm (by with_reducible assumption) rfl
    | (refine State.Frame.upd hm ?_ rfl)

/-- Writes: outbox pits stalls reqs dups streams toks entries revives parks wbs lanes fab tier dbk; registers:
dbkDroppedCount pitVqTailCount. -/
theorem State.stateFrame_frame {z s : State} {m r : Nat} {f} (hm : bitsIn 0x4e079ec2 m) (hr : bitsIn 0x2000000000000000000000000000000000010000000000000000000000000000000000000000000000000 r)
    (hk : z.Frame m r s) : z.Frame m r (State.stateFrame s f) := by
  unfold State.stateFrame
  try dsimp only
  repeat' first
    | with_reducible assumption
    | with_reducible first | exact hm.within rfl | exact hr.within rfl | exact hr.at rfl
    | with_reducible first | apply State.Frame.ite | apply State.Frame.foldl | apply State.settleClaim_frame
    | (intro _ _ _; try dsimp only)
    | (intro _; try dsimp only)
    | split
    | exact State.Frame.upd hm (by with_reducible assumption) rfl
    | (refine State.Frame.upd hm ?_ rfl)

/-- Writes: fab; registers: none. -/
theorem State.setShard_frame {z s : State} {m r : Nat} {p k owner epoch} (hm : bitsIn 0x4000000 m) (hr : bitsIn 0x0 r)
    (hk : z.Frame m r s) : z.Frame m r (State.setShard s p k owner epoch) := by
  unfold State.setShard
  try dsimp only
  repeat' first
    | with_reducible assumption
    | with_reducible first | exact hm.within rfl | exact hr.within rfl | exact hr.at rfl
    | with_reducible first | apply State.Frame.ite | apply State.Frame.foldl | apply State.Frame.getD
    | (intro _ _ _; try dsimp only)
    | (intro _; try dsimp only)
    | split
    | exact State.Frame.upd hm (by with_reducible assumption) rfl
    | (refine State.Frame.upd hm ?_ rfl)

/-- Writes: outbox lanes fab; registers: fabConflictsCount. -/
theorem State.shardConflicts_frame {z s : State} {m r : Nat} {p ks} (hm : bitsIn 0x6000002 m) (hr : bitsIn 0x20000000000000000000000000000000000000000000000000000000000000000 r)
    (hk : z.Frame m r s) : z.Frame m r (State.shardConflicts s p ks) := by
  unfold State.shardConflicts
  try dsimp only
  repeat' first
    | with_reducible assumption
    | with_reducible first | exact hm.within rfl | exact hr.within rfl | exact hr.at rfl
    | with_reducible first | apply State.Frame.ite | apply State.Frame.foldl | apply State.findConflict_frame
    | (intro _ _ _; try dsimp only)
    | (intro _; try dsimp only)
    | split
    | exact State.Frame.upd hm (by with_reducible assumption) rfl
    | (refine State.Frame.upd hm ?_ rfl)

/-- Writes: outbox lanes fab dbk; registers: dbkDroppedCount fabConflictsCount fabPitStatusJoined. -/
theorem State.shardFrame_frame {z s : State} {m r : Nat} {f} (hm : bitsIn 0x46000002 m) (hr : bitsIn 0x400020000000000000010000000000000000000000000000000000000000000000000 r)
    (hk : z.Frame m r s) : z.Frame m r (State.shardFrame s f) := by
  unfold State.shardFrame
  try dsimp only
  repeat' first
    | with_reducible assumption
    | with_reducible first | exact hm.within rfl | exact hr.within rfl | exact hr.at rfl
    | with_reducible first | apply State.Frame.ite | apply State.Frame.foldl | apply State.setShard_frame | apply State.takeover_frame | apply State.wr_frame | apply State.shardConflicts_frame
    | (intro _ _ _; try dsimp only)
    | (intro _; try dsimp only)
    | split
    | exact State.Frame.upd hm (by with_reducible assumption) rfl
    | (refine State.Frame.upd hm ?_ rfl)

/-- Writes: fab; registers: none. -/
theorem State.dirFrame_frame {z s : State} {m r : Nat} {f} (hm : bitsIn 0x4000000 m) (hr : bitsIn 0x0 r)
    (hk : z.Frame m r s) : z.Frame m r (State.dirFrame s f) := by
  unfold State.dirFrame
  try dsimp only
  repeat' first
    | with_reducible assumption
    | with_reducible first | exact hm.within rfl | exact hr.within rfl | exact hr.at rfl
    | with_reducible first | apply State.Frame.ite | apply State.Frame.foldl
    | (intro _ _ _; try dsimp only)
    | (intro _; try dsimp only)
    | split
    | exact State.Frame.upd hm (by with_reducible assumption) rfl
    | (refine State.Frame.upd hm ?_ rfl)

/-- Writes: outbox dbk; registers: dbkDroppedCount. -/
theorem State.grantRefused_frame {z s : State} {m r : Nat} {p sess dev reason} (hm : bitsIn 0x40000002 m) (hr : bitsIn 0x10000000000000000000000000000000000000000000000000 r)
    (hk : z.Frame m r s) : z.Frame m r (State.grantRefused s p sess dev reason) := by
  unfold State.grantRefused
  try dsimp only
  repeat' first
    | with_reducible assumption
    | with_reducible first | exact hm.within rfl | exact hr.within rfl | exact hr.at rfl
    | with_reducible first | apply State.Frame.ite | apply State.Frame.foldl | apply State.day_frame
    | (intro _ _ _; try dsimp only)
    | (intro _; try dsimp only)
    | split
    | exact State.Frame.upd hm (by with_reducible assumption) rfl
    | (refine State.Frame.upd hm ?_ rfl)

/-- Writes: outbox lanes; registers: none. -/
theorem State.sendNack_frame {z s : State} {m r : Nat} {f reason} (hm : bitsIn 0x2000002 m) (hr : bitsIn 0x0 r)
    (hk : z.Frame m r s) : z.Frame m r (State.sendNack s f reason) := by
  unfold State.sendNack
  try dsimp only
  repeat' first
    | with_reducible assumption
    | with_reducible first | exact hm.within rfl | exact hr.within rfl | exact hr.at rfl
    | with_reducible first | apply State.Frame.ite | apply State.Frame.foldl | apply State.sendFrame_frame
    | (intro _ _ _; try dsimp only)
    | (intro _; try dsimp only)
    | split
    | exact State.Frame.upd hm (by with_reducible assumption) rfl
    | (refine State.Frame.upd hm ?_ rfl)

/-- Writes: outbox entries parks lanes fab tier free; registers: none. -/
theorem State.startMove_frame {z s : State} {m r : Nat} {p sess target reason} (hm : bitsIn 0x10e028002 m) (hr : bitsIn 0x0 r)
    (hk : z.Frame m r s) : z.Frame m r (State.startMove s p sess target reason) := by
  unfold State.startMove
  try dsimp only
  repeat' first
    | with_reducible assumption
    | with_reducible first | exact hm.within rfl | exact hr.within rfl | exact hr.at rfl
    | with_reducible first | apply State.Frame.ite | apply State.Frame.foldl | apply State.moveOn_frame
    | (intro _ _ _; try dsimp only)
    | (intro _; try dsimp only)
    | split
    | exact State.Frame.upd hm (by with_reducible assumption) rfl
    | (refine State.Frame.upd hm ?_ rfl)

/-- Writes: outbox entries parks lanes fab tier free; registers: none. -/
theorem State.orderMove_frame {z s : State} {m r : Nat} {acc w'} (hm : bitsIn 0x10e028002 m) (hr : bitsIn 0x0 r)
    (hk : z.Frame m r s) : z.Frame m r (State.orderMove s acc w') := by
  unfold State.orderMove
  try dsimp only
  repeat' first
    | with_reducible assumption
    | with_reducible first | exact hm.within rfl | exact hr.within rfl | exact hr.at rfl
    | with_reducible first | apply State.Frame.ite | apply State.Frame.foldl | apply State.Frame.getD | apply State.startMove_frame
    | (intro _ _ _; try dsimp only)
    | (intro _; try dsimp only)
    | split
    | exact State.Frame.upd hm (by with_reducible assumption) rfl
    | (refine State.Frame.upd hm ?_ rfl)

/-- Writes: outbox entries parks lanes fab tier dbk free; registers: dbkDroppedCount glbDenyCount glbDenyLastAccessor
glbDenyLastAddr glbDenyLastWrite. -/
theorem moveStep_frame {z s : State} {m r : Nat} {acc w'} (hm : bitsIn 0x14e028002 m) (hr : bitsIn 0x10000000000000000000000000000000000000000003c00000 r)
    (hk : z.Frame m r s) : z.Frame m r (moveStep acc w' s) := by
  unfold moveStep
  try dsimp only
  repeat' first
    | with_reducible assumption
    | with_reducible first | exact hm.within rfl | exact hr.within rfl | exact hr.at rfl
    | with_reducible first | apply State.Frame.ite | apply State.Frame.foldl | apply State.FrameEither.ite | apply State.FrameEither.ofInl | apply State.FrameEither.ofInr | apply State.gate_frame | apply State.orderMove_frame
    | (intro _ _ _; try dsimp only)
    | (intro _; try dsimp only)
    | split
    | with_reducible first | refine State.Frame.ofInl ‹_› ?_ | refine State.Frame.ofInr ‹_› ?_
    | exact State.Frame.upd hm (by with_reducible assumption) rfl
    | (refine State.Frame.upd hm ?_ rfl)
    | dsimp only

/-- Writes: outbox entries parks lanes fab tier free; registers: none. -/
theorem State.reqFrame_frame {z s : State} {m r : Nat} {f} (hm : bitsIn 0x10e028002 m) (hr : bitsIn 0x0 r)
    (hk : z.Frame m r s) : z.Frame m r (State.reqFrame s f) := by
  unfold State.reqFrame
  try dsimp only
  repeat' first
    | with_reducible assumption
    | with_reducible first | exact hm.within rfl | exact hr.within rfl | exact hr.at rfl
    | with_reducible first | apply State.Frame.ite | apply State.Frame.foldl | apply State.sendNack_frame | apply State.startMove_frame
    | (intro _ _ _; try dsimp only)
    | (intro _; try dsimp only)
    | split
    | exact State.Frame.upd hm (by with_reducible assumption) rfl
    | (refine State.Frame.upd hm ?_ rfl)

/-- Writes: outbox pits stalls reqs dups streams toks entries revives parks wbs lanes fab tier dbk; registers:
dbkDroppedCount fabConflictsCount pitVqTailCount. -/
theorem State.acceptOwner_frame {z s : State} {m r : Nat} {p sess owner holder epoch ckpt} (hm : bitsIn 0x4e079ec2 m) (hr : bitsIn 0x2000000000000000000020000000000000010000000000000000000000000000000000000000000000000 r)
    (hk : z.Frame m r s) : z.Frame m r (State.acceptOwner s p sess owner holder epoch ckpt) := by
  unfold State.acceptOwner
  try dsimp only
  repeat' first
    | with_reducible assumption
    | with_reducible first | exact hm.within rfl | exact hr.within rfl | exact hr.at rfl
    | with_reducible first | apply State.Frame.ite | apply State.Frame.foldl | apply State.putExc_frame | apply State.writeRecord_frame | apply State.dropMove_frame | apply State.freeEntry_frame | apply State.loseSession_frame | apply State.bump_frame
    | (intro _ _ _; try dsimp only)
    | (intro _; try dsimp only)
    | split
    | exact State.Frame.upd hm (by with_reducible assumption) rfl
    | (refine State.Frame.upd hm ?_ rfl)

/-- Writes: outbox pits stalls reqs dups streams toks entries revives parks wbs lanes fab tier dbk; registers:
dbkDroppedCount fabConflictsCount pitVqTailCount. -/
theorem State.grantFrame_frame {z s : State} {m r : Nat} {f} (hm : bitsIn 0x4e079ec2 m) (hr : bitsIn 0x2000000000000000000020000000000000010000000000000000000000000000000000000000000000000 r)
    (hk : z.Frame m r s) : z.Frame m r (State.grantFrame s f) := by
  unfold State.grantFrame
  try dsimp only
  repeat' first
    | with_reducible assumption
    | with_reducible first | exact hm.within rfl | exact hr.within rfl | exact hr.at rfl
    | with_reducible first | apply State.Frame.ite | apply State.Frame.foldl | apply State.grantRefused_frame | apply State.sendNack_frame | apply State.acceptOwner_frame
    | (intro _ _ _; try dsimp only)
    | (intro _; try dsimp only)
    | split
    | exact State.Frame.upd hm (by with_reducible assumption) rfl
    | (refine State.Frame.upd hm ?_ rfl)

/-- Writes: outbox revives lanes fab dbk; registers: dbkDroppedCount. -/
theorem State.nackFrame_frame {z s : State} {m r : Nat} {f} (hm : bitsIn 0x46010002 m) (hr : bitsIn 0x10000000000000000000000000000000000000000000000000 r)
    (hk : z.Frame m r s) : z.Frame m r (State.nackFrame s f) := by
  unfold State.nackFrame
  try dsimp only
  repeat' first
    | with_reducible assumption
    | with_reducible first | exact hm.within rfl | exact hr.within rfl | exact hr.at rfl
    | with_reducible first | apply State.Frame.ite | apply State.Frame.foldl | apply State.Frame.getD | apply State.dropMove_frame | apply State.grantRefused_frame | apply State.startRevive_frame
    | (intro _ _ _; try dsimp only)
    | (intro _; try dsimp only)
    | split
    | exact State.Frame.upd hm (by with_reducible assumption) rfl
    | (refine State.Frame.upd hm ?_ rfl)

/-- Writes: outbox pits stalls reqs dups streams toks entries revives parks wbs lanes fab tier dbk; registers:
dbkDroppedCount fabConflictsCount pitVqTailCount. -/
theorem State.announceFrame_frame {z s : State} {m r : Nat} {f} (hm : bitsIn 0x4e079ec2 m) (hr : bitsIn 0x2000000000000000000020000000000000010000000000000000000000000000000000000000000000000 r)
    (hk : z.Frame m r s) : z.Frame m r (State.announceFrame s f) := by
  unfold State.announceFrame
  try dsimp only
  repeat' first
    | with_reducible assumption
    | with_reducible first | exact hm.within rfl | exact hr.within rfl | exact hr.at rfl
    | with_reducible first | apply State.Frame.ite | apply State.Frame.foldl | apply State.shardConflicts_frame | apply State.setShard_frame | apply State.acceptOwner_frame
    | (intro _ _ _; try dsimp only)
    | (intro _; try dsimp only)
    | split
    | exact State.Frame.upd hm (by with_reducible assumption) rfl
    | (refine State.Frame.upd hm ?_ rfl)

/-- Writes: outbox revives lanes fab; registers: none. -/
theorem State.reviveForPush_frame {z s : State} {m r : Nat} {p sess} (hm : bitsIn 0x6010002 m) (hr : bitsIn 0x0 r)
    (hk : z.Frame m r s) : z.Frame m r (State.reviveForPush s p sess) := by
  unfold State.reviveForPush
  try dsimp only
  repeat' first
    | with_reducible assumption
    | with_reducible first | exact hm.within rfl | exact hr.within rfl | exact hr.at rfl
    | with_reducible first | apply State.Frame.ite | apply State.Frame.foldl | apply State.startRevive_frame
    | (intro _ _ _; try dsimp only)
    | (intro _; try dsimp only)
    | split
    | exact State.Frame.upd hm (by with_reducible assumption) rfl
    | (refine State.Frame.upd hm ?_ rfl)

/-- Writes: outbox revives lanes fab; registers: none. -/
theorem State.tapFrame_frame {z s : State} {m r : Nat} {f} (hm : bitsIn 0x6010002 m) (hr : bitsIn 0x0 r)
    (hk : z.Frame m r s) : z.Frame m r (State.tapFrame s f) := by
  unfold State.tapFrame
  try dsimp only
  repeat' first
    | with_reducible assumption
    | with_reducible first | exact hm.within rfl | exact hr.within rfl | exact hr.at rfl
    | with_reducible first | apply State.Frame.ite | apply State.Frame.foldl | apply State.reviveForPush_frame
    | (intro _ _ _; try dsimp only)
    | (intro _; try dsimp only)
    | split
    | exact State.Frame.upd hm (by with_reducible assumption) rfl
    | (refine State.Frame.upd hm ?_ rfl)

/-- Writes: outbox pits entries revives wbs lanes fab dbk; registers: dbkDroppedCount fabConflictsCount. -/
theorem State.headFrame_frame {z s : State} {m r : Nat} {f} (hm : bitsIn 0x46058042 m) (hr : bitsIn 0x20000000000000010000000000000000000000000000000000000000000000000 r)
    (hk : z.Frame m r s) : z.Frame m r (State.headFrame s f) := by
  unfold State.headFrame
  try dsimp only
  repeat' first
    | with_reducible assumption
    | with_reducible first | exact hm.within rfl | exact hr.within rfl | exact hr.at rfl
    | with_reducible first | apply State.Frame.ite | apply State.Frame.foldl | apply State.dropPush_frame | apply State.answerPush_frame | apply State.findConflict_frame | apply State.reviveForPush_frame | apply State.settlePushes_frame
    | (intro _ _ _; try dsimp only)
    | (intro _; try dsimp only)
    | split
    | exact State.Frame.upd hm (by with_reducible assumption) rfl
    | (refine State.Frame.upd hm ?_ rfl)

/-- Writes: reqs; registers: none. -/
theorem State.ackFrame_frame {z s : State} {m r : Nat} {f} (hm : bitsIn 0x200 m) (hr : bitsIn 0x0 r)
    (hk : z.Frame m r s) : z.Frame m r (State.ackFrame s f) := by
  unfold State.ackFrame
  try dsimp only
  repeat' first
    | with_reducible assumption
    | with_reducible first | exact hm.within rfl | exact hr.within rfl | exact hr.at rfl
    | with_reducible first | apply State.Frame.ite | apply State.Frame.foldl | apply State.updReq_frame
    | (intro _ _ _; try dsimp only)
    | (intro _; try dsimp only)
    | split
    | exact State.Frame.upd hm (by with_reducible assumption) rfl
    | (refine State.Frame.upd hm ?_ rfl)

/-- Writes: fab; registers: none. -/
theorem pushExpiryStep_frame {z s : State} {m r : Nat} {p sess} (hm : bitsIn 0x4000000 m) (hr : bitsIn 0x0 r)
    (hk : z.Frame m r s) : z.Frame m r (pushExpiryStep p sess s) := by
  unfold pushExpiryStep
  try dsimp only
  repeat' first
    | with_reducible assumption
    | with_reducible first | exact hm.within rfl | exact hr.within rfl | exact hr.at rfl
    | with_reducible first | apply State.Frame.ite | apply State.Frame.foldl
    | (intro _ _ _; try dsimp only)
    | (intro _; try dsimp only)
    | split
    | exact State.Frame.upd hm (by with_reducible assumption) rfl
    | (refine State.Frame.upd hm ?_ rfl)

/-- Writes: outbox pits stalls reqs streams toks entries revives parks wbs lanes fab dbk; registers: dbkDroppedCount
ldgLostCount ldgStatusPoolFail pitVqTailCount. -/
theorem State.txnFailed_frame {z s : State} {m r : Nat} {t} (hm : bitsIn 0x46079ac2 m) (hr : bitsIn 0x2000000000000000000000000000000000010000000000000000000000000000000000204000000000000 r)
    (hk : z.Frame m r s) : z.Frame m r (State.txnFailed s t) := by
  unfold State.txnFailed
  try dsimp only
  repeat' first
    | with_reducible assumption
    | with_reducible first | exact hm.within rfl | exact hr.within rfl | exact hr.at rfl
    | with_reducible first | apply State.Frame.ite | apply State.Frame.foldl | apply State.day_frame | apply State.wr_frame | apply State.reviveLost_frame | apply State.account_frame | apply State.failJobs_frame
    | (intro _ _ _; try dsimp only)
    | (intro _; try dsimp only)
    | split
    | exact State.Frame.upd hm (by with_reducible assumption) rfl
    | (refine State.Frame.upd hm ?_ rfl)

/-- Writes: fab; registers: none. -/
theorem State.dropTxn_frame {z s : State} {m r : Nat} {id} (hm : bitsIn 0x4000000 m) (hr : bitsIn 0x0 r)
    (hk : z.Frame m r s) : z.Frame m r (State.dropTxn s id) := by
  unfold State.dropTxn
  try dsimp only
  repeat' first
    | with_reducible assumption
    | with_reducible first | exact hm.within rfl | exact hr.within rfl | exact hr.at rfl
    | with_reducible first | apply State.Frame.ite | apply State.Frame.foldl
    | (intro _ _ _; try dsimp only)
    | (intro _; try dsimp only)
    | split
    | exact State.Frame.upd hm (by with_reducible assumption) rfl
    | (refine State.Frame.upd hm ?_ rfl)

/-- Writes: outbox pits stalls reqs streams toks entries revives parks wbs lanes fab dbk; registers: dbkDroppedCount
ldgLostCount ldgStatusPoolFail pitVqTailCount. -/
theorem State.cplFrame_frame {z s : State} {m r : Nat} {f} (hm : bitsIn 0x46079ac2 m) (hr : bitsIn 0x2000000000000000000000000000000000010000000000000000000000000000000000204000000000000 r)
    (hk : z.Frame m r s) : z.Frame m r (State.cplFrame s f) := by
  unfold State.cplFrame
  try dsimp only
  repeat' first
    | with_reducible assumption
    | with_reducible first | exact hm.within rfl | exact hr.within rfl | exact hr.at rfl
    | with_reducible first | apply State.Frame.ite | apply State.Frame.foldl | apply State.txnFailed_frame | apply State.dropTxn_frame | apply State.dirWrite_frame
    | (intro _ _ _; try dsimp only)
    | (intro _; try dsimp only)
    | split
    | exact State.Frame.upd hm (by with_reducible assumption) rfl
    | (refine State.Frame.upd hm ?_ rfl)

/-- Writes: outbox pits stalls reqs streams toks entries revives parks wbs lanes fab dbk; registers: dbkDroppedCount
ldgLostCount ldgStatusPoolFail pitVqTailCount. -/
theorem State.wrAckFrame_frame {z s : State} {m r : Nat} {f} (hm : bitsIn 0x46079ac2 m) (hr : bitsIn 0x2000000000000000000000000000000000010000000000000000000000000000000000204000000000000 r)
    (hk : z.Frame m r s) : z.Frame m r (State.wrAckFrame s f) := by
  unfold State.wrAckFrame
  try dsimp only
  repeat' first
    | with_reducible assumption
    | with_reducible first | exact hm.within rfl | exact hr.within rfl | exact hr.at rfl
    | with_reducible first | apply State.Frame.ite | apply State.Frame.foldl | apply State.dropTxn_frame | apply State.txnFailed_frame
    | (intro _ _ _; try dsimp only)
    | (intro _; try dsimp only)
    | split
    | exact State.Frame.upd hm (by with_reducible assumption) rfl
    | (refine State.Frame.upd hm ?_ rfl)

/-- Writes: outbox lanes fab; registers: fabStatusMoveFail. -/
theorem ownTimeoutStep_frame {z s : State} {m r : Nat} {p sess} (hm : bitsIn 0x6000002 m) (hr : bitsIn 0x40000000000000000000000000000000000000000000000000000000000000 r)
    (hk : z.Frame m r s) : z.Frame m r (ownTimeoutStep p sess s) := by
  unfold ownTimeoutStep
  try dsimp only
  repeat' first
    | with_reducible assumption
    | with_reducible first | exact hm.within rfl | exact hr.within rfl | exact hr.at rfl
    | with_reducible first | apply State.Frame.ite | apply State.Frame.foldl | apply State.Frame.getD | apply State.wr_frame | apply State.dropMove_frame | apply State.sendFrame_frame
    | (intro _ _ _; try dsimp only)
    | (intro _; try dsimp only)
    | split
    | exact State.Frame.upd hm (by with_reducible assumption) rfl
    | (refine State.Frame.upd hm ?_ rfl)


end Sys2Proof.Machine
end

