-- ==== Sys2Proof/Laws/FrameReads.lean ====
section
/-! SUPPORT. What the functions of Machine/Reads.lean may write, and that they leave the rest of a state as it is. -/

set_option linter.unusedVariables false

namespace Sys2Proof.Machine

/-- Writes: outbox dbk; registers: dbkDroppedCount glbDenyCount glbDenyLastAccessor glbDenyLastAddr glbDenyLastWrite. -/
theorem State.readAccess_frame {z s : State} {m r : Nat} {acc size a} (hm : bitsIn 0x40000002 m) (hr : bitsIn 0x10000000000000000000000000000000000000000003c00000 r)
    (hk : z.Frame m r s) : z.Frame m r (State.readAccess s acc size a).2 := by
  unfold State.readAccess
  try dsimp only
  repeat' first
    | with_reducible assumption
    | with_reducible first | exact hm.within rfl | exact hr.within rfl | exact hr.at rfl
    | with_reducible first | apply State.Frame.ite | apply State.Frame.foldl | apply State.deny_frame
    | (intro _ _ _; try dsimp only)
    | (intro _; try dsimp only)
    | split
    | exact State.Frame.upd hm (by with_reducible assumption) rfl
    | (refine State.Frame.upd hm ?_ rfl)
    | dsimp only


end Sys2Proof.Machine
end

