-- ==== Sys2Proof/Laws/FrameControl.lean ====
section
/-! SUPPORT. What the functions of Machine/Control.lean may write, and that they leave the rest of a state as it is. -/

set_option linter.unusedVariables false

namespace Sys2Proof.Machine

/-- Writes: nothing but registers; registers: any register. -/
theorem State.writeField_frame {z s : State} {m r : Nat} {f i w'} (hm : bitsIn 0x0 m) (hr : bitsIn 0x3fffffffffffffffffffffffffffffffffffffffffffffffffffffffffffffffffffffffffffffffffffffffffffffffffffffffffff r)
    (hk : z.Frame m r s) : z.Frame m r (State.writeField s f i w') := by
  unfold State.writeField
  try dsimp only
  repeat' first
    | with_reducible assumption
    | with_reducible first | exact hm.within rfl | exact hr.within rfl | exact hr.at rfl
    | with_reducible first | apply State.Frame.ite | apply State.Frame.foldl | apply State.wr_frame
    | exact hr.at (allRegs_at _)
    | (intro _ _ _; try dsimp only)
    | (intro _; try dsimp only)
    | split

/-- Writes: nothing but registers; registers: any register. -/
theorem State.writeFields_frame {z s : State} {m r : Nat} {a w'} (hm : bitsIn 0x0 m) (hr : bitsIn 0x3fffffffffffffffffffffffffffffffffffffffffffffffffffffffffffffffffffffffffffffffffffffffffffffffffffffffffff r)
    (hk : z.Frame m r s) : z.Frame m r (State.writeFields s a w') := by
  unfold State.writeFields
  try dsimp only
  repeat' first
    | with_reducible assumption
    | with_reducible first | exact hm.within rfl | exact hr.within rfl | exact hr.at rfl
    | with_reducible first | apply State.Frame.ite | apply State.Frame.foldl | apply State.writeField_frame
    | exact hr.at (allRegs_at _)
    | (intro _ _ _; try dsimp only)
    | (intro _; try dsimp only)
    | split

/-- Writes: clk; registers: none. -/
theorem State.holdTimerHi_frame {z s : State} {m r : Nat} {w'} (hm : bitsIn 0x8 m) (hr : bitsIn 0x0 r)
    (hk : z.Frame m r s) : z.Frame m r (State.holdTimerHi s w') := by
  unfold State.holdTimerHi
  try dsimp only
  repeat' first
    | with_reducible assumption
    | with_reducible first | exact hm.within rfl | exact hr.within rfl | exact hr.at rfl
    | with_reducible first | apply State.Frame.ite | apply State.Frame.foldl
    | (intro _ _ _; try dsimp only)
    | (intro _; try dsimp only)
    | split
    | exact State.Frame.upd hm (by with_reducible assumption) rfl
    | (refine State.Frame.upd hm ?_ rfl)

/-- Writes: nothing but registers; registers: wchTimerHiTime wchTimerLoTime. -/
theorem State.writeTimerLo_frame {z s : State} {m r : Nat} {w'} (hm : bitsIn 0x0 m) (hr : bitsIn 0xc000000000000000000000000000000000000000000 r)
    (hk : z.Frame m r s) : z.Frame m r (State.writeTimerLo s w') := by
  unfold State.writeTimerLo
  try dsimp only
  repeat' first
    | with_reducible assumption
    | with_reducible first | exact hm.within rfl | exact hr.within rfl | exact hr.at rfl
    | with_reducible first | apply State.Frame.ite | apply State.Frame.foldl | apply State.wr_frame
    | (intro _ _ _; try dsimp only)
    | (intro _; try dsimp only)
    | split

/-- Writes: pits; registers: none. -/
theorem State.keepPfLo_frame {z s : State} {m r : Nat} {acc p w'} (hm : bitsIn 0x40 m) (hr : bitsIn 0x0 r)
    (hk : z.Frame m r s) : z.Frame m r (State.keepPfLo s acc p w') := by
  unfold State.keepPfLo
  try dsimp only
  repeat' first
    | with_reducible assumption
    | with_reducible first | exact hm.within rfl | exact hr.within rfl | exact hr.at rfl
    | with_reducible first | apply State.Frame.ite | apply State.Frame.foldl | apply State.updPit_frame
    | (intro _ _ _; try dsimp only)
    | (intro _; try dsimp only)
    | split
    | exact State.Frame.upd hm (by with_reducible assumption) rfl
    | (refine State.Frame.upd hm ?_ rfl)

/-- Writes: fab; registers: none. -/
theorem State.keepMoveLo_frame {z s : State} {m r : Nat} {acc w'} (hm : bitsIn 0x4000000 m) (hr : bitsIn 0x0 r)
    (hk : z.Frame m r s) : z.Frame m r (State.keepMoveLo s acc w') := by
  unfold State.keepMoveLo
  try dsimp only
  repeat' first
    | with_reducible assumption
    | with_reducible first | exact hm.within rfl | exact hr.within rfl | exact hr.at rfl
    | with_reducible first | apply State.Frame.ite | apply State.Frame.foldl
    | (intro _ _ _; try dsimp only)
    | (intro _; try dsimp only)
    | split
    | exact State.Frame.upd hm (by with_reducible assumption) rfl
    | (refine State.Frame.upd hm ?_ rfl)

/-- Writes: fab; registers: none. -/
theorem State.writeRoute_frame {z s : State} {m r : Nat} {w'} (hm : bitsIn 0x4000000 m) (hr : bitsIn 0x0 r)
    (hk : z.Frame m r s) : z.Frame m r (State.writeRoute s w') := by
  unfold State.writeRoute
  try dsimp only
  repeat' first
    | with_reducible assumption
    | with_reducible first | exact hm.within rfl | exact hr.within rfl | exact hr.at rfl
    | with_reducible first | apply State.Frame.ite | apply State.Frame.foldl
    | (intro _ _ _; try dsimp only)
    | (intro _; try dsimp only)
    | split
    | exact State.Frame.upd hm (by with_reducible assumption) rfl
    | (refine State.Frame.upd hm ?_ rfl)

/-- Writes: outbox pits stalls adms reqs dups streams toks entries revives parks amd asz aszCount samples lanes fab tier
dbk; registers: any register. -/
theorem State.writePitReset_frame {z s : State} {m r : Nat} {w'} (hm : bitsIn 0x4fe39fc2 m) (hr : bitsIn 0x3fffffffffffffffffffffffffffffffffffffffffffffffffffffffffffffffffffffffffffffffffffffffffffffffffffffffffff r)
    (hk : z.Frame m r s) : z.Frame m r (State.writePitReset s w') := by
  unfold State.writePitReset
  try dsimp only
  repeat' first
    | with_reducible assumption
    | with_reducible first | exact hm.within rfl | exact hr.within rfl | exact hr.at rfl
    | with_reducible first | apply State.Frame.ite | apply State.Frame.foldl | apply State.resetPitch_frame
    | exact hr.at (allRegs_at _)
    | (intro _ _ _; try dsimp only)
    | (intro _; try dsimp only)
    | split
    | exact State.Frame.upd hm (by with_reducible assumption) rfl
    | (refine State.Frame.upd hm ?_ rfl)

/-- Writes: outbox pits adms lanes fab; registers: ldgPitStatusCfgErr pitCtrlEnable pitStatusCfgErr pitStatusEnabled
tierPitHomeUsedMib tierPitStatusCfgErr tierPitStatusHomeBusy. -/
theorem State.writePitCtrl_frame {z s : State} {m r : Nat} {p w'} (hm : bitsIn 0x6000142 m) (hr : bitsIn 0x700000000000000000000000000000000000000000000000000002c00000010000000000000000000 r)
    (hk : z.Frame m r s) : z.Frame m r (State.writePitCtrl s p w') := by
  unfold State.writePitCtrl
  try dsimp only
  repeat' first
    | with_reducible assumption
    | with_reducible first | exact hm.within rfl | exact hr.within rfl | exact hr.at rfl
    | with_reducible first | apply State.Frame.ite | apply State.Frame.foldl | apply State.enable_frame | apply State.disable_frame
    | (intro _ _ _; try dsimp only)
    | (intro _; try dsimp only)
    | split
    | exact State.Frame.upd hm (by with_reducible assumption) rfl
    | (refine State.Frame.upd hm ?_ rfl)

/-- Writes: outbox clk pits stalls asz lanes fab dbk; registers: aszPitCtrlFreeze aszPitExpStatBusy aszPitExpStatShort
dbkDroppedCount stlRoleChain stlRoleChgCount stlRoleRole stlRoleStage stlStatusDraining stlStatusLoading
tollEnergyLevelNj. -/
theorem State.writeAszCtrl_frame {z s : State} {m r : Nat} {p w'} (hm : bitsIn 0x464000ca m) (hr : bitsIn 0x206d000000000184000000000000000000000000010000000000000000080000000000000000000000000000000 r)
    (hk : z.Frame m r s) : z.Frame m r (State.writeAszCtrl s p w') := by
  unfold State.writeAszCtrl
  try dsimp only
  repeat' first
    | with_reducible assumption
    | with_reducible first | exact hm.within rfl | exact hr.within rfl | exact hr.at rfl
    | with_reducible first | apply State.Frame.ite | apply State.Frame.foldl | apply State.setFreeze_frame | apply State.kick_frame | apply State.startExport_frame
    | (intro _ _ _; try dsimp only)
    | (intro _; try dsimp only)
    | split
    | exact State.Frame.upd hm (by with_reducible assumption) rfl
    | (refine State.Frame.upd hm ?_ rfl)

theorem State.writeActs_frame {z s t : State} {m r i w : Nat} {acc f} (hm : bitsIn 0x1ffffffde m) (hr : bitsIn 0x3fffffffffffffffffffffffffffffffffffffffffffffffffffffffffffffffffffffffffffffffffffffffffffffffffffffffffff r) (h : z.Frame m r s)
    (e : s.writeActs acc f i w = some t) : z.Frame m r t := by
  unfold State.writeActs at e
  split at e
  · exact Option.some.inj e ▸ State.writeZeroise_frame (hm.within rfl) (hr.within rfl) h
  · exact Option.some.inj e ▸ State.writePitReset_frame (hm.within rfl) (hr.within rfl) h
  · exact Option.some.inj e ▸ State.raiseKeyMin_frame (hm.within rfl) (hr.within rfl) h
  · exact Option.some.inj e ▸ State.Frame.ite (fun _ => State.rotateKey_frame (hm.within rfl) (hr.within rfl) h) fun _ => h
  · exact Option.some.inj e ▸ State.keepPfLo_frame (hm.within rfl) (hr.within rfl) h
  · exact Option.some.inj e ▸ State.queuePrefetch_frame (hm.within rfl) (hr.within rfl) h
  · exact Option.some.inj e ▸ State.writeQuar_frame (hm.within rfl) (hr.within rfl) h
  · exact Option.some.inj e ▸ State.writeTimerLo_frame (hm.within rfl) (hr.within rfl) h
  · exact Option.some.inj e ▸ State.holdTimerHi_frame (hm.within rfl) (hr.within rfl) h
  · exact Option.some.inj e ▸ State.writeHib_frame (hm.within rfl) (hr.within rfl) h
  · exact Option.some.inj e ▸ State.writeWreset_frame (hm.within rfl) (hr.within rfl) h
  · exact Option.some.inj e ▸ State.writeStlReset_frame (hm.within rfl) (hr.within rfl) h
  · exact Option.some.inj e ▸ State.writeClear_frame (hm.within rfl) (hr.within rfl) h
  · exact Option.some.inj e ▸ State.writeLock_frame (hm.within rfl) (hr.within rfl) h
  · exact Option.some.inj e ▸ State.amdCtrl_frame (hm.within rfl) (hr.within rfl) h
  · exact Option.some.inj e ▸ State.keepMoveLo_frame (hm.within rfl) (hr.within rfl) h
  · exact Option.some.inj e ▸ State.orderMove_frame (hm.within rfl) (hr.within rfl) h
  · exact Option.some.inj e ▸ State.writeRoute_frame (hm.within rfl) (hr.within rfl) h
  · exact Option.some.inj e ▸ State.setAssize_frame (hm.within rfl) (hr.within rfl) h
  · exact Option.some.inj e ▸ State.writeAszCtrl_frame (hm.within rfl) (hr.within rfl) h
  · exact Option.some.inj e ▸ State.writePitCtrl_frame (hm.within rfl) (hr.within rfl) h
  · exact Option.some.inj e ▸ State.ringDoorbell_frame (hm.within rfl) (hr.within rfl) h
  · exact Option.some.inj e ▸ State.setVqHead_frame (hm.within rfl) (hr.within rfl) h
  · exact Option.some.inj e ▸ State.Frame.ite (fun _ => State.ringBell_frame (hm.within rfl) (hr.within rfl) h) fun _ => h
  · cases e
theorem State.writeWord_frame {z s : State} {m r x w : Nat} {acc} (hm : bitsIn 0x1ffffffde m) (hr : bitsIn 0x3fffffffffffffffffffffffffffffffffffffffffffffffffffffffffffffffffffffffffffffffffffffffffffffffffffffffffff r) (h : z.Frame m r s) :
    z.Frame m r (s.writeWord acc x w) := by
  unfold State.writeWord
  split
  · rename_i t e
    obtain ⟨y, -, hy⟩ := List.exists_of_findSome?_eq_some e
    exact State.writeActs_frame (hm.within rfl) (hr.within rfl) h hy
  · exact State.writeFields_frame (hm.within rfl) (hr.within rfl) h
/-- Writes: outbox toll clk pwr pits stalls adms reqs dups streams toks rr chains entries revives parks wbs chr gens amd
asz aszCount samples lanes fab tier keys factorTick dbk arrivals free; registers: any register. -/
theorem regWriteStep_frame {z s : State} {m r : Nat} {acc a v} (hm : bitsIn 0x1ffffffde m) (hr : bitsIn 0x3fffffffffffffffffffffffffffffffffffffffffffffffffffffffffffffffffffffffffffffffffffffffffffffffffffffffffff r)
    (hk : z.Frame m r s) : z.Frame m r (regWriteStep acc a v s) := by
  unfold regWriteStep
  try dsimp only
  repeat' first
    | with_reducible assumption
    | with_reducible first | exact hm.within rfl | exact hr.within rfl | exact hr.at rfl
    | with_reducible first | apply State.Frame.ite | apply State.Frame.foldl | apply State.writeWord_frame | apply State.deny_frame
    | exact hr.at (allRegs_at _)
    | (intro _ _ _; try dsimp only)
    | (intro _; try dsimp only)
    | split
    | exact State.Frame.upd hm (by with_reducible assumption) rfl
    | (refine State.Frame.upd hm ?_ rfl)


end Sys2Proof.Machine
end

