-- ==== Sys2Proof/Laws/KeepOps.lean ====
section
/-! SUPPORT. What the functions of Machine/Ops.lean keep of a state, whatever they do (State.Keeps). -/

namespace Sys2Proof.Machine

theorem State.Keeps.refl (s : State) : s.Keeps s :=
  ⟨rfl, List.prefix_refl _, Nat.le_refl _, Nat.le_refl _, Nat.le_refl _, Nat.and_self _, ⟨rfl, rfl⟩, Nat.le_refl _, id⟩

/-- An update of fields that no clause speaks of. -/
theorem State.Keeps.same {a s t : State} (h : a.Keeps s) (hq : t.pending = s.pending) (ho : t.outbox = s.outbox)
    (hc : t.clk = s.clk) (hf : t.fuse = s.fuse) (hn : t.free = s.free) (hr : t.regs = s.regs)
    (hp : t.pits.length = s.pits.length) (hs : t.stalls.length = s.stalls.length) (hl : t.lanes.length = s.lanes.length)
    (hv : t.dbk.views.length = s.dbk.views.length) (hb : t.dbk.buffer.length = s.dbk.buffer.length) : a.Keeps t := by
  obtain ⟨h1, h2, h3, h4, h5, h6, h7, h8, h9⟩ := h
  refine ⟨hq ▸ h1, ho ▸ h2, hc ▸ h3, hc ▸ h4, hf ▸ h5, hf ▸ h6, hf ▸ h7, hn ▸ h8, fun ha => ?_⟩
  obtain ⟨i1, i2, i3, i4, i5, i6, i7, i8, i9⟩ := h9 ha
  exact ⟨hr ▸ i1, hr ▸ i2, hp ▸ i3, hs ▸ i4, hl ▸ i5, hv ▸ i6, hb ▸ i7, hc ▸ i8, hc ▸ i9⟩

/-- A state that differs only in what no clause speaks of. -/
theorem State.Keeps.upd {a s : State} {toll pwr pits stalls adms reqs dups streams toks rr chains entries revives parks wbs chr gens amd asz aszCount samples lanes fab tier keys factorTick dbk arrivals} (h : a.Keeps s)
    (hp : pits.length = s.pits.length) (hs : stalls.length = s.stalls.length) (hl : lanes.length = s.lanes.length)
    (hv : dbk.views.length = s.dbk.views.length) (hb : dbk.buffer.length = s.dbk.buffer.length) :
    a.Keeps (State.mk s.pending s.regs s.outbox toll s.clk pwr s.fuse pits stalls adms reqs dups streams toks rr chains entries revives parks wbs chr gens amd asz aszCount samples lanes fab tier keys factorTick dbk arrivals s.free) :=
  h.same rfl rfl rfl rfl rfl rfl hp hs hl hv hb

theorem State.Keeps.foldl {α : Type} {a s : State} {f : State → α → State} {xs : List α} (h : a.Keeps s)
    (hf : ∀ t x, a.Keeps t → a.Keeps (f t x)) : a.Keeps (xs.foldl f s) := by
  induction xs generalizing s with
  | nil => exact h
  | cons x xs ih => exact ih (hf s x h)

/-- A state that comes out of a pair, a choice or an option is a kept one when the whole is. -/
theorem State.Keeps.ofFst {α : Type} {a t : State} {y : α} {e : State × α} (he : e = (t, y)) (h : a.Keeps e.1) : a.Keeps t := by
  subst he; exact h

theorem State.Keeps.ofSnd {α : Type} {a t : State} {y : α} {e : α × State} (he : e = (y, t)) (h : a.Keeps e.2) : a.Keeps t := by
  subst he; exact h

/-- Either state of a choice is a kept one. -/
structure State.KeepsEither (a : State) (r : State ⊕ State) : Prop where
  left : ∀ t, r = .inl t → a.Keeps t
  right : ∀ t, r = .inr t → a.Keeps t

theorem State.Keeps.ofInl {a t : State} {e : State ⊕ State} (he : e = .inl t) (h : a.KeepsEither e) : a.Keeps t := h.left t he
theorem State.Keeps.ofInr {a t : State} {e : State ⊕ State} (he : e = .inr t) (h : a.KeepsEither e) : a.Keeps t := h.right t he
theorem State.KeepsEither.ofInl {a t : State} (h : a.Keeps t) : a.KeepsEither (.inl t) :=
  ⟨fun _ e => Sum.inl.inj e ▸ h, fun _ e => nomatch e⟩
theorem State.KeepsEither.ofInr {a t : State} (h : a.Keeps t) : a.KeepsEither (.inr t) :=
  ⟨fun _ e => (nomatch e), fun _ e => Sum.inr.inj e ▸ h⟩
theorem State.KeepsEither.ite {a : State} {s t : State ⊕ State} {c : Prop} [Decidable c] (h : c → a.KeepsEither s)
    (h' : ¬c → a.KeepsEither t) : a.KeepsEither (if c then s else t) := by
  split
  · exact h ‹_›
  · exact h' ‹_›

/-- The state an option carries is a kept one. -/
structure State.KeepsSome {α : Type} (a : State) (r : Option (α × State)) : Prop where
  some : ∀ x t, r = Option.some (x, t) → a.Keeps t

theorem State.Keeps.ofSome {α : Type} {a t : State} {x : α} {e : Option (α × State)} (he : e = some (x, t)) (h : a.KeepsSome e) :
    a.Keeps t := h.some x t he
theorem State.KeepsSome.ofNone {α : Type} {a : State} : a.KeepsSome (none : Option (α × State)) := ⟨fun _ _ e => nomatch e⟩
theorem State.KeepsSome.ofSome {α : Type} {a t : State} {x : α} (h : a.Keeps t) : a.KeepsSome (Option.some (x, t)) :=
  ⟨fun _ _ e => by cases e; exact h⟩
theorem State.KeepsSome.ite {α : Type} {a : State} {s t : Option (α × State)} {c : Prop} [Decidable c]
    (h : c → a.KeepsSome s) (h' : ¬c → a.KeepsSome t) : a.KeepsSome (if c then s else t) := by
  split
  · exact h ‹_›
  · exact h' ‹_›

/-- A fold that carries a state beside other data. -/
theorem State.Keeps.foldlFst {α β : Type} {a : State} {s : State × β} {f : State × β → α → State × β} {xs : List α}
    (h : a.Keeps s.1) (hf : ∀ t x, a.Keeps t.1 → a.Keeps (f t x).1) : a.Keeps (xs.foldl f s).1 := by
  induction xs generalizing s with
  | nil => exact h
  | cons x xs ih => exact ih (hf s x h)

theorem State.Keeps.getD {α : Type} {a s : State} {o : Option α} {f : α → State} (h : a.Keeps s) (hf : ∀ x, a.Keeps (f x)) :
    a.Keeps ((o.map f).getD s) := by
  cases o with
  | none => exact h
  | some x => exact hf x

/-- An update of the clocks that runs none of them back. -/
theorem State.Keeps.clk {a s : State} {c : Clocks} (h : a.Keeps s) (hh : a.clk.hp ≤ c.hp) (ht : s.clk.ticks ≤ c.ticks)
    (ho : s.clk.optime < 2 ^ 40 → c.optime < 2 ^ 40) (hl : s.clk.levelFrac < 8 → c.levelFrac < 8) : a.Keeps { s with clk := c } := by
  obtain ⟨h1, h2, h3, h4, h5, h6, h7, h8, h9⟩ := h
  refine ⟨h1, h2, hh, Nat.le_trans h4 ht, h5, h6, h7, h8, fun ha => ?_⟩
  obtain ⟨i1, i2, i3, i4, i5, i6, i7, i8, i9⟩ := h9 ha
  exact ⟨i1, i2, i3, i4, i5, i6, i7, ho i8, hl i9⟩

theorem State.Keeps.ite {a s t : State} {c : Prop} [Decidable c] (h : c → a.Keeps s) (h' : ¬c → a.Keeps t) :
    a.Keeps (if c then s else t) := by
  split
  · exact h ‹_›
  · exact h' ‹_›

theorem State.drop_keeps {a s : State} {p} (h : a.Keeps s) : a.Keeps { s with regs := regsDrop s.regs p } := by
  obtain ⟨h1, h2, h3, h4, h5, h6, h7, h8, h9⟩ := h
  refine ⟨h1, h2, h3, h4, h5, h6, h7, h8, fun ha => ?_⟩
  obtain ⟨i1, i2, i3, i4, i5, i6, i7, i8, i9⟩ := h9 ha
  exact ⟨regsWf_regsDrop i1 _, regsFit_regsDrop i2 _, i3, i4, i5, i6, i7, i8, i9⟩

/-- A register write keeps the shape. -/
theorem State.wr_keeps {a s : State} {f i v} (h : a.Keeps s) : a.Keeps (s.wr f i v) := by
  obtain ⟨h1, h2, h3, h4, h5, h6, h7, h8, h9⟩ := h
  refine ⟨h1, h2, h3, h4, h5, h6, h7, h8, fun ha => ?_⟩
  obtain ⟨i1, i2, i3, i4, i5, i6, i7, i8, i9⟩ := h9 ha
  exact ⟨regsWf_regSet i1 _ _ _, regsFit_regSet i2 _ _ _, i3, i4, i5, i6, i7, i8, i9⟩
theorem State.wrB_keeps {z s : State} {f i b} (hk : z.Keeps s) :
    z.Keeps (State.wrB s f i b) := by
  unfold State.wrB
  try dsimp only
  repeat' first
    | with_reducible assumption
    | with_reducible exact State.Keeps.refl _
    | with_reducible first | apply State.Keeps.ite | apply State.Keeps.foldl | apply State.wr_keeps
    | (intro _ _ _; try dsimp only)
    | (intro _; try dsimp only)
    | split
    | (with_reducible refine State.Keeps.upd ?_ rfl rfl rfl rfl rfl)

theorem State.bump_keeps {z s : State} {f i n} (hk : z.Keeps s) :
    z.Keeps (State.bump s f i n) := by
  unfold State.bump
  try dsimp only
  repeat' first
    | with_reducible assumption
    | with_reducible exact State.Keeps.refl _
    | with_reducible first | apply State.Keeps.ite | apply State.Keeps.foldl | apply State.wr_keeps
    | (intro _ _ _; try dsimp only)
    | (intro _; try dsimp only)
    | split
    | (with_reducible refine State.Keeps.upd ?_ rfl rfl rfl rfl rfl)

theorem State.bumpSat_keeps {z s : State} {f i} (hk : z.Keeps s) :
    z.Keeps (State.bumpSat s f i) := by
  unfold State.bumpSat
  try dsimp only
  repeat' first
    | with_reducible assumption
    | with_reducible exact State.Keeps.refl _
    | with_reducible first | apply State.Keeps.ite | apply State.Keeps.foldl | apply State.wr_keeps
    | (intro _ _ _; try dsimp only)
    | (intro _; try dsimp only)
    | split
    | (with_reducible refine State.Keeps.upd ?_ rfl rfl rfl rfl rfl)

theorem State.wrMax_keeps {z s : State} {f i v} (hk : z.Keeps s) :
    z.Keeps (State.wrMax s f i v) := by
  unfold State.wrMax
  try dsimp only
  repeat' first
    | with_reducible assumption
    | with_reducible exact State.Keeps.refl _
    | with_reducible first | apply State.Keeps.ite | apply State.Keeps.foldl | apply State.wr_keeps
    | (intro _ _ _; try dsimp only)
    | (intro _; try dsimp only)
    | split
    | (with_reducible refine State.Keeps.upd ?_ rfl rfl rfl rfl rfl)

theorem State.tookFree_keeps {a s : State} (h : a.Keeps s) : a.Keeps s.tookFree := by
  obtain ⟨h1, h2, h3, h4, h5, h6, h7, h8, h9⟩ := h
  exact ⟨h1, h2, h3, h4, h5, h6, h7, Nat.le_succ_of_le h8, fun ha => by
    obtain ⟨i1, i2, i3, i4, i5, i6, i7, i8, i9⟩ := h9 ha
    exact ⟨i1, i2, i3, i4, i5, i6, i7, i8, i9⟩⟩
theorem State.whileUp_keeps {a s : State} {f} (h : a.Keeps s) (hf : ∀ t, a.Keeps t → a.Keeps (f t)) : a.Keeps (s.whileUp f) := by
  unfold State.whileUp
  split
  · exact hf s h
  · exact h
theorem State.emit_keeps {a s : State} {w} (h : a.Keeps s) : a.Keeps (s.emit w) := by
  obtain ⟨h1, h2, h3, h4, h5, h6, h7, h8, h9⟩ := h
  exact ⟨h1, h2.trans (List.prefix_append _ _), h3, h4, h5, h6, h7, h8, fun ha => by
    obtain ⟨i1, i2, i3, i4, i5, i6, i7, i8, i9⟩ := h9 ha
    exact ⟨i1, i2, i3, i4, i5, i6, i7, i8, i9⟩⟩
theorem State.deliverAt_keeps {a s : State} {c f} (h : a.Keeps s) (hf : ∀ t : State, t.Keeps (f t)) : a.Keeps (s.deliverAt c f) := by
  unfold State.deliverAt
  dsimp only
  obtain ⟨h1, h2, h3, h4, h5, h6, h7, h8, h9⟩ := h
  obtain ⟨g1, g2, g3, g4, g5, g6, g7, g8, g9⟩ := hf { s with clk := { s.clk with hp := c } }
  refine ⟨g1.trans h1, h2.trans g2, Nat.le_trans h3 (Nat.le_max_left _ _), Nat.le_trans h4 g4, Nat.le_trans h5 g5, ?_,
    ⟨g7.1.trans h7.1, g7.2.trans h7.2⟩, Nat.le_trans h8 g8, fun ha => ?_⟩
  · apply Nat.eq_of_testBit_eq
    intro i
    have h6i := congrArg (fun n => Nat.testBit n i) h6
    have g6i := congrArg (fun n => Nat.testBit n i) g6
    simp only [Nat.testBit_and] at h6i g6i ⊢
    cases hb : a.fuse.revoked.testBit i
    · rfl
    · rw [hb, Bool.true_and] at h6i
      rw [h6i, Bool.true_and] at g6i
      rw [g6i, Bool.true_and]
  · obtain ⟨i1, i2, i3, i4, i5, i6, i7, i8, i9⟩ := h9 ha
    obtain ⟨j1, j2, j3, j4, j5, j6, j7, j8, j9⟩ := g9 ⟨i1, i2, i3, i4, i5, i6, i7, i8, i9⟩
    exact ⟨j1, j2, j3, j4, j5, j6, j7, j8, j9⟩
theorem State.setLevel8_keeps {a s : State} {l} (h : a.Keeps s) : a.Keeps (s.setLevel8 l) :=
  State.Keeps.clk (State.wr_keeps h) h.hp (Nat.le_refl _) id fun _ => Nat.mod_lt _ (by decide)
theorem State.updPit_keeps {a s : State} {p f} (h : a.Keeps s) : a.Keeps (s.updPit p f) :=
  h.same rfl rfl rfl rfl rfl rfl (List.length_modify ..) rfl rfl rfl rfl
theorem State.updStl_keeps {a s : State} {i f} (h : a.Keeps s) : a.Keeps (s.updStl i f) :=
  h.same rfl rfl rfl rfl rfl rfl rfl (List.length_modify ..) rfl rfl rfl
theorem State.updEntry_keeps {z s : State} {p sess f} (hk : z.Keeps s) :
    z.Keeps (State.updEntry s p sess f) := by
  unfold State.updEntry
  try dsimp only
  repeat' first
    | with_reducible assumption
    | with_reducible exact State.Keeps.refl _
    | with_reducible first | apply State.Keeps.ite | apply State.Keeps.foldl
    | (intro _ _ _; try dsimp only)
    | (intro _; try dsimp only)
    | split
    | (with_reducible refine State.Keeps.upd ?_ rfl rfl rfl rfl rfl)
    | (with_reducible refine State.Keeps.upd ?_ (List.length_map ..) rfl rfl rfl rfl)
    | (with_reducible refine State.Keeps.upd ?_ rfl (List.length_map ..) rfl rfl rfl)
    | (with_reducible refine State.Keeps.upd ?_ (List.length_map ..) (List.length_map ..) rfl rfl rfl)

theorem State.dropEntry_keeps {z s : State} {p sess} (hk : z.Keeps s) :
    z.Keeps (State.dropEntry s p sess) := by
  unfold State.dropEntry
  try dsimp only
  repeat' first
    | with_reducible assumption
    | with_reducible exact State.Keeps.refl _
    | with_reducible first | apply State.Keeps.ite | apply State.Keeps.foldl
    | (intro _ _ _; try dsimp only)
    | (intro _; try dsimp only)
    | split
    | (with_reducible refine State.Keeps.upd ?_ rfl rfl rfl rfl rfl)

theorem State.updReq_keeps {z s : State} {p sess tag f} (hk : z.Keeps s) :
    z.Keeps (State.updReq s p sess tag f) := by
  unfold State.updReq
  try dsimp only
  repeat' first
    | with_reducible assumption
    | with_reducible exact State.Keeps.refl _
    | with_reducible first | apply State.Keeps.ite | apply State.Keeps.foldl
    | (intro _ _ _; try dsimp only)
    | (intro _; try dsimp only)
    | split
    | (with_reducible refine State.Keeps.upd ?_ rfl rfl rfl rfl rfl)
    | (with_reducible refine State.Keeps.upd ?_ (List.length_map ..) rfl rfl rfl rfl)
    | (with_reducible refine State.Keeps.upd ?_ rfl (List.length_map ..) rfl rfl rfl)
    | (with_reducible refine State.Keeps.upd ?_ (List.length_map ..) (List.length_map ..) rfl rfl rfl)

theorem State.touchStall_keeps {a s : State} {p q r} (h : a.Keeps s) : a.Keeps (s.touchStall p q r) := by
  unfold State.touchStall
  split
  · exact h.same rfl rfl rfl rfl rfl rfl rfl (List.length_modify ..) rfl rfl rfl
  · exact h
theorem State.dropReq_keeps {z s : State} {p sess tag} (hk : z.Keeps s) :
    z.Keeps (State.dropReq s p sess tag) := by
  unfold State.dropReq
  try dsimp only
  repeat' first
    | with_reducible assumption
    | with_reducible exact State.Keeps.refl _
    | with_reducible first | apply State.Keeps.ite | apply State.Keeps.foldl | apply State.touchStall_keeps
    | (intro _ _ _; try dsimp only)
    | (intro _; try dsimp only)
    | split
    | (with_reducible refine State.Keeps.upd ?_ rfl rfl rfl rfl rfl)

theorem State.updStream_keeps {z s : State} {p sess f} (hk : z.Keeps s) :
    z.Keeps (State.updStream s p sess f) := by
  unfold State.updStream
  try dsimp only
  repeat' first
    | with_reducible assumption
    | with_reducible exact State.Keeps.refl _
    | with_reducible first | apply State.Keeps.ite | apply State.Keeps.foldl
    | (intro _ _ _; try dsimp only)
    | (intro _; try dsimp only)
    | split
    | (with_reducible refine State.Keeps.upd ?_ rfl rfl rfl rfl rfl)
    | (with_reducible refine State.Keeps.upd ?_ (List.length_map ..) rfl rfl rfl rfl)
    | (with_reducible refine State.Keeps.upd ?_ rfl (List.length_map ..) rfl rfl rfl)
    | (with_reducible refine State.Keeps.upd ?_ (List.length_map ..) (List.length_map ..) rfl rfl rfl)

theorem State.dropStream_keeps {z s : State} {p sess} (hk : z.Keeps s) :
    z.Keeps (State.dropStream s p sess) := by
  unfold State.dropStream
  try dsimp only
  repeat' first
    | with_reducible assumption
    | with_reducible exact State.Keeps.refl _
    | with_reducible first | apply State.Keeps.ite | apply State.Keeps.foldl
    | (intro _ _ _; try dsimp only)
    | (intro _; try dsimp only)
    | split
    | (with_reducible refine State.Keeps.upd ?_ rfl rfl rfl rfl rfl)

theorem State.updChain_keeps {z s : State} {p c f} (hk : z.Keeps s) :
    z.Keeps (State.updChain s p c f) := by
  unfold State.updChain
  try dsimp only
  repeat' first
    | with_reducible assumption
    | with_reducible exact State.Keeps.refl _
    | with_reducible first | apply State.Keeps.ite | apply State.Keeps.foldl
    | (intro _ _ _; try dsimp only)
    | (intro _; try dsimp only)
    | split
    | (with_reducible refine State.Keeps.upd ?_ rfl rfl rfl rfl rfl)
    | (with_reducible refine State.Keeps.upd ?_ (List.length_map ..) rfl rfl rfl rfl)
    | (with_reducible refine State.Keeps.upd ?_ rfl (List.length_map ..) rfl rfl rfl)
    | (with_reducible refine State.Keeps.upd ?_ (List.length_map ..) (List.length_map ..) rfl rfl rfl)

theorem State.dbkClose_keeps {z s : State} (hk : z.Keeps s) :
    z.Keeps (State.dbkClose s) := by
  unfold State.dbkClose
  try dsimp only
  repeat' first
    | with_reducible assumption
    | with_reducible exact State.Keeps.refl _
    | with_reducible first | apply State.Keeps.ite | apply State.Keeps.foldl | apply State.emit_keeps
    | (intro _ _ _; try dsimp only)
    | (intro _; try dsimp only)
    | split
    | (with_reducible refine State.Keeps.upd ?_ rfl rfl rfl rfl rfl)
    | (with_reducible refine State.Keeps.upd ?_ (List.length_map ..) rfl rfl rfl rfl)
    | (with_reducible refine State.Keeps.upd ?_ rfl (List.length_map ..) rfl rfl rfl)
    | (with_reducible refine State.Keeps.upd ?_ (List.length_map ..) (List.length_map ..) rfl rfl rfl)

theorem State.buffer_keeps {a s : State} {b dm l lp} (h : a.Keeps s) (hb : b.length ≤ 256) :
    a.Keeps { s with dbk := { s.dbk with buffer := b, dropMark := dm, last := l, lastPos := lp } } := by
  obtain ⟨h1, h2, h3, h4, h5, h6, h7, h8, h9⟩ := h
  refine ⟨h1, h2, h3, h4, h5, h6, h7, h8, fun ha => ?_⟩
  obtain ⟨i1, i2, i3, i4, i5, i6, i7, i8, i9⟩ := h9 ha
  exact ⟨i1, i2, i3, i4, i5, i6, hb, i8, i9⟩

theorem State.dbkEnter_keeps {a s : State} {r} (h : a.Keeps s) : a.Keeps (s.dbkEnter r) := by
  unfold State.dbkEnter
  split
  · exact (State.bumpSat_keeps h).same rfl rfl rfl rfl rfl rfl rfl rfl rfl rfl rfl
  · rename_i hl
    have hd : s.dbkClose.dbk.buffer = s.dbk.buffer := by unfold State.dbkClose; split <;> rfl
    exact State.buffer_keeps (State.dbkClose_keeps h) (by rw [List.length_append, hd]; simp only [List.length_singleton]; omega)
theorem State.dbkRepeat_keeps {a s : State} {l} (h : a.Keeps s) : a.Keeps (s.dbkRepeat l) := by
  unfold State.dbkRepeat
  obtain ⟨h1, h2, h3, h4, h5, h6, h7, h8, h9⟩ := h
  refine ⟨h1, h2, h3, h4, h5, h6, h7, h8, fun ha => ?_⟩
  obtain ⟨i1, i2, i3, i4, i5, i6, i7, i8, i9⟩ := h9 ha
  refine ⟨i1, i2, i3, i4, i5, i6, ?_, i8, i9⟩
  dsimp only
  split
  · simp only [List.length_append, List.length_dropLast, List.length_singleton]; omega
  · exact i7
theorem State.dbkAs_keeps {z s : State} {ps code pitch p0 p1 p2} (hk : z.Keeps s) :
    z.Keeps (State.dbkAs s ps code pitch p0 p1 p2) := by
  unfold State.dbkAs
  try dsimp only
  repeat' first
    | with_reducible assumption
    | with_reducible exact State.Keeps.refl _
    | with_reducible first | apply State.Keeps.ite | apply State.Keeps.foldl | apply State.dbkRepeat_keeps | apply State.dbkEnter_keeps
    | (intro _ _ _; try dsimp only)
    | (intro _; try dsimp only)
    | split
    | (with_reducible refine State.Keeps.upd ?_ rfl rfl rfl rfl rfl)

theorem State.day_keeps {z s : State} {code pitch p0 p1 p2} (hk : z.Keeps s) :
    z.Keeps (State.day s code pitch p0 p1 p2) := by
  unfold State.day
  try dsimp only
  repeat' first
    | with_reducible assumption
    | with_reducible exact State.Keeps.refl _
    | with_reducible first | apply State.Keeps.ite | apply State.Keeps.foldl | apply State.dbkAs_keeps
    | (intro _ _ _; try dsimp only)
    | (intro _; try dsimp only)
    | split
    | (with_reducible refine State.Keeps.upd ?_ rfl rfl rfl rfl rfl)

theorem State.deny_keeps {z s : State} {acc write addr} (hk : z.Keeps s) :
    z.Keeps (State.deny s acc write addr) := by
  unfold State.deny
  try dsimp only
  repeat' first
    | with_reducible assumption
    | with_reducible exact State.Keeps.refl _
    | with_reducible first | apply State.Keeps.ite | apply State.Keeps.foldl | apply State.bump_keeps | apply State.wr_keeps | apply State.wrB_keeps | apply State.dbkAs_keeps
    | (intro _ _ _; try dsimp only)
    | (intro _; try dsimp only)
    | split
    | (with_reducible refine State.Keeps.upd ?_ rfl rfl rfl rfl rfl)

theorem State.gate_keeps {a s : State} {acc f i} (h : a.Keeps s) : a.KeepsEither (s.gate acc f i) := by
  unfold State.gate State.writeGate
  constructor
  · intro t ht
    split at ht
    · exact Sum.inl.inj ht ▸ h
    · split at ht
      · cases ht
      · exact Sum.inl.inj ht ▸ State.deny_keeps h
  · intro t ht
    split at ht
    · cases ht
    · split at ht
      · exact Sum.inr.inj ht ▸ h
      · cases ht

end Sys2Proof.Machine
end

