-- ==== Sys2Proof/Laws/KeepFrames.lean ====
section
/-! SUPPORT. What the functions of Machine/Frames.lean keep of a state, whatever they do (State.Keeps). -/

namespace Sys2Proof.Machine

theorem State.updLane_keeps {a s : State} {l f} (h : a.Keeps s) : a.Keeps (s.updLane l f) :=
  h.same rfl rfl rfl rfl rfl rfl rfl rfl (List.length_modify ..) rfl rfl
theorem State.flitOut_keeps {z s : State} {l vc b} (hk : z.Keeps s) :
    z.Keeps (State.flitOut s l vc b) := by
  unfold State.flitOut
  try dsimp only
  repeat' first
    | with_reducible assumption
    | with_reducible exact State.Keeps.refl _
    | with_reducible first | apply State.Keeps.ite | apply State.Keeps.foldl | apply State.emit_keeps | apply State.updLane_keeps
    | (intro _ _ _; try dsimp only)
    | (intro _; try dsimp only)
    | split
    | (with_reducible refine State.Keeps.upd ?_ rfl rfl rfl rfl rfl)

theorem State.laneSend_keeps {z s : State} {l vc b} (hk : z.Keeps s) :
    z.Keeps (State.laneSend s l vc b) := by
  unfold State.laneSend
  try dsimp only
  repeat' first
    | with_reducible assumption
    | with_reducible exact State.Keeps.refl _
    | with_reducible first | apply State.Keeps.ite | apply State.Keeps.foldl | apply State.flitOut_keeps | apply State.updLane_keeps
    | (intro _ _ _; try dsimp only)
    | (intro _; try dsimp only)
    | split
    | (with_reducible refine State.Keeps.upd ?_ rfl rfl rfl rfl rfl)

theorem State.laneDrain_keeps {a s : State} {l vc n} (h : a.Keeps s) : a.Keeps (s.laneDrain l vc n) := by
  induction n generalizing s with
  | zero => exact h
  | succ n ih =>
    unfold State.laneDrain
    split
    · exact h
    · split
      · exact h
      · exact ih (State.flitOut_keeps (State.updLane_keeps h))
theorem State.sendFrame_keeps {z s : State} {f} (hk : z.Keeps s) :
    z.Keeps (State.sendFrame s f) := by
  unfold State.sendFrame
  try dsimp only
  repeat' first
    | with_reducible assumption
    | with_reducible exact State.Keeps.refl _
    | with_reducible first | apply State.Keeps.ite | apply State.Keeps.foldl | apply State.laneSend_keeps
    | (intro _ _ _; try dsimp only)
    | (intro _; try dsimp only)
    | split
    | (with_reducible refine State.Keeps.upd ?_ rfl rfl rfl rfl rfl)

theorem State.openTxn_keeps {z s : State} {p sess pool write kind left arg body direct} (hk : z.Keeps s) :
    z.Keeps (State.openTxn s p sess pool write kind left arg body direct) := by
  unfold State.openTxn
  try dsimp only
  repeat' first
    | with_reducible assumption
    | with_reducible exact State.Keeps.refl _
    | with_reducible first | apply State.Keeps.ite | apply State.Keeps.foldl | apply State.sendFrame_keeps
    | (intro _ _ _; try dsimp only)
    | (intro _; try dsimp only)
    | split
    | (with_reducible refine State.Keeps.upd ?_ rfl rfl rfl rfl rfl)

theorem State.poolRead_keeps {z s : State} {p sess pool addr len tile direct} (hk : z.Keeps s) :
    z.Keeps (State.poolRead s p sess pool addr len tile direct) := by
  unfold State.poolRead
  try dsimp only
  repeat' first
    | with_reducible assumption
    | with_reducible exact State.Keeps.refl _
    | with_reducible first | apply State.Keeps.ite | apply State.Keeps.foldl | apply State.openTxn_keeps
    | (intro _ _ _; try dsimp only)
    | (intro _; try dsimp only)
    | split
    | (with_reducible refine State.Keeps.upd ?_ rfl rfl rfl rfl rfl)

theorem State.poolWrite_keeps {z s : State} {p sess pool addr b direct} (hk : z.Keeps s) :
    z.Keeps (State.poolWrite s p sess pool addr b direct) := by
  unfold State.poolWrite
  try dsimp only
  repeat' first
    | with_reducible assumption
    | with_reducible exact State.Keeps.refl _
    | with_reducible first | apply State.Keeps.ite | apply State.Keeps.foldl | apply State.openTxn_keeps
    | (intro _ _ _; try dsimp only)
    | (intro _; try dsimp only)
    | split
    | (with_reducible refine State.Keeps.upd ?_ rfl rfl rfl rfl rfl)

theorem State.putExc_keeps {z s : State} {p sess device epoch} (hk : z.Keeps s) :
    z.Keeps (State.putExc s p sess device epoch) := by
  unfold State.putExc
  try dsimp only
  repeat' first
    | with_reducible assumption
    | with_reducible exact State.Keeps.refl _
    | with_reducible first | apply State.Keeps.ite | apply State.Keeps.foldl
    | (intro _ _ _; try dsimp only)
    | (intro _; try dsimp only)
    | split
    | (with_reducible refine State.Keeps.upd ?_ rfl rfl rfl rfl rfl)


end Sys2Proof.Machine
end

