-- ==== Sys2Proof/Laws/KeepOperands.lean ====
section
/-! SUPPORT. What the functions of Machine/Operands.lean keep of a state, whatever they do (State.Keeps). -/

namespace Sys2Proof.Machine

theorem State.readMem_keeps {z s : State} {p sess addr len} (hk : z.Keeps s) :
    z.Keeps (State.readMem s p sess addr len) := by
  unfold State.readMem
  try dsimp only
  repeat' first
    | with_reducible assumption
    | with_reducible exact State.Keeps.refl _
    | with_reducible first | apply State.Keeps.ite | apply State.Keeps.foldl | apply State.poolRead_keeps | apply State.emit_keeps
    | (intro _ _ _; try dsimp only)
    | (intro _; try dsimp only)
    | split
    | (with_reducible refine State.Keeps.upd ?_ rfl rfl rfl rfl rfl)

theorem State.writeMem_keeps {z s : State} {p sess addr bytes} (hk : z.Keeps s) :
    z.Keeps (State.writeMem s p sess addr bytes) := by
  unfold State.writeMem
  try dsimp only
  repeat' first
    | with_reducible assumption
    | with_reducible exact State.Keeps.refl _
    | with_reducible first | apply State.Keeps.ite | apply State.Keeps.foldl | apply State.poolWrite_keeps | apply State.emit_keeps
    | (intro _ _ _; try dsimp only)
    | (intro _; try dsimp only)
    | split
    | (with_reducible refine State.Keeps.upd ?_ rfl rfl rfl rfl rfl)


end Sys2Proof.Machine
end

