-- ==== Sys2Proof/Laws/KeepFlags.lean ====
section
/-! SUPPORT. What the functions of Machine/Flags.lean keep of a state, whatever they do (State.Keeps). -/

namespace Sys2Proof.Machine

theorem State.sendIrq_keeps {z s : State} {p} (hk : z.Keeps s) :
    z.Keeps (State.sendIrq s p) := by
  unfold State.sendIrq
  try dsimp only
  repeat' first
    | with_reducible assumption
    | with_reducible exact State.Keeps.refl _
    | with_reducible first | apply State.Keeps.ite | apply State.Keeps.foldl | apply State.emit_keeps | apply State.updPit_keeps
    | (intro _ _ _; try dsimp only)
    | (intro _; try dsimp only)
    | split
    | (with_reducible refine State.Keeps.upd ?_ rfl rfl rfl rfl rfl)

theorem State.countIrq_keeps {z s : State} {p} (hk : z.Keeps s) :
    z.Keeps (State.countIrq s p) := by
  unfold State.countIrq
  try dsimp only
  repeat' first
    | with_reducible assumption
    | with_reducible exact State.Keeps.refl _
    | with_reducible first | apply State.Keeps.ite | apply State.Keeps.foldl | apply State.updPit_keeps | apply State.sendIrq_keeps
    | (intro _ _ _; try dsimp only)
    | (intro _; try dsimp only)
    | split
    | (with_reducible refine State.Keeps.upd ?_ rfl rfl rfl rfl rfl)

theorem State.putRecord_keeps {z s : State} {p b} (hk : z.Keeps s) :
    z.Keeps (State.putRecord s p b) := by
  unfold State.putRecord
  try dsimp only
  repeat' first
    | with_reducible assumption
    | with_reducible exact State.Keeps.refl _
    | with_reducible first | apply State.Keeps.ite | apply State.Keeps.foldl | apply State.emit_keeps | apply State.countIrq_keeps | apply State.bump_keeps
    | (intro _ _ _; try dsimp only)
    | (intro _; try dsimp only)
    | split
    | (with_reducible refine State.Keeps.upd ?_ rfl rfl rfl rfl rfl)

theorem State.areaRead_keeps {z s : State} {p sess tier mirror off len} (hk : z.Keeps s) :
    z.Keeps (State.areaRead s p sess tier mirror off len) := by
  unfold State.areaRead
  try dsimp only
  repeat' first
    | with_reducible assumption
    | with_reducible exact State.Keeps.refl _
    | with_reducible first | apply State.Keeps.ite | apply State.Keeps.foldl | apply State.emit_keeps | apply State.poolRead_keeps
    | (intro _ _ _; try dsimp only)
    | (intro _; try dsimp only)
    | split
    | (with_reducible refine State.Keeps.upd ?_ rfl rfl rfl rfl rfl)

theorem State.readBucket_keeps {z s : State} {p sess tier mirror} (hk : z.Keeps s) :
    z.Keeps (State.readBucket s p sess tier mirror) := by
  unfold State.readBucket
  try dsimp only
  repeat' first
    | with_reducible assumption
    | with_reducible exact State.Keeps.refl _
    | with_reducible first | apply State.Keeps.ite | apply State.Keeps.foldl | apply State.areaRead_keeps
    | (intro _ _ _; try dsimp only)
    | (intro _; try dsimp only)
    | split
    | (with_reducible refine State.Keeps.upd ?_ rfl rfl rfl rfl rfl)

theorem State.readBuckets_keeps {z s : State} {e tier} (hk : z.Keeps s) :
    z.Keeps (State.readBuckets s e tier) := by
  unfold State.readBuckets
  try dsimp only
  repeat' first
    | with_reducible assumption
    | with_reducible exact State.Keeps.refl _
    | with_reducible first | apply State.Keeps.ite | apply State.Keeps.foldl | apply State.readBucket_keeps
    | (intro _ _ _; try dsimp only)
    | (intro _; try dsimp only)
    | split
    | (with_reducible refine State.Keeps.upd ?_ rfl rfl rfl rfl rfl)

theorem State.issueWb_keeps {z s : State} {e tier epoch} (hk : z.Keeps s) :
    z.Keeps (State.issueWb s e tier epoch) := by
  unfold State.issueWb
  try dsimp only
  repeat' first
    | with_reducible assumption
    | with_reducible exact State.Keeps.refl _
    | with_reducible first | apply State.Keeps.ite | apply State.Keeps.foldl | apply State.readBuckets_keeps
    | (intro _ _ _; try dsimp only)
    | (intro _; try dsimp only)
    | split
    | (with_reducible refine State.Keeps.upd ?_ rfl rfl rfl rfl rfl)

theorem State.askWb_keeps {z s : State} {e epoch} (hk : z.Keeps s) :
    z.Keeps (State.askWb s e epoch) := by
  unfold State.askWb
  try dsimp only
  repeat' first
    | with_reducible assumption
    | with_reducible exact State.Keeps.refl _
    | with_reducible first | apply State.Keeps.ite | apply State.Keeps.foldl | apply State.issueWb_keeps
    | (intro _ _ _; try dsimp only)
    | (intro _; try dsimp only)
    | split
    | (with_reducible refine State.Keeps.upd ?_ rfl rfl rfl rfl rfl)

theorem State.noteRecord_keeps {z s : State} {p sess epoch d isErr vals} (hk : z.Keeps s) :
    z.Keeps (State.noteRecord s p sess epoch d isErr vals) := by
  unfold State.noteRecord
  try dsimp only
  repeat' first
    | with_reducible assumption
    | with_reducible exact State.Keeps.refl _
    | with_reducible first | apply State.Keeps.ite | apply State.Keeps.foldl | apply State.updPit_keeps | apply State.updEntry_keeps | apply State.askWb_keeps
    | (intro _ _ _; try dsimp only)
    | (intro _; try dsimp only)
    | split
    | (with_reducible refine State.Keeps.upd ?_ rfl rfl rfl rfl rfl)

theorem State.endReq_keeps {z s : State} {r vcode err flags tail vals} (hk : z.Keeps s) :
    z.Keeps (State.endReq s r vcode err flags tail vals) := by
  unfold State.endReq
  try dsimp only
  repeat' first
    | with_reducible assumption
    | with_reducible exact State.Keeps.refl _
    | with_reducible first | apply State.Keeps.ite | apply State.Keeps.foldl | apply State.putRecord_keeps | apply State.dropReq_keeps | apply State.noteRecord_keeps
    | (intro _ _ _; try dsimp only)
    | (intro _; try dsimp only)
    | split
    | (with_reducible refine State.Keeps.upd ?_ rfl rfl rfl rfl rfl)

theorem State.failDesc_keeps {z s : State} {r e} (hk : z.Keeps s) :
    z.Keeps (State.failDesc s r e) := by
  unfold State.failDesc
  try dsimp only
  repeat' first
    | with_reducible assumption
    | with_reducible exact State.Keeps.refl _
    | with_reducible first | apply State.Keeps.ite | apply State.Keeps.foldl | apply State.putRecord_keeps | apply State.noteRecord_keeps
    | (intro _ _ _; try dsimp only)
    | (intro _; try dsimp only)
    | split
    | (with_reducible refine State.Keeps.upd ?_ rfl rfl rfl rfl rfl)

theorem State.failReq_keeps {z s : State} {r e} (hk : z.Keeps s) :
    z.Keeps (State.failReq s r e) := by
  unfold State.failReq
  try dsimp only
  repeat' first
    | with_reducible assumption
    | with_reducible exact State.Keeps.refl _
    | with_reducible first | apply State.Keeps.ite | apply State.Keeps.foldl | apply State.dropReq_keeps | apply State.failDesc_keeps | apply State.dropStream_keeps
    | (intro _ _ _; try dsimp only)
    | (intro _; try dsimp only)
    | split
    | (with_reducible refine State.Keeps.upd ?_ rfl rfl rfl rfl rfl)

theorem State.lowerFactor_keeps {z s : State} {i f} (hk : z.Keeps s) :
    z.Keeps (State.lowerFactor s i f) := by
  unfold State.lowerFactor
  try dsimp only
  repeat' first
    | with_reducible assumption
    | with_reducible exact State.Keeps.refl _
    | with_reducible first | apply State.Keeps.ite | apply State.Keeps.foldl | apply State.wr_keeps | apply State.day_keeps
    | (intro _ _ _; try dsimp only)
    | (intro _; try dsimp only)
    | split
    | (with_reducible refine State.Keeps.upd ?_ rfl rfl rfl rfl rfl)

theorem State.lateReport_keeps {z s : State} {p m} (hk : z.Keeps s) :
    z.Keeps (State.lateReport s p m) := by
  unfold State.lateReport
  try dsimp only
  repeat' first
    | with_reducible assumption
    | with_reducible exact State.Keeps.refl _
    | with_reducible first | apply State.Keeps.ite | apply State.Keeps.foldl | apply State.lowerFactor_keeps
    | (intro _ _ _; try dsimp only)
    | (intro _; try dsimp only)
    | split
    | (with_reducible refine State.Keeps.upd ?_ rfl rfl rfl rfl rfl)

theorem State.failLate_keeps {z s : State} {r tier trow tcol} (hk : z.Keeps s) :
    z.Keeps (State.failLate s r tier trow tcol) := by
  unfold State.failLate
  try dsimp only
  repeat' first
    | with_reducible assumption
    | with_reducible exact State.Keeps.refl _
    | with_reducible first | apply State.Keeps.ite | apply State.Keeps.foldl | apply State.failReq_keeps | apply State.bump_keeps | apply State.day_keeps | apply State.lateReport_keeps
    | (intro _ _ _; try dsimp only)
    | (intro _; try dsimp only)
    | split
    | (with_reducible refine State.Keeps.upd ?_ rfl rfl rfl rfl rfl)


end Sys2Proof.Machine
end

