-- ==== Sys2Proof/Laws/KeepToll.lean ====
section
/-! SUPPORT. What the functions of Machine/Toll.lean keep of a state, whatever they do (State.Keeps). -/

namespace Sys2Proof.Machine

theorem State.startRevive_keeps {z s : State} {p sess prefetch pushed} (hk : z.Keeps s) :
    z.Keeps (State.startRevive s p sess prefetch pushed) := by
  unfold State.startRevive
  try dsimp only
  repeat' first
    | with_reducible assumption
    | with_reducible exact State.Keeps.refl _
    | with_reducible first | apply State.Keeps.ite | apply State.Keeps.foldl | apply State.Keeps.getD | apply State.poolRead_keeps | apply State.readBucket_keeps
    | (intro _ _ _; try dsimp only)
    | (intro _; try dsimp only)
    | split
    | (with_reducible refine State.Keeps.upd ?_ rfl rfl rfl rfl rfl)

theorem State.startWakes_keeps {z s : State} {p i} (hk : z.Keeps s) :
    z.Keeps (State.startWakes s p i) := by
  unfold State.startWakes
  try dsimp only
  repeat' first
    | with_reducible assumption
    | with_reducible exact State.Keeps.refl _
    | with_reducible first | apply State.Keeps.ite | apply State.Keeps.foldl | apply State.tookFree_keeps | apply State.updStl_keeps
    | (intro _ _ _; try dsimp only)
    | (intro _; try dsimp only)
    | split
    | (with_reducible refine State.Keeps.upd ?_ rfl rfl rfl rfl rfl)

theorem State.answer_keeps {z s : State} {p ans reason} (hk : z.Keeps s) :
    z.Keeps (State.answer s p ans reason) := by
  unfold State.answer
  try dsimp only
  repeat' first
    | with_reducible assumption
    | with_reducible exact State.Keeps.refl _
    | with_reducible first | apply State.Keeps.ite | apply State.Keeps.foldl | apply State.bump_keeps | apply State.wr_keeps
    | (intro _ _ _; try dsimp only)
    | (intro _; try dsimp only)
    | split
    | (with_reducible refine State.Keeps.upd ?_ rfl rfl rfl rfl rfl)

theorem State.applyDecision_keeps {z s : State} {q x2} (hk : z.Keeps s) :
    z.Keeps (State.applyDecision s q x2) := by
  unfold State.applyDecision
  try dsimp only
  repeat' first
    | with_reducible assumption
    | with_reducible exact State.Keeps.refl _
    | with_reducible first | apply State.Keeps.ite | apply State.Keeps.foldl | apply State.Keeps.getD | apply State.answer_keeps | apply State.updPit_keeps | apply State.startWakes_keeps | apply State.startRevive_keeps | apply State.setLevel8_keeps
    | (intro _ _ _; try dsimp only)
    | (intro _; try dsimp only)
    | split
    | (with_reducible refine State.Keeps.upd ?_ rfl rfl rfl rfl rfl)

theorem tollQueryStep_keeps {z s : State} {q} (hk : z.Keeps s) :
    z.Keeps (tollQueryStep q s) := by
  unfold tollQueryStep
  try dsimp only
  repeat' first
    | with_reducible assumption
    | with_reducible exact State.Keeps.refl _
    | with_reducible first | apply State.Keeps.ite | apply State.Keeps.foldl | apply State.applyDecision_keeps
    | (intro _ _ _; try dsimp only)
    | (intro _; try dsimp only)
    | split
    | (with_reducible refine State.Keeps.upd ?_ rfl rfl rfl rfl rfl)

theorem lapseStep_keeps {z s : State} {p sess tag} (hk : z.Keeps s) :
    z.Keeps (lapseStep p sess tag s) := by
  unfold lapseStep
  try dsimp only
  repeat' first
    | with_reducible assumption
    | with_reducible exact State.Keeps.refl _
    | with_reducible first | apply State.Keeps.ite | apply State.Keeps.foldl
    | (intro _ _ _; try dsimp only)
    | (intro _; try dsimp only)
    | split
    | (with_reducible refine State.Keeps.upd ?_ rfl rfl rfl rfl rfl)

theorem State.beginStep_keeps {z s : State} {p} (hk : z.Keeps s) :
    z.Keeps (State.beginStep s p) := by
  unfold State.beginStep
  try dsimp only
  repeat' first
    | with_reducible assumption
    | with_reducible exact State.Keeps.refl _
    | with_reducible first | apply State.Keeps.ite | apply State.Keeps.foldl | apply State.updPit_keeps | apply State.setLevel8_keeps
    | (intro _ _ _; try dsimp only)
    | (intro _; try dsimp only)
    | split
    | (with_reducible refine State.Keeps.upd ?_ rfl rfl rfl rfl rfl)

theorem State.beginSteps_keeps {z s : State} (hk : z.Keeps s) :
    z.Keeps (State.beginSteps s) := by
  unfold State.beginSteps
  try dsimp only
  repeat' first
    | with_reducible assumption
    | with_reducible exact State.Keeps.refl _
    | with_reducible first | apply State.Keeps.ite | apply State.Keeps.foldl | apply State.beginStep_keeps
    | (intro _ _ _; try dsimp only)
    | (intro _; try dsimp only)
    | split
    | (with_reducible refine State.Keeps.upd ?_ rfl rfl rfl rfl rfl)
    | (with_reducible refine State.Keeps.upd ?_ (List.length_map ..) rfl rfl rfl rfl)
    | (with_reducible refine State.Keeps.upd ?_ rfl (List.length_map ..) rfl rfl rfl)
    | (with_reducible refine State.Keeps.upd ?_ (List.length_map ..) (List.length_map ..) rfl rfl rfl)

theorem drainStep_keeps {a s : State} (h : a.Keeps s) : a.Keeps (drainStep s) := by
  unfold drainStep
  refine State.beginSteps_keeps (State.setLevel8_keeps ?_)
  exact State.Keeps.clk (State.Keeps.upd h rfl rfl rfl rfl rfl (toll := {})) h.hp (Nat.le_succ _)
    (fun _ => Nat.mod_lt _ (by decide)) id
theorem factorRecoverStep_keeps {z s : State} {i} (hk : z.Keeps s) :
    z.Keeps (factorRecoverStep i s) := by
  unfold factorRecoverStep
  try dsimp only
  repeat' first
    | with_reducible assumption
    | with_reducible exact State.Keeps.refl _
    | with_reducible first | apply State.Keeps.ite | apply State.Keeps.foldl | apply State.Keeps.getD | apply State.wr_keeps
    | (intro _ _ _; try dsimp only)
    | (intro _; try dsimp only)
    | split
    | (with_reducible refine State.Keeps.upd ?_ rfl rfl rfl rfl rfl)

theorem State.setQuar_keeps {z s : State} {i w} (hk : z.Keeps s) :
    z.Keeps (State.setQuar s i w) := by
  unfold State.setQuar
  try dsimp only
  repeat' first
    | with_reducible assumption
    | with_reducible exact State.Keeps.refl _
    | with_reducible first | apply State.Keeps.ite | apply State.Keeps.foldl | apply State.wr_keeps
    | (intro _ _ _; try dsimp only)
    | (intro _; try dsimp only)
    | split
    | (with_reducible refine State.Keeps.upd ?_ rfl rfl rfl rfl rfl)

theorem State.writeQuar_keeps {z s : State} {i w} (hk : z.Keeps s) :
    z.Keeps (State.writeQuar s i w) := by
  unfold State.writeQuar
  try dsimp only
  repeat' first
    | with_reducible assumption
    | with_reducible exact State.Keeps.refl _
    | with_reducible first | apply State.Keeps.ite | apply State.Keeps.foldl | apply State.wr_keeps | apply State.setQuar_keeps
    | (intro _ _ _; try dsimp only)
    | (intro _; try dsimp only)
    | split
    | (with_reducible refine State.Keeps.upd ?_ rfl rfl rfl rfl rfl)

theorem qtabStep_keeps {z s : State} {acc i w} (hk : z.Keeps s) :
    z.Keeps (qtabStep acc i w s) := by
  unfold qtabStep
  try dsimp only
  repeat' first
    | with_reducible assumption
    | with_reducible exact State.Keeps.refl _
    | with_reducible first | apply State.Keeps.ite | apply State.Keeps.foldl | apply State.KeepsEither.ite | apply State.KeepsEither.ofInl | apply State.KeepsEither.ofInr | apply State.gate_keeps | apply State.writeQuar_keeps
    | (intro _ _ _; try dsimp only)
    | (intro _; try dsimp only)
    | split
    | with_reducible first | refine State.Keeps.ofInl ‹_› ?_ | refine State.Keeps.ofInr ‹_› ?_
    | (with_reducible refine State.Keeps.upd ?_ rfl rfl rfl rfl rfl)
    | dsimp only

theorem State.quarantineAuto_keeps {z s : State} {p sess} (hk : z.Keeps s) :
    z.Keeps (State.quarantineAuto s p sess) := by
  unfold State.quarantineAuto
  try dsimp only
  repeat' first
    | with_reducible assumption
    | with_reducible exact State.Keeps.refl _
    | with_reducible first | apply State.Keeps.ite | apply State.Keeps.foldl | apply State.wr_keeps | apply State.setQuar_keeps | apply State.day_keeps
    | (intro _ _ _; try dsimp only)
    | (intro _; try dsimp only)
    | split
    | (with_reducible refine State.Keeps.upd ?_ rfl rfl rfl rfl rfl)


end Sys2Proof.Machine
end

