-- ==== Sys2Proof/Laws/KeepLedger.lean ====
section
/-! SUPPORT. What the functions of Machine/Ledger.lean keep of a state, whatever they do (State.Keeps). -/

namespace Sys2Proof.Machine

theorem State.countCopy_keeps {a s : State} (h : a.Keeps s) : a.Keeps s.countCopy :=
  State.Keeps.clk h h.hp (Nat.le_refl _) id id
theorem State.areaWrite_keeps {z s : State} {p sess tier mirror off b} (hk : z.Keeps s) :
    z.Keeps (State.areaWrite s p sess tier mirror off b) := by
  unfold State.areaWrite
  try dsimp only
  repeat' first
    | with_reducible assumption
    | with_reducible exact State.Keeps.refl _
    | with_reducible first | apply State.Keeps.ite | apply State.Keeps.foldl | apply State.emit_keeps | apply State.poolWrite_keeps
    | (intro _ _ _; try dsimp only)
    | (intro _; try dsimp only)
    | split
    | (with_reducible refine State.Keeps.upd ?_ rfl rfl rfl rfl rfl)

theorem State.writeWay_keeps {z s : State} {p tier mirror w x} (hk : z.Keeps s) :
    z.Keeps (State.writeWay s p tier mirror w x) := by
  unfold State.writeWay
  try dsimp only
  repeat' first
    | with_reducible assumption
    | with_reducible exact State.Keeps.refl _
    | with_reducible first | apply State.Keeps.ite | apply State.Keeps.foldl | apply State.areaWrite_keeps
    | (intro _ _ _; try dsimp only)
    | (intro _; try dsimp only)
    | split
    | (with_reducible refine State.Keeps.upd ?_ rfl rfl rfl rfl rfl)

theorem State.freeGranules_keeps {z s : State} {p} (hk : z.Keeps s) :
    z.Keeps (State.freeGranules s p) := by
  unfold State.freeGranules
  try dsimp only
  repeat' first
    | with_reducible assumption
    | with_reducible exact State.Keeps.refl _
    | with_reducible first | apply State.Keeps.ite | apply State.Keeps.foldl
    | (intro _ _ _; try dsimp only)
    | (intro _; try dsimp only)
    | split
    | (with_reducible refine State.Keeps.upd ?_ rfl rfl rfl rfl rfl)

theorem State.freeEntry_keeps {z s : State} {p sess} (hk : z.Keeps s) :
    z.Keeps (State.freeEntry s p sess) := by
  unfold State.freeEntry
  try dsimp only
  repeat' first
    | with_reducible assumption
    | with_reducible exact State.Keeps.refl _
    | with_reducible first | apply State.Keeps.ite | apply State.Keeps.foldl | apply State.freeGranules_keeps | apply State.dropEntry_keeps
    | (intro _ _ _; try dsimp only)
    | (intro _; try dsimp only)
    | split
    | (with_reducible refine State.Keeps.upd ?_ rfl rfl rfl rfl rfl)

theorem State.noteCopy_keeps {z s : State} {e tier mirror w} (hk : z.Keeps s) :
    z.Keeps (State.noteCopy s e tier mirror w) := by
  unfold State.noteCopy
  try dsimp only
  repeat' first
    | with_reducible assumption
    | with_reducible exact State.Keeps.refl _
    | with_reducible first | apply State.Keeps.ite | apply State.Keeps.foldl | apply State.updEntry_keeps
    | (intro _ _ _; try dsimp only)
    | (intro _; try dsimp only)
    | split
    | (with_reducible refine State.Keeps.upd ?_ rfl rfl rfl rfl rfl)

theorem State.storeCopy_keeps {z s : State} {e tier mirror mir w keyver state} (hk : z.Keeps s) :
    z.Keeps (State.storeCopy s e tier mirror mir w keyver state) := by
  unfold State.storeCopy
  try dsimp only
  repeat' first
    | with_reducible assumption
    | with_reducible exact State.Keeps.refl _
    | with_reducible first | apply State.Keeps.ite | apply State.Keeps.foldl | apply State.countCopy_keeps | apply State.areaWrite_keeps | apply State.noteCopy_keeps | apply State.writeWay_keeps
    | (intro _ _ _; try dsimp only)
    | (intro _; try dsimp only)
    | split
    | (with_reducible refine State.Keeps.upd ?_ rfl rfl rfl rfl rfl)

theorem State.poolFail_keeps {z s : State} {p tier mirror} (hk : z.Keeps s) :
    z.Keeps (State.poolFail s p tier mirror) := by
  unfold State.poolFail
  try dsimp only
  repeat' first
    | with_reducible assumption
    | with_reducible exact State.Keeps.refl _
    | with_reducible first | apply State.Keeps.ite | apply State.Keeps.foldl | apply State.day_keeps | apply State.wr_keeps
    | (intro _ _ _; try dsimp only)
    | (intro _; try dsimp only)
    | split
    | (with_reducible refine State.Keeps.upd ?_ rfl rfl rfl rfl rfl)

theorem State.dirFull_keeps {z s : State} {p sess tier mirror} (hk : z.Keeps s) :
    z.Keeps (State.dirFull s p sess tier mirror) := by
  unfold State.dirFull
  try dsimp only
  repeat' first
    | with_reducible assumption
    | with_reducible exact State.Keeps.refl _
    | with_reducible first | apply State.Keeps.ite | apply State.Keeps.foldl | apply State.day_keeps | apply State.wr_keeps
    | (intro _ _ _; try dsimp only)
    | (intro _; try dsimp only)
    | split
    | (with_reducible refine State.Keeps.upd ?_ rfl rfl rfl rfl rfl)

theorem State.storeMirror_keeps {z s : State} {e tier keyver state d} (hk : z.Keeps s) :
    z.Keeps (State.storeMirror s e tier keyver state d).1 := by
  unfold State.storeMirror
  try dsimp only
  repeat' first
    | with_reducible assumption
    | with_reducible exact State.Keeps.refl _
    | with_reducible first | apply State.Keeps.ite | apply State.Keeps.foldl | apply State.Keeps.foldlFst | apply State.poolFail_keeps | apply State.storeCopy_keeps | apply State.dirFull_keeps
    | (intro _ _ _; try dsimp only)
    | (intro _; try dsimp only)
    | split
    | (with_reducible refine State.Keeps.upd ?_ rfl rfl rfl rfl rfl)
    | dsimp only

theorem State.storeBoth_keeps {z s : State} {e tier keyver state d md} (hk : z.Keeps s) :
    z.Keeps (State.storeBoth s e tier keyver state d md).1 := by
  unfold State.storeBoth
  try dsimp only
  repeat' first
    | with_reducible assumption
    | with_reducible exact State.Keeps.refl _
    | with_reducible first | apply State.Keeps.ite | apply State.Keeps.foldl | apply State.Keeps.foldlFst | apply State.dirFull_keeps | apply State.storeMirror_keeps | apply State.storeCopy_keeps | apply State.poolFail_keeps
    | (intro _ _ _; try dsimp only)
    | (intro _; try dsimp only)
    | split
    | with_reducible first | refine State.Keeps.ofFst ‹_› ?_
    | (with_reducible refine State.Keeps.upd ?_ rfl rfl rfl rfl rfl)
    | dsimp only

theorem State.startPark_keeps {z s : State} {e tier} (hk : z.Keeps s) :
    z.Keeps (State.startPark s e tier) := by
  unfold State.startPark
  try dsimp only
  repeat' first
    | with_reducible assumption
    | with_reducible exact State.Keeps.refl _
    | with_reducible first | apply State.Keeps.ite | apply State.Keeps.foldl | apply State.readBuckets_keeps
    | (intro _ _ _; try dsimp only)
    | (intro _; try dsimp only)
    | split
    | (with_reducible refine State.Keeps.upd ?_ rfl rfl rfl rfl rfl)

theorem State.writeRecord_keeps {z s : State} {p sess owner epoch holder ckpt} (hk : z.Keeps s) :
    z.Keeps (State.writeRecord s p sess owner epoch holder ckpt) := by
  unfold State.writeRecord
  try dsimp only
  repeat' first
    | with_reducible assumption
    | with_reducible exact State.Keeps.refl _
    | with_reducible first | apply State.Keeps.ite | apply State.Keeps.foldl | apply State.poolRead_keeps
    | (intro _ _ _; try dsimp only)
    | (intro _; try dsimp only)
    | split
    | (with_reducible refine State.Keeps.upd ?_ rfl rfl rfl rfl rfl)

theorem State.dirWrite_keeps {z s : State} {op b} (hk : z.Keeps s) :
    z.Keeps (State.dirWrite s op b) := by
  unfold State.dirWrite
  try dsimp only
  repeat' first
    | with_reducible assumption
    | with_reducible exact State.Keeps.refl _
    | with_reducible first | apply State.Keeps.ite | apply State.Keeps.foldl | apply State.day_keeps | apply State.poolWrite_keeps | apply State.updEntry_keeps
    | (intro _ _ _; try dsimp only)
    | (intro _; try dsimp only)
    | split
    | (with_reducible refine State.Keeps.upd ?_ rfl rfl rfl rfl rfl)

theorem State.noteParked_keeps {z s : State} {e tier} (hk : z.Keeps s) :
    z.Keeps (State.noteParked s e tier) := by
  unfold State.noteParked
  try dsimp only
  repeat' first
    | with_reducible assumption
    | with_reducible exact State.Keeps.refl _
    | with_reducible first | apply State.Keeps.ite | apply State.Keeps.foldl | apply State.writeRecord_keeps
    | (intro _ _ _; try dsimp only)
    | (intro _; try dsimp only)
    | split
    | (with_reducible refine State.Keeps.upd ?_ rfl rfl rfl rfl rfl)

theorem State.dropMove_keeps {z s : State} {p sess} (hk : z.Keeps s) :
    z.Keeps (State.dropMove s p sess) := by
  unfold State.dropMove
  try dsimp only
  repeat' first
    | with_reducible assumption
    | with_reducible exact State.Keeps.refl _
    | with_reducible first | apply State.Keeps.ite | apply State.Keeps.foldl
    | (intro _ _ _; try dsimp only)
    | (intro _; try dsimp only)
    | split
    | (with_reducible refine State.Keeps.upd ?_ rfl rfl rfl rfl rfl)

theorem State.announce_keeps {z s : State} {p sess owner holder epoch body} (hk : z.Keeps s) :
    z.Keeps (State.announce s p sess owner holder epoch body) := by
  unfold State.announce
  try dsimp only
  repeat' first
    | with_reducible assumption
    | with_reducible exact State.Keeps.refl _
    | with_reducible first | apply State.Keeps.ite | apply State.Keeps.foldl | apply State.sendFrame_keeps
    | (intro _ _ _; try dsimp only)
    | (intro _; try dsimp only)
    | split
    | (with_reducible refine State.Keeps.upd ?_ rfl rfl rfl rfl rfl)

theorem State.moveParked_keeps {z s : State} {p sess ckpt} (hk : z.Keeps s) :
    z.Keeps (State.moveParked s p sess ckpt) := by
  unfold State.moveParked
  try dsimp only
  repeat' first
    | with_reducible assumption
    | with_reducible exact State.Keeps.refl _
    | with_reducible first | apply State.Keeps.ite | apply State.Keeps.foldl | apply State.sendFrame_keeps | apply State.writeRecord_keeps | apply State.announce_keeps | apply State.dropMove_keeps | apply State.putExc_keeps | apply State.freeEntry_keeps
    | (intro _ _ _; try dsimp only)
    | (intro _; try dsimp only)
    | split
    | (with_reducible refine State.Keeps.upd ?_ rfl rfl rfl rfl rfl)
    | (with_reducible refine State.Keeps.upd ?_ (List.length_map ..) rfl rfl rfl rfl)
    | (with_reducible refine State.Keeps.upd ?_ rfl (List.length_map ..) rfl rfl rfl)
    | (with_reducible refine State.Keeps.upd ?_ (List.length_map ..) (List.length_map ..) rfl rfl rfl)

theorem State.moveOn_keeps {z s : State} {p sess} (hk : z.Keeps s) :
    z.Keeps (State.moveOn s p sess) := by
  unfold State.moveOn
  try dsimp only
  repeat' first
    | with_reducible assumption
    | with_reducible exact State.Keeps.refl _
    | with_reducible first | apply State.Keeps.ite | apply State.Keeps.foldl | apply State.startPark_keeps | apply State.moveParked_keeps | apply State.tookFree_keeps
    | (intro _ _ _; try dsimp only)
    | (intro _; try dsimp only)
    | split
    | (with_reducible refine State.Keeps.upd ?_ rfl rfl rfl rfl rfl)

theorem State.parkByHint_keeps {z s : State} {p sess} (hk : z.Keeps s) :
    z.Keeps (State.parkByHint s p sess) := by
  unfold State.parkByHint
  try dsimp only
  repeat' first
    | with_reducible assumption
    | with_reducible exact State.Keeps.refl _
    | with_reducible first | apply State.Keeps.ite | apply State.Keeps.foldl | apply State.startPark_keeps
    | (intro _ _ _; try dsimp only)
    | (intro _; try dsimp only)
    | split
    | (with_reducible refine State.Keeps.upd ?_ rfl rfl rfl rfl rfl)

theorem parkStartStep_keeps {z s : State} {p sess} (hk : z.Keeps s) :
    z.Keeps (parkStartStep p sess s) := by
  unfold parkStartStep
  try dsimp only
  repeat' first
    | with_reducible assumption
    | with_reducible exact State.Keeps.refl _
    | with_reducible first | apply State.Keeps.ite | apply State.Keeps.foldl | apply State.moveOn_keeps | apply State.parkByHint_keeps
    | (intro _ _ _; try dsimp only)
    | (intro _; try dsimp only)
    | split
    | (with_reducible refine State.Keeps.upd ?_ rfl rfl rfl rfl rfl)

theorem evictStep_keeps {z s : State} (hk : z.Keeps s) :
    z.Keeps (evictStep s) := by
  unfold evictStep
  try dsimp only
  repeat' first
    | with_reducible assumption
    | with_reducible exact State.Keeps.refl _
    | with_reducible first | apply State.Keeps.ite | apply State.Keeps.foldl | apply State.startPark_keeps | apply State.freeEntry_keeps
    | (intro _ _ _; try dsimp only)
    | (intro _; try dsimp only)
    | split
    | (with_reducible refine State.Keeps.upd ?_ rfl rfl rfl rfl rfl)

theorem State.kickWb_keeps {z s : State} {p sess} (hk : z.Keeps s) :
    z.Keeps (State.kickWb s p sess) := by
  unfold State.kickWb
  try dsimp only
  repeat' first
    | with_reducible assumption
    | with_reducible exact State.Keeps.refl _
    | with_reducible first | apply State.Keeps.ite | apply State.Keeps.foldl | apply State.readBuckets_keeps
    | (intro _ _ _; try dsimp only)
    | (intro _; try dsimp only)
    | split
    | (with_reducible refine State.Keeps.upd ?_ rfl rfl rfl rfl rfl)
    | (with_reducible refine State.Keeps.upd ?_ (List.length_map ..) rfl rfl rfl rfl)
    | (with_reducible refine State.Keeps.upd ?_ rfl (List.length_map ..) rfl rfl rfl)
    | (with_reducible refine State.Keeps.upd ?_ (List.length_map ..) (List.length_map ..) rfl rfl rfl)

theorem State.dropWb_keeps {z s : State} {p sess} (hk : z.Keeps s) :
    z.Keeps (State.dropWb s p sess) := by
  unfold State.dropWb
  try dsimp only
  repeat' first
    | with_reducible assumption
    | with_reducible exact State.Keeps.refl _
    | with_reducible first | apply State.Keeps.ite | apply State.Keeps.foldl | apply State.kickWb_keeps
    | (intro _ _ _; try dsimp only)
    | (intro _; try dsimp only)
    | split
    | (with_reducible refine State.Keeps.upd ?_ rfl rfl rfl rfl rfl)

theorem State.laterWb_keeps {z s : State} {k e} (hk : z.Keeps s) :
    z.Keeps (State.laterWb s k e) := by
  unfold State.laterWb
  try dsimp only
  repeat' first
    | with_reducible assumption
    | with_reducible exact State.Keeps.refl _
    | with_reducible first | apply State.Keeps.ite | apply State.Keeps.foldl | apply State.issueWb_keeps
    | (intro _ _ _; try dsimp only)
    | (intro _; try dsimp only)
    | split
    | (with_reducible refine State.Keeps.upd ?_ rfl rfl rfl rfl rfl)

theorem State.dropPark_keeps {z s : State} {p sess} (hk : z.Keeps s) :
    z.Keeps (State.dropPark s p sess) := by
  unfold State.dropPark
  try dsimp only
  repeat' first
    | with_reducible assumption
    | with_reducible exact State.Keeps.refl _
    | with_reducible first | apply State.Keeps.ite | apply State.Keeps.foldl
    | (intro _ _ _; try dsimp only)
    | (intro _; try dsimp only)
    | split
    | (with_reducible refine State.Keeps.upd ?_ rfl rfl rfl rfl rfl)

theorem parkCompleteStep_keeps {z s : State} {p sess bucket mbucket} (hk : z.Keeps s) :
    z.Keeps (parkCompleteStep p sess bucket mbucket s) := by
  unfold parkCompleteStep
  try dsimp only
  repeat' first
    | with_reducible assumption
    | with_reducible exact State.Keeps.refl _
    | with_reducible first | apply State.Keeps.ite | apply State.Keeps.foldl | apply State.Keeps.foldlFst | apply State.dropPark_keeps | apply State.freeEntry_keeps | apply State.storeBoth_keeps | apply State.laterWb_keeps | apply State.noteParked_keeps | apply State.bump_keeps | apply State.moveParked_keeps
    | (intro _ _ _; try dsimp only)
    | (intro _; try dsimp only)
    | split
    | with_reducible first | refine State.Keeps.ofFst ‹_› ?_
    | (with_reducible refine State.Keeps.upd ?_ rfl rfl rfl rfl rfl)
    | dsimp only

theorem writeBackStep_keeps {z s : State} {p sess bucket mbucket} (hk : z.Keeps s) :
    z.Keeps (writeBackStep p sess bucket mbucket s) := by
  unfold writeBackStep
  try dsimp only
  repeat' first
    | with_reducible assumption
    | with_reducible exact State.Keeps.refl _
    | with_reducible first | apply State.Keeps.ite | apply State.Keeps.foldl | apply State.Keeps.foldlFst | apply State.dropWb_keeps | apply State.storeBoth_keeps | apply State.noteParked_keeps | apply State.bump_keeps
    | (intro _ _ _; try dsimp only)
    | (intro _; try dsimp only)
    | split
    | with_reducible first | refine State.Keeps.ofFst ‹_› ?_
    | (with_reducible refine State.Keeps.upd ?_ rfl rfl rfl rfl rfl)
    | dsimp only

theorem State.jobFail_keeps {z s : State} {pool x} (hk : z.Keeps s) :
    z.Keeps (State.jobFail s pool x).1 := by
  unfold State.jobFail
  try dsimp only
  repeat' first
    | with_reducible assumption
    | with_reducible exact State.Keeps.refl _
    | with_reducible first | apply State.Keeps.ite | apply State.Keeps.foldl | apply State.Keeps.foldlFst | apply State.poolFail_keeps
    | (intro _ _ _; try dsimp only)
    | (intro _; try dsimp only)
    | split
    | (with_reducible refine State.Keeps.upd ?_ rfl rfl rfl rfl rfl)
    | dsimp only

theorem State.failJobs_keeps {z s : State} {pool late} (hk : z.Keeps s) :
    z.Keeps (State.failJobs s pool late) := by
  unfold State.failJobs
  try dsimp only
  repeat' first
    | with_reducible assumption
    | with_reducible exact State.Keeps.refl _
    | with_reducible first | apply State.Keeps.ite | apply State.Keeps.foldl | apply State.Keeps.foldlFst | apply State.jobFail_keeps | apply State.kickWb_keeps
    | (intro _ _ _; try dsimp only)
    | (intro _; try dsimp only)
    | split
    | with_reducible first | refine State.Keeps.ofFst ‹_› ?_
    | (with_reducible refine State.Keeps.upd ?_ rfl rfl rfl rfl rfl)
    | dsimp only

theorem State.dropRevive_keeps {z s : State} {p sess} (hk : z.Keeps s) :
    z.Keeps (State.dropRevive s p sess) := by
  unfold State.dropRevive
  try dsimp only
  repeat' first
    | with_reducible assumption
    | with_reducible exact State.Keeps.refl _
    | with_reducible first | apply State.Keeps.ite | apply State.Keeps.foldl
    | (intro _ _ _; try dsimp only)
    | (intro _; try dsimp only)
    | split
    | (with_reducible refine State.Keeps.upd ?_ rfl rfl rfl rfl rfl)

theorem State.failWaiters_keeps {z s : State} {p sess e} (hk : z.Keeps s) :
    z.Keeps (State.failWaiters s p sess e) := by
  unfold State.failWaiters
  try dsimp only
  repeat' first
    | with_reducible assumption
    | with_reducible exact State.Keeps.refl _
    | with_reducible first | apply State.Keeps.ite | apply State.Keeps.foldl | apply State.failReq_keeps
    | (intro _ _ _; try dsimp only)
    | (intro _; try dsimp only)
    | split
    | (with_reducible refine State.Keeps.upd ?_ rfl rfl rfl rfl rfl)

theorem State.install_keeps {z s : State} {e prefetch} (hk : z.Keeps s) :
    z.Keeps (State.install s e prefetch) := by
  unfold State.install
  try dsimp only
  repeat' first
    | with_reducible assumption
    | with_reducible exact State.Keeps.refl _
    | with_reducible first | apply State.Keeps.ite | apply State.Keeps.foldl | apply State.dropRevive_keeps | apply State.updPit_keeps
    | (intro _ _ _; try dsimp only)
    | (intro _; try dsimp only)
    | split
    | (with_reducible refine State.Keeps.upd ?_ rfl rfl rfl rfl rfl)
    | (with_reducible refine State.Keeps.upd ?_ (List.length_map ..) rfl rfl rfl rfl)
    | (with_reducible refine State.Keeps.upd ?_ rfl (List.length_map ..) rfl rfl rfl)
    | (with_reducible refine State.Keeps.upd ?_ (List.length_map ..) (List.length_map ..) rfl rfl rfl)

theorem State.writeSummary_keeps {z s : State} {p sess b} (hk : z.Keeps s) :
    z.Keeps (State.writeSummary s p sess b) := by
  unfold State.writeSummary
  try dsimp only
  repeat' first
    | with_reducible assumption
    | with_reducible exact State.Keeps.refl _
    | with_reducible first | apply State.Keeps.ite | apply State.Keeps.foldl | apply State.updEntry_keeps
    | (intro _ _ _; try dsimp only)
    | (intro _; try dsimp only)
    | split
    | (with_reducible refine State.Keeps.upd ?_ rfl rfl rfl rfl rfl)

theorem State.dropPush_keeps {z s : State} {x} (hk : z.Keeps s) :
    z.Keeps (State.dropPush s x) := by
  unfold State.dropPush
  try dsimp only
  repeat' first
    | with_reducible assumption
    | with_reducible exact State.Keeps.refl _
    | with_reducible first | apply State.Keeps.ite | apply State.Keeps.foldl
    | (intro _ _ _; try dsimp only)
    | (intro _; try dsimp only)
    | split
    | (with_reducible refine State.Keeps.upd ?_ rfl rfl rfl rfl rfl)

theorem State.answerPush_keeps {z s : State} {p sess tag src status} (hk : z.Keeps s) :
    z.Keeps (State.answerPush s p sess tag src status) := by
  unfold State.answerPush
  try dsimp only
  repeat' first
    | with_reducible assumption
    | with_reducible exact State.Keeps.refl _
    | with_reducible first | apply State.Keeps.ite | apply State.Keeps.foldl | apply State.sendFrame_keeps | apply State.day_keeps
    | (intro _ _ _; try dsimp only)
    | (intro _; try dsimp only)
    | split
    | (with_reducible refine State.Keeps.upd ?_ rfl rfl rfl rfl rfl)

theorem State.acceptPush_keeps {z s : State} {x h} (hk : z.Keeps s) :
    z.Keeps (State.acceptPush s x h) := by
  unfold State.acceptPush
  try dsimp only
  repeat' first
    | with_reducible assumption
    | with_reducible exact State.Keeps.refl _
    | with_reducible first | apply State.Keeps.ite | apply State.Keeps.foldl | apply State.Keeps.getD | apply State.writeSummary_keeps | apply State.noteRecord_keeps | apply State.writeRecord_keeps | apply State.answerPush_keeps | apply State.dropPush_keeps
    | (intro _ _ _; try dsimp only)
    | (intro _; try dsimp only)
    | split
    | (with_reducible refine State.Keeps.upd ?_ rfl rfl rfl rfl rfl)

theorem State.settlePushes_keeps {z s : State} {p sess} (hk : z.Keeps s) :
    z.Keeps (State.settlePushes s p sess) := by
  unfold State.settlePushes
  try dsimp only
  repeat' first
    | with_reducible assumption
    | with_reducible exact State.Keeps.refl _
    | with_reducible first | apply State.Keeps.ite | apply State.Keeps.foldl | apply State.acceptPush_keeps
    | (intro _ _ _; try dsimp only)
    | (intro _; try dsimp only)
    | split
    | (with_reducible refine State.Keeps.upd ?_ rfl rfl rfl rfl rfl)

theorem State.failPushes_keeps {z s : State} {p sess} (hk : z.Keeps s) :
    z.Keeps (State.failPushes s p sess) := by
  unfold State.failPushes
  try dsimp only
  repeat' first
    | with_reducible assumption
    | with_reducible exact State.Keeps.refl _
    | with_reducible first | apply State.Keeps.ite | apply State.Keeps.foldl | apply State.answerPush_keeps | apply State.dropPush_keeps
    | (intro _ _ _; try dsimp only)
    | (intro _; try dsimp only)
    | split
    | (with_reducible refine State.Keeps.upd ?_ rfl rfl rfl rfl rfl)
    | (with_reducible refine State.Keeps.upd ?_ (List.length_map ..) rfl rfl rfl rfl)
    | (with_reducible refine State.Keeps.upd ?_ rfl (List.length_map ..) rfl rfl rfl)
    | (with_reducible refine State.Keeps.upd ?_ (List.length_map ..) (List.length_map ..) rfl rfl rfl)

theorem State.stateLost_keeps {z s : State} {r tier ckpt} (hk : z.Keeps s) :
    z.Keeps (State.stateLost s r tier ckpt) := by
  unfold State.stateLost
  try dsimp only
  repeat' first
    | with_reducible assumption
    | with_reducible exact State.Keeps.refl _
    | with_reducible first | apply State.Keeps.ite | apply State.Keeps.foldl | apply State.failPushes_keeps | apply State.failWaiters_keeps | apply State.day_keeps | apply State.bump_keeps | apply State.install_keeps
    | (intro _ _ _; try dsimp only)
    | (intro _; try dsimp only)
    | split
    | (with_reducible refine State.Keeps.upd ?_ rfl rfl rfl rfl rfl)

theorem State.authFailed_keeps {z s : State} {r ckpt} (hk : z.Keeps s) :
    z.Keeps (State.authFailed s r ckpt) := by
  unfold State.authFailed
  try dsimp only
  repeat' first
    | with_reducible assumption
    | with_reducible exact State.Keeps.refl _
    | with_reducible first | apply State.Keeps.ite | apply State.Keeps.foldl | apply State.failPushes_keeps | apply State.dropRevive_keeps | apply State.failWaiters_keeps | apply State.day_keeps | apply State.bump_keeps | apply State.quarantineAuto_keeps | apply State.updPit_keeps
    | (intro _ _ _; try dsimp only)
    | (intro _; try dsimp only)
    | split
    | (with_reducible refine State.Keeps.upd ?_ rfl rfl rfl rfl rfl)

theorem State.revRead_keeps {z s : State} {r off len} (hk : z.Keeps s) :
    z.Keeps (State.revRead s r off len) := by
  unfold State.revRead
  try dsimp only
  repeat' first
    | with_reducible assumption
    | with_reducible exact State.Keeps.refl _
    | with_reducible first | apply State.Keeps.ite | apply State.Keeps.foldl | apply State.emit_keeps | apply State.poolRead_keeps
    | (intro _ _ _; try dsimp only)
    | (intro _; try dsimp only)
    | split
    | (with_reducible refine State.Keeps.upd ?_ rfl rfl rfl rfl rfl)

theorem State.setRevive_keeps {z s : State} {r} (hk : z.Keeps s) :
    z.Keeps (State.setRevive s r) := by
  unfold State.setRevive
  try dsimp only
  repeat' first
    | with_reducible assumption
    | with_reducible exact State.Keeps.refl _
    | with_reducible first | apply State.Keeps.ite | apply State.Keeps.foldl
    | (intro _ _ _; try dsimp only)
    | (intro _; try dsimp only)
    | split
    | (with_reducible refine State.Keeps.upd ?_ rfl rfl rfl rfl rfl)
    | (with_reducible refine State.Keeps.upd ?_ (List.length_map ..) rfl rfl rfl rfl)
    | (with_reducible refine State.Keeps.upd ?_ rfl (List.length_map ..) rfl rfl rfl)
    | (with_reducible refine State.Keeps.upd ?_ (List.length_map ..) (List.length_map ..) rfl rfl rfl)

theorem State.reviveNext_keeps {z s : State} {r tier mirror} (hk : z.Keeps s) :
    z.Keeps (State.reviveNext s r tier mirror) := by
  unfold State.reviveNext
  try dsimp only
  repeat' first
    | with_reducible assumption
    | with_reducible exact State.Keeps.refl _
    | with_reducible first | apply State.Keeps.ite | apply State.Keeps.foldl | apply State.revRead_keeps | apply State.setRevive_keeps
    | (intro _ _ _; try dsimp only)
    | (intro _; try dsimp only)
    | split
    | (with_reducible refine State.Keeps.upd ?_ rfl rfl rfl rfl rfl)

theorem State.reviveDir_keeps {z s : State} {r d} (hk : z.Keeps s) :
    z.Keeps (State.reviveDir s r d) := by
  unfold State.reviveDir
  try dsimp only
  repeat' first
    | with_reducible assumption
    | with_reducible exact State.Keeps.refl _
    | with_reducible first | apply State.Keeps.ite | apply State.Keeps.foldl | apply State.poolRead_keeps | apply State.setRevive_keeps
    | (intro _ _ _; try dsimp only)
    | (intro _; try dsimp only)
    | split
    | (with_reducible refine State.Keeps.upd ?_ rfl rfl rfl rfl rfl)

theorem State.reviveHolder_keeps {z s : State} {r x} (hk : z.Keeps s) :
    z.Keeps (State.reviveHolder s r x) := by
  unfold State.reviveHolder
  try dsimp only
  repeat' first
    | with_reducible assumption
    | with_reducible exact State.Keeps.refl _
    | with_reducible first | apply State.Keeps.ite | apply State.Keeps.foldl | apply State.revRead_keeps | apply State.setRevive_keeps
    | (intro _ _ _; try dsimp only)
    | (intro _; try dsimp only)
    | split
    | (with_reducible refine State.Keeps.upd ?_ rfl rfl rfl rfl rfl)

theorem State.reviveLost_keeps {z s : State} {r} (hk : z.Keeps s) :
    z.Keeps (State.reviveLost s r) := by
  unfold State.reviveLost
  try dsimp only
  repeat' first
    | with_reducible assumption
    | with_reducible exact State.Keeps.refl _
    | with_reducible first | apply State.Keeps.ite | apply State.Keeps.foldl | apply State.reviveNext_keeps | apply State.stateLost_keeps
    | (intro _ _ _; try dsimp only)
    | (intro _; try dsimp only)
    | split
    | (with_reducible refine State.Keeps.upd ?_ rfl rfl rfl rfl rfl)

theorem State.reviveNone_keeps {z s : State} {r} (hk : z.Keeps s) :
    z.Keeps (State.reviveNone s r) := by
  unfold State.reviveNone
  try dsimp only
  repeat' first
    | with_reducible assumption
    | with_reducible exact State.Keeps.refl _
    | with_reducible first | apply State.Keeps.ite | apply State.Keeps.foldl | apply State.bump_keeps | apply State.install_keeps | apply State.dropRevive_keeps
    | (intro _ _ _; try dsimp only)
    | (intro _; try dsimp only)
    | split
    | (with_reducible refine State.Keeps.upd ?_ rfl rfl rfl rfl rfl)

theorem State.reviveAbsent_keeps {z s : State} {r} (hk : z.Keeps s) :
    z.Keeps (State.reviveAbsent s r) := by
  unfold State.reviveAbsent
  try dsimp only
  repeat' first
    | with_reducible assumption
    | with_reducible exact State.Keeps.refl _
    | with_reducible first | apply State.Keeps.ite | apply State.Keeps.foldl | apply State.stateLost_keeps | apply State.reviveNext_keeps | apply State.reviveDir_keeps | apply State.reviveNone_keeps
    | (intro _ _ _; try dsimp only)
    | (intro _; try dsimp only)
    | split
    | (with_reducible refine State.Keeps.upd ?_ rfl rfl rfl rfl rfl)

theorem State.writeWays_keeps {z s : State} {e f} (hk : z.Keeps s) :
    z.Keeps (State.writeWays s e f) := by
  unfold State.writeWays
  try dsimp only
  repeat' first
    | with_reducible assumption
    | with_reducible exact State.Keeps.refl _
    | with_reducible first | apply State.Keeps.ite | apply State.Keeps.foldl | apply State.writeWay_keeps
    | (intro _ _ _; try dsimp only)
    | (intro _; try dsimp only)
    | split
    | (with_reducible refine State.Keeps.upd ?_ rfl rfl rfl rfl rfl)

theorem State.loseSession_keeps {z s : State} {p sess winner epoch} (hk : z.Keeps s) :
    z.Keeps (State.loseSession s p sess winner epoch) := by
  unfold State.loseSession
  try dsimp only
  repeat' first
    | with_reducible assumption
    | with_reducible exact State.Keeps.refl _
    | with_reducible first | apply State.Keeps.ite | apply State.Keeps.foldl | apply State.freeEntry_keeps | apply State.writeWays_keeps | apply State.failReq_keeps | apply State.dropRevive_keeps | apply State.dropStream_keeps | apply State.day_keeps | apply State.putExc_keeps
    | (intro _ _ _; try dsimp only)
    | (intro _; try dsimp only)
    | split
    | (with_reducible refine State.Keeps.upd ?_ rfl rfl rfl rfl rfl)

theorem State.reviveRecord_keeps {z s : State} {r b} (hk : z.Keeps s) :
    z.Keeps (State.reviveRecord s r b) := by
  unfold State.reviveRecord
  try dsimp only
  repeat' first
    | with_reducible assumption
    | with_reducible exact State.Keeps.refl _
    | with_reducible first | apply State.Keeps.ite | apply State.Keeps.foldl | apply State.reviveNone_keeps | apply State.loseSession_keeps | apply State.bump_keeps | apply State.stateLost_keeps | apply State.reviveHolder_keeps
    | (intro _ _ _; try dsimp only)
    | (intro _; try dsimp only)
    | split
    | (with_reducible refine State.Keeps.upd ?_ rfl rfl rfl rfl rfl)

theorem State.revived_keeps {z s : State} {r w x e} (hk : z.Keeps s) :
    z.Keeps (State.revived s r w x e) := by
  unfold State.revived
  try dsimp only
  repeat' first
    | with_reducible assumption
    | with_reducible exact State.Keeps.refl _
    | with_reducible first | apply State.Keeps.ite | apply State.Keeps.foldl | apply State.writeWay_keeps | apply State.day_keeps | apply State.bump_keeps | apply State.install_keeps
    | (intro _ _ _; try dsimp only)
    | (intro _; try dsimp only)
    | split
    | (with_reducible refine State.Keeps.upd ?_ rfl rfl rfl rfl rfl)

theorem State.reviveWay_keeps {z s : State} {r w x slot} (hk : z.Keeps s) :
    z.Keeps (State.reviveWay s r w x slot) := by
  unfold State.reviveWay
  try dsimp only
  repeat' first
    | with_reducible assumption
    | with_reducible exact State.Keeps.refl _
    | with_reducible first | apply State.Keeps.ite | apply State.Keeps.foldl | apply State.stateLost_keeps | apply State.revRead_keeps | apply State.reviveNext_keeps | apply State.revived_keeps | apply State.bump_keeps | apply State.authFailed_keeps
    | (intro _ _ _; try dsimp only)
    | (intro _; try dsimp only)
    | split
    | (with_reducible refine State.Keeps.upd ?_ rfl rfl rfl rfl rfl)

theorem State.reviveGot_keeps {z s : State} {r bucket slot} (hk : z.Keeps s) :
    z.Keeps (State.reviveGot s r bucket slot) := by
  unfold State.reviveGot
  try dsimp only
  repeat' first
    | with_reducible assumption
    | with_reducible exact State.Keeps.refl _
    | with_reducible first | apply State.Keeps.ite | apply State.Keeps.foldl | apply State.reviveNone_keeps | apply State.reviveLost_keeps | apply State.reviveRecord_keeps | apply State.reviveAbsent_keeps | apply State.reviveWay_keeps
    | (intro _ _ _; try dsimp only)
    | (intro _; try dsimp only)
    | split
    | (with_reducible refine State.Keeps.upd ?_ rfl rfl rfl rfl rfl)

theorem reviveStep_keeps {z s : State} {p sess bucket slot} (hk : z.Keeps s) :
    z.Keeps (reviveStep p sess bucket slot s) := by
  unfold reviveStep
  try dsimp only
  repeat' first
    | with_reducible assumption
    | with_reducible exact State.Keeps.refl _
    | with_reducible first | apply State.Keeps.ite | apply State.Keeps.foldl | apply State.settlePushes_keeps | apply State.reviveGot_keeps
    | (intro _ _ _; try dsimp only)
    | (intro _; try dsimp only)
    | split
    | (with_reducible refine State.Keeps.upd ?_ rfl rfl rfl rfl rfl)

theorem ledgerTimeoutStep_keeps {z s : State} {pool} (hk : z.Keeps s) :
    z.Keeps (ledgerTimeoutStep pool s) := by
  unfold ledgerTimeoutStep
  try dsimp only
  repeat' first
    | with_reducible assumption
    | with_reducible exact State.Keeps.refl _
    | with_reducible first | apply State.Keeps.ite | apply State.Keeps.foldl | apply State.reviveLost_keeps | apply State.failJobs_keeps | apply State.day_keeps | apply State.wr_keeps
    | (intro _ _ _; try dsimp only)
    | (intro _; try dsimp only)
    | split
    | (with_reducible refine State.Keeps.upd ?_ rfl rfl rfl rfl rfl)

theorem State.queuePrefetch_keeps {z s : State} {acc p w} (hk : z.Keeps s) :
    z.Keeps (State.queuePrefetch s acc p w) := by
  unfold State.queuePrefetch
  try dsimp only
  repeat' first
    | with_reducible assumption
    | with_reducible exact State.Keeps.refl _
    | with_reducible first | apply State.Keeps.ite | apply State.Keeps.foldl | apply State.Keeps.getD | apply State.wr_keeps | apply State.updPit_keeps
    | (intro _ _ _; try dsimp only)
    | (intro _; try dsimp only)
    | split
    | (with_reducible refine State.Keeps.upd ?_ rfl rfl rfl rfl rfl)

theorem prefetchStep_keeps {z s : State} {acc p w} (hk : z.Keeps s) :
    z.Keeps (prefetchStep acc p w s) := by
  unfold prefetchStep
  try dsimp only
  repeat' first
    | with_reducible assumption
    | with_reducible exact State.Keeps.refl _
    | with_reducible first | apply State.Keeps.ite | apply State.Keeps.foldl | apply State.KeepsEither.ite | apply State.KeepsEither.ofInl | apply State.KeepsEither.ofInr | apply State.gate_keeps | apply State.queuePrefetch_keeps
    | (intro _ _ _; try dsimp only)
    | (intro _; try dsimp only)
    | split
    | with_reducible first | refine State.Keeps.ofInl ‹_› ?_ | refine State.Keeps.ofInr ‹_› ?_
    | (with_reducible refine State.Keeps.upd ?_ rfl rfl rfl rfl rfl)
    | dsimp only

theorem prefetchStartStep_keeps {z s : State} {p} (hk : z.Keeps s) :
    z.Keeps (prefetchStartStep p s) := by
  unfold prefetchStartStep
  try dsimp only
  repeat' first
    | with_reducible assumption
    | with_reducible exact State.Keeps.refl _
    | with_reducible first | apply State.Keeps.ite | apply State.Keeps.foldl | apply State.updPit_keeps | apply State.startRevive_keeps
    | (intro _ _ _; try dsimp only)
    | (intro _; try dsimp only)
    | split
    | (with_reducible refine State.Keeps.upd ?_ rfl rfl rfl rfl rfl)

theorem holdExpiryStep_keeps {z s : State} {p sess} (hk : z.Keeps s) :
    z.Keeps (holdExpiryStep p sess s) := by
  unfold holdExpiryStep
  try dsimp only
  repeat' first
    | with_reducible assumption
    | with_reducible exact State.Keeps.refl _
    | with_reducible first | apply State.Keeps.ite | apply State.Keeps.foldl | apply State.parkByHint_keeps | apply State.updEntry_keeps
    | (intro _ _ _; try dsimp only)
    | (intro _; try dsimp only)
    | split
    | (with_reducible refine State.Keeps.upd ?_ rfl rfl rfl rfl rfl)

theorem granuleStep_keeps {z s : State} (hk : z.Keeps s) :
    z.Keeps (granuleStep s) := by
  unfold granuleStep
  try dsimp only
  repeat' first
    | with_reducible assumption
    | with_reducible exact State.Keeps.refl _
    | with_reducible first | apply State.Keeps.ite | apply State.Keeps.foldl
    | (intro _ _ _; try dsimp only)
    | (intro _; try dsimp only)
    | split
    | (with_reducible refine State.Keeps.upd ?_ rfl rfl rfl rfl rfl)


end Sys2Proof.Machine
end

