-- ==== Sys2Proof/Laws/KeepIntake.lean ====
section
/-! SUPPORT. What the functions of Machine/Intake.lean keep of a state, whatever they do (State.Keeps). -/

namespace Sys2Proof.Machine

theorem State.issueRead_keeps {z s : State} {r off len} (hk : z.Keeps s) :
    z.Keeps (State.issueRead s r off len) := by
  unfold State.issueRead
  try dsimp only
  repeat' first
    | with_reducible assumption
    | with_reducible exact State.Keeps.refl _
    | with_reducible first | apply State.Keeps.ite | apply State.Keeps.foldl | apply State.readMem_keeps | apply State.updReq_keeps
    | (intro _ _ _; try dsimp only)
    | (intro _; try dsimp only)
    | split
    | (with_reducible refine State.Keeps.upd ?_ rfl rfl rfl rfl rfl)

theorem State.issueReads_keeps {z s : State} {r rs} (hk : z.Keeps s) :
    z.Keeps (State.issueReads s r rs) := by
  unfold State.issueReads
  try dsimp only
  repeat' first
    | with_reducible assumption
    | with_reducible exact State.Keeps.refl _
    | with_reducible first | apply State.Keeps.ite | apply State.Keeps.foldl | apply State.issueRead_keeps
    | (intro _ _ _; try dsimp only)
    | (intro _; try dsimp only)
    | split
    | (with_reducible refine State.Keeps.upd ?_ rfl rfl rfl rfl rfl)

theorem State.beginPayload_keeps {z s : State} {r} (hk : z.Keeps s) :
    z.Keeps (State.beginPayload s r) := by
  unfold State.beginPayload
  try dsimp only
  repeat' first
    | with_reducible assumption
    | with_reducible exact State.Keeps.refl _
    | with_reducible first | apply State.Keeps.ite | apply State.Keeps.foldl | apply State.issueRead_keeps
    | (intro _ _ _; try dsimp only)
    | (intro _; try dsimp only)
    | split
    | (with_reducible refine State.Keeps.upd ?_ rfl rfl rfl rfl rfl)

theorem State.finalReads_keeps {z s : State} {r} (hk : z.Keeps s) :
    z.Keeps (State.finalReads s r) := by
  unfold State.finalReads
  try dsimp only
  repeat' first
    | with_reducible assumption
    | with_reducible exact State.Keeps.refl _
    | with_reducible first | apply State.Keeps.ite | apply State.Keeps.foldl | apply State.Keeps.getD | apply State.updReq_keeps | apply State.updStl_keeps | apply State.issueReads_keeps | apply State.issueRead_keeps
    | (intro _ _ _; try dsimp only)
    | (intro _; try dsimp only)
    | split
    | (with_reducible refine State.Keeps.upd ?_ rfl rfl rfl rfl rfl)

theorem State.failSplit_keeps {z s : State} {r x2} (hk : z.Keeps s) :
    z.Keeps (State.failSplit s r x2) := by
  unfold State.failSplit
  try dsimp only
  repeat' first
    | with_reducible assumption
    | with_reducible exact State.Keeps.refl _
    | with_reducible first | apply State.Keeps.ite | apply State.Keeps.foldl | apply State.failReq_keeps | apply State.bump_keeps | apply State.day_keeps
    | (intro _ _ _; try dsimp only)
    | (intro _; try dsimp only)
    | split
    | (with_reducible refine State.Keeps.upd ?_ rfl rfl rfl rfl rfl)

theorem State.countCut_keeps {z s : State} {r c c' b b'} (hk : z.Keeps s) :
    z.Keeps (State.countCut s r c c' b b') := by
  unfold State.countCut
  try dsimp only
  repeat' first
    | with_reducible assumption
    | with_reducible exact State.Keeps.refl _
    | with_reducible first | apply State.Keeps.ite | apply State.Keeps.foldl | apply State.bump_keeps
    | (intro _ _ _; try dsimp only)
    | (intro _; try dsimp only)
    | split
    | (with_reducible refine State.Keeps.upd ?_ rfl rfl rfl rfl rfl)
    | (with_reducible refine State.Keeps.upd ?_ (List.length_map ..) rfl rfl rfl rfl)
    | (with_reducible refine State.Keeps.upd ?_ rfl (List.length_map ..) rfl rfl rfl)
    | (with_reducible refine State.Keeps.upd ?_ (List.length_map ..) (List.length_map ..) rfl rfl rfl)

theorem State.updAsz_keeps {z s : State} {p m f} (hk : z.Keeps s) :
    z.Keeps (State.updAsz s p m f) := by
  unfold State.updAsz
  try dsimp only
  repeat' first
    | with_reducible assumption
    | with_reducible exact State.Keeps.refl _
    | with_reducible first | apply State.Keeps.ite | apply State.Keeps.foldl
    | (intro _ _ _; try dsimp only)
    | (intro _; try dsimp only)
    | split
    | (with_reducible refine State.Keeps.upd ?_ rfl rfl rfl rfl rfl)
    | (with_reducible refine State.Keeps.upd ?_ (List.length_map ..) rfl rfl rfl rfl)
    | (with_reducible refine State.Keeps.upd ?_ rfl (List.length_map ..) rfl rfl rfl)
    | (with_reducible refine State.Keeps.upd ?_ (List.length_map ..) (List.length_map ..) rfl rfl rfl)

theorem State.storeSample_keeps {z s : State} {p m sess input live} (hk : z.Keeps s) :
    z.Keeps (State.storeSample s p m sess input live).1 := by
  unfold State.storeSample
  try dsimp only
  repeat' first
    | with_reducible assumption
    | with_reducible exact State.Keeps.refl _
    | with_reducible first | apply State.Keeps.ite | apply State.Keeps.foldl | apply State.Keeps.foldlFst | apply State.tookFree_keeps | apply State.bump_keeps | apply State.updPit_keeps
    | (intro _ _ _; try dsimp only)
    | (intro _; try dsimp only)
    | split
    | (with_reducible refine State.Keeps.upd ?_ rfl rfl rfl rfl rfl)
    | dsimp only

theorem State.captureIntake_keeps {z s : State} {r} (hk : z.Keeps s) :
    z.Keeps (State.captureIntake s r) := by
  unfold State.captureIntake
  try dsimp only
  repeat' first
    | with_reducible assumption
    | with_reducible exact State.Keeps.refl _
    | with_reducible first | apply State.Keeps.ite | apply State.Keeps.foldl | apply State.Keeps.foldlFst | apply State.storeSample_keeps | apply State.updReq_keeps
    | (intro _ _ _; try dsimp only)
    | (intro _; try dsimp only)
    | split
    | with_reducible first | refine State.Keeps.ofFst ‹_› ?_
    | (with_reducible refine State.Keeps.upd ?_ rfl rfl rfl rfl rfl)
    | dsimp only

theorem State.arriveIntake_keeps {z s : State} {r} (hk : z.Keeps s) :
    z.Keeps (State.arriveIntake s r) := by
  unfold State.arriveIntake
  try dsimp only
  repeat' first
    | with_reducible assumption
    | with_reducible exact State.Keeps.refl _
    | with_reducible first | apply State.Keeps.ite | apply State.Keeps.foldl | apply State.updReq_keeps | apply State.captureIntake_keeps | apply State.countCut_keeps
    | (intro _ _ _; try dsimp only)
    | (intro _; try dsimp only)
    | split
    | (with_reducible refine State.Keeps.upd ?_ rfl rfl rfl rfl rfl)

theorem State.countGrade_keeps {z s : State} {i g} (hk : z.Keeps s) :
    z.Keeps (State.countGrade s i g) := by
  unfold State.countGrade
  try dsimp only
  repeat' first
    | with_reducible assumption
    | with_reducible exact State.Keeps.refl _
    | with_reducible first | apply State.Keeps.ite | apply State.Keeps.foldl | apply State.bump_keeps | apply State.tookFree_keeps | apply State.wrMax_keeps
    | (intro _ _ _; try dsimp only)
    | (intro _; try dsimp only)
    | split
    | (with_reducible refine State.Keeps.upd ?_ rfl rfl rfl rfl rfl)

theorem State.countEngine_keeps {z s : State} {i k} (hk : z.Keeps s) :
    z.Keeps (State.countEngine s i k) := by
  unfold State.countEngine
  try dsimp only
  repeat' first
    | with_reducible assumption
    | with_reducible exact State.Keeps.refl _
    | with_reducible first | apply State.Keeps.ite | apply State.Keeps.foldl | apply State.bump_keeps
    | (intro _ _ _; try dsimp only)
    | (intro _; try dsimp only)
    | split
    | (with_reducible refine State.Keeps.upd ?_ rfl rfl rfl rfl rfl)

theorem State.countEncoder_keeps {z s : State} {i m e} (hk : z.Keeps s) :
    z.Keeps (State.countEncoder s i m e) := by
  unfold State.countEncoder
  try dsimp only
  repeat' first
    | with_reducible assumption
    | with_reducible exact State.Keeps.refl _
    | with_reducible first | apply State.Keeps.ite | apply State.Keeps.foldl | apply State.bump_keeps | apply State.tookFree_keeps | apply State.wrMax_keeps | apply State.countEngine_keeps
    | (intro _ _ _; try dsimp only)
    | (intro _; try dsimp only)
    | split
    | (with_reducible refine State.Keeps.upd ?_ rfl rfl rfl rfl rfl)

theorem State.noteTile_keeps {z s : State} {i t} (hk : z.Keeps s) :
    z.Keeps (State.noteTile s i t) := by
  unfold State.noteTile
  try dsimp only
  repeat' first
    | with_reducible assumption
    | with_reducible exact State.Keeps.refl _
    | with_reducible first | apply State.Keeps.ite | apply State.Keeps.foldl | apply State.wr_keeps
    | (intro _ _ _; try dsimp only)
    | (intro _; try dsimp only)
    | split
    | (with_reducible refine State.Keeps.upd ?_ rfl rfl rfl rfl rfl)

theorem State.noteFormats_keeps {z s : State} {i m ls} (hk : z.Keeps s) :
    z.Keeps (State.noteFormats s i m ls) := by
  unfold State.noteFormats
  try dsimp only
  repeat' first
    | with_reducible assumption
    | with_reducible exact State.Keeps.refl _
    | with_reducible first | apply State.Keeps.ite | apply State.Keeps.foldl | apply State.noteTile_keeps
    | (intro _ _ _; try dsimp only)
    | (intro _; try dsimp only)
    | split
    | (with_reducible refine State.Keeps.upd ?_ rfl rfl rfl rfl rfl)

theorem State.countTail_keeps {z s : State} {r m e g} (hk : z.Keeps s) :
    z.Keeps (State.countTail s r m e g) := by
  unfold State.countTail
  try dsimp only
  repeat' first
    | with_reducible assumption
    | with_reducible exact State.Keeps.refl _
    | with_reducible first | apply State.Keeps.ite | apply State.Keeps.foldl | apply State.countGrade_keeps | apply State.noteFormats_keeps | apply State.countEncoder_keeps
    | (intro _ _ _; try dsimp only)
    | (intro _; try dsimp only)
    | split
    | (with_reducible refine State.Keeps.upd ?_ rfl rfl rfl rfl rfl)

theorem State.countSlots_keeps {z s : State} {p model epoch tally} (hk : z.Keeps s) :
    z.Keeps (State.countSlots s p model epoch tally) := by
  unfold State.countSlots
  try dsimp only
  repeat' first
    | with_reducible assumption
    | with_reducible exact State.Keeps.refl _
    | with_reducible first | apply State.Keeps.ite | apply State.Keeps.foldl
    | (intro _ _ _; try dsimp only)
    | (intro _; try dsimp only)
    | split
    | (with_reducible refine State.Keeps.upd ?_ rfl rfl rfl rfl rfl)

theorem State.pushSummary_keeps {z s : State} {r dst b tapW} (hk : z.Keeps s) :
    z.Keeps (State.pushSummary s r dst b tapW) := by
  unfold State.pushSummary
  try dsimp only
  repeat' first
    | with_reducible assumption
    | with_reducible exact State.Keeps.refl _
    | with_reducible first | apply State.Keeps.ite | apply State.Keeps.foldl | apply State.Keeps.getD | apply State.sendFrame_keeps | apply State.bump_keeps | apply State.updReq_keeps
    | (intro _ _ _; try dsimp only)
    | (intro _; try dsimp only)
    | split
    | (with_reducible refine State.Keeps.upd ?_ rfl rfl rfl rfl rfl)

theorem State.decideIntake_keeps {z s : State} {r m} (hk : z.Keeps s) :
    z.Keeps (State.decideIntake s r m) := by
  unfold State.decideIntake
  try dsimp only
  repeat' first
    | with_reducible assumption
    | with_reducible exact State.Keeps.refl _
    | with_reducible first | apply State.Keeps.ite | apply State.Keeps.foldl | apply State.Keeps.getD | apply State.countTail_keeps | apply State.countSlots_keeps | apply State.updReq_keeps | apply State.pushSummary_keeps
    | (intro _ _ _; try dsimp only)
    | (intro _; try dsimp only)
    | split
    | (with_reducible refine State.Keeps.upd ?_ rfl rfl rfl rfl rfl)
    | (with_reducible refine State.Keeps.upd ?_ (List.length_map ..) rfl rfl rfl rfl)
    | (with_reducible refine State.Keeps.upd ?_ rfl (List.length_map ..) rfl rfl rfl)
    | (with_reducible refine State.Keeps.upd ?_ (List.length_map ..) (List.length_map ..) rfl rfl rfl)

theorem intakeDecideStep_keeps {z s : State} {p sess tag} (hk : z.Keeps s) :
    z.Keeps (intakeDecideStep p sess tag s) := by
  unfold intakeDecideStep
  try dsimp only
  repeat' first
    | with_reducible assumption
    | with_reducible exact State.Keeps.refl _
    | with_reducible first | apply State.Keeps.ite | apply State.Keeps.foldl | apply State.decideIntake_keeps
    | (intro _ _ _; try dsimp only)
    | (intro _; try dsimp only)
    | split
    | (with_reducible refine State.Keeps.upd ?_ rfl rfl rfl rfl rfl)

theorem State.pushUnacked_keeps {z s : State} {r target} (hk : z.Keeps s) :
    z.Keeps (State.pushUnacked s r target) := by
  unfold State.pushUnacked
  try dsimp only
  repeat' first
    | with_reducible assumption
    | with_reducible exact State.Keeps.refl _
    | with_reducible first | apply State.Keeps.ite | apply State.Keeps.foldl | apply State.day_keeps | apply State.failReq_keeps | apply State.bump_keeps
    | (intro _ _ _; try dsimp only)
    | (intro _; try dsimp only)
    | split
    | (with_reducible refine State.Keeps.upd ?_ rfl rfl rfl rfl rfl)

theorem State.deliverIntake_keeps {z s : State} {r} (hk : z.Keeps s) :
    z.Keeps (State.deliverIntake s r) := by
  unfold State.deliverIntake
  try dsimp only
  repeat' first
    | with_reducible assumption
    | with_reducible exact State.Keeps.refl _
    | with_reducible first | apply State.Keeps.ite | apply State.Keeps.foldl | apply State.Keeps.getD | apply State.writeSummary_keeps | apply State.writeMem_keeps | apply State.endReq_keeps
    | (intro _ _ _; try dsimp only)
    | (intro _; try dsimp only)
    | split
    | (with_reducible refine State.Keeps.upd ?_ rfl rfl rfl rfl rfl)

theorem intakeDeliveryStep_keeps {z s : State} {p sess tag} (hk : z.Keeps s) :
    z.Keeps (intakeDeliveryStep p sess tag s) := by
  unfold intakeDeliveryStep
  try dsimp only
  repeat' first
    | with_reducible assumption
    | with_reducible exact State.Keeps.refl _
    | with_reducible first | apply State.Keeps.ite | apply State.Keeps.foldl | apply State.deliverAt_keeps | apply State.pushUnacked_keeps | apply State.failLate_keeps | apply State.deliverIntake_keeps
    | (intro _ _ _; try dsimp only)
    | (intro _; try dsimp only)
    | split
    | (with_reducible refine State.Keeps.upd ?_ rfl rfl rfl rfl rfl)

theorem State.vectorStep_keeps {z s : State} {r m} (hk : z.Keeps s) :
    z.Keeps (State.vectorStep s r m) := by
  unfold State.vectorStep
  try dsimp only
  repeat' first
    | with_reducible assumption
    | with_reducible exact State.Keeps.refl _
    | with_reducible first | apply State.Keeps.ite | apply State.Keeps.foldl | apply State.failSplit_keeps | apply State.arriveIntake_keeps | apply State.issueReads_keeps
    | (intro _ _ _; try dsimp only)
    | (intro _; try dsimp only)
    | split
    | (with_reducible refine State.Keeps.upd ?_ rfl rfl rfl rfl rfl)

theorem payloadStep_keeps {z s : State} {p sess tag data} (hk : z.Keeps s) :
    z.Keeps (payloadStep p sess tag data s) := by
  unfold payloadStep
  try dsimp only
  repeat' first
    | with_reducible assumption
    | with_reducible exact State.Keeps.refl _
    | with_reducible first | apply State.Keeps.ite | apply State.Keeps.foldl | apply State.failReq_keeps | apply State.updReq_keeps | apply State.bump_keeps | apply State.countCut_keeps | apply State.vectorStep_keeps | apply State.arriveIntake_keeps
    | (intro _ _ _; try dsimp only)
    | (intro _; try dsimp only)
    | split
    | (with_reducible refine State.Keeps.upd ?_ rfl rfl rfl rfl rfl)

theorem State.finalVector_keeps {z s : State} {p sess tag} (hk : z.Keeps s) :
    z.Keeps (State.finalVector s p sess tag) := by
  unfold State.finalVector
  try dsimp only
  repeat' first
    | with_reducible assumption
    | with_reducible exact State.Keeps.refl _
    | with_reducible first | apply State.Keeps.ite | apply State.Keeps.foldl | apply State.vectorStep_keeps
    | (intro _ _ _; try dsimp only)
    | (intro _; try dsimp only)
    | split
    | (with_reducible refine State.Keeps.upd ?_ rfl rfl rfl rfl rfl)

theorem finalReadStep_keeps {z s : State} {p sess tag} (hk : z.Keeps s) :
    z.Keeps (finalReadStep p sess tag s) := by
  unfold finalReadStep
  try dsimp only
  repeat' first
    | with_reducible assumption
    | with_reducible exact State.Keeps.refl _
    | with_reducible first | apply State.Keeps.ite | apply State.Keeps.foldl | apply State.Keeps.getD | apply State.finalVector_keeps | apply State.finalReads_keeps
    | (intro _ _ _; try dsimp only)
    | (intro _; try dsimp only)
    | split
    | (with_reducible refine State.Keeps.upd ?_ rfl rfl rfl rfl rfl)


end Sys2Proof.Machine
end

