-- ==== Sys2Proof/Laws/KeepStream.lean ====
section
/-! SUPPORT. What the functions of Machine/Stream.lean keep of a state, whatever they do (State.Keeps). -/

namespace Sys2Proof.Machine

theorem State.bumpAt_keeps {z s : State} {f i n} (hk : z.Keeps s) :
    z.Keeps (State.bumpAt s f i n) := by
  unfold State.bumpAt
  try dsimp only
  repeat' first
    | with_reducible assumption
    | with_reducible exact State.Keeps.refl _
    | with_reducible first | apply State.Keeps.ite | apply State.Keeps.foldl | apply State.bump_keeps
    | (intro _ _ _; try dsimp only)
    | (intro _; try dsimp only)
    | split
    | (with_reducible refine State.Keeps.upd ?_ rfl rfl rfl rfl rfl)

theorem State.endFailed_keeps {z s : State} {r e} (hk : z.Keeps s) :
    z.Keeps (State.endFailed s r e) := by
  unfold State.endFailed
  try dsimp only
  repeat' first
    | with_reducible assumption
    | with_reducible exact State.Keeps.refl _
    | with_reducible first | apply State.Keeps.ite | apply State.Keeps.foldl | apply State.failDesc_keeps | apply State.failReq_keeps
    | (intro _ _ _; try dsimp only)
    | (intro _; try dsimp only)
    | split
    | (with_reducible refine State.Keeps.upd ?_ rfl rfl rfl rfl rfl)

theorem State.flushFailed_keeps {a s : State} {p sess n} (h : a.Keeps s) : a.Keeps (s.flushFailed p sess n) := by
  induction n generalizing s with
  | zero => exact h
  | succ n ih =>
    unfold State.flushFailed
    split
    · exact h
    · split
      · exact h
      · exact ih (State.endFailed_keeps h)
theorem State.flush_keeps {z s : State} {p sess} (hk : z.Keeps s) :
    z.Keeps (State.flush s p sess) := by
  unfold State.flush
  try dsimp only
  repeat' first
    | with_reducible assumption
    | with_reducible exact State.Keeps.refl _
    | with_reducible first | apply State.Keeps.ite | apply State.Keeps.foldl | apply State.flushFailed_keeps
    | (intro _ _ _; try dsimp only)
    | (intro _; try dsimp only)
    | split
    | (with_reducible refine State.Keeps.upd ?_ rfl rfl rfl rfl rfl)

theorem State.failTok_keeps {z s : State} {r e} (hk : z.Keeps s) :
    z.Keeps (State.failTok s r e) := by
  unfold State.failTok
  try dsimp only
  repeat' first
    | with_reducible assumption
    | with_reducible exact State.Keeps.refl _
    | with_reducible first | apply State.Keeps.ite | apply State.Keeps.foldl | apply State.flush_keeps | apply State.updReq_keeps
    | (intro _ _ _; try dsimp only)
    | (intro _; try dsimp only)
    | split
    | (with_reducible refine State.Keeps.upd ?_ rfl rfl rfl rfl rfl)

theorem State.queueDup_keeps {z s : State} {r e} (hk : z.Keeps s) :
    z.Keeps (State.queueDup s r e) := by
  unfold State.queueDup
  try dsimp only
  repeat' first
    | with_reducible assumption
    | with_reducible exact State.Keeps.refl _
    | with_reducible first | apply State.Keeps.ite | apply State.Keeps.foldl | apply State.flush_keeps
    | (intro _ _ _; try dsimp only)
    | (intro _; try dsimp only)
    | split
    | (with_reducible refine State.Keeps.upd ?_ rfl rfl rfl rfl rfl)

theorem State.arrive_keeps {z s : State} {r due} (hk : z.Keeps s) :
    z.Keeps (State.arrive s r due) := by
  unfold State.arrive
  try dsimp only
  repeat' first
    | with_reducible assumption
    | with_reducible exact State.Keeps.refl _
    | with_reducible first | apply State.Keeps.ite | apply State.Keeps.foldl | apply State.updReq_keeps
    | (intro _ _ _; try dsimp only)
    | (intro _; try dsimp only)
    | split
    | (with_reducible refine State.Keeps.upd ?_ rfl rfl rfl rfl rfl)

theorem State.arriveToken_keeps {z s : State} {r} (hk : z.Keeps s) :
    z.Keeps (State.arriveToken s r) := by
  unfold State.arriveToken
  try dsimp only
  repeat' first
    | with_reducible assumption
    | with_reducible exact State.Keeps.refl _
    | with_reducible first | apply State.Keeps.ite | apply State.Keeps.foldl | apply State.arrive_keeps
    | (intro _ _ _; try dsimp only)
    | (intro _; try dsimp only)
    | split
    | (with_reducible refine State.Keeps.upd ?_ rfl rfl rfl rfl rfl)

theorem State.arriveCon_keeps {z s : State} {r} (hk : z.Keeps s) :
    z.Keeps (State.arriveCon s r) := by
  unfold State.arriveCon
  try dsimp only
  repeat' first
    | with_reducible assumption
    | with_reducible exact State.Keeps.refl _
    | with_reducible first | apply State.Keeps.ite | apply State.Keeps.foldl | apply State.tookFree_keeps | apply State.updReq_keeps | apply State.arrive_keeps
    | (intro _ _ _; try dsimp only)
    | (intro _; try dsimp only)
    | split
    | (with_reducible refine State.Keeps.upd ?_ rfl rfl rfl rfl rfl)

theorem State.snapCons_keeps {z s : State} {x before} (hk : z.Keeps s) :
    z.Keeps (State.snapCons s x before) := by
  unfold State.snapCons
  try dsimp only
  repeat' first
    | with_reducible assumption
    | with_reducible exact State.Keeps.refl _
    | with_reducible first | apply State.Keeps.ite | apply State.Keeps.foldl
    | (intro _ _ _; try dsimp only)
    | (intro _; try dsimp only)
    | split
    | (with_reducible refine State.Keeps.upd ?_ rfl rfl rfl rfl rfl)
    | (with_reducible refine State.Keeps.upd ?_ (List.length_map ..) rfl rfl rfl rfl)
    | (with_reducible refine State.Keeps.upd ?_ rfl (List.length_map ..) rfl rfl rfl)
    | (with_reducible refine State.Keeps.upd ?_ (List.length_map ..) (List.length_map ..) rfl rfl rfl)

theorem State.passOpen_keeps {z s : State} {r x} (hk : z.Keeps s) :
    z.Keeps (State.passOpen s r x) := by
  unfold State.passOpen
  try dsimp only
  repeat' first
    | with_reducible assumption
    | with_reducible exact State.Keeps.refl _
    | with_reducible first | apply State.Keeps.ite | apply State.Keeps.foldl | apply State.Keeps.getD | apply State.snapCons_keeps | apply State.updStream_keeps | apply State.updReq_keeps | apply State.bumpAt_keeps
    | (intro _ _ _; try dsimp only)
    | (intro _; try dsimp only)
    | split
    | (with_reducible refine State.Keeps.upd ?_ rfl rfl rfl rfl rfl)
    | (with_reducible refine State.Keeps.upd ?_ (List.length_map ..) rfl rfl rfl rfl)
    | (with_reducible refine State.Keeps.upd ?_ rfl (List.length_map ..) rfl rfl rfl)
    | (with_reducible refine State.Keeps.upd ?_ (List.length_map ..) (List.length_map ..) rfl rfl rfl)

theorem passStep_keeps {z s : State} {p sess tag} (hk : z.Keeps s) :
    z.Keeps (passStep p sess tag s) := by
  unfold passStep
  try dsimp only
  repeat' first
    | with_reducible assumption
    | with_reducible exact State.Keeps.refl _
    | with_reducible first | apply State.Keeps.ite | apply State.Keeps.foldl | apply State.updReq_keeps | apply State.failTok_keeps | apply State.passOpen_keeps
    | (intro _ _ _; try dsimp only)
    | (intro _; try dsimp only)
    | split
    | (with_reducible refine State.Keeps.upd ?_ rfl rfl rfl rfl rfl)

theorem State.countStage_keeps {z s : State} {i n st t} (hk : z.Keeps s) :
    z.Keeps (State.countStage s i n st t) := by
  unfold State.countStage
  try dsimp only
  repeat' first
    | with_reducible assumption
    | with_reducible exact State.Keeps.refl _
    | with_reducible first | apply State.Keeps.ite | apply State.Keeps.foldl | apply State.noteFormats_keeps | apply State.countEngine_keeps | apply State.bump_keeps | apply State.countSlots_keeps
    | (intro _ _ _; try dsimp only)
    | (intro _; try dsimp only)
    | split
    | (with_reducible refine State.Keeps.upd ?_ rfl rfl rfl rfl rfl)

theorem serveStep_keeps {z s : State} {i} (hk : z.Keeps s) :
    z.Keeps (serveStep i s) := by
  unfold serveStep
  try dsimp only
  repeat' first
    | with_reducible assumption
    | with_reducible exact State.Keeps.refl _
    | with_reducible first | apply State.Keeps.ite | apply State.Keeps.foldl | apply State.Keeps.getD | apply State.updStl_keeps | apply State.bump_keeps | apply State.countStage_keeps | apply State.tookFree_keeps | apply State.updReq_keeps
    | (intro _ _ _; try dsimp only)
    | (intro _; try dsimp only)
    | split
    | (with_reducible refine State.Keeps.upd ?_ rfl rfl rfl rfl rfl)
    | (with_reducible refine State.Keeps.upd ?_ (List.length_map ..) rfl rfl rfl rfl)
    | (with_reducible refine State.Keeps.upd ?_ rfl (List.length_map ..) rfl rfl rfl)
    | (with_reducible refine State.Keeps.upd ?_ (List.length_map ..) (List.length_map ..) rfl rfl rfl)

theorem State.resolveOpen_keeps {z s : State} {r x p} (hk : z.Keeps s) :
    z.Keeps (State.resolveOpen s r x p) := by
  unfold State.resolveOpen
  try dsimp only
  repeat' first
    | with_reducible assumption
    | with_reducible exact State.Keeps.refl _
    | with_reducible first | apply State.Keeps.ite | apply State.Keeps.foldl | apply State.updStream_keeps | apply State.updReq_keeps
    | (intro _ _ _; try dsimp only)
    | (intro _; try dsimp only)
    | split
    | (with_reducible refine State.Keeps.upd ?_ rfl rfl rfl rfl rfl)
    | (with_reducible refine State.Keeps.upd ?_ (List.length_map ..) rfl rfl rfl rfl)
    | (with_reducible refine State.Keeps.upd ?_ rfl (List.length_map ..) rfl rfl rfl)
    | (with_reducible refine State.Keeps.upd ?_ (List.length_map ..) (List.length_map ..) rfl rfl rfl)

theorem resolveStep_keeps {z s : State} {p sess tag} (hk : z.Keeps s) :
    z.Keeps (resolveStep p sess tag s) := by
  unfold resolveStep
  try dsimp only
  repeat' first
    | with_reducible assumption
    | with_reducible exact State.Keeps.refl _
    | with_reducible first | apply State.Keeps.ite | apply State.Keeps.foldl | apply State.updReq_keeps | apply State.failTok_keeps | apply State.resolveOpen_keeps
    | (intro _ _ _; try dsimp only)
    | (intro _; try dsimp only)
    | split
    | (with_reducible refine State.Keeps.upd ?_ rfl rfl rfl rfl rfl)

theorem State.endStream_keeps {z s : State} {x fin} (hk : z.Keeps s) :
    z.Keeps (State.endStream s x fin) := by
  unfold State.endStream
  try dsimp only
  repeat' first
    | with_reducible assumption
    | with_reducible exact State.Keeps.refl _
    | with_reducible first | apply State.Keeps.ite | apply State.Keeps.foldl | apply State.snapCons_keeps | apply State.updEntry_keeps | apply State.flush_keeps | apply State.dropStream_keeps
    | (intro _ _ _; try dsimp only)
    | (intro _; try dsimp only)
    | split
    | (with_reducible refine State.Keeps.upd ?_ rfl rfl rfl rfl rfl)
    | (with_reducible refine State.Keeps.upd ?_ (List.length_map ..) rfl rfl rfl rfl)
    | (with_reducible refine State.Keeps.upd ?_ rfl (List.length_map ..) rfl rfl rfl)
    | (with_reducible refine State.Keeps.upd ?_ (List.length_map ..) (List.length_map ..) rfl rfl rfl)

theorem State.checkpoint_keeps {z s : State} {x r tail} (hk : z.Keeps s) :
    z.Keeps (State.checkpoint s x r tail) := by
  unfold State.checkpoint
  try dsimp only
  repeat' first
    | with_reducible assumption
    | with_reducible exact State.Keeps.refl _
    | with_reducible first | apply State.Keeps.ite | apply State.Keeps.foldl | apply State.updStream_keeps | apply State.updEntry_keeps | apply State.askWb_keeps
    | (intro _ _ _; try dsimp only)
    | (intro _; try dsimp only)
    | split
    | (with_reducible refine State.Keeps.upd ?_ rfl rfl rfl rfl rfl)

theorem State.sampleToks_keeps {z s : State} {r} (hk : z.Keeps s) :
    z.Keeps (State.sampleToks s r).1 := by
  unfold State.sampleToks
  try dsimp only
  repeat' first
    | with_reducible assumption
    | with_reducible exact State.Keeps.refl _
    | with_reducible first | apply State.Keeps.ite | apply State.Keeps.foldl | apply State.Keeps.foldlFst
    | (intro _ _ _; try dsimp only)
    | (intro _; try dsimp only)
    | split
    | (with_reducible refine State.Keeps.upd ?_ rfl rfl rfl rfl rfl)
    | (with_reducible refine State.Keeps.upd ?_ (List.length_map ..) rfl rfl rfl rfl)
    | (with_reducible refine State.Keeps.upd ?_ rfl (List.length_map ..) rfl rfl rfl)
    | (with_reducible refine State.Keeps.upd ?_ (List.length_map ..) (List.length_map ..) rfl rfl rfl)
    | dsimp only

theorem State.afterFlits_keeps {a s : State} {n f} (h : a.Keeps s) (hf : ∀ t, a.Keeps t → a.Keeps (f t)) :
    a.Keeps (s.afterFlits n f) := by
  unfold State.afterFlits
  have ht := hf _ (State.Keeps.clk (c := { s.clk with hp := s.clk.hp + ceilDiv n flitBytes }) h
    (Nat.le_trans h.hp (Nat.le_add_right _ _)) (Nat.le_refl _) id id)
  exact State.Keeps.clk ht h.hp (Nat.le_refl _) id id
theorem State.releaseTok_keeps {z s : State} {r res} (hk : z.Keeps s) :
    z.Keeps (State.releaseTok s r res) := by
  unfold State.releaseTok
  try dsimp only
  repeat' first
    | with_reducible assumption
    | with_reducible exact State.Keeps.refl _
    | with_reducible first | apply State.Keeps.ite | apply State.Keeps.foldl | apply State.Keeps.getD | apply State.Keeps.foldlFst | apply State.writeMem_keeps | apply State.bumpAt_keeps | apply State.updStream_keeps | apply State.sampleToks_keeps | apply State.afterFlits_keeps | apply State.endReq_keeps | apply State.flush_keeps | apply State.checkpoint_keeps | apply State.endStream_keeps
    | (intro _ _ _; try dsimp only)
    | (intro _; try dsimp only)
    | split
    | with_reducible first | refine State.Keeps.ofFst ‹_› ?_
    | (with_reducible refine State.Keeps.upd ?_ rfl rfl rfl rfl rfl)
    | dsimp only

theorem State.releaseFail_keeps {z s : State} {r res late} (hk : z.Keeps s) :
    z.Keeps (State.releaseFail s r res late) := by
  unfold State.releaseFail
  try dsimp only
  repeat' first
    | with_reducible assumption
    | with_reducible exact State.Keeps.refl _
    | with_reducible first | apply State.Keeps.ite | apply State.Keeps.foldl | apply State.failReq_keeps | apply State.failLate_keeps | apply State.endStream_keeps | apply State.flush_keeps
    | (intro _ _ _; try dsimp only)
    | (intro _; try dsimp only)
    | split
    | (with_reducible refine State.Keeps.upd ?_ rfl rfl rfl rfl rfl)

theorem releaseStep_keeps {z s : State} {p sess tag} (hk : z.Keeps s) :
    z.Keeps (releaseStep p sess tag s) := by
  unfold releaseStep
  try dsimp only
  repeat' first
    | with_reducible assumption
    | with_reducible exact State.Keeps.refl _
    | with_reducible first | apply State.Keeps.ite | apply State.Keeps.foldl | apply State.deliverAt_keeps | apply State.releaseFail_keeps | apply State.releaseTok_keeps
    | (intro _ _ _; try dsimp only)
    | (intro _; try dsimp only)
    | split
    | (with_reducible refine State.Keeps.upd ?_ rfl rfl rfl rfl rfl)

theorem State.openStream_keeps {z s : State} {r x c m} (hk : z.Keeps s) :
    z.Keeps (State.openStream s r x c m) := by
  unfold State.openStream
  try dsimp only
  repeat' first
    | with_reducible assumption
    | with_reducible exact State.Keeps.refl _
    | with_reducible first | apply State.Keeps.ite | apply State.Keeps.foldl | apply State.Keeps.foldlFst | apply State.storeSample_keeps | apply State.updEntry_keeps | apply State.updStream_keeps | apply State.endReq_keeps
    | (intro _ _ _; try dsimp only)
    | (intro _; try dsimp only)
    | split
    | with_reducible first | refine State.Keeps.ofFst ‹_› ?_
    | (with_reducible refine State.Keeps.upd ?_ rfl rfl rfl rfl rfl)
    | (with_reducible refine State.Keeps.upd ?_ (List.length_map ..) rfl rfl rfl rfl)
    | (with_reducible refine State.Keeps.upd ?_ rfl (List.length_map ..) rfl rfl rfl)
    | (with_reducible refine State.Keeps.upd ?_ (List.length_map ..) (List.length_map ..) rfl rfl rfl)
    | dsimp only

theorem streamOpenStep_keeps {z s : State} {p sess} (hk : z.Keeps s) :
    z.Keeps (streamOpenStep p sess s) := by
  unfold streamOpenStep
  try dsimp only
  repeat' first
    | with_reducible assumption
    | with_reducible exact State.Keeps.refl _
    | with_reducible first | apply State.Keeps.ite | apply State.Keeps.foldl | apply State.openStream_keeps
    | (intro _ _ _; try dsimp only)
    | (intro _; try dsimp only)
    | split
    | (with_reducible refine State.Keeps.upd ?_ rfl rfl rfl rfl rfl)

theorem State.answerCon_keeps {z s : State} {r} (hk : z.Keeps s) :
    z.Keeps (State.answerCon s r) := by
  unfold State.answerCon
  try dsimp only
  repeat' first
    | with_reducible assumption
    | with_reducible exact State.Keeps.refl _
    | with_reducible first | apply State.Keeps.ite | apply State.Keeps.foldl | apply State.writeMem_keeps | apply State.bumpAt_keeps | apply State.endReq_keeps
    | (intro _ _ _; try dsimp only)
    | (intro _; try dsimp only)
    | split
    | (with_reducible refine State.Keeps.upd ?_ rfl rfl rfl rfl rfl)

theorem conStep_keeps {z s : State} {p sess tag} (hk : z.Keeps s) :
    z.Keeps (conStep p sess tag s) := by
  unfold conStep
  try dsimp only
  repeat' first
    | with_reducible assumption
    | with_reducible exact State.Keeps.refl _
    | with_reducible first | apply State.Keeps.ite | apply State.Keeps.foldl | apply State.answerCon_keeps
    | (intro _ _ _; try dsimp only)
    | (intro _; try dsimp only)
    | split
    | (with_reducible refine State.Keeps.upd ?_ rfl rfl rfl rfl rfl)


end Sys2Proof.Machine
end

