-- ==== Sys2Proof/Laws/KeepRoles.lean ====
section
/-! SUPPORT. What the functions of Machine/Roles.lean keep of a state, whatever they do (State.Keeps). -/

namespace Sys2Proof.Machine

theorem State.takeRole_keeps {z s : State} {i g} (hk : z.Keeps s) :
    z.Keeps (State.takeRole s i g) := by
  unfold State.takeRole
  try dsimp only
  repeat' first
    | with_reducible assumption
    | with_reducible exact State.Keeps.refl _
    | with_reducible first | apply State.Keeps.ite | apply State.Keeps.foldl | apply State.wr_keeps | apply State.wrB_keeps | apply State.updStl_keeps | apply State.bump_keeps
    | (intro _ _ _; try dsimp only)
    | (intro _; try dsimp only)
    | split
    | (with_reducible refine State.Keeps.upd ?_ rfl rfl rfl rfl rfl)

theorem State.startLoad_keeps {z s : State} {i g} (hk : z.Keeps s) :
    z.Keeps (State.startLoad s i g) := by
  unfold State.startLoad
  try dsimp only
  repeat' first
    | with_reducible assumption
    | with_reducible exact State.Keeps.refl _
    | with_reducible first | apply State.Keeps.ite | apply State.Keeps.foldl | apply State.takeRole_keeps | apply State.wr_keeps | apply State.wrB_keeps | apply State.updStl_keeps
    | (intro _ _ _; try dsimp only)
    | (intro _; try dsimp only)
    | split
    | (with_reducible refine State.Keeps.upd ?_ rfl rfl rfl rfl rfl)

theorem State.giveRole_keeps {z s : State} {i g} (hk : z.Keeps s) :
    z.Keeps (State.giveRole s i g) := by
  unfold State.giveRole
  try dsimp only
  repeat' first
    | with_reducible assumption
    | with_reducible exact State.Keeps.refl _
    | with_reducible first | apply State.Keeps.ite | apply State.Keeps.foldl | apply State.updStl_keeps | apply State.wrB_keeps | apply State.startLoad_keeps
    | (intro _ _ _; try dsimp only)
    | (intro _; try dsimp only)
    | split
    | (with_reducible refine State.Keeps.upd ?_ rfl rfl rfl rfl rfl)

theorem State.settle_keeps {z s : State} (hk : z.Keeps s) :
    z.Keeps (State.settle s) := by
  unfold State.settle
  try dsimp only
  repeat' first
    | with_reducible assumption
    | with_reducible exact State.Keeps.refl _
    | with_reducible first | apply State.Keeps.ite | apply State.Keeps.foldl | apply State.startLoad_keeps
    | (intro _ _ _; try dsimp only)
    | (intro _; try dsimp only)
    | split
    | (with_reducible refine State.Keeps.upd ?_ rfl rfl rfl rfl rfl)

theorem State.endStep_keeps {z s : State} {p} (hk : z.Keeps s) :
    z.Keeps (State.endStep s p) := by
  unfold State.endStep
  try dsimp only
  repeat' first
    | with_reducible assumption
    | with_reducible exact State.Keeps.refl _
    | with_reducible first | apply State.Keeps.ite | apply State.Keeps.foldl | apply State.settle_keeps | apply State.updPit_keeps
    | (intro _ _ _; try dsimp only)
    | (intro _; try dsimp only)
    | split
    | (with_reducible refine State.Keeps.upd ?_ rfl rfl rfl rfl rfl)

theorem State.trimSteps_keeps {z s : State} (hk : z.Keeps s) :
    z.Keeps (State.trimSteps s) := by
  unfold State.trimSteps
  try dsimp only
  repeat' first
    | with_reducible assumption
    | with_reducible exact State.Keeps.refl _
    | with_reducible first | apply State.Keeps.ite | apply State.Keeps.foldl | apply State.endStep_keeps
    | (intro _ _ _; try dsimp only)
    | (intro _; try dsimp only)
    | split
    | (with_reducible refine State.Keeps.upd ?_ rfl rfl rfl rfl rfl)

theorem State.loadDone_keeps {z s : State} {i} (hk : z.Keeps s) :
    z.Keeps (State.loadDone s i) := by
  unfold State.loadDone
  try dsimp only
  repeat' first
    | with_reducible assumption
    | with_reducible exact State.Keeps.refl _
    | with_reducible first | apply State.Keeps.ite | apply State.Keeps.foldl | apply State.takeRole_keeps | apply State.beginStep_keeps | apply State.updChain_keeps
    | (intro _ _ _; try dsimp only)
    | (intro _; try dsimp only)
    | split
    | (with_reducible refine State.Keeps.upd ?_ rfl rfl rfl rfl rfl)

theorem roleLoadStep_keeps {z s : State} {i} (hk : z.Keeps s) :
    z.Keeps (roleLoadStep i s) := by
  unfold roleLoadStep
  try dsimp only
  repeat' first
    | with_reducible assumption
    | with_reducible exact State.Keeps.refl _
    | with_reducible first | apply State.Keeps.ite | apply State.Keeps.foldl | apply State.loadDone_keeps
    | (intro _ _ _; try dsimp only)
    | (intro _; try dsimp only)
    | split
    | (with_reducible refine State.Keeps.upd ?_ rfl rfl rfl rfl rfl)

theorem State.loadChain_keeps {z s : State} {c} (hk : z.Keeps s) :
    z.Keeps (State.loadChain s c) := by
  unfold State.loadChain
  try dsimp only
  repeat' first
    | with_reducible assumption
    | with_reducible exact State.Keeps.refl _
    | with_reducible first | apply State.Keeps.ite | apply State.Keeps.foldl | apply State.giveRole_keeps
    | (intro _ _ _; try dsimp only)
    | (intro _; try dsimp only)
    | split
    | (with_reducible refine State.Keeps.upd ?_ rfl rfl rfl rfl rfl)

theorem State.dropChain_keeps {z s : State} {c dissolved} (hk : z.Keeps s) :
    z.Keeps (State.dropChain s c dissolved) := by
  unfold State.dropChain
  try dsimp only
  repeat' first
    | with_reducible assumption
    | with_reducible exact State.Keeps.refl _
    | with_reducible first | apply State.Keeps.ite | apply State.Keeps.foldl | apply State.updChain_keeps | apply State.takeRole_keeps
    | (intro _ _ _; try dsimp only)
    | (intro _; try dsimp only)
    | split
    | (with_reducible refine State.Keeps.upd ?_ rfl rfl rfl rfl rfl)

theorem State.giveBack_keeps {z s : State} {p} (hk : z.Keeps s) :
    z.Keeps (State.giveBack s p) := by
  unfold State.giveBack
  try dsimp only
  repeat' first
    | with_reducible assumption
    | with_reducible exact State.Keeps.refl _
    | with_reducible first | apply State.Keeps.ite | apply State.Keeps.foldl | apply State.Keeps.getD | apply State.updStl_keeps | apply State.takeRole_keeps | apply State.startLoad_keeps
    | (intro _ _ _; try dsimp only)
    | (intro _; try dsimp only)
    | split
    | (with_reducible refine State.Keeps.upd ?_ rfl rfl rfl rfl rfl)

theorem State.addSpread_keeps {z s : State} {p} (hk : z.Keeps s) :
    z.Keeps (State.addSpread s p) := by
  unfold State.addSpread
  try dsimp only
  repeat' first
    | with_reducible assumption
    | with_reducible exact State.Keeps.refl _
    | with_reducible first | apply State.Keeps.ite | apply State.Keeps.foldl | apply State.Keeps.getD | apply State.giveRole_keeps | apply State.tookFree_keeps | apply State.dropChain_keeps
    | (intro _ _ _; try dsimp only)
    | (intro _; try dsimp only)
    | split
    | (with_reducible refine State.Keeps.upd ?_ rfl rfl rfl rfl rfl)

theorem State.cutSpread_keeps {z s : State} {p} (hk : z.Keeps s) :
    z.Keeps (State.cutSpread s p) := by
  unfold State.cutSpread
  try dsimp only
  repeat' first
    | with_reducible assumption
    | with_reducible exact State.Keeps.refl _
    | with_reducible first | apply State.Keeps.ite | apply State.Keeps.foldl | apply State.Keeps.getD | apply State.updPit_keeps | apply State.giveRole_keeps | apply State.tookFree_keeps
    | (intro _ _ _; try dsimp only)
    | (intro _; try dsimp only)
    | split
    | (with_reducible refine State.Keeps.upd ?_ rfl rfl rfl rfl rfl)

theorem State.addChain_keeps {z s : State} {p} (hk : z.Keeps s) :
    z.Keeps (State.addChain s p) := by
  unfold State.addChain
  try dsimp only
  repeat' first
    | with_reducible assumption
    | with_reducible exact State.Keeps.refl _
    | with_reducible first | apply State.Keeps.ite | apply State.Keeps.foldl | apply State.loadChain_keeps
    | (intro _ _ _; try dsimp only)
    | (intro _; try dsimp only)
    | split
    | (with_reducible refine State.Keeps.upd ?_ rfl rfl rfl rfl rfl)

theorem State.cutChains_keeps {z s : State} {p} (hk : z.Keeps s) :
    z.Keeps (State.cutChains s p) := by
  unfold State.cutChains
  try dsimp only
  repeat' first
    | with_reducible assumption
    | with_reducible exact State.Keeps.refl _
    | with_reducible first | apply State.Keeps.ite | apply State.Keeps.foldl | apply State.Keeps.getD | apply State.updChain_keeps | apply State.dropChain_keeps
    | (intro _ _ _; try dsimp only)
    | (intro _; try dsimp only)
    | split
    | (with_reducible refine State.Keeps.upd ?_ rfl rfl rfl rfl rfl)

theorem State.reviewBench_keeps {z s : State} {p} (hk : z.Keeps s) :
    z.Keeps (State.reviewBench s p) := by
  unfold State.reviewBench
  try dsimp only
  repeat' first
    | with_reducible assumption
    | with_reducible exact State.Keeps.refl _
    | with_reducible first | apply State.Keeps.ite | apply State.Keeps.foldl | apply State.Keeps.getD | apply State.giveRole_keeps | apply State.tookFree_keeps
    | (intro _ _ _; try dsimp only)
    | (intro _; try dsimp only)
    | split
    | (with_reducible refine State.Keeps.upd ?_ rfl rfl rfl rfl rfl)

theorem State.reviewPitch_keeps {z s : State} {p} (hk : z.Keeps s) :
    z.Keeps (State.reviewPitch s p) := by
  unfold State.reviewPitch
  try dsimp only
  repeat' first
    | with_reducible assumption
    | with_reducible exact State.Keeps.refl _
    | with_reducible first | apply State.Keeps.ite | apply State.Keeps.foldl | apply State.cutChains_keeps | apply State.addChain_keeps | apply State.cutSpread_keeps | apply State.addSpread_keeps | apply State.giveBack_keeps | apply State.updPit_keeps | apply State.reviewBench_keeps
    | (intro _ _ _; try dsimp only)
    | (intro _; try dsimp only)
    | split
    | (with_reducible refine State.Keeps.upd ?_ rfl rfl rfl rfl rfl)

theorem roleReviewStep_keeps {z s : State} (hk : z.Keeps s) :
    z.Keeps (roleReviewStep s) := by
  unfold roleReviewStep
  try dsimp only
  repeat' first
    | with_reducible assumption
    | with_reducible exact State.Keeps.refl _
    | with_reducible first | apply State.Keeps.ite | apply State.Keeps.foldl | apply State.beginSteps_keeps | apply State.reviewPitch_keeps | apply State.settle_keeps
    | (intro _ _ _; try dsimp only)
    | (intro _; try dsimp only)
    | split
    | (with_reducible refine State.Keeps.upd ?_ rfl rfl rfl rfl rfl)
    | (with_reducible refine State.Keeps.upd ?_ (List.length_map ..) rfl rfl rfl rfl)
    | (with_reducible refine State.Keeps.upd ?_ rfl (List.length_map ..) rfl rfl rfl)
    | (with_reducible refine State.Keeps.upd ?_ (List.length_map ..) (List.length_map ..) rfl rfl rfl)

theorem State.resetStallRegs_keeps {z s : State} {i alsoS} (hk : z.Keeps s) :
    z.Keeps (State.resetStallRegs s i alsoS) := by
  unfold State.resetStallRegs
  try dsimp only
  repeat' first
    | with_reducible assumption
    | with_reducible exact State.Keeps.refl _
    | with_reducible first | apply State.Keeps.ite | apply State.Keeps.foldl | apply State.drop_keeps
    | (intro _ _ _; try dsimp only)
    | (intro _; try dsimp only)
    | split
    | (with_reducible refine State.Keeps.upd ?_ rfl rfl rfl rfl rfl)

theorem State.dropT0_keeps {z s : State} {i} (hk : z.Keeps s) :
    z.Keeps (State.dropT0 s i) := by
  unfold State.dropT0
  try dsimp only
  repeat' first
    | with_reducible assumption
    | with_reducible exact State.Keeps.refl _
    | with_reducible first | apply State.Keeps.ite | apply State.Keeps.foldl
    | (intro _ _ _; try dsimp only)
    | (intro _; try dsimp only)
    | split
    | (with_reducible refine State.Keeps.upd ?_ rfl rfl rfl rfl rfl)

theorem dozeStep_keeps {z s : State} {i} (hk : z.Keeps s) :
    z.Keeps (dozeStep i s) := by
  unfold dozeStep
  try dsimp only
  repeat' first
    | with_reducible assumption
    | with_reducible exact State.Keeps.refl _
    | with_reducible first | apply State.Keeps.ite | apply State.Keeps.foldl | apply State.updStl_keeps
    | (intro _ _ _; try dsimp only)
    | (intro _; try dsimp only)
    | split
    | (with_reducible refine State.Keeps.upd ?_ rfl rfl rfl rfl rfl)

theorem napStep_keeps {z s : State} {i} (hk : z.Keeps s) :
    z.Keeps (napStep i s) := by
  unfold napStep
  try dsimp only
  repeat' first
    | with_reducible assumption
    | with_reducible exact State.Keeps.refl _
    | with_reducible first | apply State.Keeps.ite | apply State.Keeps.foldl | apply State.updStl_keeps | apply State.dropT0_keeps | apply State.resetStallRegs_keeps
    | (intro _ _ _; try dsimp only)
    | (intro _; try dsimp only)
    | split
    | (with_reducible refine State.Keeps.upd ?_ rfl rfl rfl rfl rfl)

theorem wakeStep_keeps {z s : State} {i} (hk : z.Keeps s) :
    z.Keeps (wakeStep i s) := by
  unfold wakeStep
  try dsimp only
  repeat' first
    | with_reducible assumption
    | with_reducible exact State.Keeps.refl _
    | with_reducible first | apply State.Keeps.ite | apply State.Keeps.foldl | apply State.updStl_keeps | apply State.loadDone_keeps
    | (intro _ _ _; try dsimp only)
    | (intro _; try dsimp only)
    | split
    | (with_reducible refine State.Keeps.upd ?_ rfl rfl rfl rfl rfl)

theorem State.cutStream_keeps {z s : State} {x} (hk : z.Keeps s) :
    z.Keeps (State.cutStream s x) := by
  unfold State.cutStream
  try dsimp only
  repeat' first
    | with_reducible assumption
    | with_reducible exact State.Keeps.refl _
    | with_reducible first | apply State.Keeps.ite | apply State.Keeps.foldl | apply State.endStream_keeps | apply State.updEntry_keeps
    | (intro _ _ _; try dsimp only)
    | (intro _; try dsimp only)
    | split
    | (with_reducible refine State.Keeps.upd ?_ rfl rfl rfl rfl rfl)
    | (with_reducible refine State.Keeps.upd ?_ (List.length_map ..) rfl rfl rfl rfl)
    | (with_reducible refine State.Keeps.upd ?_ rfl (List.length_map ..) rfl rfl rfl)
    | (with_reducible refine State.Keeps.upd ?_ (List.length_map ..) (List.length_map ..) rfl rfl rfl)

theorem State.movePin_keeps {z s : State} {x c} (hk : z.Keeps s) :
    z.Keeps (State.movePin s x c) := by
  unfold State.movePin
  try dsimp only
  repeat' first
    | with_reducible assumption
    | with_reducible exact State.Keeps.refl _
    | with_reducible first | apply State.Keeps.ite | apply State.Keeps.foldl | apply State.updStream_keeps
    | (intro _ _ _; try dsimp only)
    | (intro _; try dsimp only)
    | split
    | (with_reducible refine State.Keeps.upd ?_ rfl rfl rfl rfl rfl)
    | (with_reducible refine State.Keeps.upd ?_ (List.length_map ..) rfl rfl rfl rfl)
    | (with_reducible refine State.Keeps.upd ?_ rfl (List.length_map ..) rfl rfl rfl)
    | (with_reducible refine State.Keeps.upd ?_ (List.length_map ..) (List.length_map ..) rfl rfl rfl)

theorem State.chainForPin_keeps {z s : State} {p} (hk : z.Keeps s) :
    z.KeepsSome (State.chainForPin s p) := by
  unfold State.chainForPin
  try dsimp only
  repeat' first
    | with_reducible assumption
    | with_reducible exact State.Keeps.refl _
    | with_reducible first | apply State.Keeps.ite | apply State.Keeps.foldl | apply State.KeepsSome.ite | apply State.KeepsSome.ofSome | apply State.KeepsSome.ofNone | apply State.updChain_keeps | apply State.loadChain_keeps
    | (intro _ _ _; try dsimp only)
    | (intro _; try dsimp only)
    | split
    | (with_reducible refine State.Keeps.upd ?_ rfl rfl rfl rfl rfl)
    | dsimp only

theorem State.repinAll_keeps {z s : State} {p c} (hk : z.Keeps s) :
    z.Keeps (State.repinAll s p c).1 := by
  unfold State.repinAll
  try dsimp only
  repeat' first
    | with_reducible assumption
    | with_reducible exact State.Keeps.refl _
    | with_reducible first | apply State.Keeps.ite | apply State.Keeps.foldl | apply State.KeepsSome.ite | apply State.KeepsSome.ofSome | apply State.KeepsSome.ofNone | apply State.Keeps.foldlFst | apply State.chainForPin_keeps | apply State.movePin_keeps | apply State.cutStream_keeps
    | (intro _ _ _; try dsimp only)
    | (intro _; try dsimp only)
    | split
    | with_reducible first | refine State.Keeps.ofSome ‹_› ?_
    | (with_reducible refine State.Keeps.upd ?_ rfl rfl rfl rfl rfl)
    | dsimp only

theorem State.endLost_keeps {z s : State} {r i} (hk : z.Keeps s) :
    z.Keeps (State.endLost s r i) := by
  unfold State.endLost
  try dsimp only
  repeat' first
    | with_reducible assumption
    | with_reducible exact State.Keeps.refl _
    | with_reducible first | apply State.Keeps.ite | apply State.Keeps.foldl | apply State.endFailed_keeps | apply State.failReq_keeps
    | (intro _ _ _; try dsimp only)
    | (intro _; try dsimp only)
    | split
    | (with_reducible refine State.Keeps.upd ?_ rfl rfl rfl rfl rfl)

theorem State.endStallReqs_keeps {z s : State} {i c} (hk : z.Keeps s) :
    z.Keeps (State.endStallReqs s i c) := by
  unfold State.endStallReqs
  try dsimp only
  repeat' first
    | with_reducible assumption
    | with_reducible exact State.Keeps.refl _
    | with_reducible first | apply State.Keeps.ite | apply State.Keeps.foldl | apply State.Keeps.getD | apply State.endLost_keeps
    | (intro _ _ _; try dsimp only)
    | (intro _; try dsimp only)
    | split
    | (with_reducible refine State.Keeps.upd ?_ rfl rfl rfl rfl rfl)

theorem State.markStopped_keeps {z s : State} {is f} (hk : z.Keeps s) :
    z.Keeps (State.markStopped s is f) := by
  unfold State.markStopped
  try dsimp only
  repeat' first
    | with_reducible assumption
    | with_reducible exact State.Keeps.refl _
    | with_reducible first | apply State.Keeps.ite | apply State.Keeps.foldl | apply State.updStl_keeps
    | (intro _ _ _; try dsimp only)
    | (intro _; try dsimp only)
    | split
    | (with_reducible refine State.Keeps.upd ?_ rfl rfl rfl rfl rfl)

theorem State.stopStalls_keeps {a s : State} {is} (h : a.Keeps s) : a.Keeps (s.stopStalls is).1 := by
  unfold State.stopStalls
  dsimp only
  refine State.markStopped_keeps (State.Keeps.foldlFst (State.markStopped_keeps
    (State.Keeps.foldl (State.Keeps.upd (State.Keeps.foldl h ?_) rfl rfl rfl rfl rfl) ?_)) ?_)
  · exact fun t x ht => State.endStallReqs_keeps ht
  · exact fun t x ht => State.dropChain_keeps ht
  · exact fun t x ht => State.repinAll_keeps ht
theorem State.dayChains_keeps {z s : State} {cs} (hk : z.Keeps s) :
    z.Keeps (State.dayChains s cs) := by
  unfold State.dayChains
  try dsimp only
  repeat' first
    | with_reducible assumption
    | with_reducible exact State.Keeps.refl _
    | with_reducible first | apply State.Keeps.ite | apply State.Keeps.foldl | apply State.day_keeps
    | (intro _ _ _; try dsimp only)
    | (intro _; try dsimp only)
    | split
    | (with_reducible refine State.Keeps.upd ?_ rfl rfl rfl rfl rfl)

theorem repinStep_keeps {z s : State} {p sess} (hk : z.Keeps s) :
    z.Keeps (repinStep p sess s) := by
  unfold repinStep
  try dsimp only
  repeat' first
    | with_reducible assumption
    | with_reducible exact State.Keeps.refl _
    | with_reducible first | apply State.Keeps.ite | apply State.Keeps.foldl | apply State.Keeps.getD | apply State.updStream_keeps
    | (intro _ _ _; try dsimp only)
    | (intro _; try dsimp only)
    | split
    | (with_reducible refine State.Keeps.upd ?_ rfl rfl rfl rfl rfl)

theorem State.resetStall_keeps {z s : State} {i} (hk : z.Keeps s) :
    z.Keeps (State.resetStall s i) := by
  unfold State.resetStall
  try dsimp only
  repeat' first
    | with_reducible assumption
    | with_reducible exact State.Keeps.refl _
    | with_reducible first | apply State.Keeps.ite | apply State.Keeps.foldl | apply State.updStl_keeps | apply State.dropT0_keeps | apply State.resetStallRegs_keeps
    | (intro _ _ _; try dsimp only)
    | (intro _; try dsimp only)
    | split
    | (with_reducible refine State.Keeps.upd ?_ rfl rfl rfl rfl rfl)

theorem State.writeStlReset_keeps {z s : State} {w} (hk : z.Keeps s) :
    z.Keeps (State.writeStlReset s w) := by
  unfold State.writeStlReset
  try dsimp only
  repeat' first
    | with_reducible assumption
    | with_reducible exact State.Keeps.refl _
    | with_reducible first | apply State.Keeps.ite | apply State.Keeps.foldl | apply State.Keeps.foldlFst | apply State.stopStalls_keeps | apply State.dayChains_keeps | apply State.day_keeps | apply State.trimSteps_keeps | apply State.resetStall_keeps
    | (intro _ _ _; try dsimp only)
    | (intro _; try dsimp only)
    | split
    | with_reducible first | refine State.Keeps.ofFst ‹_› ?_
    | (with_reducible refine State.Keeps.upd ?_ rfl rfl rfl rfl rfl)
    | dsimp only

theorem stallResetStep_keeps {z s : State} {acc w} (hk : z.Keeps s) :
    z.Keeps (stallResetStep acc w s) := by
  unfold stallResetStep
  try dsimp only
  repeat' first
    | with_reducible assumption
    | with_reducible exact State.Keeps.refl _
    | with_reducible first | apply State.Keeps.ite | apply State.Keeps.foldl | apply State.KeepsEither.ite | apply State.KeepsEither.ofInl | apply State.KeepsEither.ofInr | apply State.gate_keeps | apply State.writeStlReset_keeps
    | (intro _ _ _; try dsimp only)
    | (intro _; try dsimp only)
    | split
    | with_reducible first | refine State.Keeps.ofInl ‹_› ?_ | refine State.Keeps.ofInr ‹_› ?_
    | (with_reducible refine State.Keeps.upd ?_ rfl rfl rfl rfl rfl)
    | dsimp only


end Sys2Proof.Machine
end

