-- ==== Sys2Proof/Laws/KeepHomes.lean ====
section
/-! SUPPORT. What the functions of Machine/Homes.lean keep of a state, whatever they do (State.Keeps). -/

namespace Sys2Proof.Machine

theorem State.trimKept_keeps {z s : State} {i} (hk : z.Keeps s) :
    z.Keeps (State.trimKept s i) := by
  unfold State.trimKept
  try dsimp only
  repeat' first
    | with_reducible assumption
    | with_reducible exact State.Keeps.refl _
    | with_reducible first | apply State.Keeps.ite | apply State.Keeps.foldl
    | (intro _ _ _; try dsimp only)
    | (intro _; try dsimp only)
    | split
    | (with_reducible refine State.Keeps.upd ?_ rfl rfl rfl rfl rfl)

theorem State.keep_keeps {z s : State} {i t bytes} (hk : z.Keeps s) :
    z.Keeps (State.keep s i t bytes) := by
  unfold State.keep
  try dsimp only
  repeat' first
    | with_reducible assumption
    | with_reducible exact State.Keeps.refl _
    | with_reducible first | apply State.Keeps.ite | apply State.Keeps.foldl | apply State.trimKept_keeps
    | (intro _ _ _; try dsimp only)
    | (intro _; try dsimp only)
    | split
    | (with_reducible refine State.Keeps.upd ?_ rfl rfl rfl rfl rfl)

theorem State.fetchMore_keeps {a s : State} {i p sess tag n} (h : a.Keeps s) : a.Keeps (s.fetchMore i p sess tag n) := by
  induction n generalizing s with
  | zero => exact h
  | succ n ih =>
    unfold State.fetchMore
    split
    · exact h
    · dsimp only
      split
      · exact h
      · split
        · exact ih (State.updReq_keeps (State.keep_keeps h))
        · split
          · exact h
          · exact ih (State.updReq_keeps h)
theorem State.refill_keeps {z s : State} {i} (hk : z.Keeps s) :
    z.Keeps (State.refill s i) := by
  unfold State.refill
  try dsimp only
  repeat' first
    | with_reducible assumption
    | with_reducible exact State.Keeps.refl _
    | with_reducible first | apply State.Keeps.ite | apply State.Keeps.foldl | apply State.fetchMore_keeps
    | (intro _ _ _; try dsimp only)
    | (intro _; try dsimp only)
    | split
    | (with_reducible refine State.Keeps.upd ?_ rfl rfl rfl rfl rfl)

theorem State.writeHome_keeps {z s : State} {p src t off} (hk : z.Keeps s) :
    z.Keeps (State.writeHome s p src t off) := by
  unfold State.writeHome
  try dsimp only
  repeat' first
    | with_reducible assumption
    | with_reducible exact State.Keeps.refl _
    | with_reducible first | apply State.Keeps.ite | apply State.Keeps.foldl | apply State.emit_keeps | apply State.poolWrite_keeps
    | (intro _ _ _; try dsimp only)
    | (intro _; try dsimp only)
    | split
    | (with_reducible refine State.Keeps.upd ?_ rfl rfl rfl rfl rfl)

theorem State.rewriteHomes_keeps {z s : State} {p old new} (hk : z.Keeps s) :
    z.Keeps (State.rewriteHomes s p old new) := by
  unfold State.rewriteHomes
  try dsimp only
  repeat' first
    | with_reducible assumption
    | with_reducible exact State.Keeps.refl _
    | with_reducible first | apply State.Keeps.ite | apply State.Keeps.foldl | apply State.writeHome_keeps
    | (intro _ _ _; try dsimp only)
    | (intro _; try dsimp only)
    | split
    | (with_reducible refine State.Keeps.upd ?_ rfl rfl rfl rfl rfl)

theorem State.withHomes_keeps {a s : State} {p f} (h : a.Keeps s) (hf : ∀ t, a.Keeps t → a.Keeps (f t)) :
    a.Keeps (s.withHomes p f) := by
  unfold State.withHomes
  dsimp only
  exact State.Keeps.ite (fun _ => State.rewriteHomes_keeps (hf s h)) fun _ => hf s h
theorem State.readHome_keeps {z s : State} {t src} (hk : z.Keeps s) :
    z.Keeps (State.readHome s t src) := by
  unfold State.readHome
  try dsimp only
  repeat' first
    | with_reducible assumption
    | with_reducible exact State.Keeps.refl _
    | with_reducible first | apply State.Keeps.ite | apply State.Keeps.foldl | apply State.Keeps.getD | apply State.emit_keeps | apply State.poolRead_keeps
    | (intro _ _ _; try dsimp only)
    | (intro _; try dsimp only)
    | split
    | (with_reducible refine State.Keeps.upd ?_ rfl rfl rfl rfl rfl)


end Sys2Proof.Machine
end

