-- ==== Sys2Proof/Laws/KeepAssize.lean ====
section
/-! SUPPORT. What the functions of Machine/Assize.lean keep of a state, whatever they do (State.Keeps). -/

namespace Sys2Proof.Machine

theorem State.countBench_keeps {z s : State} {p m rs} (hk : z.Keeps s) :
    z.Keeps (State.countBench s p m rs) := by
  unfold State.countBench
  try dsimp only
  repeat' first
    | with_reducible assumption
    | with_reducible exact State.Keeps.refl _
    | with_reducible first | apply State.Keeps.ite | apply State.Keeps.foldl | apply State.countEngine_keeps | apply State.bump_keeps | apply State.tookFree_keeps | apply State.noteTile_keeps
    | (intro _ _ _; try dsimp only)
    | (intro _; try dsimp only)
    | split
    | (with_reducible refine State.Keeps.upd ?_ rfl rfl rfl rfl rfl)

theorem State.trainWith_keeps {z s : State} {p m a cm rs} (hk : z.Keeps s) :
    z.Keeps (State.trainWith s p m a cm rs) := by
  unfold State.trainWith
  try dsimp only
  repeat' first
    | with_reducible assumption
    | with_reducible exact State.Keeps.refl _
    | with_reducible first | apply State.Keeps.ite | apply State.Keeps.foldl | apply State.bump_keeps | apply State.updAsz_keeps
    | (intro _ _ _; try dsimp only)
    | (intro _; try dsimp only)
    | split
    | (with_reducible refine State.Keeps.upd ?_ rfl rfl rfl rfl rfl)

theorem State.nextStep_keeps {z s : State} {p} (hk : z.Keeps s) :
    z.Keeps (State.nextStep s p) := by
  unfold State.nextStep
  try dsimp only
  repeat' first
    | with_reducible assumption
    | with_reducible exact State.Keeps.refl _
    | with_reducible first | apply State.Keeps.ite | apply State.Keeps.foldl | apply State.beginStep_keeps | apply State.endStep_keeps
    | (intro _ _ _; try dsimp only)
    | (intro _; try dsimp only)
    | split
    | (with_reducible refine State.Keeps.upd ?_ rfl rfl rfl rfl rfl)

theorem trainStep_keeps {z s : State} {p m} (hk : z.Keeps s) :
    z.Keeps (trainStep p m s) := by
  unfold trainStep
  try dsimp only
  repeat' first
    | with_reducible assumption
    | with_reducible exact State.Keeps.refl _
    | with_reducible first | apply State.Keeps.ite | apply State.Keeps.foldl | apply State.countBench_keeps | apply State.tookFree_keeps | apply State.nextStep_keeps | apply State.trainWith_keeps
    | (intro _ _ _; try dsimp only)
    | (intro _; try dsimp only)
    | split
    | (with_reducible refine State.Keeps.upd ?_ rfl rfl rfl rfl rfl)

theorem benchTimeoutStep_keeps {z s : State} {p} (hk : z.Keeps s) :
    z.Keeps (benchTimeoutStep p s) := by
  unfold benchTimeoutStep
  try dsimp only
  repeat' first
    | with_reducible assumption
    | with_reducible exact State.Keeps.refl _
    | with_reducible first | apply State.Keeps.ite | apply State.Keeps.foldl | apply State.nextStep_keeps
    | (intro _ _ _; try dsimp only)
    | (intro _; try dsimp only)
    | split
    | (with_reducible refine State.Keeps.upd ?_ rfl rfl rfl rfl rfl)

theorem shadowStep_keeps {z s : State} {p m} (hk : z.Keeps s) :
    z.Keeps (shadowStep p m s) := by
  unfold shadowStep
  try dsimp only
  repeat' first
    | with_reducible assumption
    | with_reducible exact State.Keeps.refl _
    | with_reducible first | apply State.Keeps.ite | apply State.Keeps.foldl | apply State.countBench_keeps | apply State.tookFree_keeps | apply State.updAsz_keeps | apply State.day_keeps | apply State.bump_keeps | apply State.nextStep_keeps
    | (intro _ _ _; try dsimp only)
    | (intro _; try dsimp only)
    | split
    | (with_reducible refine State.Keeps.upd ?_ rfl rfl rfl rfl rfl)
    | (with_reducible refine State.Keeps.upd ?_ (List.length_map ..) rfl rfl rfl rfl)
    | (with_reducible refine State.Keeps.upd ?_ rfl (List.length_map ..) rfl rfl rfl)
    | (with_reducible refine State.Keeps.upd ?_ (List.length_map ..) (List.length_map ..) rfl rfl rfl)

theorem State.dropCycle_keeps {z s : State} {p m f} (hk : z.Keeps s) :
    z.Keeps (State.dropCycle s p m f) := by
  unfold State.dropCycle
  try dsimp only
  repeat' first
    | with_reducible assumption
    | with_reducible exact State.Keeps.refl _
    | with_reducible first | apply State.Keeps.ite | apply State.Keeps.foldl | apply State.withHomes_keeps | apply State.updAsz_keeps | apply State.endStep_keeps
    | (intro _ _ _; try dsimp only)
    | (intro _; try dsimp only)
    | split
    | (with_reducible refine State.Keeps.upd ?_ rfl rfl rfl rfl rfl)

theorem State.discard_keeps {z s : State} {a reason} (hk : z.Keeps s) :
    z.Keeps (State.discard s a reason) := by
  unfold State.discard
  try dsimp only
  repeat' first
    | with_reducible assumption
    | with_reducible exact State.Keeps.refl _
    | with_reducible first | apply State.Keeps.ite | apply State.Keeps.foldl | apply State.day_keeps | apply State.dropCycle_keeps
    | (intro _ _ _; try dsimp only)
    | (intro _; try dsimp only)
    | split
    | (with_reducible refine State.Keeps.upd ?_ rfl rfl rfl rfl rfl)

theorem State.discardAll_keeps {z s : State} {which reason} (hk : z.Keeps s) :
    z.Keeps (State.discardAll s which reason) := by
  unfold State.discardAll
  try dsimp only
  repeat' first
    | with_reducible assumption
    | with_reducible exact State.Keeps.refl _
    | with_reducible first | apply State.Keeps.ite | apply State.Keeps.foldl | apply State.discard_keeps
    | (intro _ _ _; try dsimp only)
    | (intro _; try dsimp only)
    | split
    | (with_reducible refine State.Keeps.upd ?_ rfl rfl rfl rfl rfl)

theorem State.calibLost_keeps {z s : State} {p m bank} (hk : z.Keeps s) :
    z.Keeps (State.calibLost s p m bank) := by
  unfold State.calibLost
  try dsimp only
  repeat' first
    | with_reducible assumption
    | with_reducible exact State.Keeps.refl _
    | with_reducible first | apply State.Keeps.ite | apply State.Keeps.foldl | apply State.day_keeps | apply State.wr_keeps | apply State.dropCycle_keeps
    | (intro _ _ _; try dsimp only)
    | (intro _; try dsimp only)
    | split
    | (with_reducible refine State.Keeps.upd ?_ rfl rfl rfl rfl rfl)

theorem State.loseSet_keeps {z s : State} {p m bank} (hk : z.Keeps s) :
    z.Keeps (State.loseSet s p m bank) := by
  unfold State.loseSet
  try dsimp only
  repeat' first
    | with_reducible assumption
    | with_reducible exact State.Keeps.refl _
    | with_reducible first | apply State.Keeps.ite | apply State.Keeps.foldl | apply State.Keeps.getD | apply State.calibLost_keeps
    | (intro _ _ _; try dsimp only)
    | (intro _; try dsimp only)
    | split
    | (with_reducible refine State.Keeps.upd ?_ rfl rfl rfl rfl rfl)

theorem calibStagedStep_keeps {z s : State} {p m} (hk : z.Keeps s) :
    z.Keeps (calibStagedStep p m s) := by
  unfold calibStagedStep
  try dsimp only
  repeat' first
    | with_reducible assumption
    | with_reducible exact State.Keeps.refl _
    | with_reducible first | apply State.Keeps.ite | apply State.Keeps.foldl | apply State.withHomes_keeps | apply State.updAsz_keeps | apply State.trimKept_keeps
    | (intro _ _ _; try dsimp only)
    | (intro _; try dsimp only)
    | split
    | (with_reducible refine State.Keeps.upd ?_ rfl rfl rfl rfl rfl)

theorem State.startCycle_keeps {z s : State} {p m} (hk : z.Keeps s) :
    z.Keeps (State.startCycle s p m) := by
  unfold State.startCycle
  try dsimp only
  repeat' first
    | with_reducible assumption
    | with_reducible exact State.Keeps.refl _
    | with_reducible first | apply State.Keeps.ite | apply State.Keeps.foldl | apply State.Keeps.getD | apply State.beginStep_keeps | apply State.updAsz_keeps
    | (intro _ _ _; try dsimp only)
    | (intro _; try dsimp only)
    | split
    | (with_reducible refine State.Keeps.upd ?_ rfl rfl rfl rfl rfl)
    | (with_reducible refine State.Keeps.upd ?_ (List.length_map ..) rfl rfl rfl rfl)
    | (with_reducible refine State.Keeps.upd ?_ rfl (List.length_map ..) rfl rfl rfl)
    | (with_reducible refine State.Keeps.upd ?_ (List.length_map ..) (List.length_map ..) rfl rfl rfl)

theorem State.kick_keeps {z s : State} {p} (hk : z.Keeps s) :
    z.Keeps (State.kick s p) := by
  unfold State.kick
  try dsimp only
  repeat' first
    | with_reducible assumption
    | with_reducible exact State.Keeps.refl _
    | with_reducible first | apply State.Keeps.ite | apply State.Keeps.foldl | apply State.startCycle_keeps
    | (intro _ _ _; try dsimp only)
    | (intro _; try dsimp only)
    | split
    | (with_reducible refine State.Keeps.upd ?_ rfl rfl rfl rfl rfl)
    | (with_reducible refine State.Keeps.upd ?_ (List.length_map ..) rfl rfl rfl rfl)
    | (with_reducible refine State.Keeps.upd ?_ rfl (List.length_map ..) rfl rfl rfl)
    | (with_reducible refine State.Keeps.upd ?_ (List.length_map ..) (List.length_map ..) rfl rfl rfl)

theorem kickStep_keeps {z s : State} {acc p} (hk : z.Keeps s) :
    z.Keeps (kickStep acc p s) := by
  unfold kickStep
  try dsimp only
  repeat' first
    | with_reducible assumption
    | with_reducible exact State.Keeps.refl _
    | with_reducible first | apply State.Keeps.ite | apply State.Keeps.foldl | apply State.KeepsEither.ite | apply State.KeepsEither.ofInl | apply State.KeepsEither.ofInr | apply State.gate_keeps | apply State.kick_keeps
    | (intro _ _ _; try dsimp only)
    | (intro _; try dsimp only)
    | split
    | with_reducible first | refine State.Keeps.ofInl ‹_› ?_ | refine State.Keeps.ofInr ‹_› ?_
    | (with_reducible refine State.Keeps.upd ?_ rfl rfl rfl rfl rfl)
    | dsimp only

theorem State.setFreeze_keeps {z s : State} {p b} (hk : z.Keeps s) :
    z.Keeps (State.setFreeze s p b) := by
  unfold State.setFreeze
  try dsimp only
  repeat' first
    | with_reducible assumption
    | with_reducible exact State.Keeps.refl _
    | with_reducible first | apply State.Keeps.ite | apply State.Keeps.foldl | apply State.wrB_keeps | apply State.discardAll_keeps
    | (intro _ _ _; try dsimp only)
    | (intro _; try dsimp only)
    | split
    | (with_reducible refine State.Keeps.upd ?_ rfl rfl rfl rfl rfl)

theorem freezeStep_keeps {z s : State} {acc p} (hk : z.Keeps s) :
    z.Keeps (freezeStep acc p s) := by
  unfold freezeStep
  try dsimp only
  repeat' first
    | with_reducible assumption
    | with_reducible exact State.Keeps.refl _
    | with_reducible first | apply State.Keeps.ite | apply State.Keeps.foldl | apply State.KeepsEither.ite | apply State.KeepsEither.ofInl | apply State.KeepsEither.ofInr | apply State.gate_keeps | apply State.setFreeze_keeps
    | (intro _ _ _; try dsimp only)
    | (intro _; try dsimp only)
    | split
    | with_reducible first | refine State.Keeps.ofInl ‹_› ?_ | refine State.Keeps.ofInr ‹_› ?_
    | (with_reducible refine State.Keeps.upd ?_ rfl rfl rfl rfl rfl)
    | dsimp only

theorem State.setAssize_keeps {z s : State} {b} (hk : z.Keeps s) :
    z.Keeps (State.setAssize s b) := by
  unfold State.setAssize
  try dsimp only
  repeat' first
    | with_reducible assumption
    | with_reducible exact State.Keeps.refl _
    | with_reducible first | apply State.Keeps.ite | apply State.Keeps.foldl | apply State.wrB_keeps | apply State.discardAll_keeps
    | (intro _ _ _; try dsimp only)
    | (intro _; try dsimp only)
    | split
    | (with_reducible refine State.Keeps.upd ?_ rfl rfl rfl rfl rfl)

theorem assizeEnableStep_keeps {z s : State} {acc b} (hk : z.Keeps s) :
    z.Keeps (assizeEnableStep acc b s) := by
  unfold assizeEnableStep
  try dsimp only
  repeat' first
    | with_reducible assumption
    | with_reducible exact State.Keeps.refl _
    | with_reducible first | apply State.Keeps.ite | apply State.Keeps.foldl | apply State.KeepsEither.ite | apply State.KeepsEither.ofInl | apply State.KeepsEither.ofInr | apply State.gate_keeps | apply State.setAssize_keeps
    | (intro _ _ _; try dsimp only)
    | (intro _; try dsimp only)
    | split
    | with_reducible first | refine State.Keeps.ofInl ‹_› ?_ | refine State.Keeps.ofInr ‹_› ?_
    | (with_reducible refine State.Keeps.upd ?_ rfl rfl rfl rfl rfl)
    | dsimp only

theorem State.evalSlot_keeps {z s : State} {p i c} (hk : z.Keeps s) :
    z.Keeps (State.evalSlot s p i c).1 := by
  unfold State.evalSlot
  try dsimp only
  repeat' first
    | with_reducible assumption
    | with_reducible exact State.Keeps.refl _
    | with_reducible first | apply State.Keeps.ite | apply State.Keeps.foldl | apply State.Keeps.getD | apply State.Keeps.foldlFst | apply State.wr_keeps | apply State.updAsz_keeps | apply State.day_keeps | apply State.bump_keeps
    | (intro _ _ _; try dsimp only)
    | (intro _; try dsimp only)
    | split
    | (with_reducible refine State.Keeps.upd ?_ rfl rfl rfl rfl rfl)
    | dsimp only

theorem State.endWatch_keeps {z s : State} {a m} (hk : z.Keeps s) :
    z.Keeps (State.endWatch s a m) := by
  unfold State.endWatch
  try dsimp only
  repeat' first
    | with_reducible assumption
    | with_reducible exact State.Keeps.refl _
    | with_reducible first | apply State.Keeps.ite | apply State.Keeps.foldl | apply State.tookFree_keeps | apply State.updAsz_keeps | apply State.lowerFactor_keeps | apply State.day_keeps
    | (intro _ _ _; try dsimp only)
    | (intro _; try dsimp only)
    | split
    | (with_reducible refine State.Keeps.upd ?_ rfl rfl rfl rfl rfl)

theorem State.windowModel_keeps {z s : State} {p m trip} (hk : z.Keeps s) :
    z.Keeps (State.windowModel s p m trip) := by
  unfold State.windowModel
  try dsimp only
  repeat' first
    | with_reducible assumption
    | with_reducible exact State.Keeps.refl _
    | with_reducible first | apply State.Keeps.ite | apply State.Keeps.foldl | apply State.Keeps.getD | apply State.endWatch_keeps | apply State.updAsz_keeps | apply State.discard_keeps | apply State.startCycle_keeps
    | (intro _ _ _; try dsimp only)
    | (intro _; try dsimp only)
    | split
    | (with_reducible refine State.Keeps.upd ?_ rfl rfl rfl rfl rfl)

theorem windowStep_keeps {z s : State} {p} (hk : z.Keeps s) :
    z.Keeps (windowStep p s) := by
  unfold windowStep
  try dsimp only
  repeat' first
    | with_reducible assumption
    | with_reducible exact State.Keeps.refl _
    | with_reducible first | apply State.Keeps.ite | apply State.Keeps.foldl | apply State.Keeps.foldlFst | apply State.updPit_keeps | apply State.windowModel_keeps | apply State.evalSlot_keeps
    | (intro _ _ _; try dsimp only)
    | (intro _; try dsimp only)
    | split
    | with_reducible first | refine State.Keeps.ofFst ‹_› ?_
    | (with_reducible refine State.Keeps.upd ?_ rfl rfl rfl rfl rfl)
    | (with_reducible refine State.Keeps.upd ?_ (List.length_map ..) rfl rfl rfl rfl)
    | (with_reducible refine State.Keeps.upd ?_ rfl (List.length_map ..) rfl rfl rfl)
    | (with_reducible refine State.Keeps.upd ?_ (List.length_map ..) (List.length_map ..) rfl rfl rfl)
    | dsimp only

theorem State.commitOne_keeps {a : State} {x : State × Gen} {b epoch} (h : a.Keeps x.1) : a.Keeps (State.commitOne x b epoch).1 := by
  unfold State.commitOne
  split
  · exact h
  · dsimp only
    exact State.updAsz_keeps (State.Keeps.foldl (State.Keeps.foldl (State.day_keeps (State.bump_keeps h))
      fun t x ht => State.wr_keeps ht) fun t x ht => State.wr_keeps ht)
theorem State.commitAll_keeps {a s : State} {p epoch g} (h : a.Keeps s) : a.Keeps (s.commitAll p epoch g).1 := by
  unfold State.commitAll
  exact State.Keeps.foldlFst h fun t x ht => State.commitOne_keeps ht
theorem State.startExport_keeps {z s : State} {p} (hk : z.Keeps s) :
    z.Keeps (State.startExport s p) := by
  unfold State.startExport
  try dsimp only
  repeat' first
    | with_reducible assumption
    | with_reducible exact State.Keeps.refl _
    | with_reducible first | apply State.Keeps.ite | apply State.Keeps.foldl | apply State.wr_keeps | apply State.emit_keeps
    | (intro _ _ _; try dsimp only)
    | (intro _; try dsimp only)
    | split
    | (with_reducible refine State.Keeps.upd ?_ rfl rfl rfl rfl rfl)

theorem exportStep_keeps {z s : State} {acc p} (hk : z.Keeps s) :
    z.Keeps (exportStep acc p s) := by
  unfold exportStep
  try dsimp only
  repeat' first
    | with_reducible assumption
    | with_reducible exact State.Keeps.refl _
    | with_reducible first | apply State.Keeps.ite | apply State.Keeps.foldl | apply State.KeepsEither.ite | apply State.KeepsEither.ofInl | apply State.KeepsEither.ofInr | apply State.gate_keeps | apply State.startExport_keeps
    | (intro _ _ _; try dsimp only)
    | (intro _; try dsimp only)
    | split
    | with_reducible first | refine State.Keeps.ofInl ‹_› ?_ | refine State.Keeps.ofInr ‹_› ?_
    | (with_reducible refine State.Keeps.upd ?_ rfl rfl rfl rfl rfl)
    | dsimp only

theorem exportDoneStep_keeps {z s : State} {p} (hk : z.Keeps s) :
    z.Keeps (exportDoneStep p s) := by
  unfold exportDoneStep
  try dsimp only
  repeat' first
    | with_reducible assumption
    | with_reducible exact State.Keeps.refl _
    | with_reducible first | apply State.Keeps.ite | apply State.Keeps.foldl | apply State.wr_keeps
    | (intro _ _ _; try dsimp only)
    | (intro _; try dsimp only)
    | split
    | (with_reducible refine State.Keeps.upd ?_ rfl rfl rfl rfl rfl)


end Sys2Proof.Machine
end

