-- ==== Sys2Proof/Laws/KeepAmend.lean ====
section
/-! SUPPORT. What the functions of Machine/Amend.lean keep of a state, whatever they do (State.Keeps). -/

namespace Sys2Proof.Machine

theorem State.putMdl_keeps {z s : State} {i m} (hk : z.Keeps s) :
    z.Keeps (State.putMdl s i m) := by
  unfold State.putMdl
  try dsimp only
  repeat' first
    | with_reducible assumption
    | with_reducible exact State.Keeps.refl _
    | with_reducible first | apply State.Keeps.ite | apply State.Keeps.foldl | apply State.wr_keeps | apply State.wrB_keeps
    | (intro _ _ _; try dsimp only)
    | (intro _; try dsimp only)
    | split
    | (with_reducible refine State.Keeps.upd ?_ rfl rfl rfl rfl rfl)

theorem State.putSlot_keeps {z s : State} {i c} (hk : z.Keeps s) :
    z.Keeps (State.putSlot s i c) := by
  unfold State.putSlot
  try dsimp only
  repeat' first
    | with_reducible assumption
    | with_reducible exact State.Keeps.refl _
    | with_reducible first | apply State.Keeps.ite | apply State.Keeps.foldl | apply State.wr_keeps
    | (intro _ _ _; try dsimp only)
    | (intro _; try dsimp only)
    | split
    | (with_reducible refine State.Keeps.upd ?_ rfl rfl rfl rfl rfl)

theorem State.dropEntryRegs_keeps {z s : State} {lo hi i} (hk : z.Keeps s) :
    z.Keeps (State.dropEntryRegs s lo hi i) := by
  unfold State.dropEntryRegs
  try dsimp only
  repeat' first
    | with_reducible assumption
    | with_reducible exact State.Keeps.refl _
    | with_reducible first | apply State.Keeps.ite | apply State.Keeps.foldl | apply State.drop_keeps
    | (intro _ _ _; try dsimp only)
    | (intro _; try dsimp only)
    | split
    | (with_reducible refine State.Keeps.upd ?_ rfl rfl rfl rfl rfl)

theorem State.syncMdls_keeps {z s : State} {p g} (hk : z.Keeps s) :
    z.Keeps (State.syncMdls s p g) := by
  unfold State.syncMdls
  try dsimp only
  repeat' first
    | with_reducible assumption
    | with_reducible exact State.Keeps.refl _
    | with_reducible first | apply State.Keeps.ite | apply State.Keeps.foldl | apply State.Keeps.getD | apply State.dropEntryRegs_keeps | apply State.putMdl_keeps
    | (intro _ _ _; try dsimp only)
    | (intro _; try dsimp only)
    | split
    | (with_reducible refine State.Keeps.upd ?_ rfl rfl rfl rfl rfl)

theorem State.syncSlots_keeps {z s : State} {p g} (hk : z.Keeps s) :
    z.Keeps (State.syncSlots s p g) := by
  unfold State.syncSlots
  try dsimp only
  repeat' first
    | with_reducible assumption
    | with_reducible exact State.Keeps.refl _
    | with_reducible first | apply State.Keeps.ite | apply State.Keeps.foldl | apply State.Keeps.getD | apply State.dropEntryRegs_keeps | apply State.putSlot_keeps
    | (intro _ _ _; try dsimp only)
    | (intro _; try dsimp only)
    | split
    | (with_reducible refine State.Keeps.upd ?_ rfl rfl rfl rfl rfl)

theorem State.syncAsz_keeps {z s : State} {p g} (hk : z.Keeps s) :
    z.Keeps (State.syncAsz s p g) := by
  unfold State.syncAsz
  try dsimp only
  repeat' first
    | with_reducible assumption
    | with_reducible exact State.Keeps.refl _
    | with_reducible first | apply State.Keeps.ite | apply State.Keeps.foldl
    | (intro _ _ _; try dsimp only)
    | (intro _; try dsimp only)
    | split
    | (with_reducible refine State.Keeps.upd ?_ rfl rfl rfl rfl rfl)
    | (with_reducible refine State.Keeps.upd ?_ (List.length_map ..) rfl rfl rfl rfl)
    | (with_reducible refine State.Keeps.upd ?_ rfl (List.length_map ..) rfl rfl rfl)
    | (with_reducible refine State.Keeps.upd ?_ (List.length_map ..) (List.length_map ..) rfl rfl rfl)

theorem State.amdRefuse_keeps {z s : State} {code detail} (hk : z.Keeps s) :
    z.Keeps (State.amdRefuse s code detail) := by
  unfold State.amdRefuse
  try dsimp only
  repeat' first
    | with_reducible assumption
    | with_reducible exact State.Keeps.refl _
    | with_reducible first | apply State.Keeps.ite | apply State.Keeps.foldl | apply State.Keeps.getD | apply State.wr_keeps | apply State.withHomes_keeps | apply State.day_keeps | apply State.updPit_keeps
    | (intro _ _ _; try dsimp only)
    | (intro _; try dsimp only)
    | split
    | (with_reducible refine State.Keeps.upd ?_ rfl rfl rfl rfl rfl)

theorem State.amdReset_keeps {z s : State} {which} (hk : z.Keeps s) :
    z.Keeps (State.amdReset s which) := by
  unfold State.amdReset
  try dsimp only
  repeat' first
    | with_reducible assumption
    | with_reducible exact State.Keeps.refl _
    | with_reducible first | apply State.Keeps.ite | apply State.Keeps.foldl | apply State.amdRefuse_keeps
    | (intro _ _ _; try dsimp only)
    | (intro _; try dsimp only)
    | split
    | (with_reducible refine State.Keeps.upd ?_ rfl rfl rfl rfl rfl)

theorem State.amdPlace_keeps {z s : State} {p g regs} (hk : z.Keeps s) :
    z.Keeps (State.amdPlace s p g regs) := by
  unfold State.amdPlace
  try dsimp only
  repeat' first
    | with_reducible assumption
    | with_reducible exact State.Keeps.refl _
    | with_reducible first | apply State.Keeps.ite | apply State.Keeps.foldl | apply State.amdRefuse_keeps | apply State.wr_keeps | apply State.updPit_keeps
    | (intro _ _ _; try dsimp only)
    | (intro _; try dsimp only)
    | split
    | (with_reducible refine State.Keeps.upd ?_ rfl rfl rfl rfl rfl)

theorem State.amdRefit_keeps {z s : State} (hk : z.Keeps s) :
    z.Keeps (State.amdRefit s) := by
  unfold State.amdRefit
  try dsimp only
  repeat' first
    | with_reducible assumption
    | with_reducible exact State.Keeps.refl _
    | with_reducible first | apply State.Keeps.ite | apply State.Keeps.foldl | apply State.amdPlace_keeps | apply State.amdRefuse_keeps
    | (intro _ _ _; try dsimp only)
    | (intro _; try dsimp only)
    | split
    | (with_reducible refine State.Keeps.upd ?_ rfl rfl rfl rfl rfl)

theorem State.amdCtrl_keeps {z s : State} {w} (hk : z.Keeps s) :
    z.Keeps (State.amdCtrl s w) := by
  unfold State.amdCtrl
  try dsimp only
  repeat' first
    | with_reducible assumption
    | with_reducible exact State.Keeps.refl _
    | with_reducible first | apply State.Keeps.ite | apply State.Keeps.foldl | apply State.amdRefuse_keeps | apply State.wr_keeps | apply State.emit_keeps
    | (intro _ _ _; try dsimp only)
    | (intro _; try dsimp only)
    | split
    | (with_reducible refine State.Keeps.upd ?_ rfl rfl rfl rfl rfl)

theorem amdSubmitStep_keeps {z s : State} {acc w} (hk : z.Keeps s) :
    z.Keeps (amdSubmitStep acc w s) := by
  unfold amdSubmitStep
  try dsimp only
  repeat' first
    | with_reducible assumption
    | with_reducible exact State.Keeps.refl _
    | with_reducible first | apply State.Keeps.ite | apply State.Keeps.foldl | apply State.KeepsEither.ite | apply State.KeepsEither.ofInl | apply State.KeepsEither.ofInr | apply State.gate_keeps | apply State.amdCtrl_keeps
    | (intro _ _ _; try dsimp only)
    | (intro _; try dsimp only)
    | split
    | with_reducible first | refine State.Keeps.ofInl ‹_› ?_ | refine State.Keeps.ofInr ‹_› ?_
    | (with_reducible refine State.Keeps.upd ?_ rfl rfl rfl rfl rfl)
    | dsimp only

theorem amdCancelStep_keeps {z s : State} {acc} (hk : z.Keeps s) :
    z.Keeps (amdCancelStep acc s) := by
  unfold amdCancelStep
  try dsimp only
  repeat' first
    | with_reducible assumption
    | with_reducible exact State.Keeps.refl _
    | with_reducible first | apply State.Keeps.ite | apply State.Keeps.foldl | apply State.KeepsEither.ite | apply State.KeepsEither.ofInl | apply State.KeepsEither.ofInr | apply State.gate_keeps | apply State.amdCtrl_keeps
    | (intro _ _ _; try dsimp only)
    | (intro _; try dsimp only)
    | split
    | with_reducible first | refine State.Keeps.ofInl ‹_› ?_ | refine State.Keeps.ofInr ‹_› ?_
    | (with_reducible refine State.Keeps.upd ?_ rfl rfl rfl rfl rfl)
    | dsimp only

theorem amdReadStep_keeps {z s : State} {data} (hk : z.Keeps s) :
    z.Keeps (amdReadStep data s) := by
  unfold amdReadStep
  try dsimp only
  repeat' first
    | with_reducible assumption
    | with_reducible exact State.Keeps.refl _
    | with_reducible first | apply State.Keeps.ite | apply State.Keeps.foldl | apply State.amdRefuse_keeps | apply State.wr_keeps | apply State.amdPlace_keeps
    | (intro _ _ _; try dsimp only)
    | (intro _; try dsimp only)
    | split
    | (with_reducible refine State.Keeps.upd ?_ rfl rfl rfl rfl rfl)

theorem amdWaitEndStep_keeps {z s : State} (hk : z.Keeps s) :
    z.Keeps (amdWaitEndStep s) := by
  unfold amdWaitEndStep
  try dsimp only
  repeat' first
    | with_reducible assumption
    | with_reducible exact State.Keeps.refl _
    | with_reducible first | apply State.Keeps.ite | apply State.Keeps.foldl | apply State.wr_keeps
    | (intro _ _ _; try dsimp only)
    | (intro _; try dsimp only)
    | split
    | (with_reducible refine State.Keeps.upd ?_ rfl rfl rfl rfl rfl)

theorem amdTimeoutStep_keeps {z s : State} (hk : z.Keeps s) :
    z.Keeps (amdTimeoutStep s) := by
  unfold amdTimeoutStep
  try dsimp only
  repeat' first
    | with_reducible assumption
    | with_reducible exact State.Keeps.refl _
    | with_reducible first | apply State.Keeps.ite | apply State.Keeps.foldl | apply State.amdRefuse_keeps
    | (intro _ _ _; try dsimp only)
    | (intro _; try dsimp only)
    | split
    | (with_reducible refine State.Keeps.upd ?_ rfl rfl rfl rfl rfl)


end Sys2Proof.Machine
end

