-- ==== Sys2Proof/Laws/KeepEpoch.lean ====
section
/-! SUPPORT. What the functions of Machine/Epoch.lean keep of a state, whatever they do (State.Keeps). -/

namespace Sys2Proof.Machine

theorem State.loadReg_keeps {z s : State} {a v} (hk : z.Keeps s) :
    z.Keeps (State.loadReg s a v) := by
  unfold State.loadReg
  try dsimp only
  repeat' first
    | with_reducible assumption
    | with_reducible exact State.Keeps.refl _
    | with_reducible first | apply State.Keeps.ite | apply State.Keeps.foldl | apply State.wr_keeps
    | (intro _ _ _; try dsimp only)
    | (intro _; try dsimp only)
    | split
    | (with_reducible refine State.Keeps.upd ?_ rfl rfl rfl rfl rfl)

theorem State.putAlloc_keeps {z s : State} {i b} (hk : z.Keeps s) :
    z.Keeps (State.putAlloc s i b) := by
  unfold State.putAlloc
  try dsimp only
  repeat' first
    | with_reducible assumption
    | with_reducible exact State.Keeps.refl _
    | with_reducible first | apply State.Keeps.ite | apply State.Keeps.foldl | apply State.wr_keeps
    | (intro _ _ _; try dsimp only)
    | (intro _; try dsimp only)
    | split
    | (with_reducible refine State.Keeps.upd ?_ rfl rfl rfl rfl rfl)

theorem State.sendDigest_keeps {z s : State} {p dkind dst} (hk : z.Keeps s) :
    z.Keeps (State.sendDigest s p dkind dst) := by
  unfold State.sendDigest
  try dsimp only
  repeat' first
    | with_reducible assumption
    | with_reducible exact State.Keeps.refl _
    | with_reducible first | apply State.Keeps.ite | apply State.Keeps.foldl | apply State.sendFrame_keeps
    | (intro _ _ _; try dsimp only)
    | (intro _; try dsimp only)
    | split
    | (with_reducible refine State.Keeps.upd ?_ rfl rfl rfl rfl rfl)

theorem State.sendDigests_keeps {z s : State} {p} (hk : z.Keeps s) :
    z.Keeps (State.sendDigests s p) := by
  unfold State.sendDigests
  try dsimp only
  repeat' first
    | with_reducible assumption
    | with_reducible exact State.Keeps.refl _
    | with_reducible first | apply State.Keeps.ite | apply State.Keeps.foldl | apply State.sendDigest_keeps
    | (intro _ _ _; try dsimp only)
    | (intro _; try dsimp only)
    | split
    | (with_reducible refine State.Keeps.upd ?_ rfl rfl rfl rfl rfl)

theorem State.moveStall_keeps {z s : State} {x} (hk : z.Keeps s) :
    z.Keeps (State.moveStall s x) := by
  unfold State.moveStall
  try dsimp only
  repeat' first
    | with_reducible assumption
    | with_reducible exact State.Keeps.refl _
    | with_reducible first | apply State.Keeps.ite | apply State.Keeps.foldl | apply State.updStl_keeps | apply State.dropT0_keeps | apply State.putAlloc_keeps | apply State.day_keeps
    | (intro _ _ _; try dsimp only)
    | (intro _; try dsimp only)
    | split
    | (with_reducible refine State.Keeps.upd ?_ rfl rfl rfl rfl rfl)

theorem State.dropChanged_keeps {z s : State} {p} (hk : z.Keeps s) :
    z.Keeps (State.dropChanged s p) := by
  unfold State.dropChanged
  try dsimp only
  repeat' first
    | with_reducible assumption
    | with_reducible exact State.Keeps.refl _
    | with_reducible first | apply State.Keeps.ite | apply State.Keeps.foldl | apply State.discardAll_keeps
    | (intro _ _ _; try dsimp only)
    | (intro _; try dsimp only)
    | split
    | (with_reducible refine State.Keeps.upd ?_ rfl rfl rfl rfl rfl)
    | (with_reducible refine State.Keeps.upd ?_ (List.length_map ..) rfl rfl rfl rfl)
    | (with_reducible refine State.Keeps.upd ?_ rfl (List.length_map ..) rfl rfl rfl)
    | (with_reducible refine State.Keeps.upd ?_ (List.length_map ..) (List.length_map ..) rfl rfl rfl)

theorem State.freshModel_keeps {z s : State} {p ds m} (hk : z.Keeps s) :
    z.Keeps (State.freshModel s p ds m) := by
  unfold State.freshModel
  try dsimp only
  repeat' first
    | with_reducible assumption
    | with_reducible exact State.Keeps.refl _
    | with_reducible first | apply State.Keeps.ite | apply State.Keeps.foldl | apply State.wr_keeps
    | (intro _ _ _; try dsimp only)
    | (intro _; try dsimp only)
    | split
    | (with_reducible refine State.Keeps.upd ?_ rfl rfl rfl rfl rfl)

theorem State.amdApplied_keeps {z s : State} {p e g} (hk : z.Keeps s) :
    z.Keeps (State.amdApplied s p e g) := by
  unfold State.amdApplied
  try dsimp only
  repeat' first
    | with_reducible assumption
    | with_reducible exact State.Keeps.refl _
    | with_reducible first | apply State.Keeps.ite | apply State.Keeps.foldl | apply State.Keeps.getD | apply State.moveStall_keeps | apply State.syncAsz_keeps | apply State.syncSlots_keeps | apply State.syncMdls_keeps | apply State.freshModel_keeps | apply State.loadReg_keeps | apply State.wr_keeps | apply State.updPit_keeps | apply State.day_keeps | apply State.sendDigests_keeps
    | (intro _ _ _; try dsimp only)
    | (intro _; try dsimp only)
    | split
    | (with_reducible refine State.Keeps.upd ?_ rfl rfl rfl rfl rfl)

theorem State.followAmd_keeps {z s : State} {p g} (hk : z.Keeps s) :
    z.Keeps (State.followAmd s p g) := by
  unfold State.followAmd
  try dsimp only
  repeat' first
    | with_reducible assumption
    | with_reducible exact State.Keeps.refl _
    | with_reducible first | apply State.Keeps.ite | apply State.Keeps.foldl
    | (intro _ _ _; try dsimp only)
    | (intro _; try dsimp only)
    | split
    | (with_reducible refine State.Keeps.upd ?_ rfl rfl rfl rfl rfl)

theorem State.refuseMoves_keeps {z s : State} {p} (hk : z.Keeps s) :
    z.Keeps (State.refuseMoves s p) := by
  unfold State.refuseMoves
  try dsimp only
  repeat' first
    | with_reducible assumption
    | with_reducible exact State.Keeps.refl _
    | with_reducible first | apply State.Keeps.ite | apply State.Keeps.foldl | apply State.amdRefuse_keeps
    | (intro _ _ _; try dsimp only)
    | (intro _; try dsimp only)
    | split
    | (with_reducible refine State.Keeps.upd ?_ rfl rfl rfl rfl rfl)

theorem State.raiseTo_keeps {z s : State} {p e} (hk : z.Keeps s) :
    z.Keeps (State.raiseTo s p e) := by
  unfold State.raiseTo
  try dsimp only
  repeat' first
    | with_reducible assumption
    | with_reducible exact State.Keeps.refl _
    | with_reducible first | apply State.Keeps.ite | apply State.Keeps.foldl | apply State.Keeps.foldlFst | apply State.refuseMoves_keeps | apply State.dropChanged_keeps | apply State.commitAll_keeps | apply State.wr_keeps | apply State.amdApplied_keeps | apply State.followAmd_keeps
    | (intro _ _ _; try dsimp only)
    | (intro _; try dsimp only)
    | split
    | with_reducible first | refine State.Keeps.ofFst ‹_› ?_
    | (with_reducible refine State.Keeps.upd ?_ rfl rfl rfl rfl rfl)
    | dsimp only

theorem State.raiseEpoch_keeps {z s : State} {p} (hk : z.Keeps s) :
    z.Keeps (State.raiseEpoch s p) := by
  unfold State.raiseEpoch
  try dsimp only
  repeat' first
    | with_reducible assumption
    | with_reducible exact State.Keeps.refl _
    | with_reducible first | apply State.Keeps.ite | apply State.Keeps.foldl | apply State.withHomes_keeps | apply State.raiseTo_keeps
    | (intro _ _ _; try dsimp only)
    | (intro _; try dsimp only)
    | split
    | (with_reducible refine State.Keeps.upd ?_ rfl rfl rfl rfl rfl)

theorem State.startBell_keeps {z s : State} {p} (hk : z.Keeps s) :
    z.Keeps (State.startBell s p) := by
  unfold State.startBell
  try dsimp only
  repeat' first
    | with_reducible assumption
    | with_reducible exact State.Keeps.refl _
    | with_reducible first | apply State.Keeps.ite | apply State.Keeps.foldl | apply State.raiseEpoch_keeps | apply State.updPit_keeps
    | (intro _ _ _; try dsimp only)
    | (intro _; try dsimp only)
    | split
    | (with_reducible refine State.Keeps.upd ?_ rfl rfl rfl rfl rfl)

theorem State.ringBell_keeps {z s : State} {p} (hk : z.Keeps s) :
    z.Keeps (State.ringBell s p) := by
  unfold State.ringBell
  try dsimp only
  repeat' first
    | with_reducible assumption
    | with_reducible exact State.Keeps.refl _
    | with_reducible first | apply State.Keeps.ite | apply State.Keeps.foldl | apply State.wr_keeps | apply State.startBell_keeps | apply State.emit_keeps
    | (intro _ _ _; try dsimp only)
    | (intro _; try dsimp only)
    | split
    | (with_reducible refine State.Keeps.upd ?_ rfl rfl rfl rfl rfl)

theorem bellRingStep_keeps {z s : State} {acc p} (hk : z.Keeps s) :
    z.Keeps (bellRingStep acc p s) := by
  unfold bellRingStep
  try dsimp only
  repeat' first
    | with_reducible assumption
    | with_reducible exact State.Keeps.refl _
    | with_reducible first | apply State.Keeps.ite | apply State.Keeps.foldl | apply State.KeepsEither.ite | apply State.KeepsEither.ofInl | apply State.KeepsEither.ofInr | apply State.gate_keeps | apply State.ringBell_keeps
    | (intro _ _ _; try dsimp only)
    | (intro _; try dsimp only)
    | split
    | with_reducible first | refine State.Keeps.ofInl ‹_› ?_ | refine State.Keeps.ofInr ‹_› ?_
    | (with_reducible refine State.Keeps.upd ?_ rfl rfl rfl rfl rfl)
    | dsimp only

theorem bellCompleteStep_keeps {z s : State} {p} (hk : z.Keeps s) :
    z.Keeps (bellCompleteStep p s) := by
  unfold bellCompleteStep
  try dsimp only
  repeat' first
    | with_reducible assumption
    | with_reducible exact State.Keeps.refl _
    | with_reducible first | apply State.Keeps.ite | apply State.Keeps.foldl | apply State.updPit_keeps | apply State.putRecord_keeps | apply State.startBell_keeps
    | (intro _ _ _; try dsimp only)
    | (intro _; try dsimp only)
    | split
    | (with_reducible refine State.Keeps.upd ?_ rfl rfl rfl rfl rfl)

theorem State.afterStaged_keeps {z s : State} {p} (hk : z.Keeps s) :
    z.Keeps (State.afterStaged s p) := by
  unfold State.afterStaged
  try dsimp only
  repeat' first
    | with_reducible assumption
    | with_reducible exact State.Keeps.refl _
    | with_reducible first | apply State.Keeps.ite | apply State.Keeps.foldl | apply State.raiseEpoch_keeps | apply State.startBell_keeps
    | (intro _ _ _; try dsimp only)
    | (intro _; try dsimp only)
    | split
    | (with_reducible refine State.Keeps.upd ?_ rfl rfl rfl rfl rfl)

theorem amdStagedStep_keeps {z s : State} (hk : z.Keeps s) :
    z.Keeps (amdStagedStep s) := by
  unfold amdStagedStep
  try dsimp only
  repeat' first
    | with_reducible assumption
    | with_reducible exact State.Keeps.refl _
    | with_reducible first | apply State.Keeps.ite | apply State.Keeps.foldl | apply State.afterStaged_keeps | apply State.withHomes_keeps | apply State.wr_keeps
    | (intro _ _ _; try dsimp only)
    | (intro _; try dsimp only)
    | split
    | (with_reducible refine State.Keeps.upd ?_ rfl rfl rfl rfl rfl)


end Sys2Proof.Machine
end

