-- ==== Sys2Proof/Laws/KeepHostPort.lean ====
section
/-! SUPPORT. What the functions of Machine/HostPort.lean keep of a state, whatever they do (State.Keeps). -/

namespace Sys2Proof.Machine

theorem State.readDesc_keeps {z s : State} {p c} (hk : z.Keeps s) :
    z.Keeps (State.readDesc s p c) := by
  unfold State.readDesc
  try dsimp only
  repeat' first
    | with_reducible assumption
    | with_reducible exact State.Keeps.refl _
    | with_reducible first | apply State.Keeps.ite | apply State.Keeps.foldl | apply State.emit_keeps
    | (intro _ _ _; try dsimp only)
    | (intro _; try dsimp only)
    | split
    | (with_reducible refine State.Keeps.upd ?_ rfl rfl rfl rfl rfl)

theorem State.ringDoorbell_keeps {z s : State} {p t} (hk : z.Keeps s) :
    z.Keeps (State.ringDoorbell s p t) := by
  unfold State.ringDoorbell
  try dsimp only
  repeat' first
    | with_reducible assumption
    | with_reducible exact State.Keeps.refl _
    | with_reducible first | apply State.Keeps.ite | apply State.Keeps.foldl | apply State.day_keeps | apply State.wr_keeps | apply State.readDesc_keeps
    | (intro _ _ _; try dsimp only)
    | (intro _; try dsimp only)
    | split
    | (with_reducible refine State.Keeps.upd ?_ rfl rfl rfl rfl rfl)

theorem doorbellStep_keeps {z s : State} {acc p t} (hk : z.Keeps s) :
    z.Keeps (doorbellStep acc p t s) := by
  unfold doorbellStep
  try dsimp only
  repeat' first
    | with_reducible assumption
    | with_reducible exact State.Keeps.refl _
    | with_reducible first | apply State.Keeps.ite | apply State.Keeps.foldl | apply State.KeepsEither.ite | apply State.KeepsEither.ofInl | apply State.KeepsEither.ofInr | apply State.gate_keeps | apply State.ringDoorbell_keeps
    | (intro _ _ _; try dsimp only)
    | (intro _; try dsimp only)
    | split
    | with_reducible first | refine State.Keeps.ofInl ‹_› ?_ | refine State.Keeps.ofInr ‹_› ?_
    | (with_reducible refine State.Keeps.upd ?_ rfl rfl rfl rfl rfl)
    | dsimp only

theorem State.setVqHead_keeps {z s : State} {p h} (hk : z.Keeps s) :
    z.Keeps (State.setVqHead s p h) := by
  unfold State.setVqHead
  try dsimp only
  repeat' first
    | with_reducible assumption
    | with_reducible exact State.Keeps.refl _
    | with_reducible first | apply State.Keeps.ite | apply State.Keeps.foldl | apply State.wr_keeps
    | (intro _ _ _; try dsimp only)
    | (intro _; try dsimp only)
    | split
    | (with_reducible refine State.Keeps.upd ?_ rfl rfl rfl rfl rfl)

theorem vqHeadStep_keeps {z s : State} {acc p h} (hk : z.Keeps s) :
    z.Keeps (vqHeadStep acc p h s) := by
  unfold vqHeadStep
  try dsimp only
  repeat' first
    | with_reducible assumption
    | with_reducible exact State.Keeps.refl _
    | with_reducible first | apply State.Keeps.ite | apply State.Keeps.foldl | apply State.KeepsEither.ite | apply State.KeepsEither.ofInl | apply State.KeepsEither.ofInr | apply State.gate_keeps | apply State.setVqHead_keeps
    | (intro _ _ _; try dsimp only)
    | (intro _; try dsimp only)
    | split
    | with_reducible first | refine State.Keeps.ofInl ‹_› ?_ | refine State.Keeps.ofInr ‹_› ?_
    | (with_reducible refine State.Keeps.upd ?_ rfl rfl rfl rfl rfl)
    | dsimp only

theorem State.countSample_keeps {z s : State} {r} (hk : z.Keeps s) :
    z.Keeps (State.countSample s r).1 := by
  unfold State.countSample
  try dsimp only
  repeat' first
    | with_reducible assumption
    | with_reducible exact State.Keeps.refl _
    | with_reducible first | apply State.Keeps.ite | apply State.Keeps.foldl | apply State.Keeps.getD | apply State.Keeps.foldlFst | apply State.updAsz_keeps
    | (intro _ _ _; try dsimp only)
    | (intro _; try dsimp only)
    | split
    | (with_reducible refine State.Keeps.upd ?_ rfl rfl rfl rfl rfl)
    | dsimp only

theorem State.wakeDoze_keeps {z s : State} {i} (hk : z.Keeps s) :
    z.Keeps (State.wakeDoze s i) := by
  unfold State.wakeDoze
  try dsimp only
  repeat' first
    | with_reducible assumption
    | with_reducible exact State.Keeps.refl _
    | with_reducible first | apply State.Keeps.ite | apply State.Keeps.foldl | apply State.updStl_keeps
    | (intro _ _ _; try dsimp only)
    | (intro _; try dsimp only)
    | split
    | (with_reducible refine State.Keeps.upd ?_ rfl rfl rfl rfl rfl)

theorem State.wantEntry_keeps {z s : State} {r a} (hk : z.Keeps s) :
    z.KeepsEither (State.wantEntry s r a) := by
  unfold State.wantEntry
  try dsimp only
  repeat' first
    | with_reducible assumption
    | with_reducible exact State.Keeps.refl _
    | with_reducible first | apply State.Keeps.ite | apply State.Keeps.foldl | apply State.Keeps.getD | apply State.KeepsEither.ite | apply State.KeepsEither.ofInl | apply State.KeepsEither.ofInr | apply State.startRevive_keeps | apply State.failDesc_keeps
    | (intro _ _ _; try dsimp only)
    | (intro _; try dsimp only)
    | split
    | (with_reducible refine State.Keeps.upd ?_ rfl rfl rfl rfl rfl)
    | dsimp only

theorem State.putReq_keeps {z s : State} {r} (hk : z.Keeps s) :
    z.Keeps (State.putReq s r) := by
  unfold State.putReq
  try dsimp only
  repeat' first
    | with_reducible assumption
    | with_reducible exact State.Keeps.refl _
    | with_reducible first | apply State.Keeps.ite | apply State.Keeps.foldl
    | (intro _ _ _; try dsimp only)
    | (intro _; try dsimp only)
    | split
    | (with_reducible refine State.Keeps.upd ?_ rfl rfl rfl rfl rfl)

theorem State.startIntake_keeps {z s : State} {r a} (hk : z.Keeps s) :
    z.Keeps (State.startIntake s r a) := by
  unfold State.startIntake
  try dsimp only
  repeat' first
    | with_reducible assumption
    | with_reducible exact State.Keeps.refl _
    | with_reducible first | apply State.Keeps.ite | apply State.Keeps.foldl | apply State.Keeps.getD | apply State.KeepsEither.ite | apply State.KeepsEither.ofInl | apply State.KeepsEither.ofInr | apply State.Keeps.foldlFst | apply State.failDesc_keeps | apply State.tookFree_keeps | apply State.wantEntry_keeps | apply State.countSample_keeps | apply State.wakeDoze_keeps | apply State.putReq_keeps | apply State.arriveIntake_keeps | apply State.refill_keeps | apply State.readMem_keeps
    | (intro _ _ _; try dsimp only)
    | (intro _; try dsimp only)
    | split
    | with_reducible first | refine State.Keeps.ofFst ‹_› ?_ | refine State.Keeps.ofInl ‹_› ?_ | refine State.Keeps.ofInr ‹_› ?_
    | (with_reducible refine State.Keeps.upd ?_ rfl rfl rfl rfl rfl)
    | dsimp only

theorem State.openChain_keeps {z s : State} {r} (hk : z.Keeps s) :
    z.KeepsSome (State.openChain s r) := by
  unfold State.openChain
  try dsimp only
  repeat' first
    | with_reducible assumption
    | with_reducible exact State.Keeps.refl _
    | with_reducible first | apply State.Keeps.ite | apply State.Keeps.foldl | apply State.KeepsSome.ite | apply State.KeepsSome.ofSome | apply State.KeepsSome.ofNone | apply State.chainForPin_keeps
    | (intro _ _ _; try dsimp only)
    | (intro _; try dsimp only)
    | split
    | with_reducible first | refine State.Keeps.ofSome ‹_› ?_
    | (with_reducible refine State.Keeps.upd ?_ rfl rfl rfl rfl rfl)
    | dsimp only

theorem State.startOpen_keeps {z s : State} {r a} (hk : z.Keeps s) :
    z.Keeps (State.startOpen s r a) := by
  unfold State.startOpen
  try dsimp only
  repeat' first
    | with_reducible assumption
    | with_reducible exact State.Keeps.refl _
    | with_reducible first | apply State.Keeps.ite | apply State.Keeps.foldl | apply State.Keeps.getD | apply State.KeepsEither.ite | apply State.KeepsEither.ofInl | apply State.KeepsEither.ofInr | apply State.KeepsSome.ite | apply State.KeepsSome.ofSome | apply State.KeepsSome.ofNone | apply State.Keeps.foldlFst | apply State.openChain_keeps | apply State.failDesc_keeps | apply State.wantEntry_keeps | apply State.countSample_keeps | apply State.putReq_keeps | apply State.arrive_keeps
    | (intro _ _ _; try dsimp only)
    | (intro _; try dsimp only)
    | split
    | with_reducible first | refine State.Keeps.ofFst ‹_› ?_ | refine State.Keeps.ofInl ‹_› ?_ | refine State.Keeps.ofInr ‹_› ?_ | refine State.Keeps.ofSome ‹_› ?_
    | (with_reducible refine State.Keeps.upd ?_ rfl rfl rfl rfl rfl)
    | dsimp only

theorem State.startToken_keeps {z s : State} {r} (hk : z.Keeps s) :
    z.Keeps (State.startToken s r) := by
  unfold State.startToken
  try dsimp only
  repeat' first
    | with_reducible assumption
    | with_reducible exact State.Keeps.refl _
    | with_reducible first | apply State.Keeps.ite | apply State.Keeps.foldl | apply State.putReq_keeps | apply State.readMem_keeps | apply State.arriveToken_keeps
    | (intro _ _ _; try dsimp only)
    | (intro _; try dsimp only)
    | split
    | (with_reducible refine State.Keeps.upd ?_ rfl rfl rfl rfl rfl)

theorem State.startReq_keeps {z s : State} {r a} (hk : z.Keeps s) :
    z.Keeps (State.startReq s r a) := by
  unfold State.startReq
  try dsimp only
  repeat' first
    | with_reducible assumption
    | with_reducible exact State.Keeps.refl _
    | with_reducible first | apply State.Keeps.ite | apply State.Keeps.foldl | apply State.startIntake_keeps | apply State.startOpen_keeps | apply State.startToken_keeps | apply State.arriveCon_keeps | apply State.putReq_keeps
    | (intro _ _ _; try dsimp only)
    | (intro _; try dsimp only)
    | split
    | (with_reducible refine State.Keeps.upd ?_ rfl rfl rfl rfl rfl)

theorem State.endDesc_keeps {z s : State} {r e} (hk : z.Keeps s) :
    z.Keeps (State.endDesc s r e) := by
  unfold State.endDesc
  try dsimp only
  repeat' first
    | with_reducible assumption
    | with_reducible exact State.Keeps.refl _
    | with_reducible first | apply State.Keeps.ite | apply State.Keeps.foldl | apply State.failDesc_keeps | apply State.failTok_keeps | apply State.arriveToken_keeps | apply State.putReq_keeps | apply State.queueDup_keeps
    | (intro _ _ _; try dsimp only)
    | (intro _; try dsimp only)
    | split
    | (with_reducible refine State.Keeps.upd ?_ rfl rfl rfl rfl rfl)

theorem State.unadmitted_keeps {z s : State} {p p0 p1 p2} (hk : z.Keeps s) :
    z.Keeps (State.unadmitted s p p0 p1 p2) := by
  unfold State.unadmitted
  try dsimp only
  repeat' first
    | with_reducible assumption
    | with_reducible exact State.Keeps.refl _
    | with_reducible first | apply State.Keeps.ite | apply State.Keeps.foldl | apply State.day_keeps | apply State.bump_keeps
    | (intro _ _ _; try dsimp only)
    | (intro _; try dsimp only)
    | split
    | (with_reducible refine State.Keeps.upd ?_ rfl rfl rfl rfl rfl)

theorem State.takeDesc_keeps {z s : State} {p d slot} (hk : z.Keeps s) :
    z.Keeps (State.takeDesc s p d slot) := by
  unfold State.takeDesc
  try dsimp only
  repeat' first
    | with_reducible assumption
    | with_reducible exact State.Keeps.refl _
    | with_reducible first | apply State.Keeps.ite | apply State.Keeps.foldl | apply State.unadmitted_keeps | apply State.endDesc_keeps | apply State.updEntry_keeps | apply State.startReq_keeps
    | (intro _ _ _; try dsimp only)
    | (intro _; try dsimp only)
    | split
    | (with_reducible refine State.Keeps.upd ?_ rfl rfl rfl rfl rfl)

theorem descStep_keeps {z s : State} {p data} (hk : z.Keeps s) :
    z.Keeps (descStep p data s) := by
  unfold descStep
  try dsimp only
  repeat' first
    | with_reducible assumption
    | with_reducible exact State.Keeps.refl _
    | with_reducible first | apply State.Keeps.ite | apply State.Keeps.foldl | apply State.bump_keeps | apply State.unadmitted_keeps | apply State.takeDesc_keeps
    | (intro _ _ _; try dsimp only)
    | (intro _; try dsimp only)
    | split
    | (with_reducible refine State.Keeps.upd ?_ rfl rfl rfl rfl rfl)

theorem segListStep_keeps {z s : State} {p sess tag data} (hk : z.Keeps s) :
    z.Keeps (segListStep p sess tag data s) := by
  unfold segListStep
  try dsimp only
  repeat' first
    | with_reducible assumption
    | with_reducible exact State.Keeps.refl _
    | with_reducible first | apply State.Keeps.ite | apply State.Keeps.foldl | apply State.failReq_keeps | apply State.beginPayload_keeps | apply State.updReq_keeps
    | (intro _ _ _; try dsimp only)
    | (intro _; try dsimp only)
    | split
    | (with_reducible refine State.Keeps.upd ?_ rfl rfl rfl rfl rfl)

theorem tokBufStep_keeps {z s : State} {p sess tag data} (hk : z.Keeps s) :
    z.Keeps (tokBufStep p sess tag data s) := by
  unfold tokBufStep
  try dsimp only
  repeat' first
    | with_reducible assumption
    | with_reducible exact State.Keeps.refl _
    | with_reducible first | apply State.Keeps.ite | apply State.Keeps.foldl | apply State.arriveToken_keeps | apply State.updReq_keeps | apply State.flush_keeps | apply State.failTok_keeps
    | (intro _ _ _; try dsimp only)
    | (intro _; try dsimp only)
    | split
    | (with_reducible refine State.Keeps.upd ?_ rfl rfl rfl rfl rfl)

theorem irqTimerStep_keeps {z s : State} {p} (hk : z.Keeps s) :
    z.Keeps (irqTimerStep p s) := by
  unfold irqTimerStep
  try dsimp only
  repeat' first
    | with_reducible assumption
    | with_reducible exact State.Keeps.refl _
    | with_reducible first | apply State.Keeps.ite | apply State.Keeps.foldl | apply State.sendIrq_keeps
    | (intro _ _ _; try dsimp only)
    | (intro _; try dsimp only)
    | split
    | (with_reducible refine State.Keeps.upd ?_ rfl rfl rfl rfl rfl)

theorem flitErrStep_keeps {z s : State} {chan} (hk : z.Keeps s) :
    z.Keeps (flitErrStep chan s) := by
  unfold flitErrStep
  try dsimp only
  repeat' first
    | with_reducible assumption
    | with_reducible exact State.Keeps.refl _
    | with_reducible first | apply State.Keeps.ite | apply State.Keeps.foldl | apply State.day_keeps
    | (intro _ _ _; try dsimp only)
    | (intro _; try dsimp only)
    | split
    | (with_reducible refine State.Keeps.upd ?_ rfl rfl rfl rfl rfl)


end Sys2Proof.Machine
end

