-- ==== Sys2Proof/Laws/KeepTiers.lean ====
section
/-! SUPPORT. What the functions of Machine/Tiers.lean keep of a state, whatever they do (State.Keeps). -/

namespace Sys2Proof.Machine

theorem State.failTier_keeps {z s : State} {r tier} (hk : z.Keeps s) :
    z.Keeps (State.failTier s r tier) := by
  unfold State.failTier
  try dsimp only
  repeat' first
    | with_reducible assumption
    | with_reducible exact State.Keeps.refl _
    | with_reducible first | apply State.Keeps.ite | apply State.Keeps.foldl | apply State.failTok_keeps | apply State.failReq_keeps
    | (intro _ _ _; try dsimp only)
    | (intro _; try dsimp only)
    | split
    | (with_reducible refine State.Keeps.upd ?_ rfl rfl rfl rfl rfl)

theorem State.account_keeps {z s : State} (hk : z.Keeps s) :
    z.Keeps (State.account s) := by
  unfold State.account
  try dsimp only
  repeat' first
    | with_reducible assumption
    | with_reducible exact State.Keeps.refl _
    | with_reducible first | apply State.Keeps.ite | apply State.Keeps.foldl
    | (intro _ _ _; try dsimp only)
    | (intro _; try dsimp only)
    | split
    | (with_reducible refine State.Keeps.upd ?_ rfl rfl rfl rfl rfl)
    | (with_reducible refine State.Keeps.upd ?_ (List.length_map ..) rfl rfl rfl rfl)
    | (with_reducible refine State.Keeps.upd ?_ rfl (List.length_map ..) rfl rfl rfl)
    | (with_reducible refine State.Keeps.upd ?_ (List.length_map ..) (List.length_map ..) rfl rfl rfl)

theorem State.mapWaits_keeps {z s : State} {t f} (hk : z.Keeps s) :
    z.Keeps (State.mapWaits s t f) := by
  unfold State.mapWaits
  try dsimp only
  repeat' first
    | with_reducible assumption
    | with_reducible exact State.Keeps.refl _
    | with_reducible first | apply State.Keeps.ite | apply State.Keeps.foldl
    | (intro _ _ _; try dsimp only)
    | (intro _; try dsimp only)
    | split
    | (with_reducible refine State.Keeps.upd ?_ rfl rfl rfl rfl rfl)
    | (with_reducible refine State.Keeps.upd ?_ (List.length_map ..) rfl rfl rfl rfl)
    | (with_reducible refine State.Keeps.upd ?_ rfl (List.length_map ..) rfl rfl rfl)
    | (with_reducible refine State.Keeps.upd ?_ (List.length_map ..) (List.length_map ..) rfl rfl rfl)

theorem tileDeadlineStep_keeps {z s : State} {i p sess tag layer trow tcol} (hk : z.Keeps s) :
    z.Keeps (tileDeadlineStep i p sess tag layer trow tcol s) := by
  unfold tileDeadlineStep
  try dsimp only
  repeat' first
    | with_reducible assumption
    | with_reducible exact State.Keeps.refl _
    | with_reducible first | apply State.Keeps.ite | apply State.Keeps.foldl | apply State.failTier_keeps | apply State.updReq_keeps
    | (intro _ _ _; try dsimp only)
    | (intro _; try dsimp only)
    | split
    | (with_reducible refine State.Keeps.upd ?_ rfl rfl rfl rfl rfl)

theorem State.endWaits_keeps {z s : State} {i t} (hk : z.Keeps s) :
    z.Keeps (State.endWaits s i t) := by
  unfold State.endWaits
  try dsimp only
  repeat' first
    | with_reducible assumption
    | with_reducible exact State.Keeps.refl _
    | with_reducible first | apply State.Keeps.ite | apply State.Keeps.foldl | apply State.tookFree_keeps | apply State.wrMax_keeps
    | (intro _ _ _; try dsimp only)
    | (intro _; try dsimp only)
    | split
    | (with_reducible refine State.Keeps.upd ?_ rfl rfl rfl rfl rfl)
    | (with_reducible refine State.Keeps.upd ?_ (List.length_map ..) rfl rfl rfl rfl)
    | (with_reducible refine State.Keeps.upd ?_ rfl (List.length_map ..) rfl rfl rfl)
    | (with_reducible refine State.Keeps.upd ?_ (List.length_map ..) (List.length_map ..) rfl rfl rfl)

theorem State.noteDeferred_keeps {z s : State} {p m} (hk : z.Keeps s) :
    z.Keeps (State.noteDeferred s p m) := by
  unfold State.noteDeferred
  try dsimp only
  repeat' first
    | with_reducible assumption
    | with_reducible exact State.Keeps.refl _
    | with_reducible first | apply State.Keeps.ite | apply State.Keeps.foldl | apply State.wrB_keeps
    | (intro _ _ _; try dsimp only)
    | (intro _; try dsimp only)
    | split
    | (with_reducible refine State.Keeps.upd ?_ rfl rfl rfl rfl rfl)

theorem State.markDown_keeps {z s : State} {p m} (hk : z.Keeps s) :
    z.Keeps (State.markDown s p m) := by
  unfold State.markDown
  try dsimp only
  repeat' first
    | with_reducible assumption
    | with_reducible exact State.Keeps.refl _
    | with_reducible first | apply State.Keeps.ite | apply State.Keeps.foldl | apply State.wr_keeps
    | (intro _ _ _; try dsimp only)
    | (intro _; try dsimp only)
    | split
    | (with_reducible refine State.Keeps.upd ?_ rfl rfl rfl rfl rfl)

theorem State.srcTier_keeps {z s : State} {h} (hk : z.Keeps s) :
    z.Keeps (State.srcTier s h).2 := by
  unfold State.srcTier
  try dsimp only
  repeat' first
    | with_reducible assumption
    | with_reducible exact State.Keeps.refl _
    | with_reducible first | apply State.Keeps.ite | apply State.Keeps.foldl | apply State.tookFree_keeps
    | (intro _ _ _; try dsimp only)
    | (intro _; try dsimp only)
    | split
    | (with_reducible refine State.Keeps.upd ?_ rfl rfl rfl rfl rfl)
    | dsimp only

theorem State.setBad_keeps {z s : State} {b} (hk : z.Keeps s) :
    z.Keeps (State.setBad s b) := by
  unfold State.setBad
  try dsimp only
  repeat' first
    | with_reducible assumption
    | with_reducible exact State.Keeps.refl _
    | with_reducible first | apply State.Keeps.ite | apply State.Keeps.foldl
    | (intro _ _ _; try dsimp only)
    | (intro _; try dsimp only)
    | split
    | (with_reducible refine State.Keeps.upd ?_ rfl rfl rfl rfl rfl)

theorem State.homeLost_keeps {z s : State} {b} (hk : z.Keeps s) :
    z.Keeps (State.homeLost s b) := by
  unfold State.homeLost
  try dsimp only
  repeat' first
    | with_reducible assumption
    | with_reducible exact State.Keeps.refl _
    | with_reducible first | apply State.Keeps.ite | apply State.Keeps.foldl | apply State.setBad_keeps | apply State.failTier_keeps | apply State.wr_keeps | apply State.markDown_keeps | apply State.day_keeps
    | (intro _ _ _; try dsimp only)
    | (intro _; try dsimp only)
    | split
    | (with_reducible refine State.Keeps.upd ?_ rfl rfl rfl rfl rfl)

theorem State.restoreFrom_keeps {z s : State} {b x2} (hk : z.Keeps s) :
    z.Keeps (State.restoreFrom s b x2) := by
  unfold State.restoreFrom
  try dsimp only
  repeat' first
    | with_reducible assumption
    | with_reducible exact State.Keeps.refl _
    | with_reducible first | apply State.Keeps.ite | apply State.Keeps.foldl | apply State.homeLost_keeps | apply State.readHome_keeps | apply State.setBad_keeps
    | (intro _ _ _; try dsimp only)
    | (intro _; try dsimp only)
    | split
    | (with_reducible refine State.Keeps.upd ?_ rfl rfl rfl rfl rfl)

theorem State.poisonTile_keeps {z s : State} {t bank} (hk : z.Keeps s) :
    z.Keeps (State.poisonTile s t bank) := by
  unfold State.poisonTile
  try dsimp only
  repeat' first
    | with_reducible assumption
    | with_reducible exact State.Keeps.refl _
    | with_reducible first | apply State.Keeps.ite | apply State.Keeps.foldl | apply State.calibLost_keeps | apply State.mapWaits_keeps | apply State.restoreFrom_keeps | apply State.noteDeferred_keeps
    | (intro _ _ _; try dsimp only)
    | (intro _; try dsimp only)
    | split
    | (with_reducible refine State.Keeps.upd ?_ rfl rfl rfl rfl rfl)

theorem State.queueBank_keeps {z s : State} {b} (hk : z.Keeps s) :
    z.Keeps (State.queueBank s b) := by
  unfold State.queueBank
  try dsimp only
  repeat' first
    | with_reducible assumption
    | with_reducible exact State.Keeps.refl _
    | with_reducible first | apply State.Keeps.ite | apply State.Keeps.foldl
    | (intro _ _ _; try dsimp only)
    | (intro _; try dsimp only)
    | split
    | (with_reducible refine State.Keeps.upd ?_ rfl rfl rfl rfl rfl)

theorem State.t1Error_keeps {z s : State} {bank} (hk : z.Keeps s) :
    z.Keeps (State.t1Error s bank) := by
  unfold State.t1Error
  try dsimp only
  repeat' first
    | with_reducible assumption
    | with_reducible exact State.Keeps.refl _
    | with_reducible first | apply State.Keeps.ite | apply State.Keeps.foldl | apply State.queueBank_keeps | apply State.bump_keeps | apply State.wr_keeps
    | (intro _ _ _; try dsimp only)
    | (intro _; try dsimp only)
    | split
    | (with_reducible refine State.Keeps.upd ?_ rfl rfl rfl rfl rfl)

theorem State.endFetch_keeps {z s : State} {i t} (hk : z.Keeps s) :
    z.Keeps (State.endFetch s i t) := by
  unfold State.endFetch
  try dsimp only
  repeat' first
    | with_reducible assumption
    | with_reducible exact State.Keeps.refl _
    | with_reducible first | apply State.Keeps.ite | apply State.Keeps.foldl
    | (intro _ _ _; try dsimp only)
    | (intro _; try dsimp only)
    | split
    | (with_reducible refine State.Keeps.upd ?_ rfl rfl rfl rfl rfl)
    | (with_reducible refine State.Keeps.upd ?_ (List.length_map ..) rfl rfl rfl rfl)
    | (with_reducible refine State.Keeps.upd ?_ rfl (List.length_map ..) rfl rfl rfl)
    | (with_reducible refine State.Keeps.upd ?_ (List.length_map ..) (List.length_map ..) rfl rfl rfl)

theorem State.tileGood_keeps {z s : State} {i t} (hk : z.Keeps s) :
    z.Keeps (State.tileGood s i t) := by
  unfold State.tileGood
  try dsimp only
  repeat' first
    | with_reducible assumption
    | with_reducible exact State.Keeps.refl _
    | with_reducible first | apply State.Keeps.ite | apply State.Keeps.foldl | apply State.endWaits_keeps | apply State.account_keeps | apply State.endFetch_keeps | apply State.refill_keeps | apply State.keep_keeps | apply State.lateReport_keeps | apply State.bump_keeps
    | (intro _ _ _; try dsimp only)
    | (intro _; try dsimp only)
    | split
    | (with_reducible refine State.Keeps.upd ?_ rfl rfl rfl rfl rfl)

theorem State.tileMalformed_keeps {z s : State} {i t} (hk : z.Keeps s) :
    z.Keeps (State.tileMalformed s i t) := by
  unfold State.tileMalformed
  try dsimp only
  repeat' first
    | with_reducible assumption
    | with_reducible exact State.Keeps.refl _
    | with_reducible first | apply State.Keeps.ite | apply State.Keeps.foldl | apply State.wr_keeps | apply State.failReq_keeps
    | (intro _ _ _; try dsimp only)
    | (intro _; try dsimp only)
    | split
    | (with_reducible refine State.Keeps.upd ?_ rfl rfl rfl rfl rfl)

theorem tileArrivalStep_keeps {z s : State} {i m layer trow tcol bseq data corrected} (hk : z.Keeps s) :
    z.Keeps (tileArrivalStep i m layer trow tcol bseq data corrected s) := by
  unfold tileArrivalStep
  try dsimp only
  repeat' first
    | with_reducible assumption
    | with_reducible exact State.Keeps.refl _
    | with_reducible first | apply State.Keeps.ite | apply State.Keeps.foldl | apply State.bump_keeps | apply State.tileGood_keeps | apply State.tileMalformed_keeps | apply State.wr_keeps | apply State.poisonTile_keeps | apply State.t1Error_keeps | apply State.tookFree_keeps
    | (intro _ _ _; try dsimp only)
    | (intro _; try dsimp only)
    | split
    | (with_reducible refine State.Keeps.upd ?_ rfl rfl rfl rfl rfl)

theorem State.endWaiting_keeps {z s : State} {r} (hk : z.Keeps s) :
    z.Keeps (State.endWaiting s r) := by
  unfold State.endWaiting
  try dsimp only
  repeat' first
    | with_reducible assumption
    | with_reducible exact State.Keeps.refl _
    | with_reducible first | apply State.Keeps.ite | apply State.Keeps.foldl | apply State.failTier_keeps | apply State.failLate_keeps | apply State.releaseFail_keeps
    | (intro _ _ _; try dsimp only)
    | (intro _; try dsimp only)
    | split
    | (with_reducible refine State.Keeps.upd ?_ rfl rfl rfl rfl rfl)

theorem slackExhaustedStep_keeps {z s : State} {p sess tag} (hk : z.Keeps s) :
    z.Keeps (slackExhaustedStep p sess tag s) := by
  unfold slackExhaustedStep
  try dsimp only
  repeat' first
    | with_reducible assumption
    | with_reducible exact State.Keeps.refl _
    | with_reducible first | apply State.Keeps.ite | apply State.Keeps.foldl | apply State.endWaiting_keeps
    | (intro _ _ _; try dsimp only)
    | (intro _; try dsimp only)
    | split
    | (with_reducible refine State.Keeps.upd ?_ rfl rfl rfl rfl rfl)

theorem pretailStep_keeps {z s : State} {p sess tag} (hk : z.Keeps s) :
    z.Keeps (pretailStep p sess tag s) := by
  unfold pretailStep
  try dsimp only
  repeat' first
    | with_reducible assumption
    | with_reducible exact State.Keeps.refl _
    | with_reducible first | apply State.Keeps.ite | apply State.Keeps.foldl | apply State.endWaiting_keeps
    | (intro _ _ _; try dsimp only)
    | (intro _; try dsimp only)
    | split
    | (with_reducible refine State.Keeps.upd ?_ rfl rfl rfl rfl rfl)

theorem State.reloadTable_keeps {z s : State} {i type id tier} (hk : z.Keeps s) :
    z.Keeps (State.reloadTable s i type id tier) := by
  unfold State.reloadTable
  try dsimp only
  repeat' first
    | with_reducible assumption
    | with_reducible exact State.Keeps.refl _
    | with_reducible first | apply State.Keeps.ite | apply State.Keeps.foldl | apply State.Keeps.getD | apply State.day_keeps | apply State.wr_keeps | apply State.emit_keeps
    | (intro _ _ _; try dsimp only)
    | (intro _; try dsimp only)
    | split
    | (with_reducible refine State.Keeps.upd ?_ rfl rfl rfl rfl rfl)

theorem State.markStockStalls_keeps {z s : State} (hk : z.Keeps s) :
    z.Keeps (State.markStockStalls s) := by
  unfold State.markStockStalls
  try dsimp only
  repeat' first
    | with_reducible assumption
    | with_reducible exact State.Keeps.refl _
    | with_reducible first | apply State.Keeps.ite | apply State.Keeps.foldl | apply State.wr_keeps
    | (intro _ _ _; try dsimp only)
    | (intro _; try dsimp only)
    | split
    | (with_reducible refine State.Keeps.upd ?_ rfl rfl rfl rfl rfl)

theorem State.poisonStock_keeps {z s : State} {p id off bank} (hk : z.Keeps s) :
    z.Keeps (State.poisonStock s p id off bank) := by
  unfold State.poisonStock
  try dsimp only
  repeat' first
    | with_reducible assumption
    | with_reducible exact State.Keeps.refl _
    | with_reducible first | apply State.Keeps.ite | apply State.Keeps.foldl | apply State.Keeps.getD | apply State.day_keeps | apply State.markStockStalls_keeps | apply State.emit_keeps
    | (intro _ _ _; try dsimp only)
    | (intro _; try dsimp only)
    | split
    | (with_reducible refine State.Keeps.upd ?_ rfl rfl rfl rfl rfl)

theorem State.backToPark_keeps {z s : State} {e} (hk : z.Keeps s) :
    z.Keeps (State.backToPark s e) := by
  unfold State.backToPark
  try dsimp only
  repeat' first
    | with_reducible assumption
    | with_reducible exact State.Keeps.refl _
    | with_reducible first | apply State.Keeps.ite | apply State.Keeps.foldl | apply State.freeEntry_keeps | apply State.writeWays_keeps
    | (intro _ _ _; try dsimp only)
    | (intro _; try dsimp only)
    | split
    | (with_reducible refine State.Keeps.upd ?_ rfl rfl rfl rfl rfl)

theorem State.loseEntry_keeps {z s : State} {p sess} (hk : z.Keeps s) :
    z.Keeps (State.loseEntry s p sess) := by
  unfold State.loseEntry
  try dsimp only
  repeat' first
    | with_reducible assumption
    | with_reducible exact State.Keeps.refl _
    | with_reducible first | apply State.Keeps.ite | apply State.Keeps.foldl | apply State.Keeps.getD | apply State.failTier_keeps | apply State.cutStream_keeps | apply State.backToPark_keeps | apply State.day_keeps | apply State.bump_keeps | apply State.tookFree_keeps | apply State.updEntry_keeps
    | (intro _ _ _; try dsimp only)
    | (intro _; try dsimp only)
    | split
    | (with_reducible refine State.Keeps.upd ?_ rfl rfl rfl rfl rfl)

theorem t1UncorrStep_keeps {z s : State} {bank part} (hk : z.Keeps s) :
    z.Keeps (t1UncorrStep bank part s) := by
  unfold t1UncorrStep
  try dsimp only
  repeat' first
    | with_reducible assumption
    | with_reducible exact State.Keeps.refl _
    | with_reducible first | apply State.Keeps.ite | apply State.Keeps.foldl | apply State.t1Error_keeps | apply State.poisonTile_keeps | apply State.reloadTable_keeps | apply State.poisonStock_keeps | apply State.loseEntry_keeps | apply State.wr_keeps | apply State.loseSet_keeps
    | (intro _ _ _; try dsimp only)
    | (intro _; try dsimp only)
    | split
    | (with_reducible refine State.Keeps.upd ?_ rfl rfl rfl rfl rfl)

theorem patrolStep_keeps {z s : State} {n} (hk : z.Keeps s) :
    z.Keeps (patrolStep n s) := by
  unfold patrolStep
  try dsimp only
  repeat' first
    | with_reducible assumption
    | with_reducible exact State.Keeps.refl _
    | with_reducible first | apply State.Keeps.ite | apply State.Keeps.foldl | apply State.bump_keeps
    | (intro _ _ _; try dsimp only)
    | (intro _; try dsimp only)
    | split
    | (with_reducible refine State.Keeps.upd ?_ rfl rfl rfl rfl rfl)

theorem State.restored_keeps {z s : State} {b h bytes} (hk : z.Keeps s) :
    z.Keeps (State.restored s b h bytes) := by
  unfold State.restored
  try dsimp only
  repeat' first
    | with_reducible assumption
    | with_reducible exact State.Keeps.refl _
    | with_reducible first | apply State.Keeps.ite | apply State.Keeps.foldl | apply State.Keeps.getD | apply State.srcTier_keeps | apply State.mapWaits_keeps | apply State.day_keeps | apply State.bump_keeps | apply State.writeHome_keeps | apply State.noteDeferred_keeps
    | (intro _ _ _; try dsimp only)
    | (intro _; try dsimp only)
    | split
    | with_reducible first | refine State.Keeps.ofSnd ‹_› ?_
    | (with_reducible refine State.Keeps.upd ?_ rfl rfl rfl rfl rfl)
    | dsimp only

theorem State.restoreFail_keeps {z s : State} {b} (hk : z.Keeps s) :
    z.Keeps (State.restoreFail s b) := by
  unfold State.restoreFail
  try dsimp only
  repeat' first
    | with_reducible assumption
    | with_reducible exact State.Keeps.refl _
    | with_reducible first | apply State.Keeps.ite | apply State.Keeps.foldl | apply State.srcTier_keeps | apply State.noteDeferred_keeps | apply State.restoreFrom_keeps
    | (intro _ _ _; try dsimp only)
    | (intro _; try dsimp only)
    | split
    | with_reducible first | refine State.Keeps.ofSnd ‹_› ?_
    | (with_reducible refine State.Keeps.upd ?_ rfl rfl rfl rfl rfl)
    | dsimp only

theorem restoreStep_keeps {z s : State} {t data} (hk : z.Keeps s) :
    z.Keeps (restoreStep t data s) := by
  unfold restoreStep
  try dsimp only
  repeat' first
    | with_reducible assumption
    | with_reducible exact State.Keeps.refl _
    | with_reducible first | apply State.Keeps.ite | apply State.Keeps.foldl | apply State.restoreFail_keeps | apply State.restored_keeps
    | (intro _ _ _; try dsimp only)
    | (intro _; try dsimp only)
    | split
    | (with_reducible refine State.Keeps.upd ?_ rfl rfl rfl rfl rfl)

theorem poolTimeoutStep_keeps {z s : State} {pool} (hk : z.Keeps s) :
    z.Keeps (poolTimeoutStep pool s) := by
  unfold poolTimeoutStep
  try dsimp only
  repeat' first
    | with_reducible assumption
    | with_reducible exact State.Keeps.refl _
    | with_reducible first | apply State.Keeps.ite | apply State.Keeps.foldl | apply ledgerTimeoutStep_keeps | apply State.account_keeps | apply State.restoreFail_keeps
    | (intro _ _ _; try dsimp only)
    | (intro _; try dsimp only)
    | split
    | (with_reducible refine State.Keeps.upd ?_ rfl rfl rfl rfl rfl)

theorem State.dropReload_keeps {z s : State} {x} (hk : z.Keeps s) :
    z.Keeps (State.dropReload s x) := by
  unfold State.dropReload
  try dsimp only
  repeat' first
    | with_reducible assumption
    | with_reducible exact State.Keeps.refl _
    | with_reducible first | apply State.Keeps.ite | apply State.Keeps.foldl
    | (intro _ _ _; try dsimp only)
    | (intro _; try dsimp only)
    | split
    | (with_reducible refine State.Keeps.upd ?_ rfl rfl rfl rfl rfl)

theorem tableReloadStep_keeps {z s : State} {i type id data} (hk : z.Keeps s) :
    z.Keeps (tableReloadStep i type id data s) := by
  unfold tableReloadStep
  try dsimp only
  repeat' first
    | with_reducible assumption
    | with_reducible exact State.Keeps.refl _
    | with_reducible first | apply State.Keeps.ite | apply State.Keeps.foldl | apply State.dropReload_keeps | apply State.account_keeps | apply State.reloadTable_keeps | apply State.bump_keeps | apply State.wr_keeps | apply State.failTier_keeps | apply State.markDown_keeps
    | (intro _ _ _; try dsimp only)
    | (intro _; try dsimp only)
    | split
    | (with_reducible refine State.Keeps.upd ?_ rfl rfl rfl rfl rfl)

theorem State.dropLine_keeps {z s : State} {x} (hk : z.Keeps s) :
    z.Keeps (State.dropLine s x) := by
  unfold State.dropLine
  try dsimp only
  repeat' first
    | with_reducible assumption
    | with_reducible exact State.Keeps.refl _
    | with_reducible first | apply State.Keeps.ite | apply State.Keeps.foldl
    | (intro _ _ _; try dsimp only)
    | (intro _; try dsimp only)
    | split
    | (with_reducible refine State.Keeps.upd ?_ rfl rfl rfl rfl rfl)

theorem stockRereadStep_keeps {z s : State} {p id line data} (hk : z.Keeps s) :
    z.Keeps (stockRereadStep p id line data s) := by
  unfold stockRereadStep
  try dsimp only
  repeat' first
    | with_reducible assumption
    | with_reducible exact State.Keeps.refl _
    | with_reducible first | apply State.Keeps.ite | apply State.Keeps.foldl | apply State.dropLine_keeps | apply State.account_keeps | apply State.failTier_keeps | apply State.wr_keeps | apply State.markDown_keeps
    | (intro _ _ _; try dsimp only)
    | (intro _; try dsimp only)
    | split
    | (with_reducible refine State.Keeps.upd ?_ rfl rfl rfl rfl rfl)


end Sys2Proof.Machine
end

