-- ==== Sys2Proof/Laws/KeepDaybook.lean ====
section
/-! SUPPORT. What the functions of Machine/Daybook.lean keep of a state, whatever they do (State.Keeps). -/

namespace Sys2Proof.Machine

theorem State.programOne_keeps {z s : State} {r isOpen} (hk : z.Keeps s) :
    z.Keeps (State.programOne s r isOpen) := by
  unfold State.programOne
  try dsimp only
  repeat' first
    | with_reducible assumption
    | with_reducible exact State.Keeps.refl _
    | with_reducible first | apply State.Keeps.ite | apply State.Keeps.foldl | apply State.emit_keeps | apply State.wr_keeps
    | (intro _ _ _; try dsimp only)
    | (intro _; try dsimp only)
    | split
    | (with_reducible refine State.Keeps.upd ?_ rfl rfl rfl rfl rfl)

theorem State.programHead_keeps {a s : State} {b} (h : a.Keeps s) : a.Keeps (s.programHead b) := by
  unfold State.programHead
  split
  · exact h
  · rename_i r rest e
    dsimp only
    refine State.programOne_keeps ?_
    obtain ⟨h1, h2, h3, h4, h5, h6, h7, h8, h9⟩ := h
    refine ⟨h1, h2, h3, h4, h5, h6, h7, h8, fun ha => ?_⟩
    obtain ⟨i1, i2, i3, i4, i5, i6, i7, i8, i9⟩ := h9 ha
    refine ⟨i1, i2, i3, i4, i5, i6, ?_, i8, i9⟩
    rw [e, List.length_cons] at i7
    exact Nat.le_of_succ_le i7
theorem State.programN_keeps {a s : State} {b n} (h : a.Keeps s) : a.Keeps (s.programN b n) := by
  induction n generalizing s with
  | zero => exact h
  | succ n ih =>
    unfold State.programN
    split
    · exact ih (State.programHead_keeps h)
    · exact h
theorem programStep_keeps {z s : State} (hk : z.Keeps s) :
    z.Keeps (programStep s) := by
  unfold programStep
  try dsimp only
  repeat' first
    | with_reducible assumption
    | with_reducible exact State.Keeps.refl _
    | with_reducible first | apply State.Keeps.ite | apply State.Keeps.foldl | apply State.programN_keeps
    | (intro _ _ _; try dsimp only)
    | (intro _; try dsimp only)
    | split
    | (with_reducible refine State.Keeps.upd ?_ rfl rfl rfl rfl rfl)

theorem State.saveSlot_keeps {z s : State} {clean} (hk : z.Keeps s) :
    z.Keeps (State.saveSlot s clean) := by
  unfold State.saveSlot
  try dsimp only
  repeat' first
    | with_reducible assumption
    | with_reducible exact State.Keeps.refl _
    | with_reducible first | apply State.Keeps.ite | apply State.Keeps.foldl | apply State.Keeps.getD | apply State.emit_keeps | apply State.wr_keeps
    | (intro _ _ _; try dsimp only)
    | (intro _; try dsimp only)
    | split
    | (with_reducible refine State.Keeps.upd ?_ rfl rfl rfl rfl rfl)

theorem State.flushDbk_keeps {z s : State} {lead} (hk : z.Keeps s) :
    z.Keeps (State.flushDbk s lead) := by
  unfold State.flushDbk
  try dsimp only
  repeat' first
    | with_reducible assumption
    | with_reducible exact State.Keeps.refl _
    | with_reducible first | apply State.Keeps.ite | apply State.Keeps.foldl | apply State.saveSlot_keeps | apply State.dbkClose_keeps | apply State.programOne_keeps | apply State.programN_keeps
    | (intro _ _ _; try dsimp only)
    | (intro _; try dsimp only)
    | split
    | (with_reducible refine State.Keeps.upd ?_ rfl rfl rfl rfl rfl)

theorem eraseStep_keeps {z s : State} (hk : z.Keeps s) :
    z.Keeps (eraseStep s) := by
  unfold eraseStep
  try dsimp only
  repeat' first
    | with_reducible assumption
    | with_reducible exact State.Keeps.refl _
    | with_reducible first | apply State.Keeps.ite | apply State.Keeps.foldl | apply State.emit_keeps
    | (intro _ _ _; try dsimp only)
    | (intro _; try dsimp only)
    | split
    | (with_reducible refine State.Keeps.upd ?_ rfl rfl rfl rfl rfl)

theorem State.updView_keeps {a s : State} {v f} (h : a.Keeps s) : a.Keeps (s.updView v f) :=
  h.same rfl rfl rfl rfl rfl rfl rfl rfl rfl (List.length_modify ..) rfl
/-- An advance of the counter of free values. -/
theorem State.Keeps.takeFree {a s : State} {n : Nat} (h : a.Keeps s) (hn : a.free ≤ n) : a.Keeps { s with free := n } := by
  obtain ⟨h1, h2, h3, h4, h5, h6, h7, h8, h9⟩ := h
  refine ⟨h1, h2, h3, h4, h5, h6, h7, hn, fun ha => ?_⟩
  obtain ⟨i1, i2, i3, i4, i5, i6, i7, i8, i9⟩ := h9 ha
  exact ⟨i1, i2, i3, i4, i5, i6, i7, i8, i9⟩

theorem State.latch_keeps {a s : State} {v x} (h : a.Keeps s) : a.Keeps (s.latch v x) := by
  unfold State.latch
  dsimp only
  refine State.updView_keeps ?_
  have h' := State.wrB_keeps (f := .dbkVStatSkipped) (i := v) (b := (s.view v).skipped) (State.wrB_keeps (f := .dbkVStatOpen) (i := v)
    (b := s.isOpenAt x) (State.wrB_keeps (f := .dbkVStatCrcBad) (i := v) (b := x.what.isNone) (State.Keeps.foldl (xs := List.range 8)
      (f := fun (a : State) j => a.wr .dbkVDataBytes (8 * v + j) (match x.what with
        | some r => getLe (r.bytes r.rep) (4 * j) 4
        | none => Config.freeValue (s.free + j))) h fun t x ht => State.wr_keeps ht)))
  split
  · exact State.Keeps.takeFree (State.wr_keeps h') (Nat.le_trans h.free (Nat.le_add_right _ _))
  · exact h'
theorem State.moveView_keeps {z s : State} {v} (hk : z.Keeps s) :
    z.Keeps (State.moveView s v).2 := by
  unfold State.moveView
  try dsimp only
  repeat' first
    | with_reducible assumption
    | with_reducible exact State.Keeps.refl _
    | with_reducible first | apply State.Keeps.ite | apply State.Keeps.foldl | apply State.latch_keeps | apply State.updView_keeps
    | (intro _ _ _; try dsimp only)
    | (intro _; try dsimp only)
    | split
    | (with_reducible refine State.Keeps.upd ?_ rfl rfl rfl rfl rfl)
    | dsimp only

theorem State.viewRead_keeps {a s : State} {acc f v eff} (h : a.Keeps s) (he : ∀ t, a.Keeps t → a.Keeps (eff t).2) :
    a.Keeps (s.viewRead acc f v eff) := by
  unfold State.viewRead
  dsimp only
  split
  · exact State.emit_keeps h
  · split
    · exact State.emit_keeps (State.deny_keeps h)
    · split
      · exact State.emit_keeps h
      · exact State.emit_keeps (he s h)
theorem viewNextStep_keeps {a s : State} {acc v} (h : a.Keeps s) : a.Keeps (viewNextStep acc v s) :=
  State.viewRead_keeps h fun _ ht => State.moveView_keeps ht
theorem viewFetchStep_keeps {z s : State} {v} (hk : z.Keeps s) :
    z.Keeps (viewFetchStep v s) := by
  unfold viewFetchStep
  try dsimp only
  repeat' first
    | with_reducible assumption
    | with_reducible exact State.Keeps.refl _
    | with_reducible first | apply State.Keeps.ite | apply State.Keeps.foldl | apply State.updView_keeps
    | (intro _ _ _; try dsimp only)
    | (intro _; try dsimp only)
    | split
    | (with_reducible refine State.Keeps.upd ?_ rfl rfl rfl rfl rfl)

theorem viewRewindStep_keeps {a s : State} {acc v} (h : a.Keeps s) : a.Keeps (viewRewindStep acc v s) :=
  State.viewRead_keeps h fun _ ht => State.updView_keeps ht
theorem State.clearRefused_keeps {z s : State} {code count} (hk : z.Keeps s) :
    z.Keeps (State.clearRefused s code count) := by
  unfold State.clearRefused
  try dsimp only
  repeat' first
    | with_reducible assumption
    | with_reducible exact State.Keeps.refl _
    | with_reducible first | apply State.Keeps.ite | apply State.Keeps.foldl | apply State.day_keeps | apply State.wr_keeps
    | (intro _ _ _; try dsimp only)
    | (intro _; try dsimp only)
    | split
    | (with_reducible refine State.Keeps.upd ?_ rfl rfl rfl rfl rfl)

theorem State.submitClear_keeps {z s : State} (hk : z.Keeps s) :
    z.Keeps (State.submitClear s) := by
  unfold State.submitClear
  try dsimp only
  repeat' first
    | with_reducible assumption
    | with_reducible exact State.Keeps.refl _
    | with_reducible first | apply State.Keeps.ite | apply State.Keeps.foldl | apply State.clearRefused_keeps | apply State.wr_keeps | apply State.emit_keeps
    | (intro _ _ _; try dsimp only)
    | (intro _; try dsimp only)
    | split
    | (with_reducible refine State.Keeps.upd ?_ rfl rfl rfl rfl rfl)

theorem State.writeClear_keeps {z s : State} {w} (hk : z.Keeps s) :
    z.Keeps (State.writeClear s w) := by
  unfold State.writeClear
  try dsimp only
  repeat' first
    | with_reducible assumption
    | with_reducible exact State.Keeps.refl _
    | with_reducible first | apply State.Keeps.ite | apply State.Keeps.foldl | apply State.submitClear_keeps
    | (intro _ _ _; try dsimp only)
    | (intro _; try dsimp only)
    | split
    | (with_reducible refine State.Keeps.upd ?_ rfl rfl rfl rfl rfl)

theorem clearSubmitStep_keeps {z s : State} {acc w} (hk : z.Keeps s) :
    z.Keeps (clearSubmitStep acc w s) := by
  unfold clearSubmitStep
  try dsimp only
  repeat' first
    | with_reducible assumption
    | with_reducible exact State.Keeps.refl _
    | with_reducible first | apply State.Keeps.ite | apply State.Keeps.foldl | apply State.KeepsEither.ite | apply State.KeepsEither.ofInl | apply State.KeepsEither.ofInr | apply State.gate_keeps | apply State.writeClear_keeps
    | (intro _ _ _; try dsimp only)
    | (intro _; try dsimp only)
    | split
    | with_reducible first | refine State.Keeps.ofInl ‹_› ?_ | refine State.Keeps.ofInr ‹_› ?_
    | (with_reducible refine State.Keeps.upd ?_ rfl rfl rfl rfl rfl)
    | dsimp only

theorem clearCheckedStep_keeps {z s : State} {data} (hk : z.Keeps s) :
    z.Keeps (clearCheckedStep data s) := by
  unfold clearCheckedStep
  try dsimp only
  repeat' first
    | with_reducible assumption
    | with_reducible exact State.Keeps.refl _
    | with_reducible first | apply State.Keeps.ite | apply State.Keeps.foldl | apply State.wr_keeps | apply State.clearRefused_keeps
    | (intro _ _ _; try dsimp only)
    | (intro _; try dsimp only)
    | split
    | (with_reducible refine State.Keeps.upd ?_ rfl rfl rfl rfl rfl)

theorem State.skipViews_keeps {z s : State} {count} (hk : z.Keeps s) :
    z.Keeps (State.skipViews s count) := by
  unfold State.skipViews
  try dsimp only
  repeat' first
    | with_reducible assumption
    | with_reducible exact State.Keeps.refl _
    | with_reducible first | apply State.Keeps.ite | apply State.Keeps.foldl | apply State.wr_keeps | apply State.updView_keeps
    | (intro _ _ _; try dsimp only)
    | (intro _; try dsimp only)
    | split
    | (with_reducible refine State.Keeps.upd ?_ rfl rfl rfl rfl rfl)

theorem clearCommitStep_keeps {z s : State} (hk : z.Keeps s) :
    z.Keeps (clearCommitStep s) := by
  unfold clearCommitStep
  try dsimp only
  repeat' first
    | with_reducible assumption
    | with_reducible exact State.Keeps.refl _
    | with_reducible first | apply State.Keeps.ite | apply State.Keeps.foldl | apply State.dbkClose_keeps | apply State.skipViews_keeps | apply State.programOne_keeps | apply State.wr_keeps | apply State.wrB_keeps
    | (intro _ _ _; try dsimp only)
    | (intro _; try dsimp only)
    | split
    | (with_reducible refine State.Keeps.upd ?_ rfl rfl rfl rfl rfl)


end Sys2Proof.Machine
end

