-- ==== Sys2Proof/Laws/KeepFaults.lean ====
section
/-! SUPPORT. What the functions of Machine/Faults.lean keep of a state, whatever they do (State.Keeps). -/

namespace Sys2Proof.Machine

theorem State.countFault_keeps {z s : State} {i unit cause} (hk : z.Keeps s) :
    z.Keeps (State.countFault s i unit cause) := by
  unfold State.countFault
  try dsimp only
  repeat' first
    | with_reducible assumption
    | with_reducible exact State.Keeps.refl _
    | with_reducible first | apply State.Keeps.ite | apply State.Keeps.foldl | apply State.updStl_keeps | apply State.bump_keeps | apply State.wr_keeps
    | (intro _ _ _; try dsimp only)
    | (intro _; try dsimp only)
    | split
    | (with_reducible refine State.Keeps.upd ?_ rfl rfl rfl rfl rfl)

theorem State.beginTest_keeps {z s : State} {i} (hk : z.Keeps s) :
    z.Keeps (State.beginTest s i) := by
  unfold State.beginTest
  try dsimp only
  repeat' first
    | with_reducible assumption
    | with_reducible exact State.Keeps.refl _
    | with_reducible first | apply State.Keeps.ite | apply State.Keeps.foldl | apply State.updStl_keeps | apply State.resetStall_keeps | apply State.day_keeps | apply State.wr_keeps
    | (intro _ _ _; try dsimp only)
    | (intro _; try dsimp only)
    | split
    | (with_reducible refine State.Keeps.upd ?_ rfl rfl rfl rfl rfl)

theorem stallFaultStep_keeps {z s : State} {i unit cause tagPitch} (hk : z.Keeps s) :
    z.Keeps (stallFaultStep i unit cause tagPitch s) := by
  unfold stallFaultStep
  try dsimp only
  repeat' first
    | with_reducible assumption
    | with_reducible exact State.Keeps.refl _
    | with_reducible first | apply State.Keeps.ite | apply State.Keeps.foldl | apply State.Keeps.foldlFst | apply State.day_keeps | apply State.updStl_keeps | apply State.stopStalls_keeps | apply State.countFault_keeps | apply State.dayChains_keeps | apply State.trimSteps_keeps | apply State.beginTest_keeps
    | (intro _ _ _; try dsimp only)
    | (intro _; try dsimp only)
    | split
    | with_reducible first | refine State.Keeps.ofFst ‹_› ?_
    | (with_reducible refine State.Keeps.upd ?_ rfl rfl rfl rfl rfl)
    | dsimp only

theorem State.dropStranded_keeps {z s : State} {p} (hk : z.Keeps s) :
    z.Keeps (State.dropStranded s p) := by
  unfold State.dropStranded
  try dsimp only
  repeat' first
    | with_reducible assumption
    | with_reducible exact State.Keeps.refl _
    | with_reducible first | apply State.Keeps.ite | apply State.Keeps.foldl | apply State.discardAll_keeps
    | (intro _ _ _; try dsimp only)
    | (intro _; try dsimp only)
    | split
    | (with_reducible refine State.Keeps.upd ?_ rfl rfl rfl rfl rfl)

theorem State.retire_keeps {z s : State} {i} (hk : z.Keeps s) :
    z.Keeps (State.retire s i) := by
  unfold State.retire
  try dsimp only
  repeat' first
    | with_reducible assumption
    | with_reducible exact State.Keeps.refl _
    | with_reducible first | apply State.Keeps.ite | apply State.Keeps.foldl | apply State.wr_keeps | apply State.updStl_keeps | apply State.bump_keeps | apply State.dropStranded_keeps | apply State.trimSteps_keeps
    | (intro _ _ _; try dsimp only)
    | (intro _; try dsimp only)
    | split
    | (with_reducible refine State.Keeps.upd ?_ rfl rfl rfl rfl rfl)
    | (with_reducible refine State.Keeps.upd ?_ (List.length_map ..) rfl rfl rfl rfl)
    | (with_reducible refine State.Keeps.upd ?_ rfl (List.length_map ..) rfl rfl rfl)
    | (with_reducible refine State.Keeps.upd ?_ (List.length_map ..) (List.length_map ..) rfl rfl rfl)

theorem State.retireBy_keeps {z s : State} {i step} (hk : z.Keeps s) :
    z.Keeps (State.retireBy s i step) := by
  unfold State.retireBy
  try dsimp only
  repeat' first
    | with_reducible assumption
    | with_reducible exact State.Keeps.refl _
    | with_reducible first | apply State.Keeps.ite | apply State.Keeps.foldl | apply State.retire_keeps | apply State.day_keeps
    | (intro _ _ _; try dsimp only)
    | (intro _; try dsimp only)
    | split
    | (with_reducible refine State.Keeps.upd ?_ rfl rfl rfl rfl rfl)

theorem stallTestStep_keeps {z s : State} {i step} (hk : z.Keeps s) :
    z.Keeps (stallTestStep i step s) := by
  unfold stallTestStep
  try dsimp only
  repeat' first
    | with_reducible assumption
    | with_reducible exact State.Keeps.refl _
    | with_reducible first | apply State.Keeps.ite | apply State.Keeps.foldl | apply State.tookFree_keeps | apply State.wr_keeps | apply State.wrB_keeps | apply State.retireBy_keeps | apply State.updStl_keeps | apply State.day_keeps
    | (intro _ _ _; try dsimp only)
    | (intro _; try dsimp only)
    | split
    | (with_reducible refine State.Keeps.upd ?_ rfl rfl rfl rfl rfl)

theorem State.t0Data_keeps {z s : State} {i x2} (hk : z.Keeps s) :
    z.Keeps (State.t0Data s i x2) := by
  unfold State.t0Data
  try dsimp only
  repeat' first
    | with_reducible assumption
    | with_reducible exact State.Keeps.refl _
    | with_reducible first | apply State.Keeps.ite | apply State.Keeps.foldl | apply State.wr_keeps | apply State.reloadTable_keeps | apply State.failTier_keeps
    | (intro _ _ _; try dsimp only)
    | (intro _; try dsimp only)
    | split
    | (with_reducible refine State.Keeps.upd ?_ rfl rfl rfl rfl rfl)

theorem t0FaultStep_keeps {z s : State} {i part} (hk : z.Keeps s) :
    z.Keeps (t0FaultStep i part s) := by
  unfold t0FaultStep
  try dsimp only
  repeat' first
    | with_reducible assumption
    | with_reducible exact State.Keeps.refl _
    | with_reducible first | apply State.Keeps.ite | apply State.Keeps.foldl | apply State.Keeps.foldlFst | apply State.bump_keeps | apply State.countFault_keeps | apply State.t0Data_keeps | apply State.stopStalls_keeps | apply State.dayChains_keeps | apply State.retireBy_keeps | apply State.day_keeps
    | (intro _ _ _; try dsimp only)
    | (intro _; try dsimp only)
    | split
    | with_reducible first | refine State.Keeps.ofFst ‹_› ?_
    | (with_reducible refine State.Keeps.upd ?_ rfl rfl rfl rfl rfl)
    | dsimp only

theorem State.quadStall_keeps {z s : State} {cause i} (hk : z.Keeps s) :
    z.Keeps (State.quadStall s cause i) := by
  unfold State.quadStall
  try dsimp only
  repeat' first
    | with_reducible assumption
    | with_reducible exact State.Keeps.refl _
    | with_reducible first | apply State.Keeps.ite | apply State.Keeps.foldl | apply State.updStl_keeps | apply State.countFault_keeps | apply State.tookFree_keeps | apply State.day_keeps
    | (intro _ _ _; try dsimp only)
    | (intro _; try dsimp only)
    | split
    | (with_reducible refine State.Keeps.upd ?_ rfl rfl rfl rfl rfl)

theorem State.quadFault_keeps {z s : State} {q cause} (hk : z.Keeps s) :
    z.Keeps (State.quadFault s q cause) := by
  unfold State.quadFault
  try dsimp only
  repeat' first
    | with_reducible assumption
    | with_reducible exact State.Keeps.refl _
    | with_reducible first | apply State.Keeps.ite | apply State.Keeps.foldl | apply State.Keeps.foldlFst | apply State.stopStalls_keeps | apply State.dayChains_keeps | apply State.trimSteps_keeps | apply State.quadStall_keeps
    | (intro _ _ _; try dsimp only)
    | (intro _; try dsimp only)
    | split
    | with_reducible first | refine State.Keeps.ofFst ‹_› ?_
    | (with_reducible refine State.Keeps.upd ?_ rfl rfl rfl rfl rfl)
    | dsimp only

theorem quadRecoveredStep_keeps {z s : State} {q} (hk : z.Keeps s) :
    z.Keeps (quadRecoveredStep q s) := by
  unfold quadRecoveredStep
  try dsimp only
  repeat' first
    | with_reducible assumption
    | with_reducible exact State.Keeps.refl _
    | with_reducible first | apply State.Keeps.ite | apply State.Keeps.foldl | apply State.day_keeps | apply State.beginTest_keeps
    | (intro _ _ _; try dsimp only)
    | (intro _; try dsimp only)
    | split
    | (with_reducible refine State.Keeps.upd ?_ rfl rfl rfl rfl rfl)

theorem qwaitStep_keeps {z s : State} {q} (hk : z.Keeps s) :
    z.Keeps (qwaitStep q s) := by
  unfold qwaitStep
  try dsimp only
  repeat' first
    | with_reducible assumption
    | with_reducible exact State.Keeps.refl _
    | with_reducible first | apply State.Keeps.ite | apply State.Keeps.foldl | apply State.day_keeps | apply State.retire_keeps | apply State.wr_keeps
    | (intro _ _ _; try dsimp only)
    | (intro _; try dsimp only)
    | split
    | (with_reducible refine State.Keeps.upd ?_ rfl rfl rfl rfl rfl)

theorem State.shedModels_keeps {a s : State} {xs} (h : a.Keeps s) : a.Keeps (s.shedModels xs) := by
  induction xs generalizing s with
  | nil => exact h
  | cons x xs ih =>
    unfold State.shedModels
    split
    · exact h
    · exact ih (State.day_keeps (State.markDown_keeps h))
theorem State.loseSets_keeps {z s : State} {bank which} (hk : z.Keeps s) :
    z.Keeps (State.loseSets s bank which) := by
  unfold State.loseSets
  try dsimp only
  repeat' first
    | with_reducible assumption
    | with_reducible exact State.Keeps.refl _
    | with_reducible first | apply State.Keeps.ite | apply State.Keeps.foldl | apply State.loseSet_keeps
    | (intro _ _ _; try dsimp only)
    | (intro _; try dsimp only)
    | split
    | (with_reducible refine State.Keeps.upd ?_ rfl rfl rfl rfl rfl)

theorem State.fitRegion_keeps {z s : State} {bank} (hk : z.Keeps s) :
    z.Keeps (State.fitRegion s bank) := by
  unfold State.fitRegion
  try dsimp only
  repeat' first
    | with_reducible assumption
    | with_reducible exact State.Keeps.refl _
    | with_reducible first | apply State.Keeps.ite | apply State.Keeps.foldl | apply State.loseSets_keeps | apply State.shedModels_keeps
    | (intro _ _ _; try dsimp only)
    | (intro _; try dsimp only)
    | split
    | (with_reducible refine State.Keeps.upd ?_ rfl rfl rfl rfl rfl)

theorem State.retireBank_keeps {z s : State} {b} (hk : z.Keeps s) :
    z.Keeps (State.retireBank s b) := by
  unfold State.retireBank
  try dsimp only
  repeat' first
    | with_reducible assumption
    | with_reducible exact State.Keeps.refl _
    | with_reducible first | apply State.Keeps.ite | apply State.Keeps.foldl | apply State.bump_keeps | apply State.wr_keeps | apply State.day_keeps | apply State.loseEntry_keeps | apply State.loseSets_keeps | apply State.amdRefit_keeps | apply State.fitRegion_keeps | apply State.poisonTile_keeps
    | (intro _ _ _; try dsimp only)
    | (intro _; try dsimp only)
    | split
    | (with_reducible refine State.Keeps.upd ?_ rfl rfl rfl rfl rfl)
    | (with_reducible refine State.Keeps.upd ?_ (List.length_map ..) rfl rfl rfl rfl)
    | (with_reducible refine State.Keeps.upd ?_ rfl (List.length_map ..) rfl rfl rfl)
    | (with_reducible refine State.Keeps.upd ?_ (List.length_map ..) (List.length_map ..) rfl rfl rfl)

theorem bankTestStep_keeps {z s : State} {b pass} (hk : z.Keeps s) :
    z.Keeps (bankTestStep b pass s) := by
  unfold bankTestStep
  try dsimp only
  repeat' first
    | with_reducible assumption
    | with_reducible exact State.Keeps.refl _
    | with_reducible first | apply State.Keeps.ite | apply State.Keeps.foldl | apply State.retireBank_keeps | apply State.day_keeps
    | (intro _ _ _; try dsimp only)
    | (intro _; try dsimp only)
    | split
    | (with_reducible refine State.Keeps.upd ?_ rfl rfl rfl rfl rfl)
    | (with_reducible refine State.Keeps.upd ?_ (List.length_map ..) rfl rfl rfl rfl)
    | (with_reducible refine State.Keeps.upd ?_ rfl (List.length_map ..) rfl rfl rfl)
    | (with_reducible refine State.Keeps.upd ?_ (List.length_map ..) (List.length_map ..) rfl rfl rfl)

theorem State.endAll_keeps {z s : State} (hk : z.Keeps s) :
    z.Keeps (State.endAll s) := by
  unfold State.endAll
  try dsimp only
  repeat' first
    | with_reducible assumption
    | with_reducible exact State.Keeps.refl _
    | with_reducible first | apply State.Keeps.ite | apply State.Keeps.foldl
    | (intro _ _ _; try dsimp only)
    | (intro _; try dsimp only)
    | split
    | (with_reducible refine State.Keeps.upd ?_ rfl rfl rfl rfl rfl)
    | (with_reducible refine State.Keeps.upd ?_ (List.length_map ..) rfl rfl rfl rfl)
    | (with_reducible refine State.Keeps.upd ?_ rfl (List.length_map ..) rfl rfl rfl)
    | (with_reducible refine State.Keeps.upd ?_ (List.length_map ..) (List.length_map ..) rfl rfl rfl)

theorem sharedFaultStep_keeps {z s : State} {unit synd} (hk : z.Keeps s) :
    z.Keeps (sharedFaultStep unit synd s) := by
  unfold sharedFaultStep
  try dsimp only
  repeat' first
    | with_reducible assumption
    | with_reducible exact State.Keeps.refl _
    | with_reducible first | apply State.Keeps.ite | apply State.Keeps.foldl | apply State.wr_keeps | apply State.bump_keeps | apply State.endAll_keeps | apply State.flushDbk_keeps
    | (intro _ _ _; try dsimp only)
    | (intro _; try dsimp only)
    | split
    | (with_reducible refine State.Keeps.upd ?_ rfl rfl rfl rfl rfl)


end Sys2Proof.Machine
end

