-- ==== Sys2Proof/Laws/KeepReset.lean ====
section
/-! SUPPORT. What the functions of Machine/Reset.lean keep of a state, whatever they do (State.Keeps). -/

namespace Sys2Proof.Machine

theorem regsAfterReset_wf {r : List RegCell} (h : regsWf r = true) (b : Bool) : regsWf (regsAfterReset r b) = true := by
  unfold regsAfterReset
  split
  · rfl
  · exact regsWf_regsDrop h _

theorem regsAfterReset_fit {r : List RegCell} (h : regsFit r = true) (b : Bool) : regsFit (regsAfterReset r b) = true := by
  unfold regsAfterReset
  split
  · rfl
  · exact regsFit_regsDrop h _

theorem Clocks.afterReset_hp (c : Clocks) (b : Bool) : (c.afterReset b).hp = c.hp := by cases b <;> rfl
theorem Clocks.afterReset_ticks (c : Clocks) (b : Bool) : (c.afterReset b).ticks = c.ticks := by cases b <;> rfl

theorem State.blockReset_keeps {a s : State} {b} (h : a.Keeps s) : a.Keeps (s.blockReset b) := by
  unfold State.blockReset
  dsimp only
  have h' : a.Keeps (if b = true then s else s.dbkClose) := State.Keeps.ite (fun _ => h) fun _ => State.dbkClose_keeps h
  generalize (if b = true then s else s.dbkClose) = t at h'
  obtain ⟨h1, h2, h3, h4, h5, h6, h7, h8, h9⟩ := h'
  refine ⟨h1, h2, ?_, ?_, h5, h6, h7, h8, fun ha => ?_⟩
  · exact (Clocks.afterReset_hp t.clk b).symm ▸ h3
  · exact (Clocks.afterReset_ticks t.clk b).symm ▸ h4
  obtain ⟨i1, i2, i3, i4, i5, i6, i7, i8, i9⟩ := h9 ha
  refine ⟨regsAfterReset_wf i1 b, regsAfterReset_fit i2 b, rfl, rfl, rfl, rfl, ?_, ?_, ?_⟩
  · cases b
    · exact i7
    · exact Nat.zero_le _
  · cases b
    · exact i8
    · exact (by decide : (0 : Nat) < 2 ^ 40)
  · cases b <;> exact (by decide : (0 : Nat) < 8)
theorem State.warmReset_keeps {z s : State} {cause} (hk : z.Keeps s) :
    z.Keeps (State.warmReset s cause) := by
  unfold State.warmReset
  try dsimp only
  repeat' first
    | with_reducible assumption
    | with_reducible exact State.Keeps.refl _
    | with_reducible first | apply State.Keeps.ite | apply State.Keeps.foldl | apply State.day_keeps | apply State.wr_keeps | apply State.blockReset_keeps
    | (intro _ _ _; try dsimp only)
    | (intro _; try dsimp only)
    | split
    | (with_reducible refine State.Keeps.upd ?_ rfl rfl rfl rfl rfl)


end Sys2Proof.Machine
end

