-- ==== Sys2Proof/Laws/KeepCharter.lean ====
section
/-! SUPPORT. What the functions of Machine/Charter.lean keep of a state, whatever they do (State.Keeps). -/

namespace Sys2Proof.Machine

theorem State.setCounters_keeps {a s : State} {o p q : Nat} (h : a.Keeps s) : a.Keeps (s.setCounters o p q) :=
  State.wr_keeps (State.wr_keeps (State.Keeps.clk h h.hp (Nat.le_refl _) (fun _ => Nat.mod_lt _ (by decide)) id))
theorem State.lostCounters_keeps {z s : State} {cause} (hk : z.Keeps s) :
    z.Keeps (State.lostCounters s cause) := by
  unfold State.lostCounters
  try dsimp only
  repeat' first
    | with_reducible assumption
    | with_reducible exact State.Keeps.refl _
    | with_reducible first | apply State.Keeps.ite | apply State.Keeps.foldl | apply State.day_keeps | apply State.wr_keeps
    | (intro _ _ _; try dsimp only)
    | (intro _; try dsimp only)
    | split
    | (with_reducible refine State.Keeps.upd ?_ rfl rfl rfl rfl rfl)

theorem State.restoreCounters_keeps {z s : State} (hk : z.Keeps s) :
    z.Keeps (State.restoreCounters s) := by
  unfold State.restoreCounters
  try dsimp only
  repeat' first
    | with_reducible assumption
    | with_reducible exact State.Keeps.refl _
    | with_reducible first | apply State.Keeps.ite | apply State.Keeps.foldl | apply State.lostCounters_keeps | apply State.setCounters_keeps
    | (intro _ _ _; try dsimp only)
    | (intro _; try dsimp only)
    | split
    | (with_reducible refine State.Keeps.upd ?_ rfl rfl rfl rfl rfl)

theorem State.startFailed_keeps {z s : State} (hk : z.Keeps s) :
    z.Keeps (State.startFailed s) := by
  unfold State.startFailed
  try dsimp only
  repeat' first
    | with_reducible assumption
    | with_reducible exact State.Keeps.refl _
    | with_reducible first | apply State.Keeps.ite | apply State.Keeps.foldl | apply State.wr_keeps
    | (intro _ _ _; try dsimp only)
    | (intro _; try dsimp only)
    | split
    | (with_reducible refine State.Keeps.upd ?_ rfl rfl rfl rfl rfl)

theorem State.chrErr_keeps {z s : State} {code off} (hk : z.Keeps s) :
    z.Keeps (State.chrErr s code off) := by
  unfold State.chrErr
  try dsimp only
  repeat' first
    | with_reducible assumption
    | with_reducible exact State.Keeps.refl _
    | with_reducible first | apply State.Keeps.ite | apply State.Keeps.foldl | apply State.wr_keeps
    | (intro _ _ _; try dsimp only)
    | (intro _; try dsimp only)
    | split
    | (with_reducible refine State.Keeps.upd ?_ rfl rfl rfl rfl rfl)

theorem State.readImage_keeps {z s : State} {alt} (hk : z.Keeps s) :
    z.Keeps (State.readImage s alt) := by
  unfold State.readImage
  try dsimp only
  repeat' first
    | with_reducible assumption
    | with_reducible exact State.Keeps.refl _
    | with_reducible first | apply State.Keeps.ite | apply State.Keeps.foldl | apply State.wrB_keeps | apply State.wr_keeps | apply State.emit_keeps
    | (intro _ _ _; try dsimp only)
    | (intro _; try dsimp only)
    | split
    | (with_reducible refine State.Keeps.upd ?_ rfl rfl rfl rfl rfl)

theorem State.useLoc_keeps {z s : State} {l dbkDev} (hk : z.Keeps s) :
    z.Keeps (State.useLoc s l dbkDev) := by
  unfold State.useLoc
  try dsimp only
  repeat' first
    | with_reducible assumption
    | with_reducible exact State.Keeps.refl _
    | with_reducible first | apply State.Keeps.ite | apply State.Keeps.foldl | apply State.wrB_keeps | apply State.wr_keeps | apply State.tookFree_keeps | apply State.readImage_keeps | apply State.restoreCounters_keeps
    | (intro _ _ _; try dsimp only)
    | (intro _; try dsimp only)
    | split
    | (with_reducible refine State.Keeps.upd ?_ rfl rfl rfl rfl rfl)

theorem State.formDevTag_keeps {z s : State} {tag} (hk : z.Keeps s) :
    z.Keeps (State.formDevTag tag s) := by
  unfold State.formDevTag
  try dsimp only
  repeat' first
    | with_reducible assumption
    | with_reducible exact State.Keeps.refl _
    | with_reducible first | apply State.Keeps.ite | apply State.Keeps.foldl | apply State.wr_keeps
    | (intro _ _ _; try dsimp only)
    | (intro _; try dsimp only)
    | split
    | (with_reducible refine State.Keeps.upd ?_ rfl rfl rfl rfl rfl)

theorem startStep_keeps {z s : State} {kat xspi dbkDev loc0 loc1} (hk : z.Keeps s) :
    z.Keeps (startStep kat xspi dbkDev loc0 loc1 s) := by
  unfold startStep
  try dsimp only
  repeat' first
    | with_reducible assumption
    | with_reducible exact State.Keeps.refl _
    | with_reducible first | apply State.Keeps.ite | apply State.Keeps.foldl | apply State.day_keeps | apply State.wr_keeps | apply State.formDevTag_keeps | apply State.startFailed_keeps | apply State.chrErr_keeps | apply State.useLoc_keeps
    | (intro _ _ _; try dsimp only)
    | (intro _; try dsimp only)
    | split
    | (with_reducible refine State.Keeps.upd ?_ rfl rfl rfl rfl rfl)

theorem State.scanStore_keeps {z s : State} (hk : z.Keeps s) :
    z.Keeps (State.scanStore s) := by
  unfold State.scanStore
  try dsimp only
  repeat' first
    | with_reducible assumption
    | with_reducible exact State.Keeps.refl _
    | with_reducible first | apply State.Keeps.ite | apply State.Keeps.foldl | apply State.Keeps.getD | apply State.wr_keeps | apply State.tookFree_keeps | apply State.wrB_keeps
    | (intro _ _ _; try dsimp only)
    | (intro _; try dsimp only)
    | split
    | (with_reducible refine State.Keeps.upd ?_ rfl rfl rfl rfl rfl)

theorem State.slotRow_keeps {a s : State} (h : a.Keeps s) : a.Keeps s.slotRow := by
  unfold State.slotRow
  dsimp only
  have h' := State.scanStore_keeps h
  generalize s.scanStore = t at h'
  split
  · have h3 := State.saveSlot_keeps (clean := false) h'
    generalize t.saveSlot false = u at h3
    have h2 : a.Keeps ({ u with pwr := { t.pwr with slotDue := false } }.day 0x0001 0
        (State.rd { u with pwr := { t.pwr with slotDue := false } } .wchPcycCount) (u.clk.optime % 2 ^ 32)
        (State.rd { u with pwr := { t.pwr with slotDue := false } } .wchSlotSeqSeq)) :=
      State.day_keeps (State.Keeps.upd h3 rfl rfl rfl rfl rfl)
    exact State.Keeps.clk h2 h2.hp (Nat.le_refl _) id id
  · exact State.Keeps.clk h' h'.hp (Nat.le_refl _) id id
theorem State.rejectImage_keeps {z s : State} {alt code off} (hk : z.Keeps s) :
    z.Keeps (State.rejectImage s alt code off) := by
  unfold State.rejectImage
  try dsimp only
  repeat' first
    | with_reducible assumption
    | with_reducible exact State.Keeps.refl _
    | with_reducible first | apply State.Keeps.ite | apply State.Keeps.foldl | apply State.day_keeps | apply State.chrErr_keeps | apply State.startFailed_keeps | apply State.readImage_keeps
    | (intro _ _ _; try dsimp only)
    | (intro _; try dsimp only)
    | split
    | (with_reducible refine State.Keeps.upd ?_ rfl rfl rfl rfl rfl)

/-- An order to fuses that burns bits and raises the counter. -/
theorem State.Keeps.burn {a s : State} {f : Fuses} (h : a.Keeps s) (hs : s.fuse.svn ≤ f.svn)
    (hr : ∀ i, s.fuse.revoked.testBit i = true → f.revoked.testBit i = true)
    (hk : f.keyHash = s.fuse.keyHash ∧ f.programmed = s.fuse.programmed) : a.Keeps { s with fuse := f } := by
  obtain ⟨h1, h2, h3, h4, h5, h6, h7, h8, h9⟩ := h
  refine ⟨h1, h2, h3, h4, Nat.le_trans h5 hs, ?_, ⟨hk.1.trans h7.1, hk.2.trans h7.2⟩, h8, fun ha => ?_⟩
  · apply Nat.eq_of_testBit_eq
    intro i
    have h6i := congrArg (fun n => Nat.testBit n i) h6
    have hi := hr i
    simp only [Nat.testBit_and] at h6i ⊢
    cases hb : a.fuse.revoked.testBit i
    · rfl
    · rw [hb, Bool.true_and] at h6i
      rw [hi h6i]; rfl
  · obtain ⟨i1, i2, i3, i4, i5, i6, i7, i8, i9⟩ := h9 ha
    exact ⟨i1, i2, i3, i4, i5, i6, i7, i8, i9⟩

theorem State.burnFuses_keeps {a s : State} {x} (h : a.Keeps s) : a.Keeps (s.burnFuses x) := by
  unfold State.burnFuses
  dsimp only
  split
  · exact h
  · refine State.day_keeps (State.Keeps.burn h (Nat.le_max_left _ _) (fun i hi => ?_) ⟨rfl, rfl⟩)
    simp only [Nat.testBit_or, hi, Bool.true_or]
theorem State.loadRegs_keeps {z s : State} {regs used} (hk : z.Keeps s) :
    z.Keeps (State.loadRegs s regs used) := by
  unfold State.loadRegs
  try dsimp only
  repeat' first
    | with_reducible assumption
    | with_reducible exact State.Keeps.refl _
    | with_reducible first | apply State.Keeps.ite | apply State.Keeps.foldl | apply State.wr_keeps
    | (intro _ _ _; try dsimp only)
    | (intro _; try dsimp only)
    | split
    | (with_reducible refine State.Keeps.upd ?_ rfl rfl rfl rfl rfl)

theorem State.loadKey_keeps {z s : State} {c} (hk : z.Keeps s) :
    z.Keeps (State.loadKey s c) := by
  unfold State.loadKey
  try dsimp only
  repeat' first
    | with_reducible assumption
    | with_reducible exact State.Keeps.refl _
    | with_reducible first | apply State.Keeps.ite | apply State.Keeps.foldl | apply State.wr_keeps | apply State.wrB_keeps
    | (intro _ _ _; try dsimp only)
    | (intro _; try dsimp only)
    | split
    | (with_reducible refine State.Keeps.upd ?_ rfl rfl rfl rfl rfl)

theorem State.loadGuild_keeps {z s : State} {x} (hk : z.Keeps s) :
    z.Keeps (State.loadGuild s x) := by
  unfold State.loadGuild
  try dsimp only
  repeat' first
    | with_reducible assumption
    | with_reducible exact State.Keeps.refl _
    | with_reducible first | apply State.Keeps.ite | apply State.Keeps.foldl | apply State.wrB_keeps | apply State.wr_keeps
    | (intro _ _ _; try dsimp only)
    | (intro _; try dsimp only)
    | split
    | (with_reducible refine State.Keeps.upd ?_ rfl rfl rfl rfl rfl)

theorem State.loadShards_keeps {z s : State} {x} (hk : z.Keeps s) :
    z.Keeps (State.loadShards s x) := by
  unfold State.loadShards
  try dsimp only
  repeat' first
    | with_reducible assumption
    | with_reducible exact State.Keeps.refl _
    | with_reducible first | apply State.Keeps.ite | apply State.Keeps.foldl
    | (intro _ _ _; try dsimp only)
    | (intro _; try dsimp only)
    | split
    | (with_reducible refine State.Keeps.upd ?_ rfl rfl rfl rfl rfl)
    | (with_reducible refine State.Keeps.upd ?_ (List.length_map ..) rfl rfl rfl rfl)
    | (with_reducible refine State.Keeps.upd ?_ rfl (List.length_map ..) rfl rfl rfl)
    | (with_reducible refine State.Keeps.upd ?_ (List.length_map ..) (List.length_map ..) rfl rfl rfl)

theorem State.initRole_keeps {z s : State} {i role chain stage} (hk : z.Keeps s) :
    z.Keeps (State.initRole s i role chain stage) := by
  unfold State.initRole
  try dsimp only
  repeat' first
    | with_reducible assumption
    | with_reducible exact State.Keeps.refl _
    | with_reducible first | apply State.Keeps.ite | apply State.Keeps.foldl | apply State.wr_keeps
    | (intro _ _ _; try dsimp only)
    | (intro _; try dsimp only)
    | split
    | (with_reducible refine State.Keeps.upd ?_ rfl rfl rfl rfl rfl)

theorem State.initChain_keeps {z s : State} {c} (hk : z.Keeps s) :
    z.Keeps (State.initChain s c) := by
  unfold State.initChain
  try dsimp only
  repeat' first
    | with_reducible assumption
    | with_reducible exact State.Keeps.refl _
    | with_reducible first | apply State.Keeps.ite | apply State.Keeps.foldl | apply State.initRole_keeps
    | (intro _ _ _; try dsimp only)
    | (intro _; try dsimp only)
    | split
    | (with_reducible refine State.Keeps.upd ?_ rfl rfl rfl rfl rfl)

theorem State.initRoles_keeps {z s : State} {r} (hk : z.Keeps s) :
    z.Keeps (State.initRoles s r) := by
  unfold State.initRoles
  try dsimp only
  repeat' first
    | with_reducible assumption
    | with_reducible exact State.Keeps.refl _
    | with_reducible first | apply State.Keeps.ite | apply State.Keeps.foldl | apply State.initChain_keeps | apply State.initRole_keeps
    | (intro _ _ _; try dsimp only)
    | (intro _; try dsimp only)
    | split
    | (with_reducible refine State.Keeps.upd ?_ rfl rfl rfl rfl rfl)
    | (with_reducible refine State.Keeps.upd ?_ (List.length_map ..) rfl rfl rfl rfl)
    | (with_reducible refine State.Keeps.upd ?_ rfl (List.length_map ..) rfl rfl rfl)
    | (with_reducible refine State.Keeps.upd ?_ (List.length_map ..) (List.length_map ..) rfl rfl rfl)

theorem State.reportImage_keeps {z s : State} {b h} (hk : z.Keeps s) :
    z.Keeps (State.reportImage s b h) := by
  unfold State.reportImage
  try dsimp only
  repeat' first
    | with_reducible assumption
    | with_reducible exact State.Keeps.refl _
    | with_reducible first | apply State.Keeps.ite | apply State.Keeps.foldl | apply State.wr_keeps
    | (intro _ _ _; try dsimp only)
    | (intro _; try dsimp only)
    | split
    | (with_reducible refine State.Keeps.upd ?_ rfl rfl rfl rfl rfl)

theorem State.lockAtLoad_keeps {z s : State} {h} (hk : z.Keeps s) :
    z.Keeps (State.lockAtLoad s h) := by
  unfold State.lockAtLoad
  try dsimp only
  repeat' first
    | with_reducible assumption
    | with_reducible exact State.Keeps.refl _
    | with_reducible first | apply State.Keeps.ite | apply State.Keeps.foldl | apply State.wr_keeps
    | (intro _ _ _; try dsimp only)
    | (intro _; try dsimp only)
    | split
    | (with_reducible refine State.Keeps.upd ?_ rfl rfl rfl rfl rfl)

theorem State.loadCharter_keeps {z s : State} {b v} (hk : z.Keeps s) :
    z.Keeps (State.loadCharter s b v) := by
  unfold State.loadCharter
  try dsimp only
  repeat' first
    | with_reducible assumption
    | with_reducible exact State.Keeps.refl _
    | with_reducible first | apply State.Keeps.ite | apply State.Keeps.foldl | apply State.wr_keeps | apply State.reportImage_keeps | apply State.loadRegs_keeps | apply State.putAlloc_keeps | apply State.loadKey_keeps | apply State.loadGuild_keeps | apply State.putMdl_keeps | apply State.putSlot_keeps | apply State.syncAsz_keeps | apply State.loadShards_keeps | apply State.lockAtLoad_keeps | apply State.initRoles_keeps
    | (intro _ _ _; try dsimp only)
    | (intro _; try dsimp only)
    | split
    | (with_reducible refine State.Keeps.upd ?_ rfl rfl rfl rfl rfl)
    | (with_reducible refine State.Keeps.upd ?_ (List.length_map ..) rfl rfl rfl rfl)
    | (with_reducible refine State.Keeps.upd ?_ rfl (List.length_map ..) rfl rfl rfl)
    | (with_reducible refine State.Keeps.upd ?_ (List.length_map ..) (List.length_map ..) rfl rfl rfl)

theorem imageReadStep_keeps {z s : State} {data} (hk : z.Keeps s) :
    z.Keeps (imageReadStep data s) := by
  unfold imageReadStep
  try dsimp only
  repeat' first
    | with_reducible assumption
    | with_reducible exact State.Keeps.refl _
    | with_reducible first | apply State.Keeps.ite | apply State.Keeps.foldl | apply State.wr_keeps | apply State.slotRow_keeps | apply State.rejectImage_keeps | apply State.loadCharter_keeps | apply State.burnFuses_keeps
    | (intro _ _ _; try dsimp only)
    | (intro _; try dsimp only)
    | split
    | (with_reducible refine State.Keeps.upd ?_ rfl rfl rfl rfl rfl)

theorem State.joinLowest_keeps {z s : State} {p} (hk : z.Keeps s) :
    z.Keeps (State.joinLowest s p) := by
  unfold State.joinLowest
  try dsimp only
  repeat' first
    | with_reducible assumption
    | with_reducible exact State.Keeps.refl _
    | with_reducible first | apply State.Keeps.ite | apply State.Keeps.foldl | apply State.wr_keeps
    | (intro _ _ _; try dsimp only)
    | (intro _; try dsimp only)
    | split
    | (with_reducible refine State.Keeps.upd ?_ rfl rfl rfl rfl rfl)

theorem tollReadyStep_keeps {a s : State} (h : a.Keeps s) : a.Keeps (tollReadyStep s) := by
  unfold tollReadyStep
  dsimp only
  split
  · exact h
  · split
    · exact h
    · refine State.Keeps.foldl (State.day_keeps ?_) fun t x ht => State.sendDigests_keeps (State.joinLowest_keeps ht)
      exact State.Keeps.upd (State.wr_keeps (State.wr_keeps (State.wr_keeps h))) (List.length_map ..) (List.length_map ..) rfl rfl rfl
theorem State.writeLock_keeps {z s : State} {w} (hk : z.Keeps s) :
    z.Keeps (State.writeLock s w) := by
  unfold State.writeLock
  try dsimp only
  repeat' first
    | with_reducible assumption
    | with_reducible exact State.Keeps.refl _
    | with_reducible first | apply State.Keeps.ite | apply State.Keeps.foldl | apply State.wr_keeps
    | (intro _ _ _; try dsimp only)
    | (intro _; try dsimp only)
    | split
    | (with_reducible refine State.Keeps.upd ?_ rfl rfl rfl rfl rfl)

theorem lockSetStep_keeps {z s : State} {acc w} (hk : z.Keeps s) :
    z.Keeps (lockSetStep acc w s) := by
  unfold lockSetStep
  try dsimp only
  repeat' first
    | with_reducible assumption
    | with_reducible exact State.Keeps.refl _
    | with_reducible first | apply State.Keeps.ite | apply State.Keeps.foldl | apply State.KeepsEither.ite | apply State.KeepsEither.ofInl | apply State.KeepsEither.ofInr | apply State.gate_keeps | apply State.writeLock_keeps
    | (intro _ _ _; try dsimp only)
    | (intro _; try dsimp only)
    | split
    | with_reducible first | refine State.Keeps.ofInl ‹_› ?_ | refine State.Keeps.ofInr ‹_› ?_
    | (with_reducible refine State.Keeps.upd ?_ rfl rfl rfl rfl rfl)
    | dsimp only

theorem lockTimeoutStep_keeps {z s : State} (hk : z.Keeps s) :
    z.Keeps (lockTimeoutStep s) := by
  unfold lockTimeoutStep
  try dsimp only
  repeat' first
    | with_reducible assumption
    | with_reducible exact State.Keeps.refl _
    | with_reducible first | apply State.Keeps.ite | apply State.Keeps.foldl | apply State.wr_keeps
    | (intro _ _ _; try dsimp only)
    | (intro _; try dsimp only)
    | split
    | (with_reducible refine State.Keeps.upd ?_ rfl rfl rfl rfl rfl)


end Sys2Proof.Machine
end

