-- ==== Sys2Proof/Laws/KeepWatchman.lean ====
section
/-! SUPPORT. What the functions of Machine/Watchman.lean keep of a state, whatever they do (State.Keeps). -/

namespace Sys2Proof.Machine

theorem slotSaveStep_keeps {z s : State} (hk : z.Keeps s) :
    z.Keeps (slotSaveStep s) := by
  unfold slotSaveStep
  try dsimp only
  repeat' first
    | with_reducible assumption
    | with_reducible exact State.Keeps.refl _
    | with_reducible first | apply State.Keeps.ite | apply State.Keeps.foldl | apply State.saveSlot_keeps
    | (intro _ _ _; try dsimp only)
    | (intro _; try dsimp only)
    | split
    | (with_reducible refine State.Keeps.upd ?_ rfl rfl rfl rfl rfl)
    | (exact State.Keeps.clk hk hk.hp (Nat.le_refl _) id id)

theorem trimStep_keeps {z s : State} (hk : z.Keeps s) :
    z.Keeps (trimStep s) := by
  unfold trimStep
  try dsimp only
  repeat' first
    | with_reducible assumption
    | with_reducible exact State.Keeps.refl _
    | with_reducible first | apply State.Keeps.ite | apply State.Keeps.foldl
    | (intro _ _ _; try dsimp only)
    | (intro _; try dsimp only)
    | split
    | (with_reducible refine State.Keeps.upd ?_ rfl rfl rfl rfl rfl)
    | (exact State.Keeps.clk hk hk.hp (Nat.le_refl _) id id)

theorem crystalStep_keeps {z s : State} (hk : z.Keeps s) :
    z.Keeps (crystalStep s) := by
  unfold crystalStep
  try dsimp only
  repeat' first
    | with_reducible assumption
    | with_reducible exact State.Keeps.refl _
    | with_reducible first | apply State.Keeps.ite | apply State.Keeps.foldl
    | (intro _ _ _; try dsimp only)
    | (intro _; try dsimp only)
    | split
    | (with_reducible refine State.Keeps.upd ?_ rfl rfl rfl rfl rfl)
    | (exact State.Keeps.clk hk hk.hp (Nat.le_refl _) id id)

theorem xtalFailStep_keeps {z s : State} (hk : z.Keeps s) :
    z.Keeps (xtalFailStep s) := by
  unfold xtalFailStep
  try dsimp only
  repeat' first
    | with_reducible assumption
    | with_reducible exact State.Keeps.refl _
    | with_reducible first | apply State.Keeps.ite | apply State.Keeps.foldl | apply State.day_keeps | apply State.wr_keeps
    | (intro _ _ _; try dsimp only)
    | (intro _; try dsimp only)
    | split
    | (with_reducible refine State.Keeps.upd ?_ rfl rfl rfl rfl rfl)
    | (exact State.Keeps.clk hk hk.hp (Nat.le_refl _) id id)

theorem State.wake_keeps {z s : State} (hk : z.Keeps s) :
    z.Keeps (State.wake s) := by
  unfold State.wake
  try dsimp only
  repeat' first
    | with_reducible assumption
    | with_reducible exact State.Keeps.refl _
    | with_reducible first | apply State.Keeps.ite | apply State.Keeps.foldl | apply State.day_keeps | apply State.warmReset_keeps
    | (intro _ _ _; try dsimp only)
    | (intro _; try dsimp only)
    | split
    | (with_reducible refine State.Keeps.upd ?_ rfl rfl rfl rfl rfl)
    | (exact State.Keeps.clk hk hk.hp (Nat.le_refl _) id id)

theorem hibWakeStep_keeps {z s : State} (hk : z.Keeps s) :
    z.Keeps (hibWakeStep s) := by
  unfold hibWakeStep
  try dsimp only
  repeat' first
    | with_reducible assumption
    | with_reducible exact State.Keeps.refl _
    | with_reducible first | apply State.Keeps.ite | apply State.Keeps.foldl | apply State.wake_keeps
    | (intro _ _ _; try dsimp only)
    | (intro _; try dsimp only)
    | split
    | (with_reducible refine State.Keeps.upd ?_ rfl rfl rfl rfl rfl)
    | (exact State.Keeps.clk hk hk.hp (Nat.le_refl _) id id)

theorem State.event_keeps {z s : State} {k} (hk : z.Keeps s) :
    z.Keeps (State.event s k) := by
  unfold State.event
  try dsimp only
  repeat' first
    | with_reducible assumption
    | with_reducible exact State.Keeps.refl _
    | with_reducible first | apply State.Keeps.ite | apply State.Keeps.foldl | apply State.wr_keeps | apply State.wake_keeps
    | (intro _ _ _; try dsimp only)
    | (intro _; try dsimp only)
    | split
    | (with_reducible refine State.Keeps.upd ?_ rfl rfl rfl rfl rfl)
    | (exact State.Keeps.clk hk hk.hp (Nat.le_refl _) id id)

theorem wakeTimerStep_keeps {z s : State} (hk : z.Keeps s) :
    z.Keeps (wakeTimerStep s) := by
  unfold wakeTimerStep
  try dsimp only
  repeat' first
    | with_reducible assumption
    | with_reducible exact State.Keeps.refl _
    | with_reducible first | apply State.Keeps.ite | apply State.Keeps.foldl | apply State.event_keeps
    | (intro _ _ _; try dsimp only)
    | (intro _; try dsimp only)
    | split
    | (with_reducible refine State.Keeps.upd ?_ rfl rfl rfl rfl rfl)
    | (exact State.Keeps.clk hk hk.hp (Nat.le_refl _) id id)

theorem wakeTollStep_keeps {z s : State} (hk : z.Keeps s) :
    z.Keeps (wakeTollStep s) := by
  unfold wakeTollStep
  try dsimp only
  repeat' first
    | with_reducible assumption
    | with_reducible exact State.Keeps.refl _
    | with_reducible first | apply State.Keeps.ite | apply State.Keeps.foldl | apply State.event_keeps
    | (intro _ _ _; try dsimp only)
    | (intro _; try dsimp only)
    | split
    | (with_reducible refine State.Keeps.upd ?_ rfl rfl rfl rfl rfl)
    | (exact State.Keeps.clk hk hk.hp (Nat.le_refl _) id id)

theorem wakeTempStep_keeps {z s : State} {deg} (hk : z.Keeps s) :
    z.Keeps (wakeTempStep deg s) := by
  unfold wakeTempStep
  try dsimp only
  repeat' first
    | with_reducible assumption
    | with_reducible exact State.Keeps.refl _
    | with_reducible first | apply State.Keeps.ite | apply State.Keeps.foldl | apply State.event_keeps
    | (intro _ _ _; try dsimp only)
    | (intro _; try dsimp only)
    | split
    | (with_reducible refine State.Keeps.upd ?_ rfl rfl rfl rfl rfl)
    | (exact State.Keeps.clk hk hk.hp (Nat.le_refl _) id id)

theorem wakeDroopStep_keeps {z s : State} (hk : z.Keeps s) :
    z.Keeps (wakeDroopStep s) := by
  unfold wakeDroopStep
  try dsimp only
  repeat' first
    | with_reducible assumption
    | with_reducible exact State.Keeps.refl _
    | with_reducible first | apply State.Keeps.ite | apply State.Keeps.foldl | apply State.event_keeps
    | (intro _ _ _; try dsimp only)
    | (intro _; try dsimp only)
    | split
    | (with_reducible refine State.Keeps.upd ?_ rfl rfl rfl rfl rfl)
    | (exact State.Keeps.clk hk hk.hp (Nat.le_refl _) id id)

theorem State.forceHibernate_keeps {z s : State} {trip droop} (hk : z.Keeps s) :
    z.Keeps (State.forceHibernate s trip droop) := by
  unfold State.forceHibernate
  try dsimp only
  repeat' first
    | with_reducible assumption
    | with_reducible exact State.Keeps.refl _
    | with_reducible first | apply State.Keeps.ite | apply State.Keeps.foldl | apply State.endAll_keeps
    | (intro _ _ _; try dsimp only)
    | (intro _; try dsimp only)
    | split
    | (with_reducible refine State.Keeps.upd ?_ rfl rfl rfl rfl rfl)
    | (exact State.Keeps.clk hk hk.hp (Nat.le_refl _) id id)

theorem State.orderHibernate_keeps {z s : State} (hk : z.Keeps s) :
    z.Keeps (State.orderHibernate s) := by
  unfold State.orderHibernate
  try dsimp only
  repeat' first
    | with_reducible assumption
    | with_reducible exact State.Keeps.refl _
    | with_reducible first | apply State.Keeps.ite | apply State.Keeps.foldl | apply State.clearEntries_keeps | apply State.day_keeps
    | (intro _ _ _; try dsimp only)
    | (intro _; try dsimp only)
    | split
    | (with_reducible refine State.Keeps.upd ?_ rfl rfl rfl rfl rfl)
    | (exact State.Keeps.clk hk hk.hp (Nat.le_refl _) id id)

theorem State.writeHib_keeps {z s : State} {key} (hk : z.Keeps s) :
    z.Keeps (State.writeHib s key) := by
  unfold State.writeHib
  try dsimp only
  repeat' first
    | with_reducible assumption
    | with_reducible exact State.Keeps.refl _
    | with_reducible first | apply State.Keeps.ite | apply State.Keeps.foldl | apply State.orderHibernate_keeps | apply State.wr_keeps
    | (intro _ _ _; try dsimp only)
    | (intro _; try dsimp only)
    | split
    | (with_reducible refine State.Keeps.upd ?_ rfl rfl rfl rfl rfl)
    | (exact State.Keeps.clk hk hk.hp (Nat.le_refl _) id id)

theorem hibEnterStep_keeps {z s : State} {acc key} (hk : z.Keeps s) :
    z.Keeps (hibEnterStep acc key s) := by
  unfold hibEnterStep
  try dsimp only
  repeat' first
    | with_reducible assumption
    | with_reducible exact State.Keeps.refl _
    | with_reducible first | apply State.Keeps.ite | apply State.Keeps.foldl | apply State.KeepsEither.ite | apply State.KeepsEither.ofInl | apply State.KeepsEither.ofInr | apply State.gate_keeps | apply State.writeHib_keeps
    | (intro _ _ _; try dsimp only)
    | (intro _; try dsimp only)
    | split
    | with_reducible first | refine State.Keeps.ofInl ‹_› ?_ | refine State.Keeps.ofInr ‹_› ?_
    | (with_reducible refine State.Keeps.upd ?_ rfl rfl rfl rfl rfl)
    | (exact State.Keeps.clk hk hk.hp (Nat.le_refl _) id id)
    | dsimp only

theorem State.noteTemp_keeps {z s : State} {sensor deg} (hk : z.Keeps s) :
    z.Keeps (State.noteTemp s sensor deg) := by
  unfold State.noteTemp
  try dsimp only
  repeat' first
    | with_reducible assumption
    | with_reducible exact State.Keeps.refl _
    | with_reducible first | apply State.Keeps.ite | apply State.Keeps.foldl | apply State.wr_keeps
    | (intro _ _ _; try dsimp only)
    | (intro _; try dsimp only)
    | split
    | (with_reducible refine State.Keeps.upd ?_ rfl rfl rfl rfl rfl)
    | (exact State.Keeps.clk hk hk.hp (Nat.le_refl _) id id)

theorem hotStep_keeps {z s : State} {sensor deg} (hk : z.Keeps s) :
    z.Keeps (hotStep sensor deg s) := by
  unfold hotStep
  try dsimp only
  repeat' first
    | with_reducible assumption
    | with_reducible exact State.Keeps.refl _
    | with_reducible first | apply State.Keeps.ite | apply State.Keeps.foldl | apply State.noteTemp_keeps | apply State.day_keeps | apply State.wr_keeps
    | (intro _ _ _; try dsimp only)
    | (intro _; try dsimp only)
    | split
    | (with_reducible refine State.Keeps.upd ?_ rfl rfl rfl rfl rfl)
    | (exact State.Keeps.clk hk hk.hp (Nat.le_refl _) id id)

theorem coolStep_keeps {z s : State} {sensor deg} (hk : z.Keeps s) :
    z.Keeps (coolStep sensor deg s) := by
  unfold coolStep
  try dsimp only
  repeat' first
    | with_reducible assumption
    | with_reducible exact State.Keeps.refl _
    | with_reducible first | apply State.Keeps.ite | apply State.Keeps.foldl | apply State.noteTemp_keeps | apply State.wr_keeps
    | (intro _ _ _; try dsimp only)
    | (intro _; try dsimp only)
    | split
    | (with_reducible refine State.Keeps.upd ?_ rfl rfl rfl rfl rfl)
    | (exact State.Keeps.clk hk hk.hp (Nat.le_refl _) id id)

theorem tripStep_keeps {z s : State} {sensor deg} (hk : z.Keeps s) :
    z.Keeps (tripStep sensor deg s) := by
  unfold tripStep
  try dsimp only
  repeat' first
    | with_reducible assumption
    | with_reducible exact State.Keeps.refl _
    | with_reducible first | apply State.Keeps.ite | apply State.Keeps.foldl | apply State.noteTemp_keeps | apply State.forceHibernate_keeps | apply State.day_keeps
    | (intro _ _ _; try dsimp only)
    | (intro _; try dsimp only)
    | split
    | (with_reducible refine State.Keeps.upd ?_ rfl rfl rfl rfl rfl)
    | (exact State.Keeps.clk hk hk.hp (Nat.le_refl _) id id)

theorem droopStep_keeps {z s : State} {rail} (hk : z.Keeps s) :
    z.Keeps (droopStep rail s) := by
  unfold droopStep
  try dsimp only
  repeat' first
    | with_reducible assumption
    | with_reducible exact State.Keeps.refl _
    | with_reducible first | apply State.Keeps.ite | apply State.Keeps.foldl | apply State.day_keeps | apply State.wr_keeps | apply State.quadFault_keeps | apply State.forceHibernate_keeps
    | (intro _ _ _; try dsimp only)
    | (intro _; try dsimp only)
    | split
    | (with_reducible refine State.Keeps.upd ?_ rfl rfl rfl rfl rfl)
    | (exact State.Keeps.clk hk hk.hp (Nat.le_refl _) id id)

theorem pllLossStep_keeps {z s : State} {q} (hk : z.Keeps s) :
    z.Keeps (pllLossStep q s) := by
  unfold pllLossStep
  try dsimp only
  repeat' first
    | with_reducible assumption
    | with_reducible exact State.Keeps.refl _
    | with_reducible first | apply State.Keeps.ite | apply State.Keeps.foldl | apply State.quadFault_keeps
    | (intro _ _ _; try dsimp only)
    | (intro _; try dsimp only)
    | split
    | (with_reducible refine State.Keeps.upd ?_ rfl rfl rfl rfl rfl)
    | (exact State.Keeps.clk hk hk.hp (Nat.le_refl _) id id)

theorem celLossStep_keeps {z s : State} (hk : z.Keeps s) :
    z.Keeps (celLossStep s) := by
  unfold celLossStep
  try dsimp only
  repeat' first
    | with_reducible assumption
    | with_reducible exact State.Keeps.refl _
    | with_reducible first | apply State.Keeps.ite | apply State.Keeps.foldl | apply State.warmReset_keeps
    | (intro _ _ _; try dsimp only)
    | (intro _; try dsimp only)
    | split
    | (with_reducible refine State.Keeps.upd ?_ rfl rfl rfl rfl rfl)
    | (exact State.Keeps.clk hk hk.hp (Nat.le_refl _) id id)

theorem hpLossStep_keeps {z s : State} (hk : z.Keeps s) :
    z.Keeps (hpLossStep s) := by
  unfold hpLossStep
  try dsimp only
  repeat' first
    | with_reducible assumption
    | with_reducible exact State.Keeps.refl _
    | with_reducible first | apply State.Keeps.ite | apply State.Keeps.foldl | apply State.warmReset_keeps
    | (intro _ _ _; try dsimp only)
    | (intro _; try dsimp only)
    | split
    | (with_reducible refine State.Keeps.upd ?_ rfl rfl rfl rfl rfl)
    | (exact State.Keeps.clk hk hk.hp (Nat.le_refl _) id id)

theorem powerOnStep_keeps {z s : State} (hk : z.Keeps s) :
    z.Keeps (powerOnStep s) := by
  unfold powerOnStep
  try dsimp only
  repeat' first
    | with_reducible assumption
    | with_reducible exact State.Keeps.refl _
    | with_reducible first | apply State.Keeps.ite | apply State.Keeps.foldl | apply State.blockReset_keeps
    | (intro _ _ _; try dsimp only)
    | (intro _; try dsimp only)
    | split
    | (with_reducible refine State.Keeps.upd ?_ rfl rfl rfl rfl rfl)
    | (exact State.Keeps.clk hk hk.hp (Nat.le_refl _) id id)

theorem State.writeWreset_keeps {z s : State} {key} (hk : z.Keeps s) :
    z.Keeps (State.writeWreset s key) := by
  unfold State.writeWreset
  try dsimp only
  repeat' first
    | with_reducible assumption
    | with_reducible exact State.Keeps.refl _
    | with_reducible first | apply State.Keeps.ite | apply State.Keeps.foldl | apply State.warmReset_keeps
    | (intro _ _ _; try dsimp only)
    | (intro _; try dsimp only)
    | split
    | (with_reducible refine State.Keeps.upd ?_ rfl rfl rfl rfl rfl)
    | (exact State.Keeps.clk hk hk.hp (Nat.le_refl _) id id)

theorem warmResetStep_keeps {z s : State} {src} (hk : z.Keeps s) :
    z.Keeps (warmResetStep src s) := by
  unfold warmResetStep
  try dsimp only
  repeat' first
    | with_reducible assumption
    | with_reducible exact State.Keeps.refl _
    | with_reducible first | apply State.Keeps.ite | apply State.Keeps.foldl | apply State.KeepsEither.ite | apply State.KeepsEither.ofInl | apply State.KeepsEither.ofInr | apply State.warmReset_keeps | apply State.gate_keeps | apply State.writeWreset_keeps
    | (intro _ _ _; try dsimp only)
    | (intro _; try dsimp only)
    | split
    | with_reducible first | refine State.Keeps.ofInl ‹_› ?_ | refine State.Keeps.ofInr ‹_› ?_
    | (with_reducible refine State.Keeps.upd ?_ rfl rfl rfl rfl rfl)
    | (exact State.Keeps.clk hk hk.hp (Nat.le_refl _) id id)
    | dsimp only

theorem powerFailStep_keeps {z s : State} (hk : z.Keeps s) :
    z.Keeps (powerFailStep s) := by
  unfold powerFailStep
  try dsimp only
  repeat' first
    | with_reducible assumption
    | with_reducible exact State.Keeps.refl _
    | with_reducible first | apply State.Keeps.ite | apply State.Keeps.foldl | apply State.endAll_keeps | apply State.flushDbk_keeps | apply State.day_keeps
    | (intro _ _ _; try dsimp only)
    | (intro _; try dsimp only)
    | split
    | (with_reducible refine State.Keeps.upd ?_ rfl rfl rfl rfl rfl)
    | (exact State.Keeps.clk hk hk.hp (Nat.le_refl _) id id)

theorem pfailRiseStep_keeps {z s : State} (hk : z.Keeps s) :
    z.Keeps (pfailRiseStep s) := by
  unfold pfailRiseStep
  try dsimp only
  repeat' first
    | with_reducible assumption
    | with_reducible exact State.Keeps.refl _
    | with_reducible first | apply State.Keeps.ite | apply State.Keeps.foldl | apply State.warmReset_keeps | apply State.wr_keeps
    | (intro _ _ _; try dsimp only)
    | (intro _; try dsimp only)
    | split
    | (with_reducible refine State.Keeps.upd ?_ rfl rfl rfl rfl rfl)
    | (exact State.Keeps.clk hk hk.hp (Nat.le_refl _) id id)


end Sys2Proof.Machine
end

