-- ==== Sys2Proof/Laws/KeepDomain.lean ====
section
/-! SUPPORT. What the functions of Machine/Domain.lean keep of a state, whatever they do (State.Keeps). -/

namespace Sys2Proof.Machine

theorem State.takeFrame_keeps {a s t : State} {l k : Nat} {b f} (h : a.Keeps s) (e : s.takeFrame l k b = some (t, f)) : a.Keeps t := by
  unfold State.takeFrame at e
  dsimp only at e
  split at e
  · cases e
  · cases e
    exact State.Keeps.upd h rfl rfl rfl rfl rfl
theorem State.onFrame_keeps {a s : State} {l k : Nat} {b act} (h : a.Keeps s) (ha : ∀ t f, a.Keeps t → a.Keeps (act t f)) :
    a.Keeps (s.onFrame l k b act) := by
  unfold State.onFrame
  split
  · rename_i x e
    exact ha _ _ (State.takeFrame_keeps h e)
  · exact h
theorem State.helloFrame_keeps {z s : State} {l f} (hk : z.Keeps s) :
    z.Keeps (State.helloFrame s l f) := by
  unfold State.helloFrame
  try dsimp only
  repeat' first
    | with_reducible assumption
    | with_reducible exact State.Keeps.refl _
    | with_reducible first | apply State.Keeps.ite | apply State.Keeps.foldl | apply State.updLane_keeps | apply State.day_keeps | apply State.wr_keeps | apply State.sendDigests_keeps
    | (intro _ _ _; try dsimp only)
    | (intro _; try dsimp only)
    | split
    | (with_reducible refine State.Keeps.upd ?_ rfl rfl rfl rfl rfl)
    | (with_reducible refine State.Keeps.upd ?_ (List.length_map ..) rfl rfl rfl rfl)
    | (with_reducible refine State.Keeps.upd ?_ rfl (List.length_map ..) rfl rfl rfl)
    | (with_reducible refine State.Keeps.upd ?_ (List.length_map ..) (List.length_map ..) rfl rfl rfl)

theorem State.heartbeatFrame_keeps {z s : State} {l} (hk : z.Keeps s) :
    z.Keeps (State.heartbeatFrame s l) := by
  unfold State.heartbeatFrame
  try dsimp only
  repeat' first
    | with_reducible assumption
    | with_reducible exact State.Keeps.refl _
    | with_reducible first | apply State.Keeps.ite | apply State.Keeps.foldl | apply State.updLane_keeps
    | (intro _ _ _; try dsimp only)
    | (intro _; try dsimp only)
    | split
    | (with_reducible refine State.Keeps.upd ?_ rfl rfl rfl rfl rfl)

theorem State.digestFrame_keeps {z s : State} {f} (hk : z.Keeps s) :
    z.Keeps (State.digestFrame s f) := by
  unfold State.digestFrame
  try dsimp only
  repeat' first
    | with_reducible assumption
    | with_reducible exact State.Keeps.refl _
    | with_reducible first | apply State.Keeps.ite | apply State.Keeps.foldl | apply State.wr_keeps | apply State.day_keeps
    | (intro _ _ _; try dsimp only)
    | (intro _; try dsimp only)
    | split
    | (with_reducible refine State.Keeps.upd ?_ rfl rfl rfl rfl rfl)

theorem State.findConflict_keeps {z s : State} {p sess other} (hk : z.Keeps s) :
    z.Keeps (State.findConflict s p sess other) := by
  unfold State.findConflict
  try dsimp only
  repeat' first
    | with_reducible assumption
    | with_reducible exact State.Keeps.refl _
    | with_reducible first | apply State.Keeps.ite | apply State.Keeps.foldl | apply State.bump_keeps | apply State.sendFrame_keeps
    | (intro _ _ _; try dsimp only)
    | (intro _; try dsimp only)
    | split
    | (with_reducible refine State.Keeps.upd ?_ rfl rfl rfl rfl rfl)

theorem State.settleClaim_keeps {z s : State} {p sess dev epoch} (hk : z.Keeps s) :
    z.Keeps (State.settleClaim s p sess dev epoch) := by
  unfold State.settleClaim
  try dsimp only
  repeat' first
    | with_reducible assumption
    | with_reducible exact State.Keeps.refl _
    | with_reducible first | apply State.Keeps.ite | apply State.Keeps.foldl | apply State.loseSession_keeps
    | (intro _ _ _; try dsimp only)
    | (intro _; try dsimp only)
    | split
    | (with_reducible refine State.Keeps.upd ?_ rfl rfl rfl rfl rfl)

theorem State.probeFrame_keeps {z s : State} {f} (hk : z.Keeps s) :
    z.Keeps (State.probeFrame s f) := by
  unfold State.probeFrame
  try dsimp only
  repeat' first
    | with_reducible assumption
    | with_reducible exact State.Keeps.refl _
    | with_reducible first | apply State.Keeps.ite | apply State.Keeps.foldl | apply State.Keeps.getD | apply State.sendFrame_keeps | apply State.findConflict_keeps
    | (intro _ _ _; try dsimp only)
    | (intro _; try dsimp only)
    | split
    | (with_reducible refine State.Keeps.upd ?_ rfl rfl rfl rfl rfl)

theorem State.stateFrame_keeps {z s : State} {f} (hk : z.Keeps s) :
    z.Keeps (State.stateFrame s f) := by
  unfold State.stateFrame
  try dsimp only
  repeat' first
    | with_reducible assumption
    | with_reducible exact State.Keeps.refl _
    | with_reducible first | apply State.Keeps.ite | apply State.Keeps.foldl | apply State.settleClaim_keeps
    | (intro _ _ _; try dsimp only)
    | (intro _; try dsimp only)
    | split
    | (with_reducible refine State.Keeps.upd ?_ rfl rfl rfl rfl rfl)

theorem State.setShard_keeps {z s : State} {p k owner epoch} (hk : z.Keeps s) :
    z.Keeps (State.setShard s p k owner epoch) := by
  unfold State.setShard
  try dsimp only
  repeat' first
    | with_reducible assumption
    | with_reducible exact State.Keeps.refl _
    | with_reducible first | apply State.Keeps.ite | apply State.Keeps.foldl | apply State.Keeps.getD
    | (intro _ _ _; try dsimp only)
    | (intro _; try dsimp only)
    | split
    | (with_reducible refine State.Keeps.upd ?_ rfl rfl rfl rfl rfl)

theorem State.shardConflicts_keeps {z s : State} {p ks} (hk : z.Keeps s) :
    z.Keeps (State.shardConflicts s p ks) := by
  unfold State.shardConflicts
  try dsimp only
  repeat' first
    | with_reducible assumption
    | with_reducible exact State.Keeps.refl _
    | with_reducible first | apply State.Keeps.ite | apply State.Keeps.foldl | apply State.findConflict_keeps
    | (intro _ _ _; try dsimp only)
    | (intro _; try dsimp only)
    | split
    | (with_reducible refine State.Keeps.upd ?_ rfl rfl rfl rfl rfl)

theorem State.shardFrame_keeps {z s : State} {f} (hk : z.Keeps s) :
    z.Keeps (State.shardFrame s f) := by
  unfold State.shardFrame
  try dsimp only
  repeat' first
    | with_reducible assumption
    | with_reducible exact State.Keeps.refl _
    | with_reducible first | apply State.Keeps.ite | apply State.Keeps.foldl | apply State.setShard_keeps | apply State.takeover_keeps | apply State.wr_keeps | apply State.shardConflicts_keeps
    | (intro _ _ _; try dsimp only)
    | (intro _; try dsimp only)
    | split
    | (with_reducible refine State.Keeps.upd ?_ rfl rfl rfl rfl rfl)
    | (with_reducible refine State.Keeps.upd ?_ (List.length_map ..) rfl rfl rfl rfl)
    | (with_reducible refine State.Keeps.upd ?_ rfl (List.length_map ..) rfl rfl rfl)
    | (with_reducible refine State.Keeps.upd ?_ (List.length_map ..) (List.length_map ..) rfl rfl rfl)

theorem State.dirFrame_keeps {z s : State} {f} (hk : z.Keeps s) :
    z.Keeps (State.dirFrame s f) := by
  unfold State.dirFrame
  try dsimp only
  repeat' first
    | with_reducible assumption
    | with_reducible exact State.Keeps.refl _
    | with_reducible first | apply State.Keeps.ite | apply State.Keeps.foldl
    | (intro _ _ _; try dsimp only)
    | (intro _; try dsimp only)
    | split
    | (with_reducible refine State.Keeps.upd ?_ rfl rfl rfl rfl rfl)

theorem State.grantRefused_keeps {z s : State} {p sess dev reason} (hk : z.Keeps s) :
    z.Keeps (State.grantRefused s p sess dev reason) := by
  unfold State.grantRefused
  try dsimp only
  repeat' first
    | with_reducible assumption
    | with_reducible exact State.Keeps.refl _
    | with_reducible first | apply State.Keeps.ite | apply State.Keeps.foldl | apply State.day_keeps
    | (intro _ _ _; try dsimp only)
    | (intro _; try dsimp only)
    | split
    | (with_reducible refine State.Keeps.upd ?_ rfl rfl rfl rfl rfl)

theorem State.sendNack_keeps {z s : State} {f reason} (hk : z.Keeps s) :
    z.Keeps (State.sendNack s f reason) := by
  unfold State.sendNack
  try dsimp only
  repeat' first
    | with_reducible assumption
    | with_reducible exact State.Keeps.refl _
    | with_reducible first | apply State.Keeps.ite | apply State.Keeps.foldl | apply State.sendFrame_keeps
    | (intro _ _ _; try dsimp only)
    | (intro _; try dsimp only)
    | split
    | (with_reducible refine State.Keeps.upd ?_ rfl rfl rfl rfl rfl)

theorem State.startMove_keeps {z s : State} {p sess target reason} (hk : z.Keeps s) :
    z.Keeps (State.startMove s p sess target reason) := by
  unfold State.startMove
  try dsimp only
  repeat' first
    | with_reducible assumption
    | with_reducible exact State.Keeps.refl _
    | with_reducible first | apply State.Keeps.ite | apply State.Keeps.foldl | apply State.moveOn_keeps
    | (intro _ _ _; try dsimp only)
    | (intro _; try dsimp only)
    | split
    | (with_reducible refine State.Keeps.upd ?_ rfl rfl rfl rfl rfl)

theorem State.orderMove_keeps {z s : State} {acc w} (hk : z.Keeps s) :
    z.Keeps (State.orderMove s acc w) := by
  unfold State.orderMove
  try dsimp only
  repeat' first
    | with_reducible assumption
    | with_reducible exact State.Keeps.refl _
    | with_reducible first | apply State.Keeps.ite | apply State.Keeps.foldl | apply State.Keeps.getD | apply State.startMove_keeps
    | (intro _ _ _; try dsimp only)
    | (intro _; try dsimp only)
    | split
    | (with_reducible refine State.Keeps.upd ?_ rfl rfl rfl rfl rfl)

theorem moveStep_keeps {z s : State} {acc w} (hk : z.Keeps s) :
    z.Keeps (moveStep acc w s) := by
  unfold moveStep
  try dsimp only
  repeat' first
    | with_reducible assumption
    | with_reducible exact State.Keeps.refl _
    | with_reducible first | apply State.Keeps.ite | apply State.Keeps.foldl | apply State.KeepsEither.ite | apply State.KeepsEither.ofInl | apply State.KeepsEither.ofInr | apply State.gate_keeps | apply State.orderMove_keeps
    | (intro _ _ _; try dsimp only)
    | (intro _; try dsimp only)
    | split
    | with_reducible first | refine State.Keeps.ofInl ‹_› ?_ | refine State.Keeps.ofInr ‹_› ?_
    | (with_reducible refine State.Keeps.upd ?_ rfl rfl rfl rfl rfl)
    | dsimp only

theorem State.reqFrame_keeps {z s : State} {f} (hk : z.Keeps s) :
    z.Keeps (State.reqFrame s f) := by
  unfold State.reqFrame
  try dsimp only
  repeat' first
    | with_reducible assumption
    | with_reducible exact State.Keeps.refl _
    | with_reducible first | apply State.Keeps.ite | apply State.Keeps.foldl | apply State.sendNack_keeps | apply State.startMove_keeps
    | (intro _ _ _; try dsimp only)
    | (intro _; try dsimp only)
    | split
    | (with_reducible refine State.Keeps.upd ?_ rfl rfl rfl rfl rfl)

theorem State.acceptOwner_keeps {z s : State} {p sess owner holder epoch ckpt} (hk : z.Keeps s) :
    z.Keeps (State.acceptOwner s p sess owner holder epoch ckpt) := by
  unfold State.acceptOwner
  try dsimp only
  repeat' first
    | with_reducible assumption
    | with_reducible exact State.Keeps.refl _
    | with_reducible first | apply State.Keeps.ite | apply State.Keeps.foldl | apply State.putExc_keeps | apply State.writeRecord_keeps | apply State.dropMove_keeps | apply State.freeEntry_keeps | apply State.loseSession_keeps | apply State.bump_keeps
    | (intro _ _ _; try dsimp only)
    | (intro _; try dsimp only)
    | split
    | (with_reducible refine State.Keeps.upd ?_ rfl rfl rfl rfl rfl)

theorem State.grantFrame_keeps {z s : State} {f} (hk : z.Keeps s) :
    z.Keeps (State.grantFrame s f) := by
  unfold State.grantFrame
  try dsimp only
  repeat' first
    | with_reducible assumption
    | with_reducible exact State.Keeps.refl _
    | with_reducible first | apply State.Keeps.ite | apply State.Keeps.foldl | apply State.grantRefused_keeps | apply State.sendNack_keeps | apply State.acceptOwner_keeps
    | (intro _ _ _; try dsimp only)
    | (intro _; try dsimp only)
    | split
    | (with_reducible refine State.Keeps.upd ?_ rfl rfl rfl rfl rfl)

theorem State.nackFrame_keeps {z s : State} {f} (hk : z.Keeps s) :
    z.Keeps (State.nackFrame s f) := by
  unfold State.nackFrame
  try dsimp only
  repeat' first
    | with_reducible assumption
    | with_reducible exact State.Keeps.refl _
    | with_reducible first | apply State.Keeps.ite | apply State.Keeps.foldl | apply State.Keeps.getD | apply State.dropMove_keeps | apply State.grantRefused_keeps | apply State.startRevive_keeps
    | (intro _ _ _; try dsimp only)
    | (intro _; try dsimp only)
    | split
    | (with_reducible refine State.Keeps.upd ?_ rfl rfl rfl rfl rfl)

theorem State.announceFrame_keeps {z s : State} {f} (hk : z.Keeps s) :
    z.Keeps (State.announceFrame s f) := by
  unfold State.announceFrame
  try dsimp only
  repeat' first
    | with_reducible assumption
    | with_reducible exact State.Keeps.refl _
    | with_reducible first | apply State.Keeps.ite | apply State.Keeps.foldl | apply State.shardConflicts_keeps | apply State.setShard_keeps | apply State.acceptOwner_keeps
    | (intro _ _ _; try dsimp only)
    | (intro _; try dsimp only)
    | split
    | (with_reducible refine State.Keeps.upd ?_ rfl rfl rfl rfl rfl)

theorem State.reviveForPush_keeps {z s : State} {p sess} (hk : z.Keeps s) :
    z.Keeps (State.reviveForPush s p sess) := by
  unfold State.reviveForPush
  try dsimp only
  repeat' first
    | with_reducible assumption
    | with_reducible exact State.Keeps.refl _
    | with_reducible first | apply State.Keeps.ite | apply State.Keeps.foldl | apply State.startRevive_keeps
    | (intro _ _ _; try dsimp only)
    | (intro _; try dsimp only)
    | split
    | (with_reducible refine State.Keeps.upd ?_ rfl rfl rfl rfl rfl)

theorem State.tapFrame_keeps {z s : State} {f} (hk : z.Keeps s) :
    z.Keeps (State.tapFrame s f) := by
  unfold State.tapFrame
  try dsimp only
  repeat' first
    | with_reducible assumption
    | with_reducible exact State.Keeps.refl _
    | with_reducible first | apply State.Keeps.ite | apply State.Keeps.foldl | apply State.reviveForPush_keeps
    | (intro _ _ _; try dsimp only)
    | (intro _; try dsimp only)
    | split
    | (with_reducible refine State.Keeps.upd ?_ rfl rfl rfl rfl rfl)
    | (with_reducible refine State.Keeps.upd ?_ (List.length_map ..) rfl rfl rfl rfl)
    | (with_reducible refine State.Keeps.upd ?_ rfl (List.length_map ..) rfl rfl rfl)
    | (with_reducible refine State.Keeps.upd ?_ (List.length_map ..) (List.length_map ..) rfl rfl rfl)

theorem State.headFrame_keeps {z s : State} {f} (hk : z.Keeps s) :
    z.Keeps (State.headFrame s f) := by
  unfold State.headFrame
  try dsimp only
  repeat' first
    | with_reducible assumption
    | with_reducible exact State.Keeps.refl _
    | with_reducible first | apply State.Keeps.ite | apply State.Keeps.foldl | apply State.dropPush_keeps | apply State.answerPush_keeps | apply State.findConflict_keeps | apply State.reviveForPush_keeps | apply State.settlePushes_keeps
    | (intro _ _ _; try dsimp only)
    | (intro _; try dsimp only)
    | split
    | (with_reducible refine State.Keeps.upd ?_ rfl rfl rfl rfl rfl)

theorem State.ackFrame_keeps {z s : State} {f} (hk : z.Keeps s) :
    z.Keeps (State.ackFrame s f) := by
  unfold State.ackFrame
  try dsimp only
  repeat' first
    | with_reducible assumption
    | with_reducible exact State.Keeps.refl _
    | with_reducible first | apply State.Keeps.ite | apply State.Keeps.foldl | apply State.updReq_keeps
    | (intro _ _ _; try dsimp only)
    | (intro _; try dsimp only)
    | split
    | (with_reducible refine State.Keeps.upd ?_ rfl rfl rfl rfl rfl)

theorem pushExpiryStep_keeps {z s : State} {p sess} (hk : z.Keeps s) :
    z.Keeps (pushExpiryStep p sess s) := by
  unfold pushExpiryStep
  try dsimp only
  repeat' first
    | with_reducible assumption
    | with_reducible exact State.Keeps.refl _
    | with_reducible first | apply State.Keeps.ite | apply State.Keeps.foldl
    | (intro _ _ _; try dsimp only)
    | (intro _; try dsimp only)
    | split
    | (with_reducible refine State.Keeps.upd ?_ rfl rfl rfl rfl rfl)

theorem State.txnFailed_keeps {z s : State} {t} (hk : z.Keeps s) :
    z.Keeps (State.txnFailed s t) := by
  unfold State.txnFailed
  try dsimp only
  repeat' first
    | with_reducible assumption
    | with_reducible exact State.Keeps.refl _
    | with_reducible first | apply State.Keeps.ite | apply State.Keeps.foldl | apply State.day_keeps | apply State.wr_keeps | apply State.reviveLost_keeps | apply State.account_keeps | apply State.failJobs_keeps
    | (intro _ _ _; try dsimp only)
    | (intro _; try dsimp only)
    | split
    | (with_reducible refine State.Keeps.upd ?_ rfl rfl rfl rfl rfl)

theorem State.dropTxn_keeps {z s : State} {id} (hk : z.Keeps s) :
    z.Keeps (State.dropTxn s id) := by
  unfold State.dropTxn
  try dsimp only
  repeat' first
    | with_reducible assumption
    | with_reducible exact State.Keeps.refl _
    | with_reducible first | apply State.Keeps.ite | apply State.Keeps.foldl
    | (intro _ _ _; try dsimp only)
    | (intro _; try dsimp only)
    | split
    | (with_reducible refine State.Keeps.upd ?_ rfl rfl rfl rfl rfl)

theorem State.cplFrame_keeps {z s : State} {f} (hk : z.Keeps s) :
    z.Keeps (State.cplFrame s f) := by
  unfold State.cplFrame
  try dsimp only
  repeat' first
    | with_reducible assumption
    | with_reducible exact State.Keeps.refl _
    | with_reducible first | apply State.Keeps.ite | apply State.Keeps.foldl | apply State.txnFailed_keeps | apply State.dropTxn_keeps | apply State.dirWrite_keeps
    | (intro _ _ _; try dsimp only)
    | (intro _; try dsimp only)
    | split
    | (with_reducible refine State.Keeps.upd ?_ rfl rfl rfl rfl rfl)
    | (with_reducible refine State.Keeps.upd ?_ (List.length_map ..) rfl rfl rfl rfl)
    | (with_reducible refine State.Keeps.upd ?_ rfl (List.length_map ..) rfl rfl rfl)
    | (with_reducible refine State.Keeps.upd ?_ (List.length_map ..) (List.length_map ..) rfl rfl rfl)

theorem State.wrAckFrame_keeps {z s : State} {f} (hk : z.Keeps s) :
    z.Keeps (State.wrAckFrame s f) := by
  unfold State.wrAckFrame
  try dsimp only
  repeat' first
    | with_reducible assumption
    | with_reducible exact State.Keeps.refl _
    | with_reducible first | apply State.Keeps.ite | apply State.Keeps.foldl | apply State.dropTxn_keeps | apply State.txnFailed_keeps
    | (intro _ _ _; try dsimp only)
    | (intro _; try dsimp only)
    | split
    | (with_reducible refine State.Keeps.upd ?_ rfl rfl rfl rfl rfl)

theorem ownTimeoutStep_keeps {z s : State} {p sess} (hk : z.Keeps s) :
    z.Keeps (ownTimeoutStep p sess s) := by
  unfold ownTimeoutStep
  try dsimp only
  repeat' first
    | with_reducible assumption
    | with_reducible exact State.Keeps.refl _
    | with_reducible first | apply State.Keeps.ite | apply State.Keeps.foldl | apply State.Keeps.getD | apply State.wr_keeps | apply State.dropMove_keeps | apply State.sendFrame_keeps
    | (intro _ _ _; try dsimp only)
    | (intro _; try dsimp only)
    | split
    | (with_reducible refine State.Keeps.upd ?_ rfl rfl rfl rfl rfl)
    | (with_reducible refine State.Keeps.upd ?_ (List.length_map ..) rfl rfl rfl rfl)
    | (with_reducible refine State.Keeps.upd ?_ rfl (List.length_map ..) rfl rfl rfl)
    | (with_reducible refine State.Keeps.upd ?_ (List.length_map ..) (List.length_map ..) rfl rfl rfl)


end Sys2Proof.Machine
end

