-- ==== Sys2Proof/Laws/KeepReads.lean ====
section
/-! SUPPORT. What the functions of Machine/Reads.lean keep of a state, whatever they do (State.Keeps). -/

namespace Sys2Proof.Machine

theorem State.readAccess_keeps {z s : State} {acc size a} (hk : z.Keeps s) :
    z.Keeps (State.readAccess s acc size a).2 := by
  unfold State.readAccess
  try dsimp only
  repeat' first
    | with_reducible assumption
    | with_reducible exact State.Keeps.refl _
    | with_reducible first | apply State.Keeps.ite | apply State.Keeps.foldl | apply State.deny_keeps
    | (intro _ _ _; try dsimp only)
    | (intro _; try dsimp only)
    | split
    | (with_reducible refine State.Keeps.upd ?_ rfl rfl rfl rfl rfl)
    | dsimp only


end Sys2Proof.Machine
end

