-- ==== Sys2Proof/Laws/KeepControl.lean ====
section
/-! SUPPORT. What the functions of Machine/Control.lean keep of a state, whatever they do (State.Keeps). -/

namespace Sys2Proof.Machine

theorem State.writeField_keeps {z s : State} {f i w} (hk : z.Keeps s) :
    z.Keeps (State.writeField s f i w) := by
  unfold State.writeField
  try dsimp only
  repeat' first
    | with_reducible assumption
    | with_reducible exact State.Keeps.refl _
    | with_reducible first | apply State.Keeps.ite | apply State.Keeps.foldl | apply State.wr_keeps
    | (intro _ _ _; try dsimp only)
    | (intro _; try dsimp only)
    | split
    | (with_reducible refine State.Keeps.upd ?_ rfl rfl rfl rfl rfl)

theorem State.writeFields_keeps {z s : State} {a w} (hk : z.Keeps s) :
    z.Keeps (State.writeFields s a w) := by
  unfold State.writeFields
  try dsimp only
  repeat' first
    | with_reducible assumption
    | with_reducible exact State.Keeps.refl _
    | with_reducible first | apply State.Keeps.ite | apply State.Keeps.foldl | apply State.writeField_keeps
    | (intro _ _ _; try dsimp only)
    | (intro _; try dsimp only)
    | split
    | (with_reducible refine State.Keeps.upd ?_ rfl rfl rfl rfl rfl)

theorem State.holdTimerHi_keeps {a s : State} {w} (h : a.Keeps s) : a.Keeps (s.holdTimerHi w) :=
  State.Keeps.clk h h.hp (Nat.le_refl _) id id
theorem State.writeTimerLo_keeps {z s : State} {w} (hk : z.Keeps s) :
    z.Keeps (State.writeTimerLo s w) := by
  unfold State.writeTimerLo
  try dsimp only
  repeat' first
    | with_reducible assumption
    | with_reducible exact State.Keeps.refl _
    | with_reducible first | apply State.Keeps.ite | apply State.Keeps.foldl | apply State.wr_keeps
    | (intro _ _ _; try dsimp only)
    | (intro _; try dsimp only)
    | split
    | (with_reducible refine State.Keeps.upd ?_ rfl rfl rfl rfl rfl)

theorem State.keepPfLo_keeps {z s : State} {acc p w} (hk : z.Keeps s) :
    z.Keeps (State.keepPfLo s acc p w) := by
  unfold State.keepPfLo
  try dsimp only
  repeat' first
    | with_reducible assumption
    | with_reducible exact State.Keeps.refl _
    | with_reducible first | apply State.Keeps.ite | apply State.Keeps.foldl | apply State.updPit_keeps
    | (intro _ _ _; try dsimp only)
    | (intro _; try dsimp only)
    | split
    | (with_reducible refine State.Keeps.upd ?_ rfl rfl rfl rfl rfl)

theorem State.keepMoveLo_keeps {z s : State} {acc w} (hk : z.Keeps s) :
    z.Keeps (State.keepMoveLo s acc w) := by
  unfold State.keepMoveLo
  try dsimp only
  repeat' first
    | with_reducible assumption
    | with_reducible exact State.Keeps.refl _
    | with_reducible first | apply State.Keeps.ite | apply State.Keeps.foldl
    | (intro _ _ _; try dsimp only)
    | (intro _; try dsimp only)
    | split
    | (with_reducible refine State.Keeps.upd ?_ rfl rfl rfl rfl rfl)

theorem State.writeRoute_keeps {z s : State} {w} (hk : z.Keeps s) :
    z.Keeps (State.writeRoute s w) := by
  unfold State.writeRoute
  try dsimp only
  repeat' first
    | with_reducible assumption
    | with_reducible exact State.Keeps.refl _
    | with_reducible first | apply State.Keeps.ite | apply State.Keeps.foldl
    | (intro _ _ _; try dsimp only)
    | (intro _; try dsimp only)
    | split
    | (with_reducible refine State.Keeps.upd ?_ rfl rfl rfl rfl rfl)

theorem State.writePitReset_keeps {z s : State} {w} (hk : z.Keeps s) :
    z.Keeps (State.writePitReset s w) := by
  unfold State.writePitReset
  try dsimp only
  repeat' first
    | with_reducible assumption
    | with_reducible exact State.Keeps.refl _
    | with_reducible first | apply State.Keeps.ite | apply State.Keeps.foldl | apply State.resetPitch_keeps
    | (intro _ _ _; try dsimp only)
    | (intro _; try dsimp only)
    | split
    | (with_reducible refine State.Keeps.upd ?_ rfl rfl rfl rfl rfl)

theorem State.writePitCtrl_keeps {z s : State} {p w} (hk : z.Keeps s) :
    z.Keeps (State.writePitCtrl s p w) := by
  unfold State.writePitCtrl
  try dsimp only
  repeat' first
    | with_reducible assumption
    | with_reducible exact State.Keeps.refl _
    | with_reducible first | apply State.Keeps.ite | apply State.Keeps.foldl | apply State.enable_keeps | apply State.disable_keeps
    | (intro _ _ _; try dsimp only)
    | (intro _; try dsimp only)
    | split
    | (with_reducible refine State.Keeps.upd ?_ rfl rfl rfl rfl rfl)

theorem State.writeAszCtrl_keeps {z s : State} {p w} (hk : z.Keeps s) :
    z.Keeps (State.writeAszCtrl s p w) := by
  unfold State.writeAszCtrl
  try dsimp only
  repeat' first
    | with_reducible assumption
    | with_reducible exact State.Keeps.refl _
    | with_reducible first | apply State.Keeps.ite | apply State.Keeps.foldl | apply State.setFreeze_keeps | apply State.kick_keeps | apply State.startExport_keeps
    | (intro _ _ _; try dsimp only)
    | (intro _; try dsimp only)
    | split
    | (with_reducible refine State.Keeps.upd ?_ rfl rfl rfl rfl rfl)

theorem State.writeActs_keeps {a s t : State} {acc f} {i w : Nat} (h : a.Keeps s) (e : s.writeActs acc f i w = some t) : a.Keeps t := by
  unfold State.writeActs at e
  split at e
  · exact Option.some.inj e ▸ State.writeZeroise_keeps h
  · exact Option.some.inj e ▸ State.writePitReset_keeps h
  · exact Option.some.inj e ▸ State.raiseKeyMin_keeps h
  · exact Option.some.inj e ▸ State.Keeps.ite (fun _ => State.rotateKey_keeps h) fun _ => h
  · exact Option.some.inj e ▸ State.keepPfLo_keeps h
  · exact Option.some.inj e ▸ State.queuePrefetch_keeps h
  · exact Option.some.inj e ▸ State.writeQuar_keeps h
  · exact Option.some.inj e ▸ State.writeTimerLo_keeps h
  · exact Option.some.inj e ▸ State.holdTimerHi_keeps h
  · exact Option.some.inj e ▸ State.writeHib_keeps h
  · exact Option.some.inj e ▸ State.writeWreset_keeps h
  · exact Option.some.inj e ▸ State.writeStlReset_keeps h
  · exact Option.some.inj e ▸ State.writeClear_keeps h
  · exact Option.some.inj e ▸ State.writeLock_keeps h
  · exact Option.some.inj e ▸ State.amdCtrl_keeps h
  · exact Option.some.inj e ▸ State.keepMoveLo_keeps h
  · exact Option.some.inj e ▸ State.orderMove_keeps h
  · exact Option.some.inj e ▸ State.writeRoute_keeps h
  · exact Option.some.inj e ▸ State.setAssize_keeps h
  · exact Option.some.inj e ▸ State.writeAszCtrl_keeps h
  · exact Option.some.inj e ▸ State.writePitCtrl_keeps h
  · exact Option.some.inj e ▸ State.ringDoorbell_keeps h
  · exact Option.some.inj e ▸ State.setVqHead_keeps h
  · exact Option.some.inj e ▸ State.Keeps.ite (fun _ => State.ringBell_keeps h) fun _ => h
  · cases e
theorem State.writeWord_keeps {a s : State} {acc} {x w : Nat} (h : a.Keeps s) : a.Keeps (s.writeWord acc x w) := by
  unfold State.writeWord
  split
  · rename_i t e
    obtain ⟨y, -, hy⟩ := List.exists_of_findSome?_eq_some e
    exact State.writeActs_keeps h hy
  · exact State.writeFields_keeps h
theorem regWriteStep_keeps {z s : State} {acc a v} (hk : z.Keeps s) :
    z.Keeps (regWriteStep acc a v s) := by
  unfold regWriteStep
  try dsimp only
  repeat' first
    | with_reducible assumption
    | with_reducible exact State.Keeps.refl _
    | with_reducible first | apply State.Keeps.ite | apply State.Keeps.foldl | apply State.writeWord_keeps | apply State.deny_keeps
    | (intro _ _ _; try dsimp only)
    | (intro _; try dsimp only)
    | split
    | (with_reducible refine State.Keeps.upd ?_ rfl rfl rfl rfl rfl)


end Sys2Proof.Machine
end

