-- ==== Sys2Proof/WellFormed.lean ====
section
/-! DEFINITION. Commands that a port can carry: what the port's own framing fixes of a command's operands and their types do not
say. The meanings answer ill-formed commands too (a frame that breaks the rules is dropped, R282). -/

namespace Sys2Proof

/-- Why a command is ill formed. -/
inductive WfErr where
  /-- a flit is 640 bytes (R277) -/
  | flitLength
  /-- a frame is a multiple of 8 bytes from 32 to 624 (R282) -/
  | frameLength
  /-- each copy of the location block is 64 bytes (Table 14-2) -/
  | locationLength
  /-- a table section is of type 0x07, 0x08 or 0x09 (Table 14-4) -/
  | tableType
  /-- a descriptor is 64 bytes (Table 2-2), a clearing order 320 (R391) -/
  | readLength
  /-- a targeted test fails at one of the 8 steps of Table 16-2, or passes (0) -/
  | stallTestStep
  deriving DecidableEq, Repr

/-- A read that did not fail brought `n` bytes. -/
def ReadData.has (d : ReadData) (n : Nat) : Bool :=
  match d with
  | .ok b => b.length == n
  | .error => true

def frameLenOk (b : List Byte) : Bool := b.length % 8 == 0 && 32 ≤ b.length && b.length ≤ 624

def wfNeed (ok : Bool) (e : WfErr) : Option WfErr := if ok then none else some e

def tableTypeOk (t : BitVec 8) : Bool := t == 0x07#8 || t == 0x08#8 || t == 0x09#8

/-- The first thing wrong with a command. -/
def Instr.check : Instr → Option WfErr
  | .flitReceive _ _ _ b => wfNeed (b.length == 640) .flitLength
  | .startup _ _ _ a b => wfNeed (a.length == 64 && b.length == 64) .locationLength
  | .tableReloadComplete _ t _ _ => wfNeed (tableTypeOk t) .tableType
  | .t1UncorrError _ part => (match part with
    | .table _ t _ => wfNeed (tableTypeOk t) .tableType
    | .tile _ | .stock _ _ _ | .entry _ _ | .workingSet _ _ => none)
  | .t0CorrectedFault _ part => (match part with
    | .table t _ => wfNeed (tableTypeOk t) .tableType
    | .word | .tile _ | .activation _ _ => none)
  | .descriptorRead _ d => wfNeed (d.has 64) .readLength
  | .clearOrderChecked d => wfNeed (d.has 320) .readLength
  | .stallTestComplete _ st => wfNeed (decide (st.toNat ≤ 8)) .stallTestStep
  | .hello _ b => wfNeed (frameLenOk b) .frameLength
  | .heartbeat _ b => wfNeed (frameLenOk b) .frameLength
  | .digest _ b => wfNeed (frameLenOk b) .frameLength
  | .shardMap _ b => wfNeed (frameLenOk b) .frameLength
  | .dirLoc _ b => wfNeed (frameLenOk b) .frameLength
  | .ownReq _ b => wfNeed (frameLenOk b) .frameLength
  | .ownGrant _ b => wfNeed (frameLenOk b) .frameLength
  | .ownNack _ b => wfNeed (frameLenOk b) .frameLength
  | .ownProbe _ b => wfNeed (frameLenOk b) .frameLength
  | .ownState _ b => wfNeed (frameLenOk b) .frameLength
  | .ownAnnounce _ b => wfNeed (frameLenOk b) .frameLength
  | .peerLostFrame _ b => wfNeed (frameLenOk b) .frameLength
  | .pushTap _ b => wfNeed (frameLenOk b) .frameLength
  | .pushHead _ b => wfNeed (frameLenOk b) .frameLength
  | .pushAck _ b => wfNeed (frameLenOk b) .frameLength
  | .memCpl _ b => wfNeed (frameLenOk b) .frameLength
  | .memWrAck _ b => wfNeed (frameLenOk b) .frameLength
  | .tollQuery .. | .admissionLapse .. | .energyDrainTick | .creditFactorRecover .. | .qtabEntryWrite ..
  | .doorbell .. | .segmentListRead .. | .tokenBufferRead .. | .payloadReadComplete .. | .intakeVerdictDecided ..
  | .intakeDelivery .. | .irqTimerExpiry .. | .streamOpenComplete .. | .arrivalPassComplete ..
  | .chainStageServe .. | .streamResolve .. | .tokenRelease .. | .constraintAnswer .. | .vqHeadWrite ..
  | .pitchEnable .. | .homeCopiesWritten .. | .pitchDisable .. | .pitchDrainComplete .. | .bellRing ..
  | .bellComplete .. | .pitchReset .. | .reviveComplete .. | .poolTimeout .. | .prefetchRequest ..
  | .prefetchStart .. | .prefetchHoldExpiry .. | .parkStart .. | .eviction | .parkComplete ..
  | .writeBackComplete .. | .tileDeadline .. | .tileArrival .. | .slackExhausted .. | .pretailTimeout ..
  | .patrolScrub .. | .tileRestoreComplete .. | .stockRereadComplete .. | .roleReview | .roleLoadComplete ..
  | .dozeEntry .. | .napEntry .. | .stallWakeComplete .. | .assizeWindowEnd .. | .trainStepComplete ..
  | .benchStepTimeout .. | .shadowEvalComplete .. | .calibStaged .. | .assizeKick .. | .assizeFreeze ..
  | .assizeEnable .. | .assizeExport .. | .exportComplete .. | .keyRotate .. | .keyverMinRaise .. | .zeroise ..
  | .registerWrite .. | .optimeRead .. | .retryFlit .. | .heartbeatSend | .heartbeatMiss .. | .fecLockLoss ..
  | .laneTestComplete .. | .ownershipMove .. | .ownTimeout .. | .pushBufferExpiry .. | .imageReadComplete ..
  | .tollReady | .lockSet .. | .lockTimeout | .amendSubmit .. | .amendCancel .. | .amendReadComplete ..
  | .amendStaged | .amendWaitEnd | .amendWaitTimeout | .counterSlotSave | .oscTrim | .xtalFail | .wakeTimer
  | .wakeToll | .wakeFabric .. | .wakeTemp .. | .wakeDroop | .thermalHot .. | .thermalCool .. | .thermalTrip ..
  | .supplyDroop .. | .quadrantPllLoss .. | .celPllLoss | .hpClkLoss | .hibernateEnter .. | .hibernateWake
  | .powerOn | .warmReset .. | .powerFail | .pfailRise | .stallReset .. | .stallFault .. | .repinSlicesLoaded ..
  | .quadrantFault .. | .quadrantRecovered .. | .qwaitTimeout .. | .bankTestComplete .. | .sharedFault ..
  | .hpFlitErr .. | .daybookProgramComplete | .sectorEraseComplete | .viewNext .. | .viewFetchComplete ..
  | .viewRewind .. | .clearOrderSubmit .. | .clearCommit | .finalPayloadRead .. | .crystalStable
  | .equalisationConverged .. | .granuleZeroed | .zeroisationComplete => none

/-- A command a port can carry. -/
def Instr.wf (i : Instr) : Bool := i.check.isNone

end Sys2Proof
end

