-- ==== Sys2Proof/Laws/PerInstr.lean ====
section
/-! SUPPORT. What holds of every command as syntax: the frame a well-formed command carries has a length the fabric
allows (R282). -/

namespace Sys2Proof.Laws.Framing

/-- The frame of a command that carries one. -/
def frame? : Instr → Option (List Byte)
  | .hello _ b => some b
  | .heartbeat _ b => some b
  | .digest _ b => some b
  | .shardMap _ b => some b
  | .dirLoc _ b => some b
  | .ownReq _ b => some b
  | .ownGrant _ b => some b
  | .ownNack _ b => some b
  | .ownProbe _ b => some b
  | .ownState _ b => some b
  | .ownAnnounce _ b => some b
  | .peerLostFrame _ b => some b
  | .pushTap _ b => some b
  | .pushHead _ b => some b
  | .pushAck _ b => some b
  | .memCpl _ b => some b
  | .memWrAck _ b => some b
  | .tollQuery .. | .admissionLapse .. | .energyDrainTick | .creditFactorRecover .. | .qtabEntryWrite ..
  | .doorbell .. | .descriptorRead .. | .segmentListRead .. | .tokenBufferRead .. | .payloadReadComplete ..
  | .intakeVerdictDecided .. | .intakeDelivery .. | .irqTimerExpiry .. | .streamOpenComplete .. | .arrivalPassComplete ..
  | .chainStageServe .. | .streamResolve .. | .tokenRelease .. | .constraintAnswer .. | .vqHeadWrite ..
  | .pitchEnable .. | .homeCopiesWritten .. | .pitchDisable .. | .pitchDrainComplete .. | .bellRing ..
  | .bellComplete .. | .pitchReset .. | .reviveComplete .. | .poolTimeout .. | .prefetchRequest .. | .prefetchStart ..
  | .prefetchHoldExpiry .. | .parkStart .. | .eviction | .parkComplete .. | .writeBackComplete .. | .tileDeadline ..
  | .tileArrival .. | .slackExhausted .. | .pretailTimeout .. | .t1UncorrError .. | .patrolScrub .. | .tileRestoreComplete ..
  | .tableReloadComplete .. | .stockRereadComplete .. | .roleReview | .roleLoadComplete .. | .dozeEntry ..
  | .napEntry .. | .stallWakeComplete .. | .assizeWindowEnd .. | .trainStepComplete .. | .benchStepTimeout ..
  | .shadowEvalComplete .. | .calibStaged .. | .assizeKick .. | .assizeFreeze .. | .assizeEnable .. | .assizeExport ..
  | .exportComplete .. | .keyRotate .. | .keyverMinRaise .. | .zeroise .. | .registerWrite .. | .optimeRead ..
  | .flitReceive .. | .retryFlit .. | .heartbeatSend | .heartbeatMiss .. | .fecLockLoss .. | .laneTestComplete ..
  | .ownershipMove .. | .ownTimeout .. | .pushBufferExpiry .. | .startup .. | .imageReadComplete .. | .tollReady
  | .lockSet .. | .lockTimeout | .amendSubmit .. | .amendCancel .. | .amendReadComplete .. | .amendStaged
  | .amendWaitEnd | .amendWaitTimeout | .counterSlotSave | .oscTrim | .xtalFail | .wakeTimer | .wakeToll
  | .wakeFabric .. | .wakeTemp .. | .wakeDroop | .thermalHot .. | .thermalCool .. | .thermalTrip .. | .supplyDroop ..
  | .quadrantPllLoss .. | .celPllLoss | .hpClkLoss | .hibernateEnter .. | .hibernateWake | .powerOn | .warmReset ..
  | .powerFail | .pfailRise | .stallReset .. | .stallFault .. | .repinSlicesLoaded .. | .stallTestComplete ..
  | .t0CorrectedFault .. | .quadrantFault .. | .quadrantRecovered .. | .qwaitTimeout .. | .bankTestComplete ..
  | .sharedFault .. | .hpFlitErr .. | .daybookProgramComplete | .sectorEraseComplete | .viewNext .. | .viewFetchComplete ..
  | .viewRewind .. | .clearOrderSubmit .. | .clearOrderChecked .. | .clearCommit | .finalPayloadRead ..
  | .crystalStable | .equalisationConverged .. | .granuleZeroed | .zeroisationComplete => none

/-- The frame of a well-formed command is whole 8-byte words, 32 to 624 bytes. -/
def Statement (i : Instr) : Prop :=
  i.wf = true → ∀ b, frame? i = some b → b.length % 8 = 0 ∧ 32 ≤ b.length ∧ b.length ≤ 624

theorem of_frameLenOk {b b' : List Byte} (h : frameLenOk b = true) (e : some b = some b') :
    b'.length % 8 = 0 ∧ 32 ≤ b'.length ∧ b'.length ≤ 624 := by
  cases e
  simp only [frameLenOk, Bool.and_eq_true, beq_iff_eq, decide_eq_true_eq] at h
  exact ⟨h.1.1, h.1.2, h.2⟩

theorem of_need {ok : Bool} {e : WfErr} (h : (wfNeed ok e).isNone = true) : ok = true := by
  cases ok
  · cases h
  · rfl

theorem tollQuery (pitch : Fin 64) (session : Session) (tag : Tag) (kind : BitVec 2) (model : BitVec 12) (cost : BitVec 16) :
    Statement (.tollQuery pitch session tag kind model cost) := fun _ _ e => nomatch e
theorem admissionLapse (pitch : Fin 64) (session : Session) (tag : Tag) : Statement (.admissionLapse pitch session tag) := fun _ _ e => nomatch e
theorem energyDrainTick : Statement .energyDrainTick := fun _ _ e => nomatch e
theorem creditFactorRecover (entry : Fin 1024) : Statement (.creditFactorRecover entry) := fun _ _ e => nomatch e
theorem qtabEntryWrite (acc : Accessor) (entry : Fin 256) (value : Word) : Statement (.qtabEntryWrite acc entry value) := fun _ _ e => nomatch e
theorem doorbell (acc : Accessor) (pitch : Fin 64) (tail : Word) : Statement (.doorbell acc pitch tail) := fun _ _ e => nomatch e
theorem descriptorRead (pitch : Fin 64) (data : ReadData) : Statement (.descriptorRead pitch data) := fun _ _ e => nomatch e
theorem segmentListRead (pitch : Fin 64) (session : Session) (tag : Tag) (data : ReadData) :
    Statement (.segmentListRead pitch session tag data) := fun _ _ e => nomatch e
theorem tokenBufferRead (pitch : Fin 64) (session : Session) (tag : Tag) (data : ReadData) :
    Statement (.tokenBufferRead pitch session tag data) := fun _ _ e => nomatch e
theorem payloadReadComplete (pitch : Fin 64) (session : Session) (tag : Tag) (data : ReadData) :
    Statement (.payloadReadComplete pitch session tag data) := fun _ _ e => nomatch e
theorem intakeVerdictDecided (pitch : Fin 64) (session : Session) (tag : Tag) : Statement (.intakeVerdictDecided pitch session tag) := fun _ _ e => nomatch e
theorem intakeDelivery (pitch : Fin 64) (session : Session) (tag : Tag) : Statement (.intakeDelivery pitch session tag) := fun _ _ e => nomatch e
theorem irqTimerExpiry (pitch : Fin 64) : Statement (.irqTimerExpiry pitch) := fun _ _ e => nomatch e
theorem streamOpenComplete (pitch : Fin 64) (session : Session) : Statement (.streamOpenComplete pitch session) := fun _ _ e => nomatch e
theorem arrivalPassComplete (pitch : Fin 64) (session : Session) (tag : Tag) : Statement (.arrivalPassComplete pitch session tag) := fun _ _ e => nomatch e
theorem chainStageServe (stall : Fin 64) : Statement (.chainStageServe stall) := fun _ _ e => nomatch e
theorem streamResolve (pitch : Fin 64) (session : Session) (tag : Tag) : Statement (.streamResolve pitch session tag) := fun _ _ e => nomatch e
theorem tokenRelease (pitch : Fin 64) (session : Session) (tag : Tag) : Statement (.tokenRelease pitch session tag) := fun _ _ e => nomatch e
theorem constraintAnswer (pitch : Fin 64) (session : Session) (tag : Tag) : Statement (.constraintAnswer pitch session tag) := fun _ _ e => nomatch e
theorem vqHeadWrite (acc : Accessor) (pitch : Fin 64) (head : Word) : Statement (.vqHeadWrite acc pitch head) := fun _ _ e => nomatch e
theorem pitchEnable (acc : Accessor) (pitch : Fin 64) : Statement (.pitchEnable acc pitch) := fun _ _ e => nomatch e
theorem homeCopiesWritten (pitch : Fin 64) : Statement (.homeCopiesWritten pitch) := fun _ _ e => nomatch e
theorem pitchDisable (acc : Accessor) (pitch : Fin 64) : Statement (.pitchDisable acc pitch) := fun _ _ e => nomatch e
theorem pitchDrainComplete (pitch : Fin 64) : Statement (.pitchDrainComplete pitch) := fun _ _ e => nomatch e
theorem bellRing (acc : Accessor) (pitch : Fin 64) : Statement (.bellRing acc pitch) := fun _ _ e => nomatch e
theorem bellComplete (pitch : Fin 64) : Statement (.bellComplete pitch) := fun _ _ e => nomatch e
theorem pitchReset (acc : Accessor) (pitch : Fin 64) : Statement (.pitchReset acc pitch) := fun _ _ e => nomatch e
theorem reviveComplete (pitch : Fin 64) (session : Session) (bucket slot : ReadData) :
    Statement (.reviveComplete pitch session bucket slot) := fun _ _ e => nomatch e
theorem poolTimeout (pool : BitVec 8) : Statement (.poolTimeout pool) := fun _ _ e => nomatch e
theorem prefetchRequest (acc : Accessor) (pitch : Fin 64) (value : Word) : Statement (.prefetchRequest acc pitch value) := fun _ _ e => nomatch e
theorem prefetchStart (pitch : Fin 64) : Statement (.prefetchStart pitch) := fun _ _ e => nomatch e
theorem prefetchHoldExpiry (pitch : Fin 64) (session : Session) : Statement (.prefetchHoldExpiry pitch session) := fun _ _ e => nomatch e
theorem parkStart (pitch : Fin 64) (session : Session) : Statement (.parkStart pitch session) := fun _ _ e => nomatch e
theorem eviction : Statement .eviction := fun _ _ e => nomatch e
theorem parkComplete (pitch : Fin 64) (session : Session) (bucket mirrorBucket : ReadData) :
    Statement (.parkComplete pitch session bucket mirrorBucket) := fun _ _ e => nomatch e
theorem writeBackComplete (pitch : Fin 64) (session : Session) (bucket mirrorBucket : ReadData) :
    Statement (.writeBackComplete pitch session bucket mirrorBucket) := fun _ _ e => nomatch e
theorem tileDeadline (stall : Fin 64) (pitch : Fin 64) (session : Session) (tag : Tag) (layer trow tcol : BitVec 16) :
    Statement (.tileDeadline stall pitch session tag layer trow tcol) := fun _ _ e => nomatch e
theorem tileArrival (stall : Fin 64) (model : BitVec 12) (layer trow tcol bseq : BitVec 16) (data : ReadData) (corrected : BitVec 32) :
    Statement (.tileArrival stall model layer trow tcol bseq data corrected) := fun _ _ e => nomatch e
theorem slackExhausted (pitch : Fin 64) (session : Session) (tag : Tag) : Statement (.slackExhausted pitch session tag) := fun _ _ e => nomatch e
theorem pretailTimeout (pitch : Fin 64) (session : Session) (tag : Tag) : Statement (.pretailTimeout pitch session tag) := fun _ _ e => nomatch e
theorem t1UncorrError (bank : Fin 64) (part : T1Part) : Statement (.t1UncorrError bank part) := fun _ _ e => nomatch e
theorem patrolScrub (corrected : BitVec 32) : Statement (.patrolScrub corrected) := fun _ _ e => nomatch e
theorem tileRestoreComplete (tile : TileName) (data : ReadData) : Statement (.tileRestoreComplete tile data) := fun _ _ e => nomatch e
theorem tableReloadComplete (stall : Fin 64) (type id : BitVec 8) (data : ReadData) : Statement (.tableReloadComplete stall type id data) := fun _ _ e => nomatch e
theorem stockRereadComplete (pitch : Fin 64) (stock : Fin 64) (line : Word) (data : ReadData) :
    Statement (.stockRereadComplete pitch stock line data) := fun _ _ e => nomatch e
theorem roleReview : Statement .roleReview := fun _ _ e => nomatch e
theorem roleLoadComplete (stall : Fin 64) : Statement (.roleLoadComplete stall) := fun _ _ e => nomatch e
theorem dozeEntry (stall : Fin 64) : Statement (.dozeEntry stall) := fun _ _ e => nomatch e
theorem napEntry (stall : Fin 64) : Statement (.napEntry stall) := fun _ _ e => nomatch e
theorem stallWakeComplete (stall : Fin 64) : Statement (.stallWakeComplete stall) := fun _ _ e => nomatch e
theorem assizeWindowEnd (pitch : Fin 64) : Statement (.assizeWindowEnd pitch) := fun _ _ e => nomatch e
theorem trainStepComplete (pitch : Fin 64) (model : BitVec 12) : Statement (.trainStepComplete pitch model) := fun _ _ e => nomatch e
theorem benchStepTimeout (pitch : Fin 64) : Statement (.benchStepTimeout pitch) := fun _ _ e => nomatch e
theorem shadowEvalComplete (pitch : Fin 64) (model : BitVec 12) : Statement (.shadowEvalComplete pitch model) := fun _ _ e => nomatch e
theorem calibStaged (pitch : Fin 64) (model : BitVec 12) : Statement (.calibStaged pitch model) := fun _ _ e => nomatch e
theorem assizeKick (acc : Accessor) (pitch : Fin 64) : Statement (.assizeKick acc pitch) := fun _ _ e => nomatch e
theorem assizeFreeze (acc : Accessor) (pitch : Fin 64) : Statement (.assizeFreeze acc pitch) := fun _ _ e => nomatch e
theorem assizeEnable (acc : Accessor) (enable : Bool) : Statement (.assizeEnable acc enable) := fun _ _ e => nomatch e
theorem assizeExport (acc : Accessor) (pitch : Fin 64) : Statement (.assizeExport acc pitch) := fun _ _ e => nomatch e
theorem exportComplete (pitch : Fin 64) : Statement (.exportComplete pitch) := fun _ _ e => nomatch e
theorem keyRotate (acc : Accessor) (pitch : Fin 64) : Statement (.keyRotate acc pitch) := fun _ _ e => nomatch e
theorem keyverMinRaise (acc : Accessor) (pitch : Fin 64) (value : BitVec 8) : Statement (.keyverMinRaise acc pitch value) := fun _ _ e => nomatch e
theorem zeroise (acc : Accessor) (key : Word) : Statement (.zeroise acc key) := fun _ _ e => nomatch e
theorem registerWrite (acc : Accessor) (addr : BitVec 24) (value : WriteData) :
    Statement (.registerWrite acc addr value) := fun _ _ e => nomatch e
theorem optimeRead (acc : Accessor) : Statement (.optimeRead acc) := fun _ _ e => nomatch e
theorem flitReceive (lane : Fin 16) (uncorr corrected : Bool) (flit : List Byte) : Statement (.flitReceive lane uncorr corrected flit) := fun _ _ e => nomatch e
theorem retryFlit (lane : Fin 16) (ackseq : BitVec 16) : Statement (.retryFlit lane ackseq) := fun _ _ e => nomatch e
theorem hello (lane : Fin 16) (frame : List Byte) : Statement (.hello lane frame) := fun h _ e => of_frameLenOk (of_need h) e
theorem heartbeat (lane : Fin 16) (frame : List Byte) : Statement (.heartbeat lane frame) := fun h _ e => of_frameLenOk (of_need h) e
theorem digest (lane : Fin 16) (frame : List Byte) : Statement (.digest lane frame) := fun h _ e => of_frameLenOk (of_need h) e
theorem shardMap (lane : Fin 16) (frame : List Byte) : Statement (.shardMap lane frame) := fun h _ e => of_frameLenOk (of_need h) e
theorem dirLoc (lane : Fin 16) (frame : List Byte) : Statement (.dirLoc lane frame) := fun h _ e => of_frameLenOk (of_need h) e
theorem ownReq (lane : Fin 16) (frame : List Byte) : Statement (.ownReq lane frame) := fun h _ e => of_frameLenOk (of_need h) e
theorem ownGrant (lane : Fin 16) (frame : List Byte) : Statement (.ownGrant lane frame) := fun h _ e => of_frameLenOk (of_need h) e
theorem ownNack (lane : Fin 16) (frame : List Byte) : Statement (.ownNack lane frame) := fun h _ e => of_frameLenOk (of_need h) e
theorem ownProbe (lane : Fin 16) (frame : List Byte) : Statement (.ownProbe lane frame) := fun h _ e => of_frameLenOk (of_need h) e
theorem ownState (lane : Fin 16) (frame : List Byte) : Statement (.ownState lane frame) := fun h _ e => of_frameLenOk (of_need h) e
theorem ownAnnounce (lane : Fin 16) (frame : List Byte) : Statement (.ownAnnounce lane frame) := fun h _ e => of_frameLenOk (of_need h) e
theorem peerLostFrame (lane : Fin 16) (frame : List Byte) : Statement (.peerLostFrame lane frame) := fun h _ e => of_frameLenOk (of_need h) e
theorem pushTap (lane : Fin 16) (frame : List Byte) : Statement (.pushTap lane frame) := fun h _ e => of_frameLenOk (of_need h) e
theorem pushHead (lane : Fin 16) (frame : List Byte) : Statement (.pushHead lane frame) := fun h _ e => of_frameLenOk (of_need h) e
theorem pushAck (lane : Fin 16) (frame : List Byte) : Statement (.pushAck lane frame) := fun h _ e => of_frameLenOk (of_need h) e
theorem memCpl (lane : Fin 16) (frame : List Byte) : Statement (.memCpl lane frame) := fun h _ e => of_frameLenOk (of_need h) e
theorem memWrAck (lane : Fin 16) (frame : List Byte) : Statement (.memWrAck lane frame) := fun h _ e => of_frameLenOk (of_need h) e
theorem heartbeatSend : Statement .heartbeatSend := fun _ _ e => nomatch e
theorem heartbeatMiss (lane : Fin 16) : Statement (.heartbeatMiss lane) := fun _ _ e => nomatch e
theorem fecLockLoss (lane : Fin 16) : Statement (.fecLockLoss lane) := fun _ _ e => nomatch e
theorem laneTestComplete (lane : Fin 16) (pass : Bool) : Statement (.laneTestComplete lane pass) := fun _ _ e => nomatch e
theorem ownershipMove (acc : Accessor) (value : Word) : Statement (.ownershipMove acc value) := fun _ _ e => nomatch e
theorem ownTimeout (pitch : Fin 64) (session : Session) : Statement (.ownTimeout pitch session) := fun _ _ e => nomatch e
theorem pushBufferExpiry (pitch : Fin 64) (session : Session) : Statement (.pushBufferExpiry pitch session) := fun _ _ e => nomatch e
theorem startup (kat : BitVec 8) (xspi dbkDev : Bool) (loc0 loc1 : List Byte) :
    Statement (.startup kat xspi dbkDev loc0 loc1) := fun _ _ e => nomatch e
theorem imageReadComplete (data : ReadData) : Statement (.imageReadComplete data) := fun _ _ e => nomatch e
theorem tollReady : Statement .tollReady := fun _ _ e => nomatch e
theorem lockSet (acc : Accessor) (value : Word) : Statement (.lockSet acc value) := fun _ _ e => nomatch e
theorem lockTimeout : Statement .lockTimeout := fun _ _ e => nomatch e
theorem amendSubmit (acc : Accessor) (value : Word) : Statement (.amendSubmit acc value) := fun _ _ e => nomatch e
theorem amendCancel (acc : Accessor) : Statement (.amendCancel acc) := fun _ _ e => nomatch e
theorem amendReadComplete (data : ReadData) : Statement (.amendReadComplete data) := fun _ _ e => nomatch e
theorem amendStaged : Statement .amendStaged := fun _ _ e => nomatch e
theorem amendWaitEnd : Statement .amendWaitEnd := fun _ _ e => nomatch e
theorem amendWaitTimeout : Statement .amendWaitTimeout := fun _ _ e => nomatch e
theorem counterSlotSave : Statement .counterSlotSave := fun _ _ e => nomatch e
theorem oscTrim : Statement .oscTrim := fun _ _ e => nomatch e
theorem xtalFail : Statement .xtalFail := fun _ _ e => nomatch e
theorem wakeTimer : Statement .wakeTimer := fun _ _ e => nomatch e
theorem wakeToll : Statement .wakeToll := fun _ _ e => nomatch e
theorem wakeFabric (port : Fin 4) : Statement (.wakeFabric port) := fun _ _ e => nomatch e
theorem wakeTemp (deg : BitVec 8) : Statement (.wakeTemp deg) := fun _ _ e => nomatch e
theorem wakeDroop : Statement .wakeDroop := fun _ _ e => nomatch e
theorem thermalHot (sensor : BitVec 5) (deg : BitVec 8) : Statement (.thermalHot sensor deg) := fun _ _ e => nomatch e
theorem thermalCool (sensor : BitVec 5) (deg : BitVec 8) : Statement (.thermalCool sensor deg) := fun _ _ e => nomatch e
theorem thermalTrip (sensor : BitVec 5) (deg : BitVec 8) : Statement (.thermalTrip sensor deg) := fun _ _ e => nomatch e
theorem supplyDroop (rail : Fin 6) : Statement (.supplyDroop rail) := fun _ _ e => nomatch e
theorem quadrantPllLoss (quad : Fin 4) : Statement (.quadrantPllLoss quad) := fun _ _ e => nomatch e
theorem celPllLoss : Statement .celPllLoss := fun _ _ e => nomatch e
theorem hpClkLoss : Statement .hpClkLoss := fun _ _ e => nomatch e
theorem hibernateEnter (acc : Accessor) (key : Word) : Statement (.hibernateEnter acc key) := fun _ _ e => nomatch e
theorem hibernateWake : Statement .hibernateWake := fun _ _ e => nomatch e
theorem powerOn : Statement .powerOn := fun _ _ e => nomatch e
theorem warmReset (src : WarmSrc) : Statement (.warmReset src) := fun _ _ e => nomatch e
theorem powerFail : Statement .powerFail := fun _ _ e => nomatch e
theorem pfailRise : Statement .pfailRise := fun _ _ e => nomatch e
theorem stallReset (acc : Accessor) (value : Word) : Statement (.stallReset acc value) := fun _ _ e => nomatch e
theorem stallFault (stall : Fin 64) (unit cause : BitVec 4) (tagPitch : Fin 64) : Statement (.stallFault stall unit cause tagPitch) := fun _ _ e => nomatch e
theorem repinSlicesLoaded (pitch : Fin 64) (session : Session) : Statement (.repinSlicesLoaded pitch session) := fun _ _ e => nomatch e
theorem stallTestComplete (stall : Fin 64) (step : BitVec 4) : Statement (.stallTestComplete stall step) := fun _ _ e => nomatch e
theorem t0CorrectedFault (stall : Fin 64) (part : T0Part) : Statement (.t0CorrectedFault stall part) := fun _ _ e => nomatch e
theorem quadrantFault (quad : Fin 4) (rail : Bool) : Statement (.quadrantFault quad rail) := fun _ _ e => nomatch e
theorem quadrantRecovered (quad : Fin 4) : Statement (.quadrantRecovered quad) := fun _ _ e => nomatch e
theorem qwaitTimeout (quad : Fin 4) : Statement (.qwaitTimeout quad) := fun _ _ e => nomatch e
theorem bankTestComplete (bank : Fin 64) (pass : Bool) : Statement (.bankTestComplete bank pass) := fun _ _ e => nomatch e
theorem sharedFault (unit : BitVec 8) (syndrome : BitVec 24) : Statement (.sharedFault unit syndrome) := fun _ _ e => nomatch e
theorem hpFlitErr (channel : Fin 8) : Statement (.hpFlitErr channel) := fun _ _ e => nomatch e
theorem daybookProgramComplete : Statement .daybookProgramComplete := fun _ _ e => nomatch e
theorem sectorEraseComplete : Statement .sectorEraseComplete := fun _ _ e => nomatch e
theorem viewNext (acc : Accessor) (view : Fin 66) : Statement (.viewNext acc view) := fun _ _ e => nomatch e
theorem viewFetchComplete (view : Fin 66) : Statement (.viewFetchComplete view) := fun _ _ e => nomatch e
theorem viewRewind (acc : Accessor) (view : Fin 66) : Statement (.viewRewind acc view) := fun _ _ e => nomatch e
theorem clearOrderSubmit (acc : Accessor) (value : Word) : Statement (.clearOrderSubmit acc value) := fun _ _ e => nomatch e
theorem clearOrderChecked (data : ReadData) : Statement (.clearOrderChecked data) := fun _ _ e => nomatch e
theorem clearCommit : Statement .clearCommit := fun _ _ e => nomatch e
theorem finalPayloadRead (pitch : Fin 64) (session : Session) (tag : Tag) : Statement (.finalPayloadRead pitch session tag) := fun _ _ e => nomatch e
theorem crystalStable : Statement .crystalStable := fun _ _ e => nomatch e
theorem equalisationConverged (lane : Fin 16) : Statement (.equalisationConverged lane) := fun _ _ e => nomatch e
theorem granuleZeroed : Statement .granuleZeroed := fun _ _ e => nomatch e
theorem zeroisationComplete : Statement .zeroisationComplete := fun _ _ e => nomatch e

end Sys2Proof.Laws.Framing
end

