-- ==== Sys2Proof/Laws/State.lean ====
section
/-! SUPPORT. What each named update of the state gives each field, so that no proof unfolds a record update. -/

namespace Sys2Proof.Machine

/-! State.wr -/

@[simp] theorem State.wr_pending (s : State) (f : Fld) (i v : Nat) : (s.wr f i v).pending = s.pending := rfl
@[simp] theorem State.wr_regs (s : State) (f : Fld) (i v : Nat) : (s.wr f i v).regs = regSet s.regs f i v := rfl
@[simp] theorem State.wr_outbox (s : State) (f : Fld) (i v : Nat) : (s.wr f i v).outbox = s.outbox := rfl
@[simp] theorem State.wr_toll (s : State) (f : Fld) (i v : Nat) : (s.wr f i v).toll = s.toll := rfl
@[simp] theorem State.wr_clk (s : State) (f : Fld) (i v : Nat) : (s.wr f i v).clk = s.clk := rfl
@[simp] theorem State.wr_pwr (s : State) (f : Fld) (i v : Nat) : (s.wr f i v).pwr = s.pwr := rfl
@[simp] theorem State.wr_fuse (s : State) (f : Fld) (i v : Nat) : (s.wr f i v).fuse = s.fuse := rfl
@[simp] theorem State.wr_pits (s : State) (f : Fld) (i v : Nat) : (s.wr f i v).pits = s.pits := rfl
@[simp] theorem State.wr_stalls (s : State) (f : Fld) (i v : Nat) : (s.wr f i v).stalls = s.stalls := rfl
@[simp] theorem State.wr_adms (s : State) (f : Fld) (i v : Nat) : (s.wr f i v).adms = s.adms := rfl
@[simp] theorem State.wr_reqs (s : State) (f : Fld) (i v : Nat) : (s.wr f i v).reqs = s.reqs := rfl
@[simp] theorem State.wr_dups (s : State) (f : Fld) (i v : Nat) : (s.wr f i v).dups = s.dups := rfl
@[simp] theorem State.wr_streams (s : State) (f : Fld) (i v : Nat) : (s.wr f i v).streams = s.streams := rfl
@[simp] theorem State.wr_toks (s : State) (f : Fld) (i v : Nat) : (s.wr f i v).toks = s.toks := rfl
@[simp] theorem State.wr_rr (s : State) (f : Fld) (i v : Nat) : (s.wr f i v).rr = s.rr := rfl
@[simp] theorem State.wr_chains (s : State) (f : Fld) (i v : Nat) : (s.wr f i v).chains = s.chains := rfl
@[simp] theorem State.wr_entries (s : State) (f : Fld) (i v : Nat) : (s.wr f i v).entries = s.entries := rfl
@[simp] theorem State.wr_revives (s : State) (f : Fld) (i v : Nat) : (s.wr f i v).revives = s.revives := rfl
@[simp] theorem State.wr_parks (s : State) (f : Fld) (i v : Nat) : (s.wr f i v).parks = s.parks := rfl
@[simp] theorem State.wr_wbs (s : State) (f : Fld) (i v : Nat) : (s.wr f i v).wbs = s.wbs := rfl
@[simp] theorem State.wr_chr (s : State) (f : Fld) (i v : Nat) : (s.wr f i v).chr = s.chr := rfl
@[simp] theorem State.wr_gens (s : State) (f : Fld) (i v : Nat) : (s.wr f i v).gens = s.gens := rfl
@[simp] theorem State.wr_amd (s : State) (f : Fld) (i v : Nat) : (s.wr f i v).amd = s.amd := rfl
@[simp] theorem State.wr_asz (s : State) (f : Fld) (i v : Nat) : (s.wr f i v).asz = s.asz := rfl
@[simp] theorem State.wr_aszCount (s : State) (f : Fld) (i v : Nat) : (s.wr f i v).aszCount = s.aszCount := rfl
@[simp] theorem State.wr_samples (s : State) (f : Fld) (i v : Nat) : (s.wr f i v).samples = s.samples := rfl
@[simp] theorem State.wr_lanes (s : State) (f : Fld) (i v : Nat) : (s.wr f i v).lanes = s.lanes := rfl
@[simp] theorem State.wr_fab (s : State) (f : Fld) (i v : Nat) : (s.wr f i v).fab = s.fab := rfl
@[simp] theorem State.wr_tier (s : State) (f : Fld) (i v : Nat) : (s.wr f i v).tier = s.tier := rfl
@[simp] theorem State.wr_keys (s : State) (f : Fld) (i v : Nat) : (s.wr f i v).keys = s.keys := rfl
@[simp] theorem State.wr_factorTick (s : State) (f : Fld) (i v : Nat) : (s.wr f i v).factorTick = s.factorTick := rfl
@[simp] theorem State.wr_dbk (s : State) (f : Fld) (i v : Nat) : (s.wr f i v).dbk = s.dbk := rfl
@[simp] theorem State.wr_arrivals (s : State) (f : Fld) (i v : Nat) : (s.wr f i v).arrivals = s.arrivals := rfl
@[simp] theorem State.wr_free (s : State) (f : Fld) (i v : Nat) : (s.wr f i v).free = s.free := rfl

/-! State.wrB -/

@[simp] theorem State.wrB_pending (s : State) (f : Fld) (i : Nat) (b : Bool) : (s.wrB f i b).pending = s.pending := rfl
@[simp] theorem State.wrB_regs (s : State) (f : Fld) (i : Nat) (b : Bool) : (s.wrB f i b).regs = regSet s.regs f i (b2n b) := rfl
@[simp] theorem State.wrB_outbox (s : State) (f : Fld) (i : Nat) (b : Bool) : (s.wrB f i b).outbox = s.outbox := rfl
@[simp] theorem State.wrB_toll (s : State) (f : Fld) (i : Nat) (b : Bool) : (s.wrB f i b).toll = s.toll := rfl
@[simp] theorem State.wrB_clk (s : State) (f : Fld) (i : Nat) (b : Bool) : (s.wrB f i b).clk = s.clk := rfl
@[simp] theorem State.wrB_pwr (s : State) (f : Fld) (i : Nat) (b : Bool) : (s.wrB f i b).pwr = s.pwr := rfl
@[simp] theorem State.wrB_fuse (s : State) (f : Fld) (i : Nat) (b : Bool) : (s.wrB f i b).fuse = s.fuse := rfl
@[simp] theorem State.wrB_pits (s : State) (f : Fld) (i : Nat) (b : Bool) : (s.wrB f i b).pits = s.pits := rfl
@[simp] theorem State.wrB_stalls (s : State) (f : Fld) (i : Nat) (b : Bool) : (s.wrB f i b).stalls = s.stalls := rfl
@[simp] theorem State.wrB_adms (s : State) (f : Fld) (i : Nat) (b : Bool) : (s.wrB f i b).adms = s.adms := rfl
@[simp] theorem State.wrB_reqs (s : State) (f : Fld) (i : Nat) (b : Bool) : (s.wrB f i b).reqs = s.reqs := rfl
@[simp] theorem State.wrB_dups (s : State) (f : Fld) (i : Nat) (b : Bool) : (s.wrB f i b).dups = s.dups := rfl
@[simp] theorem State.wrB_streams (s : State) (f : Fld) (i : Nat) (b : Bool) : (s.wrB f i b).streams = s.streams := rfl
@[simp] theorem State.wrB_toks (s : State) (f : Fld) (i : Nat) (b : Bool) : (s.wrB f i b).toks = s.toks := rfl
@[simp] theorem State.wrB_rr (s : State) (f : Fld) (i : Nat) (b : Bool) : (s.wrB f i b).rr = s.rr := rfl
@[simp] theorem State.wrB_chains (s : State) (f : Fld) (i : Nat) (b : Bool) : (s.wrB f i b).chains = s.chains := rfl
@[simp] theorem State.wrB_entries (s : State) (f : Fld) (i : Nat) (b : Bool) : (s.wrB f i b).entries = s.entries := rfl
@[simp] theorem State.wrB_revives (s : State) (f : Fld) (i : Nat) (b : Bool) : (s.wrB f i b).revives = s.revives := rfl
@[simp] theorem State.wrB_parks (s : State) (f : Fld) (i : Nat) (b : Bool) : (s.wrB f i b).parks = s.parks := rfl
@[simp] theorem State.wrB_wbs (s : State) (f : Fld) (i : Nat) (b : Bool) : (s.wrB f i b).wbs = s.wbs := rfl
@[simp] theorem State.wrB_chr (s : State) (f : Fld) (i : Nat) (b : Bool) : (s.wrB f i b).chr = s.chr := rfl
@[simp] theorem State.wrB_gens (s : State) (f : Fld) (i : Nat) (b : Bool) : (s.wrB f i b).gens = s.gens := rfl
@[simp] theorem State.wrB_amd (s : State) (f : Fld) (i : Nat) (b : Bool) : (s.wrB f i b).amd = s.amd := rfl
@[simp] theorem State.wrB_asz (s : State) (f : Fld) (i : Nat) (b : Bool) : (s.wrB f i b).asz = s.asz := rfl
@[simp] theorem State.wrB_aszCount (s : State) (f : Fld) (i : Nat) (b : Bool) : (s.wrB f i b).aszCount = s.aszCount := rfl
@[simp] theorem State.wrB_samples (s : State) (f : Fld) (i : Nat) (b : Bool) : (s.wrB f i b).samples = s.samples := rfl
@[simp] theorem State.wrB_lanes (s : State) (f : Fld) (i : Nat) (b : Bool) : (s.wrB f i b).lanes = s.lanes := rfl
@[simp] theorem State.wrB_fab (s : State) (f : Fld) (i : Nat) (b : Bool) : (s.wrB f i b).fab = s.fab := rfl
@[simp] theorem State.wrB_tier (s : State) (f : Fld) (i : Nat) (b : Bool) : (s.wrB f i b).tier = s.tier := rfl
@[simp] theorem State.wrB_keys (s : State) (f : Fld) (i : Nat) (b : Bool) : (s.wrB f i b).keys = s.keys := rfl
@[simp] theorem State.wrB_factorTick (s : State) (f : Fld) (i : Nat) (b : Bool) : (s.wrB f i b).factorTick = s.factorTick := rfl
@[simp] theorem State.wrB_dbk (s : State) (f : Fld) (i : Nat) (b : Bool) : (s.wrB f i b).dbk = s.dbk := rfl
@[simp] theorem State.wrB_arrivals (s : State) (f : Fld) (i : Nat) (b : Bool) : (s.wrB f i b).arrivals = s.arrivals := rfl
@[simp] theorem State.wrB_free (s : State) (f : Fld) (i : Nat) (b : Bool) : (s.wrB f i b).free = s.free := rfl

/-! State.bump -/

@[simp] theorem State.bump_pending (s : State) (f : Fld) (i n : Nat) : (s.bump f i n).pending = s.pending := rfl
@[simp] theorem State.bump_regs (s : State) (f : Fld) (i n : Nat) : (s.bump f i n).regs = regSet s.regs f i (s.rd f i + n) := rfl
@[simp] theorem State.bump_outbox (s : State) (f : Fld) (i n : Nat) : (s.bump f i n).outbox = s.outbox := rfl
@[simp] theorem State.bump_toll (s : State) (f : Fld) (i n : Nat) : (s.bump f i n).toll = s.toll := rfl
@[simp] theorem State.bump_clk (s : State) (f : Fld) (i n : Nat) : (s.bump f i n).clk = s.clk := rfl
@[simp] theorem State.bump_pwr (s : State) (f : Fld) (i n : Nat) : (s.bump f i n).pwr = s.pwr := rfl
@[simp] theorem State.bump_fuse (s : State) (f : Fld) (i n : Nat) : (s.bump f i n).fuse = s.fuse := rfl
@[simp] theorem State.bump_pits (s : State) (f : Fld) (i n : Nat) : (s.bump f i n).pits = s.pits := rfl
@[simp] theorem State.bump_stalls (s : State) (f : Fld) (i n : Nat) : (s.bump f i n).stalls = s.stalls := rfl
@[simp] theorem State.bump_adms (s : State) (f : Fld) (i n : Nat) : (s.bump f i n).adms = s.adms := rfl
@[simp] theorem State.bump_reqs (s : State) (f : Fld) (i n : Nat) : (s.bump f i n).reqs = s.reqs := rfl
@[simp] theorem State.bump_dups (s : State) (f : Fld) (i n : Nat) : (s.bump f i n).dups = s.dups := rfl
@[simp] theorem State.bump_streams (s : State) (f : Fld) (i n : Nat) : (s.bump f i n).streams = s.streams := rfl
@[simp] theorem State.bump_toks (s : State) (f : Fld) (i n : Nat) : (s.bump f i n).toks = s.toks := rfl
@[simp] theorem State.bump_rr (s : State) (f : Fld) (i n : Nat) : (s.bump f i n).rr = s.rr := rfl
@[simp] theorem State.bump_chains (s : State) (f : Fld) (i n : Nat) : (s.bump f i n).chains = s.chains := rfl
@[simp] theorem State.bump_entries (s : State) (f : Fld) (i n : Nat) : (s.bump f i n).entries = s.entries := rfl
@[simp] theorem State.bump_revives (s : State) (f : Fld) (i n : Nat) : (s.bump f i n).revives = s.revives := rfl
@[simp] theorem State.bump_parks (s : State) (f : Fld) (i n : Nat) : (s.bump f i n).parks = s.parks := rfl
@[simp] theorem State.bump_wbs (s : State) (f : Fld) (i n : Nat) : (s.bump f i n).wbs = s.wbs := rfl
@[simp] theorem State.bump_chr (s : State) (f : Fld) (i n : Nat) : (s.bump f i n).chr = s.chr := rfl
@[simp] theorem State.bump_gens (s : State) (f : Fld) (i n : Nat) : (s.bump f i n).gens = s.gens := rfl
@[simp] theorem State.bump_amd (s : State) (f : Fld) (i n : Nat) : (s.bump f i n).amd = s.amd := rfl
@[simp] theorem State.bump_asz (s : State) (f : Fld) (i n : Nat) : (s.bump f i n).asz = s.asz := rfl
@[simp] theorem State.bump_aszCount (s : State) (f : Fld) (i n : Nat) : (s.bump f i n).aszCount = s.aszCount := rfl
@[simp] theorem State.bump_samples (s : State) (f : Fld) (i n : Nat) : (s.bump f i n).samples = s.samples := rfl
@[simp] theorem State.bump_lanes (s : State) (f : Fld) (i n : Nat) : (s.bump f i n).lanes = s.lanes := rfl
@[simp] theorem State.bump_fab (s : State) (f : Fld) (i n : Nat) : (s.bump f i n).fab = s.fab := rfl
@[simp] theorem State.bump_tier (s : State) (f : Fld) (i n : Nat) : (s.bump f i n).tier = s.tier := rfl
@[simp] theorem State.bump_keys (s : State) (f : Fld) (i n : Nat) : (s.bump f i n).keys = s.keys := rfl
@[simp] theorem State.bump_factorTick (s : State) (f : Fld) (i n : Nat) : (s.bump f i n).factorTick = s.factorTick := rfl
@[simp] theorem State.bump_dbk (s : State) (f : Fld) (i n : Nat) : (s.bump f i n).dbk = s.dbk := rfl
@[simp] theorem State.bump_arrivals (s : State) (f : Fld) (i n : Nat) : (s.bump f i n).arrivals = s.arrivals := rfl
@[simp] theorem State.bump_free (s : State) (f : Fld) (i n : Nat) : (s.bump f i n).free = s.free := rfl

/-! State.bumpSat -/

@[simp] theorem State.bumpSat_pending (s : State) (f : Fld) (i : Nat) : (s.bumpSat f i).pending = s.pending := rfl
@[simp] theorem State.bumpSat_regs (s : State) (f : Fld) (i : Nat) : (s.bumpSat f i).regs = regSet s.regs f i (min (s.rd f i + 1) (2 ^ f.desc.width - 1)) := rfl
@[simp] theorem State.bumpSat_outbox (s : State) (f : Fld) (i : Nat) : (s.bumpSat f i).outbox = s.outbox := rfl
@[simp] theorem State.bumpSat_toll (s : State) (f : Fld) (i : Nat) : (s.bumpSat f i).toll = s.toll := rfl
@[simp] theorem State.bumpSat_clk (s : State) (f : Fld) (i : Nat) : (s.bumpSat f i).clk = s.clk := rfl
@[simp] theorem State.bumpSat_pwr (s : State) (f : Fld) (i : Nat) : (s.bumpSat f i).pwr = s.pwr := rfl
@[simp] theorem State.bumpSat_fuse (s : State) (f : Fld) (i : Nat) : (s.bumpSat f i).fuse = s.fuse := rfl
@[simp] theorem State.bumpSat_pits (s : State) (f : Fld) (i : Nat) : (s.bumpSat f i).pits = s.pits := rfl
@[simp] theorem State.bumpSat_stalls (s : State) (f : Fld) (i : Nat) : (s.bumpSat f i).stalls = s.stalls := rfl
@[simp] theorem State.bumpSat_adms (s : State) (f : Fld) (i : Nat) : (s.bumpSat f i).adms = s.adms := rfl
@[simp] theorem State.bumpSat_reqs (s : State) (f : Fld) (i : Nat) : (s.bumpSat f i).reqs = s.reqs := rfl
@[simp] theorem State.bumpSat_dups (s : State) (f : Fld) (i : Nat) : (s.bumpSat f i).dups = s.dups := rfl
@[simp] theorem State.bumpSat_streams (s : State) (f : Fld) (i : Nat) : (s.bumpSat f i).streams = s.streams := rfl
@[simp] theorem State.bumpSat_toks (s : State) (f : Fld) (i : Nat) : (s.bumpSat f i).toks = s.toks := rfl
@[simp] theorem State.bumpSat_rr (s : State) (f : Fld) (i : Nat) : (s.bumpSat f i).rr = s.rr := rfl
@[simp] theorem State.bumpSat_chains (s : State) (f : Fld) (i : Nat) : (s.bumpSat f i).chains = s.chains := rfl
@[simp] theorem State.bumpSat_entries (s : State) (f : Fld) (i : Nat) : (s.bumpSat f i).entries = s.entries := rfl
@[simp] theorem State.bumpSat_revives (s : State) (f : Fld) (i : Nat) : (s.bumpSat f i).revives = s.revives := rfl
@[simp] theorem State.bumpSat_parks (s : State) (f : Fld) (i : Nat) : (s.bumpSat f i).parks = s.parks := rfl
@[simp] theorem State.bumpSat_wbs (s : State) (f : Fld) (i : Nat) : (s.bumpSat f i).wbs = s.wbs := rfl
@[simp] theorem State.bumpSat_chr (s : State) (f : Fld) (i : Nat) : (s.bumpSat f i).chr = s.chr := rfl
@[simp] theorem State.bumpSat_gens (s : State) (f : Fld) (i : Nat) : (s.bumpSat f i).gens = s.gens := rfl
@[simp] theorem State.bumpSat_amd (s : State) (f : Fld) (i : Nat) : (s.bumpSat f i).amd = s.amd := rfl
@[simp] theorem State.bumpSat_asz (s : State) (f : Fld) (i : Nat) : (s.bumpSat f i).asz = s.asz := rfl
@[simp] theorem State.bumpSat_aszCount (s : State) (f : Fld) (i : Nat) : (s.bumpSat f i).aszCount = s.aszCount := rfl
@[simp] theorem State.bumpSat_samples (s : State) (f : Fld) (i : Nat) : (s.bumpSat f i).samples = s.samples := rfl
@[simp] theorem State.bumpSat_lanes (s : State) (f : Fld) (i : Nat) : (s.bumpSat f i).lanes = s.lanes := rfl
@[simp] theorem State.bumpSat_fab (s : State) (f : Fld) (i : Nat) : (s.bumpSat f i).fab = s.fab := rfl
@[simp] theorem State.bumpSat_tier (s : State) (f : Fld) (i : Nat) : (s.bumpSat f i).tier = s.tier := rfl
@[simp] theorem State.bumpSat_keys (s : State) (f : Fld) (i : Nat) : (s.bumpSat f i).keys = s.keys := rfl
@[simp] theorem State.bumpSat_factorTick (s : State) (f : Fld) (i : Nat) : (s.bumpSat f i).factorTick = s.factorTick := rfl
@[simp] theorem State.bumpSat_dbk (s : State) (f : Fld) (i : Nat) : (s.bumpSat f i).dbk = s.dbk := rfl
@[simp] theorem State.bumpSat_arrivals (s : State) (f : Fld) (i : Nat) : (s.bumpSat f i).arrivals = s.arrivals := rfl
@[simp] theorem State.bumpSat_free (s : State) (f : Fld) (i : Nat) : (s.bumpSat f i).free = s.free := rfl

/-! State.wrMax -/

@[simp] theorem State.wrMax_pending (s : State) (f : Fld) (i v : Nat) : (s.wrMax f i v).pending = s.pending := rfl
@[simp] theorem State.wrMax_regs (s : State) (f : Fld) (i v : Nat) : (s.wrMax f i v).regs = regSet s.regs f i (max (s.rd f i) (min v (2 ^ f.desc.width - 1))) := rfl
@[simp] theorem State.wrMax_outbox (s : State) (f : Fld) (i v : Nat) : (s.wrMax f i v).outbox = s.outbox := rfl
@[simp] theorem State.wrMax_toll (s : State) (f : Fld) (i v : Nat) : (s.wrMax f i v).toll = s.toll := rfl
@[simp] theorem State.wrMax_clk (s : State) (f : Fld) (i v : Nat) : (s.wrMax f i v).clk = s.clk := rfl
@[simp] theorem State.wrMax_pwr (s : State) (f : Fld) (i v : Nat) : (s.wrMax f i v).pwr = s.pwr := rfl
@[simp] theorem State.wrMax_fuse (s : State) (f : Fld) (i v : Nat) : (s.wrMax f i v).fuse = s.fuse := rfl
@[simp] theorem State.wrMax_pits (s : State) (f : Fld) (i v : Nat) : (s.wrMax f i v).pits = s.pits := rfl
@[simp] theorem State.wrMax_stalls (s : State) (f : Fld) (i v : Nat) : (s.wrMax f i v).stalls = s.stalls := rfl
@[simp] theorem State.wrMax_adms (s : State) (f : Fld) (i v : Nat) : (s.wrMax f i v).adms = s.adms := rfl
@[simp] theorem State.wrMax_reqs (s : State) (f : Fld) (i v : Nat) : (s.wrMax f i v).reqs = s.reqs := rfl
@[simp] theorem State.wrMax_dups (s : State) (f : Fld) (i v : Nat) : (s.wrMax f i v).dups = s.dups := rfl
@[simp] theorem State.wrMax_streams (s : State) (f : Fld) (i v : Nat) : (s.wrMax f i v).streams = s.streams := rfl
@[simp] theorem State.wrMax_toks (s : State) (f : Fld) (i v : Nat) : (s.wrMax f i v).toks = s.toks := rfl
@[simp] theorem State.wrMax_rr (s : State) (f : Fld) (i v : Nat) : (s.wrMax f i v).rr = s.rr := rfl
@[simp] theorem State.wrMax_chains (s : State) (f : Fld) (i v : Nat) : (s.wrMax f i v).chains = s.chains := rfl
@[simp] theorem State.wrMax_entries (s : State) (f : Fld) (i v : Nat) : (s.wrMax f i v).entries = s.entries := rfl
@[simp] theorem State.wrMax_revives (s : State) (f : Fld) (i v : Nat) : (s.wrMax f i v).revives = s.revives := rfl
@[simp] theorem State.wrMax_parks (s : State) (f : Fld) (i v : Nat) : (s.wrMax f i v).parks = s.parks := rfl
@[simp] theorem State.wrMax_wbs (s : State) (f : Fld) (i v : Nat) : (s.wrMax f i v).wbs = s.wbs := rfl
@[simp] theorem State.wrMax_chr (s : State) (f : Fld) (i v : Nat) : (s.wrMax f i v).chr = s.chr := rfl
@[simp] theorem State.wrMax_gens (s : State) (f : Fld) (i v : Nat) : (s.wrMax f i v).gens = s.gens := rfl
@[simp] theorem State.wrMax_amd (s : State) (f : Fld) (i v : Nat) : (s.wrMax f i v).amd = s.amd := rfl
@[simp] theorem State.wrMax_asz (s : State) (f : Fld) (i v : Nat) : (s.wrMax f i v).asz = s.asz := rfl
@[simp] theorem State.wrMax_aszCount (s : State) (f : Fld) (i v : Nat) : (s.wrMax f i v).aszCount = s.aszCount := rfl
@[simp] theorem State.wrMax_samples (s : State) (f : Fld) (i v : Nat) : (s.wrMax f i v).samples = s.samples := rfl
@[simp] theorem State.wrMax_lanes (s : State) (f : Fld) (i v : Nat) : (s.wrMax f i v).lanes = s.lanes := rfl
@[simp] theorem State.wrMax_fab (s : State) (f : Fld) (i v : Nat) : (s.wrMax f i v).fab = s.fab := rfl
@[simp] theorem State.wrMax_tier (s : State) (f : Fld) (i v : Nat) : (s.wrMax f i v).tier = s.tier := rfl
@[simp] theorem State.wrMax_keys (s : State) (f : Fld) (i v : Nat) : (s.wrMax f i v).keys = s.keys := rfl
@[simp] theorem State.wrMax_factorTick (s : State) (f : Fld) (i v : Nat) : (s.wrMax f i v).factorTick = s.factorTick := rfl
@[simp] theorem State.wrMax_dbk (s : State) (f : Fld) (i v : Nat) : (s.wrMax f i v).dbk = s.dbk := rfl
@[simp] theorem State.wrMax_arrivals (s : State) (f : Fld) (i v : Nat) : (s.wrMax f i v).arrivals = s.arrivals := rfl
@[simp] theorem State.wrMax_free (s : State) (f : Fld) (i v : Nat) : (s.wrMax f i v).free = s.free := rfl

/-! State.emit -/

@[simp] theorem State.emit_pending (s : State) (w : Out) : (s.emit w).pending = s.pending := rfl
@[simp] theorem State.emit_regs (s : State) (w : Out) : (s.emit w).regs = s.regs := rfl
@[simp] theorem State.emit_outbox (s : State) (w : Out) : (s.emit w).outbox = s.outbox ++ [⟨s.clk.hp, w⟩] := rfl
@[simp] theorem State.emit_toll (s : State) (w : Out) : (s.emit w).toll = s.toll := rfl
@[simp] theorem State.emit_clk (s : State) (w : Out) : (s.emit w).clk = s.clk := rfl
@[simp] theorem State.emit_pwr (s : State) (w : Out) : (s.emit w).pwr = s.pwr := rfl
@[simp] theorem State.emit_fuse (s : State) (w : Out) : (s.emit w).fuse = s.fuse := rfl
@[simp] theorem State.emit_pits (s : State) (w : Out) : (s.emit w).pits = s.pits := rfl
@[simp] theorem State.emit_stalls (s : State) (w : Out) : (s.emit w).stalls = s.stalls := rfl
@[simp] theorem State.emit_adms (s : State) (w : Out) : (s.emit w).adms = s.adms := rfl
@[simp] theorem State.emit_reqs (s : State) (w : Out) : (s.emit w).reqs = s.reqs := rfl
@[simp] theorem State.emit_dups (s : State) (w : Out) : (s.emit w).dups = s.dups := rfl
@[simp] theorem State.emit_streams (s : State) (w : Out) : (s.emit w).streams = s.streams := rfl
@[simp] theorem State.emit_toks (s : State) (w : Out) : (s.emit w).toks = s.toks := rfl
@[simp] theorem State.emit_rr (s : State) (w : Out) : (s.emit w).rr = s.rr := rfl
@[simp] theorem State.emit_chains (s : State) (w : Out) : (s.emit w).chains = s.chains := rfl
@[simp] theorem State.emit_entries (s : State) (w : Out) : (s.emit w).entries = s.entries := rfl
@[simp] theorem State.emit_revives (s : State) (w : Out) : (s.emit w).revives = s.revives := rfl
@[simp] theorem State.emit_parks (s : State) (w : Out) : (s.emit w).parks = s.parks := rfl
@[simp] theorem State.emit_wbs (s : State) (w : Out) : (s.emit w).wbs = s.wbs := rfl
@[simp] theorem State.emit_chr (s : State) (w : Out) : (s.emit w).chr = s.chr := rfl
@[simp] theorem State.emit_gens (s : State) (w : Out) : (s.emit w).gens = s.gens := rfl
@[simp] theorem State.emit_amd (s : State) (w : Out) : (s.emit w).amd = s.amd := rfl
@[simp] theorem State.emit_asz (s : State) (w : Out) : (s.emit w).asz = s.asz := rfl
@[simp] theorem State.emit_aszCount (s : State) (w : Out) : (s.emit w).aszCount = s.aszCount := rfl
@[simp] theorem State.emit_samples (s : State) (w : Out) : (s.emit w).samples = s.samples := rfl
@[simp] theorem State.emit_lanes (s : State) (w : Out) : (s.emit w).lanes = s.lanes := rfl
@[simp] theorem State.emit_fab (s : State) (w : Out) : (s.emit w).fab = s.fab := rfl
@[simp] theorem State.emit_tier (s : State) (w : Out) : (s.emit w).tier = s.tier := rfl
@[simp] theorem State.emit_keys (s : State) (w : Out) : (s.emit w).keys = s.keys := rfl
@[simp] theorem State.emit_factorTick (s : State) (w : Out) : (s.emit w).factorTick = s.factorTick := rfl
@[simp] theorem State.emit_dbk (s : State) (w : Out) : (s.emit w).dbk = s.dbk := rfl
@[simp] theorem State.emit_arrivals (s : State) (w : Out) : (s.emit w).arrivals = s.arrivals := rfl
@[simp] theorem State.emit_free (s : State) (w : Out) : (s.emit w).free = s.free := rfl

/-! State.tookFree -/

@[simp] theorem State.tookFree_pending (s : State) : (s.tookFree).pending = s.pending := rfl
@[simp] theorem State.tookFree_regs (s : State) : (s.tookFree).regs = s.regs := rfl
@[simp] theorem State.tookFree_outbox (s : State) : (s.tookFree).outbox = s.outbox := rfl
@[simp] theorem State.tookFree_toll (s : State) : (s.tookFree).toll = s.toll := rfl
@[simp] theorem State.tookFree_clk (s : State) : (s.tookFree).clk = s.clk := rfl
@[simp] theorem State.tookFree_pwr (s : State) : (s.tookFree).pwr = s.pwr := rfl
@[simp] theorem State.tookFree_fuse (s : State) : (s.tookFree).fuse = s.fuse := rfl
@[simp] theorem State.tookFree_pits (s : State) : (s.tookFree).pits = s.pits := rfl
@[simp] theorem State.tookFree_stalls (s : State) : (s.tookFree).stalls = s.stalls := rfl
@[simp] theorem State.tookFree_adms (s : State) : (s.tookFree).adms = s.adms := rfl
@[simp] theorem State.tookFree_reqs (s : State) : (s.tookFree).reqs = s.reqs := rfl
@[simp] theorem State.tookFree_dups (s : State) : (s.tookFree).dups = s.dups := rfl
@[simp] theorem State.tookFree_streams (s : State) : (s.tookFree).streams = s.streams := rfl
@[simp] theorem State.tookFree_toks (s : State) : (s.tookFree).toks = s.toks := rfl
@[simp] theorem State.tookFree_rr (s : State) : (s.tookFree).rr = s.rr := rfl
@[simp] theorem State.tookFree_chains (s : State) : (s.tookFree).chains = s.chains := rfl
@[simp] theorem State.tookFree_entries (s : State) : (s.tookFree).entries = s.entries := rfl
@[simp] theorem State.tookFree_revives (s : State) : (s.tookFree).revives = s.revives := rfl
@[simp] theorem State.tookFree_parks (s : State) : (s.tookFree).parks = s.parks := rfl
@[simp] theorem State.tookFree_wbs (s : State) : (s.tookFree).wbs = s.wbs := rfl
@[simp] theorem State.tookFree_chr (s : State) : (s.tookFree).chr = s.chr := rfl
@[simp] theorem State.tookFree_gens (s : State) : (s.tookFree).gens = s.gens := rfl
@[simp] theorem State.tookFree_amd (s : State) : (s.tookFree).amd = s.amd := rfl
@[simp] theorem State.tookFree_asz (s : State) : (s.tookFree).asz = s.asz := rfl
@[simp] theorem State.tookFree_aszCount (s : State) : (s.tookFree).aszCount = s.aszCount := rfl
@[simp] theorem State.tookFree_samples (s : State) : (s.tookFree).samples = s.samples := rfl
@[simp] theorem State.tookFree_lanes (s : State) : (s.tookFree).lanes = s.lanes := rfl
@[simp] theorem State.tookFree_fab (s : State) : (s.tookFree).fab = s.fab := rfl
@[simp] theorem State.tookFree_tier (s : State) : (s.tookFree).tier = s.tier := rfl
@[simp] theorem State.tookFree_keys (s : State) : (s.tookFree).keys = s.keys := rfl
@[simp] theorem State.tookFree_factorTick (s : State) : (s.tookFree).factorTick = s.factorTick := rfl
@[simp] theorem State.tookFree_dbk (s : State) : (s.tookFree).dbk = s.dbk := rfl
@[simp] theorem State.tookFree_arrivals (s : State) : (s.tookFree).arrivals = s.arrivals := rfl
@[simp] theorem State.tookFree_free (s : State) : (s.tookFree).free = s.free + 1 := rfl

/-! State.updPit -/

@[simp] theorem State.updPit_pending (s : State) (p : Nat) (f : PitSt → PitSt) : (s.updPit p f).pending = s.pending := rfl
@[simp] theorem State.updPit_regs (s : State) (p : Nat) (f : PitSt → PitSt) : (s.updPit p f).regs = s.regs := rfl
@[simp] theorem State.updPit_outbox (s : State) (p : Nat) (f : PitSt → PitSt) : (s.updPit p f).outbox = s.outbox := rfl
@[simp] theorem State.updPit_toll (s : State) (p : Nat) (f : PitSt → PitSt) : (s.updPit p f).toll = s.toll := rfl
@[simp] theorem State.updPit_clk (s : State) (p : Nat) (f : PitSt → PitSt) : (s.updPit p f).clk = s.clk := rfl
@[simp] theorem State.updPit_pwr (s : State) (p : Nat) (f : PitSt → PitSt) : (s.updPit p f).pwr = s.pwr := rfl
@[simp] theorem State.updPit_fuse (s : State) (p : Nat) (f : PitSt → PitSt) : (s.updPit p f).fuse = s.fuse := rfl
@[simp] theorem State.updPit_pits (s : State) (p : Nat) (f : PitSt → PitSt) : (s.updPit p f).pits = s.pits.modify p f := rfl
@[simp] theorem State.updPit_stalls (s : State) (p : Nat) (f : PitSt → PitSt) : (s.updPit p f).stalls = s.stalls := rfl
@[simp] theorem State.updPit_adms (s : State) (p : Nat) (f : PitSt → PitSt) : (s.updPit p f).adms = s.adms := rfl
@[simp] theorem State.updPit_reqs (s : State) (p : Nat) (f : PitSt → PitSt) : (s.updPit p f).reqs = s.reqs := rfl
@[simp] theorem State.updPit_dups (s : State) (p : Nat) (f : PitSt → PitSt) : (s.updPit p f).dups = s.dups := rfl
@[simp] theorem State.updPit_streams (s : State) (p : Nat) (f : PitSt → PitSt) : (s.updPit p f).streams = s.streams := rfl
@[simp] theorem State.updPit_toks (s : State) (p : Nat) (f : PitSt → PitSt) : (s.updPit p f).toks = s.toks := rfl
@[simp] theorem State.updPit_rr (s : State) (p : Nat) (f : PitSt → PitSt) : (s.updPit p f).rr = s.rr := rfl
@[simp] theorem State.updPit_chains (s : State) (p : Nat) (f : PitSt → PitSt) : (s.updPit p f).chains = s.chains := rfl
@[simp] theorem State.updPit_entries (s : State) (p : Nat) (f : PitSt → PitSt) : (s.updPit p f).entries = s.entries := rfl
@[simp] theorem State.updPit_revives (s : State) (p : Nat) (f : PitSt → PitSt) : (s.updPit p f).revives = s.revives := rfl
@[simp] theorem State.updPit_parks (s : State) (p : Nat) (f : PitSt → PitSt) : (s.updPit p f).parks = s.parks := rfl
@[simp] theorem State.updPit_wbs (s : State) (p : Nat) (f : PitSt → PitSt) : (s.updPit p f).wbs = s.wbs := rfl
@[simp] theorem State.updPit_chr (s : State) (p : Nat) (f : PitSt → PitSt) : (s.updPit p f).chr = s.chr := rfl
@[simp] theorem State.updPit_gens (s : State) (p : Nat) (f : PitSt → PitSt) : (s.updPit p f).gens = s.gens := rfl
@[simp] theorem State.updPit_amd (s : State) (p : Nat) (f : PitSt → PitSt) : (s.updPit p f).amd = s.amd := rfl
@[simp] theorem State.updPit_asz (s : State) (p : Nat) (f : PitSt → PitSt) : (s.updPit p f).asz = s.asz := rfl
@[simp] theorem State.updPit_aszCount (s : State) (p : Nat) (f : PitSt → PitSt) : (s.updPit p f).aszCount = s.aszCount := rfl
@[simp] theorem State.updPit_samples (s : State) (p : Nat) (f : PitSt → PitSt) : (s.updPit p f).samples = s.samples := rfl
@[simp] theorem State.updPit_lanes (s : State) (p : Nat) (f : PitSt → PitSt) : (s.updPit p f).lanes = s.lanes := rfl
@[simp] theorem State.updPit_fab (s : State) (p : Nat) (f : PitSt → PitSt) : (s.updPit p f).fab = s.fab := rfl
@[simp] theorem State.updPit_tier (s : State) (p : Nat) (f : PitSt → PitSt) : (s.updPit p f).tier = s.tier := rfl
@[simp] theorem State.updPit_keys (s : State) (p : Nat) (f : PitSt → PitSt) : (s.updPit p f).keys = s.keys := rfl
@[simp] theorem State.updPit_factorTick (s : State) (p : Nat) (f : PitSt → PitSt) : (s.updPit p f).factorTick = s.factorTick := rfl
@[simp] theorem State.updPit_dbk (s : State) (p : Nat) (f : PitSt → PitSt) : (s.updPit p f).dbk = s.dbk := rfl
@[simp] theorem State.updPit_arrivals (s : State) (p : Nat) (f : PitSt → PitSt) : (s.updPit p f).arrivals = s.arrivals := rfl
@[simp] theorem State.updPit_free (s : State) (p : Nat) (f : PitSt → PitSt) : (s.updPit p f).free = s.free := rfl

/-! State.updStl -/

@[simp] theorem State.updStl_pending (s : State) (i : Nat) (f : StallSt → StallSt) : (s.updStl i f).pending = s.pending := rfl
@[simp] theorem State.updStl_regs (s : State) (i : Nat) (f : StallSt → StallSt) : (s.updStl i f).regs = s.regs := rfl
@[simp] theorem State.updStl_outbox (s : State) (i : Nat) (f : StallSt → StallSt) : (s.updStl i f).outbox = s.outbox := rfl
@[simp] theorem State.updStl_toll (s : State) (i : Nat) (f : StallSt → StallSt) : (s.updStl i f).toll = s.toll := rfl
@[simp] theorem State.updStl_clk (s : State) (i : Nat) (f : StallSt → StallSt) : (s.updStl i f).clk = s.clk := rfl
@[simp] theorem State.updStl_pwr (s : State) (i : Nat) (f : StallSt → StallSt) : (s.updStl i f).pwr = s.pwr := rfl
@[simp] theorem State.updStl_fuse (s : State) (i : Nat) (f : StallSt → StallSt) : (s.updStl i f).fuse = s.fuse := rfl
@[simp] theorem State.updStl_pits (s : State) (i : Nat) (f : StallSt → StallSt) : (s.updStl i f).pits = s.pits := rfl
@[simp] theorem State.updStl_stalls (s : State) (i : Nat) (f : StallSt → StallSt) : (s.updStl i f).stalls = s.stalls.modify i f := rfl
@[simp] theorem State.updStl_adms (s : State) (i : Nat) (f : StallSt → StallSt) : (s.updStl i f).adms = s.adms := rfl
@[simp] theorem State.updStl_reqs (s : State) (i : Nat) (f : StallSt → StallSt) : (s.updStl i f).reqs = s.reqs := rfl
@[simp] theorem State.updStl_dups (s : State) (i : Nat) (f : StallSt → StallSt) : (s.updStl i f).dups = s.dups := rfl
@[simp] theorem State.updStl_streams (s : State) (i : Nat) (f : StallSt → StallSt) : (s.updStl i f).streams = s.streams := rfl
@[simp] theorem State.updStl_toks (s : State) (i : Nat) (f : StallSt → StallSt) : (s.updStl i f).toks = s.toks := rfl
@[simp] theorem State.updStl_rr (s : State) (i : Nat) (f : StallSt → StallSt) : (s.updStl i f).rr = s.rr := rfl
@[simp] theorem State.updStl_chains (s : State) (i : Nat) (f : StallSt → StallSt) : (s.updStl i f).chains = s.chains := rfl
@[simp] theorem State.updStl_entries (s : State) (i : Nat) (f : StallSt → StallSt) : (s.updStl i f).entries = s.entries := rfl
@[simp] theorem State.updStl_revives (s : State) (i : Nat) (f : StallSt → StallSt) : (s.updStl i f).revives = s.revives := rfl
@[simp] theorem State.updStl_parks (s : State) (i : Nat) (f : StallSt → StallSt) : (s.updStl i f).parks = s.parks := rfl
@[simp] theorem State.updStl_wbs (s : State) (i : Nat) (f : StallSt → StallSt) : (s.updStl i f).wbs = s.wbs := rfl
@[simp] theorem State.updStl_chr (s : State) (i : Nat) (f : StallSt → StallSt) : (s.updStl i f).chr = s.chr := rfl
@[simp] theorem State.updStl_gens (s : State) (i : Nat) (f : StallSt → StallSt) : (s.updStl i f).gens = s.gens := rfl
@[simp] theorem State.updStl_amd (s : State) (i : Nat) (f : StallSt → StallSt) : (s.updStl i f).amd = s.amd := rfl
@[simp] theorem State.updStl_asz (s : State) (i : Nat) (f : StallSt → StallSt) : (s.updStl i f).asz = s.asz := rfl
@[simp] theorem State.updStl_aszCount (s : State) (i : Nat) (f : StallSt → StallSt) : (s.updStl i f).aszCount = s.aszCount := rfl
@[simp] theorem State.updStl_samples (s : State) (i : Nat) (f : StallSt → StallSt) : (s.updStl i f).samples = s.samples := rfl
@[simp] theorem State.updStl_lanes (s : State) (i : Nat) (f : StallSt → StallSt) : (s.updStl i f).lanes = s.lanes := rfl
@[simp] theorem State.updStl_fab (s : State) (i : Nat) (f : StallSt → StallSt) : (s.updStl i f).fab = s.fab := rfl
@[simp] theorem State.updStl_tier (s : State) (i : Nat) (f : StallSt → StallSt) : (s.updStl i f).tier = s.tier := rfl
@[simp] theorem State.updStl_keys (s : State) (i : Nat) (f : StallSt → StallSt) : (s.updStl i f).keys = s.keys := rfl
@[simp] theorem State.updStl_factorTick (s : State) (i : Nat) (f : StallSt → StallSt) : (s.updStl i f).factorTick = s.factorTick := rfl
@[simp] theorem State.updStl_dbk (s : State) (i : Nat) (f : StallSt → StallSt) : (s.updStl i f).dbk = s.dbk := rfl
@[simp] theorem State.updStl_arrivals (s : State) (i : Nat) (f : StallSt → StallSt) : (s.updStl i f).arrivals = s.arrivals := rfl
@[simp] theorem State.updStl_free (s : State) (i : Nat) (f : StallSt → StallSt) : (s.updStl i f).free = s.free := rfl

/-! State.updEntry -/

@[simp] theorem State.updEntry_pending (s : State) (p n : Nat) (f : Entry → Entry) : (s.updEntry p n f).pending = s.pending := rfl
@[simp] theorem State.updEntry_regs (s : State) (p n : Nat) (f : Entry → Entry) : (s.updEntry p n f).regs = s.regs := rfl
@[simp] theorem State.updEntry_outbox (s : State) (p n : Nat) (f : Entry → Entry) : (s.updEntry p n f).outbox = s.outbox := rfl
@[simp] theorem State.updEntry_toll (s : State) (p n : Nat) (f : Entry → Entry) : (s.updEntry p n f).toll = s.toll := rfl
@[simp] theorem State.updEntry_clk (s : State) (p n : Nat) (f : Entry → Entry) : (s.updEntry p n f).clk = s.clk := rfl
@[simp] theorem State.updEntry_pwr (s : State) (p n : Nat) (f : Entry → Entry) : (s.updEntry p n f).pwr = s.pwr := rfl
@[simp] theorem State.updEntry_fuse (s : State) (p n : Nat) (f : Entry → Entry) : (s.updEntry p n f).fuse = s.fuse := rfl
@[simp] theorem State.updEntry_pits (s : State) (p n : Nat) (f : Entry → Entry) : (s.updEntry p n f).pits = s.pits := rfl
@[simp] theorem State.updEntry_stalls (s : State) (p n : Nat) (f : Entry → Entry) : (s.updEntry p n f).stalls = s.stalls := rfl
@[simp] theorem State.updEntry_adms (s : State) (p n : Nat) (f : Entry → Entry) : (s.updEntry p n f).adms = s.adms := rfl
@[simp] theorem State.updEntry_reqs (s : State) (p n : Nat) (f : Entry → Entry) : (s.updEntry p n f).reqs = s.reqs := rfl
@[simp] theorem State.updEntry_dups (s : State) (p n : Nat) (f : Entry → Entry) : (s.updEntry p n f).dups = s.dups := rfl
@[simp] theorem State.updEntry_streams (s : State) (p n : Nat) (f : Entry → Entry) : (s.updEntry p n f).streams = s.streams := rfl
@[simp] theorem State.updEntry_toks (s : State) (p n : Nat) (f : Entry → Entry) : (s.updEntry p n f).toks = s.toks := rfl
@[simp] theorem State.updEntry_rr (s : State) (p n : Nat) (f : Entry → Entry) : (s.updEntry p n f).rr = s.rr := rfl
@[simp] theorem State.updEntry_chains (s : State) (p n : Nat) (f : Entry → Entry) : (s.updEntry p n f).chains = s.chains := rfl
@[simp] theorem State.updEntry_entries (s : State) (p n : Nat) (f : Entry → Entry) : (s.updEntry p n f).entries = s.entries.map (fun e => if e.isOf p n then f e else e) := rfl
@[simp] theorem State.updEntry_revives (s : State) (p n : Nat) (f : Entry → Entry) : (s.updEntry p n f).revives = s.revives := rfl
@[simp] theorem State.updEntry_parks (s : State) (p n : Nat) (f : Entry → Entry) : (s.updEntry p n f).parks = s.parks := rfl
@[simp] theorem State.updEntry_wbs (s : State) (p n : Nat) (f : Entry → Entry) : (s.updEntry p n f).wbs = s.wbs := rfl
@[simp] theorem State.updEntry_chr (s : State) (p n : Nat) (f : Entry → Entry) : (s.updEntry p n f).chr = s.chr := rfl
@[simp] theorem State.updEntry_gens (s : State) (p n : Nat) (f : Entry → Entry) : (s.updEntry p n f).gens = s.gens := rfl
@[simp] theorem State.updEntry_amd (s : State) (p n : Nat) (f : Entry → Entry) : (s.updEntry p n f).amd = s.amd := rfl
@[simp] theorem State.updEntry_asz (s : State) (p n : Nat) (f : Entry → Entry) : (s.updEntry p n f).asz = s.asz := rfl
@[simp] theorem State.updEntry_aszCount (s : State) (p n : Nat) (f : Entry → Entry) : (s.updEntry p n f).aszCount = s.aszCount := rfl
@[simp] theorem State.updEntry_samples (s : State) (p n : Nat) (f : Entry → Entry) : (s.updEntry p n f).samples = s.samples := rfl
@[simp] theorem State.updEntry_lanes (s : State) (p n : Nat) (f : Entry → Entry) : (s.updEntry p n f).lanes = s.lanes := rfl
@[simp] theorem State.updEntry_fab (s : State) (p n : Nat) (f : Entry → Entry) : (s.updEntry p n f).fab = s.fab := rfl
@[simp] theorem State.updEntry_tier (s : State) (p n : Nat) (f : Entry → Entry) : (s.updEntry p n f).tier = s.tier := rfl
@[simp] theorem State.updEntry_keys (s : State) (p n : Nat) (f : Entry → Entry) : (s.updEntry p n f).keys = s.keys := rfl
@[simp] theorem State.updEntry_factorTick (s : State) (p n : Nat) (f : Entry → Entry) : (s.updEntry p n f).factorTick = s.factorTick := rfl
@[simp] theorem State.updEntry_dbk (s : State) (p n : Nat) (f : Entry → Entry) : (s.updEntry p n f).dbk = s.dbk := rfl
@[simp] theorem State.updEntry_arrivals (s : State) (p n : Nat) (f : Entry → Entry) : (s.updEntry p n f).arrivals = s.arrivals := rfl
@[simp] theorem State.updEntry_free (s : State) (p n : Nat) (f : Entry → Entry) : (s.updEntry p n f).free = s.free := rfl

/-! State.dropEntry -/

@[simp] theorem State.dropEntry_pending (s : State) (p n : Nat) : (s.dropEntry p n).pending = s.pending := rfl
@[simp] theorem State.dropEntry_regs (s : State) (p n : Nat) : (s.dropEntry p n).regs = s.regs := rfl
@[simp] theorem State.dropEntry_outbox (s : State) (p n : Nat) : (s.dropEntry p n).outbox = s.outbox := rfl
@[simp] theorem State.dropEntry_toll (s : State) (p n : Nat) : (s.dropEntry p n).toll = s.toll := rfl
@[simp] theorem State.dropEntry_clk (s : State) (p n : Nat) : (s.dropEntry p n).clk = s.clk := rfl
@[simp] theorem State.dropEntry_pwr (s : State) (p n : Nat) : (s.dropEntry p n).pwr = s.pwr := rfl
@[simp] theorem State.dropEntry_fuse (s : State) (p n : Nat) : (s.dropEntry p n).fuse = s.fuse := rfl
@[simp] theorem State.dropEntry_pits (s : State) (p n : Nat) : (s.dropEntry p n).pits = s.pits := rfl
@[simp] theorem State.dropEntry_stalls (s : State) (p n : Nat) : (s.dropEntry p n).stalls = s.stalls := rfl
@[simp] theorem State.dropEntry_adms (s : State) (p n : Nat) : (s.dropEntry p n).adms = s.adms := rfl
@[simp] theorem State.dropEntry_reqs (s : State) (p n : Nat) : (s.dropEntry p n).reqs = s.reqs := rfl
@[simp] theorem State.dropEntry_dups (s : State) (p n : Nat) : (s.dropEntry p n).dups = s.dups := rfl
@[simp] theorem State.dropEntry_streams (s : State) (p n : Nat) : (s.dropEntry p n).streams = s.streams := rfl
@[simp] theorem State.dropEntry_toks (s : State) (p n : Nat) : (s.dropEntry p n).toks = s.toks := rfl
@[simp] theorem State.dropEntry_rr (s : State) (p n : Nat) : (s.dropEntry p n).rr = s.rr := rfl
@[simp] theorem State.dropEntry_chains (s : State) (p n : Nat) : (s.dropEntry p n).chains = s.chains := rfl
@[simp] theorem State.dropEntry_entries (s : State) (p n : Nat) : (s.dropEntry p n).entries = s.entries.filter (fun e => !e.isOf p n) := rfl
@[simp] theorem State.dropEntry_revives (s : State) (p n : Nat) : (s.dropEntry p n).revives = s.revives := rfl
@[simp] theorem State.dropEntry_parks (s : State) (p n : Nat) : (s.dropEntry p n).parks = s.parks := rfl
@[simp] theorem State.dropEntry_wbs (s : State) (p n : Nat) : (s.dropEntry p n).wbs = s.wbs := rfl
@[simp] theorem State.dropEntry_chr (s : State) (p n : Nat) : (s.dropEntry p n).chr = s.chr := rfl
@[simp] theorem State.dropEntry_gens (s : State) (p n : Nat) : (s.dropEntry p n).gens = s.gens := rfl
@[simp] theorem State.dropEntry_amd (s : State) (p n : Nat) : (s.dropEntry p n).amd = s.amd := rfl
@[simp] theorem State.dropEntry_asz (s : State) (p n : Nat) : (s.dropEntry p n).asz = s.asz := rfl
@[simp] theorem State.dropEntry_aszCount (s : State) (p n : Nat) : (s.dropEntry p n).aszCount = s.aszCount := rfl
@[simp] theorem State.dropEntry_samples (s : State) (p n : Nat) : (s.dropEntry p n).samples = s.samples := rfl
@[simp] theorem State.dropEntry_lanes (s : State) (p n : Nat) : (s.dropEntry p n).lanes = s.lanes := rfl
@[simp] theorem State.dropEntry_fab (s : State) (p n : Nat) : (s.dropEntry p n).fab = s.fab := rfl
@[simp] theorem State.dropEntry_tier (s : State) (p n : Nat) : (s.dropEntry p n).tier = s.tier := rfl
@[simp] theorem State.dropEntry_keys (s : State) (p n : Nat) : (s.dropEntry p n).keys = s.keys := rfl
@[simp] theorem State.dropEntry_factorTick (s : State) (p n : Nat) : (s.dropEntry p n).factorTick = s.factorTick := rfl
@[simp] theorem State.dropEntry_dbk (s : State) (p n : Nat) : (s.dropEntry p n).dbk = s.dbk := rfl
@[simp] theorem State.dropEntry_arrivals (s : State) (p n : Nat) : (s.dropEntry p n).arrivals = s.arrivals := rfl
@[simp] theorem State.dropEntry_free (s : State) (p n : Nat) : (s.dropEntry p n).free = s.free := rfl

/-! State.updReq -/

@[simp] theorem State.updReq_pending (s : State) (p n g : Nat) (f : Req → Req) : (s.updReq p n g f).pending = s.pending := rfl
@[simp] theorem State.updReq_regs (s : State) (p n g : Nat) (f : Req → Req) : (s.updReq p n g f).regs = s.regs := rfl
@[simp] theorem State.updReq_outbox (s : State) (p n g : Nat) (f : Req → Req) : (s.updReq p n g f).outbox = s.outbox := rfl
@[simp] theorem State.updReq_toll (s : State) (p n g : Nat) (f : Req → Req) : (s.updReq p n g f).toll = s.toll := rfl
@[simp] theorem State.updReq_clk (s : State) (p n g : Nat) (f : Req → Req) : (s.updReq p n g f).clk = s.clk := rfl
@[simp] theorem State.updReq_pwr (s : State) (p n g : Nat) (f : Req → Req) : (s.updReq p n g f).pwr = s.pwr := rfl
@[simp] theorem State.updReq_fuse (s : State) (p n g : Nat) (f : Req → Req) : (s.updReq p n g f).fuse = s.fuse := rfl
@[simp] theorem State.updReq_pits (s : State) (p n g : Nat) (f : Req → Req) : (s.updReq p n g f).pits = s.pits := rfl
@[simp] theorem State.updReq_stalls (s : State) (p n g : Nat) (f : Req → Req) : (s.updReq p n g f).stalls = s.stalls := rfl
@[simp] theorem State.updReq_adms (s : State) (p n g : Nat) (f : Req → Req) : (s.updReq p n g f).adms = s.adms := rfl
@[simp] theorem State.updReq_reqs (s : State) (p n g : Nat) (f : Req → Req) : (s.updReq p n g f).reqs = s.reqs.map (fun r => if r.isOf p n g then f r else r) := rfl
@[simp] theorem State.updReq_dups (s : State) (p n g : Nat) (f : Req → Req) : (s.updReq p n g f).dups = s.dups := rfl
@[simp] theorem State.updReq_streams (s : State) (p n g : Nat) (f : Req → Req) : (s.updReq p n g f).streams = s.streams := rfl
@[simp] theorem State.updReq_toks (s : State) (p n g : Nat) (f : Req → Req) : (s.updReq p n g f).toks = s.toks := rfl
@[simp] theorem State.updReq_rr (s : State) (p n g : Nat) (f : Req → Req) : (s.updReq p n g f).rr = s.rr := rfl
@[simp] theorem State.updReq_chains (s : State) (p n g : Nat) (f : Req → Req) : (s.updReq p n g f).chains = s.chains := rfl
@[simp] theorem State.updReq_entries (s : State) (p n g : Nat) (f : Req → Req) : (s.updReq p n g f).entries = s.entries := rfl
@[simp] theorem State.updReq_revives (s : State) (p n g : Nat) (f : Req → Req) : (s.updReq p n g f).revives = s.revives := rfl
@[simp] theorem State.updReq_parks (s : State) (p n g : Nat) (f : Req → Req) : (s.updReq p n g f).parks = s.parks := rfl
@[simp] theorem State.updReq_wbs (s : State) (p n g : Nat) (f : Req → Req) : (s.updReq p n g f).wbs = s.wbs := rfl
@[simp] theorem State.updReq_chr (s : State) (p n g : Nat) (f : Req → Req) : (s.updReq p n g f).chr = s.chr := rfl
@[simp] theorem State.updReq_gens (s : State) (p n g : Nat) (f : Req → Req) : (s.updReq p n g f).gens = s.gens := rfl
@[simp] theorem State.updReq_amd (s : State) (p n g : Nat) (f : Req → Req) : (s.updReq p n g f).amd = s.amd := rfl
@[simp] theorem State.updReq_asz (s : State) (p n g : Nat) (f : Req → Req) : (s.updReq p n g f).asz = s.asz := rfl
@[simp] theorem State.updReq_aszCount (s : State) (p n g : Nat) (f : Req → Req) : (s.updReq p n g f).aszCount = s.aszCount := rfl
@[simp] theorem State.updReq_samples (s : State) (p n g : Nat) (f : Req → Req) : (s.updReq p n g f).samples = s.samples := rfl
@[simp] theorem State.updReq_lanes (s : State) (p n g : Nat) (f : Req → Req) : (s.updReq p n g f).lanes = s.lanes := rfl
@[simp] theorem State.updReq_fab (s : State) (p n g : Nat) (f : Req → Req) : (s.updReq p n g f).fab = s.fab := rfl
@[simp] theorem State.updReq_tier (s : State) (p n g : Nat) (f : Req → Req) : (s.updReq p n g f).tier = s.tier := rfl
@[simp] theorem State.updReq_keys (s : State) (p n g : Nat) (f : Req → Req) : (s.updReq p n g f).keys = s.keys := rfl
@[simp] theorem State.updReq_factorTick (s : State) (p n g : Nat) (f : Req → Req) : (s.updReq p n g f).factorTick = s.factorTick := rfl
@[simp] theorem State.updReq_dbk (s : State) (p n g : Nat) (f : Req → Req) : (s.updReq p n g f).dbk = s.dbk := rfl
@[simp] theorem State.updReq_arrivals (s : State) (p n g : Nat) (f : Req → Req) : (s.updReq p n g f).arrivals = s.arrivals := rfl
@[simp] theorem State.updReq_free (s : State) (p n g : Nat) (f : Req → Req) : (s.updReq p n g f).free = s.free := rfl

/-! State.updStream -/

@[simp] theorem State.updStream_pending (s : State) (p n : Nat) (f : Stream → Stream) : (s.updStream p n f).pending = s.pending := rfl
@[simp] theorem State.updStream_regs (s : State) (p n : Nat) (f : Stream → Stream) : (s.updStream p n f).regs = s.regs := rfl
@[simp] theorem State.updStream_outbox (s : State) (p n : Nat) (f : Stream → Stream) : (s.updStream p n f).outbox = s.outbox := rfl
@[simp] theorem State.updStream_toll (s : State) (p n : Nat) (f : Stream → Stream) : (s.updStream p n f).toll = s.toll := rfl
@[simp] theorem State.updStream_clk (s : State) (p n : Nat) (f : Stream → Stream) : (s.updStream p n f).clk = s.clk := rfl
@[simp] theorem State.updStream_pwr (s : State) (p n : Nat) (f : Stream → Stream) : (s.updStream p n f).pwr = s.pwr := rfl
@[simp] theorem State.updStream_fuse (s : State) (p n : Nat) (f : Stream → Stream) : (s.updStream p n f).fuse = s.fuse := rfl
@[simp] theorem State.updStream_pits (s : State) (p n : Nat) (f : Stream → Stream) : (s.updStream p n f).pits = s.pits := rfl
@[simp] theorem State.updStream_stalls (s : State) (p n : Nat) (f : Stream → Stream) : (s.updStream p n f).stalls = s.stalls := rfl
@[simp] theorem State.updStream_adms (s : State) (p n : Nat) (f : Stream → Stream) : (s.updStream p n f).adms = s.adms := rfl
@[simp] theorem State.updStream_reqs (s : State) (p n : Nat) (f : Stream → Stream) : (s.updStream p n f).reqs = s.reqs := rfl
@[simp] theorem State.updStream_dups (s : State) (p n : Nat) (f : Stream → Stream) : (s.updStream p n f).dups = s.dups := rfl
@[simp] theorem State.updStream_streams (s : State) (p n : Nat) (f : Stream → Stream) : (s.updStream p n f).streams = s.streams.map (fun x => if x.pitch == p && x.session == n then f x else x) := rfl
@[simp] theorem State.updStream_toks (s : State) (p n : Nat) (f : Stream → Stream) : (s.updStream p n f).toks = s.toks := rfl
@[simp] theorem State.updStream_rr (s : State) (p n : Nat) (f : Stream → Stream) : (s.updStream p n f).rr = s.rr := rfl
@[simp] theorem State.updStream_chains (s : State) (p n : Nat) (f : Stream → Stream) : (s.updStream p n f).chains = s.chains := rfl
@[simp] theorem State.updStream_entries (s : State) (p n : Nat) (f : Stream → Stream) : (s.updStream p n f).entries = s.entries := rfl
@[simp] theorem State.updStream_revives (s : State) (p n : Nat) (f : Stream → Stream) : (s.updStream p n f).revives = s.revives := rfl
@[simp] theorem State.updStream_parks (s : State) (p n : Nat) (f : Stream → Stream) : (s.updStream p n f).parks = s.parks := rfl
@[simp] theorem State.updStream_wbs (s : State) (p n : Nat) (f : Stream → Stream) : (s.updStream p n f).wbs = s.wbs := rfl
@[simp] theorem State.updStream_chr (s : State) (p n : Nat) (f : Stream → Stream) : (s.updStream p n f).chr = s.chr := rfl
@[simp] theorem State.updStream_gens (s : State) (p n : Nat) (f : Stream → Stream) : (s.updStream p n f).gens = s.gens := rfl
@[simp] theorem State.updStream_amd (s : State) (p n : Nat) (f : Stream → Stream) : (s.updStream p n f).amd = s.amd := rfl
@[simp] theorem State.updStream_asz (s : State) (p n : Nat) (f : Stream → Stream) : (s.updStream p n f).asz = s.asz := rfl
@[simp] theorem State.updStream_aszCount (s : State) (p n : Nat) (f : Stream → Stream) : (s.updStream p n f).aszCount = s.aszCount := rfl
@[simp] theorem State.updStream_samples (s : State) (p n : Nat) (f : Stream → Stream) : (s.updStream p n f).samples = s.samples := rfl
@[simp] theorem State.updStream_lanes (s : State) (p n : Nat) (f : Stream → Stream) : (s.updStream p n f).lanes = s.lanes := rfl
@[simp] theorem State.updStream_fab (s : State) (p n : Nat) (f : Stream → Stream) : (s.updStream p n f).fab = s.fab := rfl
@[simp] theorem State.updStream_tier (s : State) (p n : Nat) (f : Stream → Stream) : (s.updStream p n f).tier = s.tier := rfl
@[simp] theorem State.updStream_keys (s : State) (p n : Nat) (f : Stream → Stream) : (s.updStream p n f).keys = s.keys := rfl
@[simp] theorem State.updStream_factorTick (s : State) (p n : Nat) (f : Stream → Stream) : (s.updStream p n f).factorTick = s.factorTick := rfl
@[simp] theorem State.updStream_dbk (s : State) (p n : Nat) (f : Stream → Stream) : (s.updStream p n f).dbk = s.dbk := rfl
@[simp] theorem State.updStream_arrivals (s : State) (p n : Nat) (f : Stream → Stream) : (s.updStream p n f).arrivals = s.arrivals := rfl
@[simp] theorem State.updStream_free (s : State) (p n : Nat) (f : Stream → Stream) : (s.updStream p n f).free = s.free := rfl

/-! State.dropStream -/

@[simp] theorem State.dropStream_pending (s : State) (p n : Nat) : (s.dropStream p n).pending = s.pending := rfl
@[simp] theorem State.dropStream_regs (s : State) (p n : Nat) : (s.dropStream p n).regs = s.regs := rfl
@[simp] theorem State.dropStream_outbox (s : State) (p n : Nat) : (s.dropStream p n).outbox = s.outbox := rfl
@[simp] theorem State.dropStream_toll (s : State) (p n : Nat) : (s.dropStream p n).toll = s.toll := rfl
@[simp] theorem State.dropStream_clk (s : State) (p n : Nat) : (s.dropStream p n).clk = s.clk := rfl
@[simp] theorem State.dropStream_pwr (s : State) (p n : Nat) : (s.dropStream p n).pwr = s.pwr := rfl
@[simp] theorem State.dropStream_fuse (s : State) (p n : Nat) : (s.dropStream p n).fuse = s.fuse := rfl
@[simp] theorem State.dropStream_pits (s : State) (p n : Nat) : (s.dropStream p n).pits = s.pits := rfl
@[simp] theorem State.dropStream_stalls (s : State) (p n : Nat) : (s.dropStream p n).stalls = s.stalls := rfl
@[simp] theorem State.dropStream_adms (s : State) (p n : Nat) : (s.dropStream p n).adms = s.adms := rfl
@[simp] theorem State.dropStream_reqs (s : State) (p n : Nat) : (s.dropStream p n).reqs = s.reqs := rfl
@[simp] theorem State.dropStream_dups (s : State) (p n : Nat) : (s.dropStream p n).dups = s.dups := rfl
@[simp] theorem State.dropStream_streams (s : State) (p n : Nat) : (s.dropStream p n).streams = s.streams.filter (fun x => !(x.pitch == p && x.session == n)) := rfl
@[simp] theorem State.dropStream_toks (s : State) (p n : Nat) : (s.dropStream p n).toks = s.toks := rfl
@[simp] theorem State.dropStream_rr (s : State) (p n : Nat) : (s.dropStream p n).rr = s.rr := rfl
@[simp] theorem State.dropStream_chains (s : State) (p n : Nat) : (s.dropStream p n).chains = s.chains := rfl
@[simp] theorem State.dropStream_entries (s : State) (p n : Nat) : (s.dropStream p n).entries = s.entries := rfl
@[simp] theorem State.dropStream_revives (s : State) (p n : Nat) : (s.dropStream p n).revives = s.revives := rfl
@[simp] theorem State.dropStream_parks (s : State) (p n : Nat) : (s.dropStream p n).parks = s.parks := rfl
@[simp] theorem State.dropStream_wbs (s : State) (p n : Nat) : (s.dropStream p n).wbs = s.wbs := rfl
@[simp] theorem State.dropStream_chr (s : State) (p n : Nat) : (s.dropStream p n).chr = s.chr := rfl
@[simp] theorem State.dropStream_gens (s : State) (p n : Nat) : (s.dropStream p n).gens = s.gens := rfl
@[simp] theorem State.dropStream_amd (s : State) (p n : Nat) : (s.dropStream p n).amd = s.amd := rfl
@[simp] theorem State.dropStream_asz (s : State) (p n : Nat) : (s.dropStream p n).asz = s.asz := rfl
@[simp] theorem State.dropStream_aszCount (s : State) (p n : Nat) : (s.dropStream p n).aszCount = s.aszCount := rfl
@[simp] theorem State.dropStream_samples (s : State) (p n : Nat) : (s.dropStream p n).samples = s.samples := rfl
@[simp] theorem State.dropStream_lanes (s : State) (p n : Nat) : (s.dropStream p n).lanes = s.lanes := rfl
@[simp] theorem State.dropStream_fab (s : State) (p n : Nat) : (s.dropStream p n).fab = s.fab := rfl
@[simp] theorem State.dropStream_tier (s : State) (p n : Nat) : (s.dropStream p n).tier = s.tier := rfl
@[simp] theorem State.dropStream_keys (s : State) (p n : Nat) : (s.dropStream p n).keys = s.keys := rfl
@[simp] theorem State.dropStream_factorTick (s : State) (p n : Nat) : (s.dropStream p n).factorTick = s.factorTick := rfl
@[simp] theorem State.dropStream_dbk (s : State) (p n : Nat) : (s.dropStream p n).dbk = s.dbk := rfl
@[simp] theorem State.dropStream_arrivals (s : State) (p n : Nat) : (s.dropStream p n).arrivals = s.arrivals := rfl
@[simp] theorem State.dropStream_free (s : State) (p n : Nat) : (s.dropStream p n).free = s.free := rfl

/-! State.updChain -/

@[simp] theorem State.updChain_pending (s : State) (p c : Nat) (f : ChainSt → ChainSt) : (s.updChain p c f).pending = s.pending := rfl
@[simp] theorem State.updChain_regs (s : State) (p c : Nat) (f : ChainSt → ChainSt) : (s.updChain p c f).regs = s.regs := rfl
@[simp] theorem State.updChain_outbox (s : State) (p c : Nat) (f : ChainSt → ChainSt) : (s.updChain p c f).outbox = s.outbox := rfl
@[simp] theorem State.updChain_toll (s : State) (p c : Nat) (f : ChainSt → ChainSt) : (s.updChain p c f).toll = s.toll := rfl
@[simp] theorem State.updChain_clk (s : State) (p c : Nat) (f : ChainSt → ChainSt) : (s.updChain p c f).clk = s.clk := rfl
@[simp] theorem State.updChain_pwr (s : State) (p c : Nat) (f : ChainSt → ChainSt) : (s.updChain p c f).pwr = s.pwr := rfl
@[simp] theorem State.updChain_fuse (s : State) (p c : Nat) (f : ChainSt → ChainSt) : (s.updChain p c f).fuse = s.fuse := rfl
@[simp] theorem State.updChain_pits (s : State) (p c : Nat) (f : ChainSt → ChainSt) : (s.updChain p c f).pits = s.pits := rfl
@[simp] theorem State.updChain_stalls (s : State) (p c : Nat) (f : ChainSt → ChainSt) : (s.updChain p c f).stalls = s.stalls := rfl
@[simp] theorem State.updChain_adms (s : State) (p c : Nat) (f : ChainSt → ChainSt) : (s.updChain p c f).adms = s.adms := rfl
@[simp] theorem State.updChain_reqs (s : State) (p c : Nat) (f : ChainSt → ChainSt) : (s.updChain p c f).reqs = s.reqs := rfl
@[simp] theorem State.updChain_dups (s : State) (p c : Nat) (f : ChainSt → ChainSt) : (s.updChain p c f).dups = s.dups := rfl
@[simp] theorem State.updChain_streams (s : State) (p c : Nat) (f : ChainSt → ChainSt) : (s.updChain p c f).streams = s.streams := rfl
@[simp] theorem State.updChain_toks (s : State) (p c : Nat) (f : ChainSt → ChainSt) : (s.updChain p c f).toks = s.toks := rfl
@[simp] theorem State.updChain_rr (s : State) (p c : Nat) (f : ChainSt → ChainSt) : (s.updChain p c f).rr = s.rr := rfl
@[simp] theorem State.updChain_chains (s : State) (p c : Nat) (f : ChainSt → ChainSt) : (s.updChain p c f).chains = s.chains.map (fun x => if x.pitch == p && x.idx == c then f x else x) := rfl
@[simp] theorem State.updChain_entries (s : State) (p c : Nat) (f : ChainSt → ChainSt) : (s.updChain p c f).entries = s.entries := rfl
@[simp] theorem State.updChain_revives (s : State) (p c : Nat) (f : ChainSt → ChainSt) : (s.updChain p c f).revives = s.revives := rfl
@[simp] theorem State.updChain_parks (s : State) (p c : Nat) (f : ChainSt → ChainSt) : (s.updChain p c f).parks = s.parks := rfl
@[simp] theorem State.updChain_wbs (s : State) (p c : Nat) (f : ChainSt → ChainSt) : (s.updChain p c f).wbs = s.wbs := rfl
@[simp] theorem State.updChain_chr (s : State) (p c : Nat) (f : ChainSt → ChainSt) : (s.updChain p c f).chr = s.chr := rfl
@[simp] theorem State.updChain_gens (s : State) (p c : Nat) (f : ChainSt → ChainSt) : (s.updChain p c f).gens = s.gens := rfl
@[simp] theorem State.updChain_amd (s : State) (p c : Nat) (f : ChainSt → ChainSt) : (s.updChain p c f).amd = s.amd := rfl
@[simp] theorem State.updChain_asz (s : State) (p c : Nat) (f : ChainSt → ChainSt) : (s.updChain p c f).asz = s.asz := rfl
@[simp] theorem State.updChain_aszCount (s : State) (p c : Nat) (f : ChainSt → ChainSt) : (s.updChain p c f).aszCount = s.aszCount := rfl
@[simp] theorem State.updChain_samples (s : State) (p c : Nat) (f : ChainSt → ChainSt) : (s.updChain p c f).samples = s.samples := rfl
@[simp] theorem State.updChain_lanes (s : State) (p c : Nat) (f : ChainSt → ChainSt) : (s.updChain p c f).lanes = s.lanes := rfl
@[simp] theorem State.updChain_fab (s : State) (p c : Nat) (f : ChainSt → ChainSt) : (s.updChain p c f).fab = s.fab := rfl
@[simp] theorem State.updChain_tier (s : State) (p c : Nat) (f : ChainSt → ChainSt) : (s.updChain p c f).tier = s.tier := rfl
@[simp] theorem State.updChain_keys (s : State) (p c : Nat) (f : ChainSt → ChainSt) : (s.updChain p c f).keys = s.keys := rfl
@[simp] theorem State.updChain_factorTick (s : State) (p c : Nat) (f : ChainSt → ChainSt) : (s.updChain p c f).factorTick = s.factorTick := rfl
@[simp] theorem State.updChain_dbk (s : State) (p c : Nat) (f : ChainSt → ChainSt) : (s.updChain p c f).dbk = s.dbk := rfl
@[simp] theorem State.updChain_arrivals (s : State) (p c : Nat) (f : ChainSt → ChainSt) : (s.updChain p c f).arrivals = s.arrivals := rfl
@[simp] theorem State.updChain_free (s : State) (p c : Nat) (f : ChainSt → ChainSt) : (s.updChain p c f).free = s.free := rfl

/-! State.updLane -/

@[simp] theorem State.updLane_pending (s : State) (l : Nat) (f : LaneSt → LaneSt) : (s.updLane l f).pending = s.pending := rfl
@[simp] theorem State.updLane_regs (s : State) (l : Nat) (f : LaneSt → LaneSt) : (s.updLane l f).regs = s.regs := rfl
@[simp] theorem State.updLane_outbox (s : State) (l : Nat) (f : LaneSt → LaneSt) : (s.updLane l f).outbox = s.outbox := rfl
@[simp] theorem State.updLane_toll (s : State) (l : Nat) (f : LaneSt → LaneSt) : (s.updLane l f).toll = s.toll := rfl
@[simp] theorem State.updLane_clk (s : State) (l : Nat) (f : LaneSt → LaneSt) : (s.updLane l f).clk = s.clk := rfl
@[simp] theorem State.updLane_pwr (s : State) (l : Nat) (f : LaneSt → LaneSt) : (s.updLane l f).pwr = s.pwr := rfl
@[simp] theorem State.updLane_fuse (s : State) (l : Nat) (f : LaneSt → LaneSt) : (s.updLane l f).fuse = s.fuse := rfl
@[simp] theorem State.updLane_pits (s : State) (l : Nat) (f : LaneSt → LaneSt) : (s.updLane l f).pits = s.pits := rfl
@[simp] theorem State.updLane_stalls (s : State) (l : Nat) (f : LaneSt → LaneSt) : (s.updLane l f).stalls = s.stalls := rfl
@[simp] theorem State.updLane_adms (s : State) (l : Nat) (f : LaneSt → LaneSt) : (s.updLane l f).adms = s.adms := rfl
@[simp] theorem State.updLane_reqs (s : State) (l : Nat) (f : LaneSt → LaneSt) : (s.updLane l f).reqs = s.reqs := rfl
@[simp] theorem State.updLane_dups (s : State) (l : Nat) (f : LaneSt → LaneSt) : (s.updLane l f).dups = s.dups := rfl
@[simp] theorem State.updLane_streams (s : State) (l : Nat) (f : LaneSt → LaneSt) : (s.updLane l f).streams = s.streams := rfl
@[simp] theorem State.updLane_toks (s : State) (l : Nat) (f : LaneSt → LaneSt) : (s.updLane l f).toks = s.toks := rfl
@[simp] theorem State.updLane_rr (s : State) (l : Nat) (f : LaneSt → LaneSt) : (s.updLane l f).rr = s.rr := rfl
@[simp] theorem State.updLane_chains (s : State) (l : Nat) (f : LaneSt → LaneSt) : (s.updLane l f).chains = s.chains := rfl
@[simp] theorem State.updLane_entries (s : State) (l : Nat) (f : LaneSt → LaneSt) : (s.updLane l f).entries = s.entries := rfl
@[simp] theorem State.updLane_revives (s : State) (l : Nat) (f : LaneSt → LaneSt) : (s.updLane l f).revives = s.revives := rfl
@[simp] theorem State.updLane_parks (s : State) (l : Nat) (f : LaneSt → LaneSt) : (s.updLane l f).parks = s.parks := rfl
@[simp] theorem State.updLane_wbs (s : State) (l : Nat) (f : LaneSt → LaneSt) : (s.updLane l f).wbs = s.wbs := rfl
@[simp] theorem State.updLane_chr (s : State) (l : Nat) (f : LaneSt → LaneSt) : (s.updLane l f).chr = s.chr := rfl
@[simp] theorem State.updLane_gens (s : State) (l : Nat) (f : LaneSt → LaneSt) : (s.updLane l f).gens = s.gens := rfl
@[simp] theorem State.updLane_amd (s : State) (l : Nat) (f : LaneSt → LaneSt) : (s.updLane l f).amd = s.amd := rfl
@[simp] theorem State.updLane_asz (s : State) (l : Nat) (f : LaneSt → LaneSt) : (s.updLane l f).asz = s.asz := rfl
@[simp] theorem State.updLane_aszCount (s : State) (l : Nat) (f : LaneSt → LaneSt) : (s.updLane l f).aszCount = s.aszCount := rfl
@[simp] theorem State.updLane_samples (s : State) (l : Nat) (f : LaneSt → LaneSt) : (s.updLane l f).samples = s.samples := rfl
@[simp] theorem State.updLane_lanes (s : State) (l : Nat) (f : LaneSt → LaneSt) : (s.updLane l f).lanes = s.lanes.modify l f := rfl
@[simp] theorem State.updLane_fab (s : State) (l : Nat) (f : LaneSt → LaneSt) : (s.updLane l f).fab = s.fab := rfl
@[simp] theorem State.updLane_tier (s : State) (l : Nat) (f : LaneSt → LaneSt) : (s.updLane l f).tier = s.tier := rfl
@[simp] theorem State.updLane_keys (s : State) (l : Nat) (f : LaneSt → LaneSt) : (s.updLane l f).keys = s.keys := rfl
@[simp] theorem State.updLane_factorTick (s : State) (l : Nat) (f : LaneSt → LaneSt) : (s.updLane l f).factorTick = s.factorTick := rfl
@[simp] theorem State.updLane_dbk (s : State) (l : Nat) (f : LaneSt → LaneSt) : (s.updLane l f).dbk = s.dbk := rfl
@[simp] theorem State.updLane_arrivals (s : State) (l : Nat) (f : LaneSt → LaneSt) : (s.updLane l f).arrivals = s.arrivals := rfl
@[simp] theorem State.updLane_free (s : State) (l : Nat) (f : LaneSt → LaneSt) : (s.updLane l f).free = s.free := rfl

/-! State.updView -/

@[simp] theorem State.updView_pending (s : State) (v : Nat) (f : View → View) : (s.updView v f).pending = s.pending := rfl
@[simp] theorem State.updView_regs (s : State) (v : Nat) (f : View → View) : (s.updView v f).regs = s.regs := rfl
@[simp] theorem State.updView_outbox (s : State) (v : Nat) (f : View → View) : (s.updView v f).outbox = s.outbox := rfl
@[simp] theorem State.updView_toll (s : State) (v : Nat) (f : View → View) : (s.updView v f).toll = s.toll := rfl
@[simp] theorem State.updView_clk (s : State) (v : Nat) (f : View → View) : (s.updView v f).clk = s.clk := rfl
@[simp] theorem State.updView_pwr (s : State) (v : Nat) (f : View → View) : (s.updView v f).pwr = s.pwr := rfl
@[simp] theorem State.updView_fuse (s : State) (v : Nat) (f : View → View) : (s.updView v f).fuse = s.fuse := rfl
@[simp] theorem State.updView_pits (s : State) (v : Nat) (f : View → View) : (s.updView v f).pits = s.pits := rfl
@[simp] theorem State.updView_stalls (s : State) (v : Nat) (f : View → View) : (s.updView v f).stalls = s.stalls := rfl
@[simp] theorem State.updView_adms (s : State) (v : Nat) (f : View → View) : (s.updView v f).adms = s.adms := rfl
@[simp] theorem State.updView_reqs (s : State) (v : Nat) (f : View → View) : (s.updView v f).reqs = s.reqs := rfl
@[simp] theorem State.updView_dups (s : State) (v : Nat) (f : View → View) : (s.updView v f).dups = s.dups := rfl
@[simp] theorem State.updView_streams (s : State) (v : Nat) (f : View → View) : (s.updView v f).streams = s.streams := rfl
@[simp] theorem State.updView_toks (s : State) (v : Nat) (f : View → View) : (s.updView v f).toks = s.toks := rfl
@[simp] theorem State.updView_rr (s : State) (v : Nat) (f : View → View) : (s.updView v f).rr = s.rr := rfl
@[simp] theorem State.updView_chains (s : State) (v : Nat) (f : View → View) : (s.updView v f).chains = s.chains := rfl
@[simp] theorem State.updView_entries (s : State) (v : Nat) (f : View → View) : (s.updView v f).entries = s.entries := rfl
@[simp] theorem State.updView_revives (s : State) (v : Nat) (f : View → View) : (s.updView v f).revives = s.revives := rfl
@[simp] theorem State.updView_parks (s : State) (v : Nat) (f : View → View) : (s.updView v f).parks = s.parks := rfl
@[simp] theorem State.updView_wbs (s : State) (v : Nat) (f : View → View) : (s.updView v f).wbs = s.wbs := rfl
@[simp] theorem State.updView_chr (s : State) (v : Nat) (f : View → View) : (s.updView v f).chr = s.chr := rfl
@[simp] theorem State.updView_gens (s : State) (v : Nat) (f : View → View) : (s.updView v f).gens = s.gens := rfl
@[simp] theorem State.updView_amd (s : State) (v : Nat) (f : View → View) : (s.updView v f).amd = s.amd := rfl
@[simp] theorem State.updView_asz (s : State) (v : Nat) (f : View → View) : (s.updView v f).asz = s.asz := rfl
@[simp] theorem State.updView_aszCount (s : State) (v : Nat) (f : View → View) : (s.updView v f).aszCount = s.aszCount := rfl
@[simp] theorem State.updView_samples (s : State) (v : Nat) (f : View → View) : (s.updView v f).samples = s.samples := rfl
@[simp] theorem State.updView_lanes (s : State) (v : Nat) (f : View → View) : (s.updView v f).lanes = s.lanes := rfl
@[simp] theorem State.updView_fab (s : State) (v : Nat) (f : View → View) : (s.updView v f).fab = s.fab := rfl
@[simp] theorem State.updView_tier (s : State) (v : Nat) (f : View → View) : (s.updView v f).tier = s.tier := rfl
@[simp] theorem State.updView_keys (s : State) (v : Nat) (f : View → View) : (s.updView v f).keys = s.keys := rfl
@[simp] theorem State.updView_factorTick (s : State) (v : Nat) (f : View → View) : (s.updView v f).factorTick = s.factorTick := rfl
@[simp] theorem State.updView_dbk (s : State) (v : Nat) (f : View → View) : (s.updView v f).dbk = { s.dbk with views := s.dbk.views.modify v f } := rfl
@[simp] theorem State.updView_arrivals (s : State) (v : Nat) (f : View → View) : (s.updView v f).arrivals = s.arrivals := rfl
@[simp] theorem State.updView_free (s : State) (v : Nat) (f : View → View) : (s.updView v f).free = s.free := rfl

/-! State.updAsz -/

@[simp] theorem State.updAsz_pending (s : State) (p m : Nat) (f : AszModel → AszModel) : (s.updAsz p m f).pending = s.pending := rfl
@[simp] theorem State.updAsz_regs (s : State) (p m : Nat) (f : AszModel → AszModel) : (s.updAsz p m f).regs = s.regs := rfl
@[simp] theorem State.updAsz_outbox (s : State) (p m : Nat) (f : AszModel → AszModel) : (s.updAsz p m f).outbox = s.outbox := rfl
@[simp] theorem State.updAsz_toll (s : State) (p m : Nat) (f : AszModel → AszModel) : (s.updAsz p m f).toll = s.toll := rfl
@[simp] theorem State.updAsz_clk (s : State) (p m : Nat) (f : AszModel → AszModel) : (s.updAsz p m f).clk = s.clk := rfl
@[simp] theorem State.updAsz_pwr (s : State) (p m : Nat) (f : AszModel → AszModel) : (s.updAsz p m f).pwr = s.pwr := rfl
@[simp] theorem State.updAsz_fuse (s : State) (p m : Nat) (f : AszModel → AszModel) : (s.updAsz p m f).fuse = s.fuse := rfl
@[simp] theorem State.updAsz_pits (s : State) (p m : Nat) (f : AszModel → AszModel) : (s.updAsz p m f).pits = s.pits := rfl
@[simp] theorem State.updAsz_stalls (s : State) (p m : Nat) (f : AszModel → AszModel) : (s.updAsz p m f).stalls = s.stalls := rfl
@[simp] theorem State.updAsz_adms (s : State) (p m : Nat) (f : AszModel → AszModel) : (s.updAsz p m f).adms = s.adms := rfl
@[simp] theorem State.updAsz_reqs (s : State) (p m : Nat) (f : AszModel → AszModel) : (s.updAsz p m f).reqs = s.reqs := rfl
@[simp] theorem State.updAsz_dups (s : State) (p m : Nat) (f : AszModel → AszModel) : (s.updAsz p m f).dups = s.dups := rfl
@[simp] theorem State.updAsz_streams (s : State) (p m : Nat) (f : AszModel → AszModel) : (s.updAsz p m f).streams = s.streams := rfl
@[simp] theorem State.updAsz_toks (s : State) (p m : Nat) (f : AszModel → AszModel) : (s.updAsz p m f).toks = s.toks := rfl
@[simp] theorem State.updAsz_rr (s : State) (p m : Nat) (f : AszModel → AszModel) : (s.updAsz p m f).rr = s.rr := rfl
@[simp] theorem State.updAsz_chains (s : State) (p m : Nat) (f : AszModel → AszModel) : (s.updAsz p m f).chains = s.chains := rfl
@[simp] theorem State.updAsz_entries (s : State) (p m : Nat) (f : AszModel → AszModel) : (s.updAsz p m f).entries = s.entries := rfl
@[simp] theorem State.updAsz_revives (s : State) (p m : Nat) (f : AszModel → AszModel) : (s.updAsz p m f).revives = s.revives := rfl
@[simp] theorem State.updAsz_parks (s : State) (p m : Nat) (f : AszModel → AszModel) : (s.updAsz p m f).parks = s.parks := rfl
@[simp] theorem State.updAsz_wbs (s : State) (p m : Nat) (f : AszModel → AszModel) : (s.updAsz p m f).wbs = s.wbs := rfl
@[simp] theorem State.updAsz_chr (s : State) (p m : Nat) (f : AszModel → AszModel) : (s.updAsz p m f).chr = s.chr := rfl
@[simp] theorem State.updAsz_gens (s : State) (p m : Nat) (f : AszModel → AszModel) : (s.updAsz p m f).gens = s.gens := rfl
@[simp] theorem State.updAsz_amd (s : State) (p m : Nat) (f : AszModel → AszModel) : (s.updAsz p m f).amd = s.amd := rfl
@[simp] theorem State.updAsz_asz (s : State) (p m : Nat) (f : AszModel → AszModel) : (s.updAsz p m f).asz = s.asz.map (fun x => if x.pitch == p && x.model == m then f x else x) := rfl
@[simp] theorem State.updAsz_aszCount (s : State) (p m : Nat) (f : AszModel → AszModel) : (s.updAsz p m f).aszCount = s.aszCount := rfl
@[simp] theorem State.updAsz_samples (s : State) (p m : Nat) (f : AszModel → AszModel) : (s.updAsz p m f).samples = s.samples := rfl
@[simp] theorem State.updAsz_lanes (s : State) (p m : Nat) (f : AszModel → AszModel) : (s.updAsz p m f).lanes = s.lanes := rfl
@[simp] theorem State.updAsz_fab (s : State) (p m : Nat) (f : AszModel → AszModel) : (s.updAsz p m f).fab = s.fab := rfl
@[simp] theorem State.updAsz_tier (s : State) (p m : Nat) (f : AszModel → AszModel) : (s.updAsz p m f).tier = s.tier := rfl
@[simp] theorem State.updAsz_keys (s : State) (p m : Nat) (f : AszModel → AszModel) : (s.updAsz p m f).keys = s.keys := rfl
@[simp] theorem State.updAsz_factorTick (s : State) (p m : Nat) (f : AszModel → AszModel) : (s.updAsz p m f).factorTick = s.factorTick := rfl
@[simp] theorem State.updAsz_dbk (s : State) (p m : Nat) (f : AszModel → AszModel) : (s.updAsz p m f).dbk = s.dbk := rfl
@[simp] theorem State.updAsz_arrivals (s : State) (p m : Nat) (f : AszModel → AszModel) : (s.updAsz p m f).arrivals = s.arrivals := rfl
@[simp] theorem State.updAsz_free (s : State) (p m : Nat) (f : AszModel → AszModel) : (s.updAsz p m f).free = s.free := rfl

/-! ### Registers through the named updates -/

theorem State.wrB_rd (s : State) (f g : Fld) (i j : Nat) (b : Bool) :
    (s.wrB f i b).rd g j = (s.wr f i (b2n b)).rd g j := rfl

theorem State.bump_rd (s : State) (f g : Fld) (i j n : Nat) :
    (s.bump f i n).rd g j = (s.wr f i (s.rd f i + n)).rd g j := rfl

@[simp] theorem State.emit_rd (s : State) (w : Out) (f : Fld) (i : Nat) : (s.emit w).rd f i = s.rd f i := rfl
@[simp] theorem State.tookFree_rd (s : State) (f : Fld) (i : Nat) : s.tookFree.rd f i = s.rd f i := rfl
@[simp] theorem State.updPit_rd (s : State) (p : Nat) (h : PitSt → PitSt) (f : Fld) (i : Nat) : (s.updPit p h).rd f i = s.rd f i := rfl
@[simp] theorem State.updStl_rd (s : State) (p : Nat) (h : StallSt → StallSt) (f : Fld) (i : Nat) : (s.updStl p h).rd f i = s.rd f i := rfl
@[simp] theorem State.updEntry_rd (s : State) (p n : Nat) (h : Entry → Entry) (f : Fld) (i : Nat) : (s.updEntry p n h).rd f i = s.rd f i := rfl
@[simp] theorem State.updReq_rd (s : State) (p n g : Nat) (h : Req → Req) (f : Fld) (i : Nat) : (s.updReq p n g h).rd f i = s.rd f i := rfl
@[simp] theorem State.updStream_rd (s : State) (p n : Nat) (h : Stream → Stream) (f : Fld) (i : Nat) : (s.updStream p n h).rd f i = s.rd f i := rfl
@[simp] theorem State.updChain_rd (s : State) (p n : Nat) (h : ChainSt → ChainSt) (f : Fld) (i : Nat) : (s.updChain p n h).rd f i = s.rd f i := rfl
@[simp] theorem State.updLane_rd (s : State) (p : Nat) (h : LaneSt → LaneSt) (f : Fld) (i : Nat) : (s.updLane p h).rd f i = s.rd f i := rfl
@[simp] theorem State.updView_rd (s : State) (p : Nat) (h : View → View) (f : Fld) (i : Nat) : (s.updView p h).rd f i = s.rd f i := rfl
@[simp] theorem State.updAsz_rd (s : State) (p n : Nat) (h : AszModel → AszModel) (f : Fld) (i : Nat) : (s.updAsz p n h).rd f i = s.rd f i := rfl

/-- Work of gated units while nothing holds the block is the work itself. -/
theorem State.whileUp_of_hold {s : State} {f : State → State} (h : s.pwr.hold = .none) : s.whileUp f = f s := by
  unfold State.whileUp
  rw [h]
  rfl

/-- Work of gated units while the block is held has no effect. -/
theorem State.whileUp_held {s : State} {f : State → State} (h : s.pwr.hold ≠ .none) : s.whileUp f = s := by
  unfold State.whileUp
  have : (s.pwr.hold == .none) = false := by
    cases hh : s.pwr.hold <;> first | rfl | exact absurd hh h
  rw [this]
  rfl

end Sys2Proof.Machine
end

