-- ==== Sys2Proof/Laws/Records.lean ====
section
/-! SUPPORT. What the shared operations do: reads after writes of other copies, the guard of a granted write, and what a
Daybook record leaves and adds. -/

namespace Sys2Proof.Machine

theorem State.rd_wr_other {s : State} {f g : Fld} {i j v : Nat} (h : ¬(f = g ∧ i = j)) : (s.wr f i v).rd g j = s.rd g j :=
  (rd_wr ..).trans (if_neg h)

theorem State.rd_of_no_regs {s : State} (h : s.regs = []) (f : Fld) (i : Nat) : s.rd f i = f.resetVal.toNat := by
  unfold State.rd
  rw [h]
  rfl

/-- A field reads within its 32 bits. -/
theorem State.rd_lt (s : State) (f : Fld) (i : Nat) : s.rd f i < 2 ^ 32 := (regGet s.regs f i).isLt

theorem fld_reset_fits (f : Fld) : f.resetVal.toNat < 2 ^ f.desc.width := by cases f <;> decide

/-- A field of a well-shaped state reads within its width. -/
theorem State.rd_fits {s : State} (h : s.Inv) (f : Fld) (i : Nat) : s.rd f i < 2 ^ f.desc.width := by
  unfold State.rd regGet
  split
  · rename_i c e
    have h1 := List.find?_some e
    have h2 := h.fit
    simp only [decide_eq_true_eq] at h1
    unfold regsFit at h2
    rw [List.all_eq_true] at h2
    have h3 := h2 c (List.mem_of_find?_eq_some e)
    rw [decide_eq_true_eq, h1.1] at h3
    exact h3
  · exact fld_reset_fits f

/-- In service, a write by the operator passes its guard. -/
theorem State.gate_of_operator {s : State} {f : Fld} {i : Nat} (h : s.Running) : s.gate operatorId f i = .inr s := by
  unfold State.gate State.writeGate
  have e : s.windowLive (f.desc.addr i) true = true := by
    unfold State.windowLive
    rw [h.hold]
    simp [h.phase, h.state]
  rw [e]
  rfl

/-- A copy of a one-bit flag that reads 1 is among the copies set. -/
theorem State.mem_copiesSet {s : State} {f : Fld} {i : Nat} (hr : f.resetVal ≠ 1#32) (h : s.rd f i = 1) : i ∈ s.copiesSet f := by
  unfold State.copiesSet
  rw [List.mem_filterMap]
  unfold State.rd regGet at h
  split at h
  · rename_i c e
    refine ⟨c, List.mem_of_find?_eq_some e, ?_⟩
    have := List.find?_some e
    simp only [decide_eq_true_eq] at this
    rw [if_pos ⟨this.1, by apply BitVec.eq_of_toNat_eq; simpa using h⟩, this.2]
  · exact absurd (BitVec.eq_of_toNat_eq (by simpa using h)) hr

/-- A part is not touched by a register write. -/
theorem State.wr_part {s : State} {f : Fld} {i v : Nat} (c : Part) : c.same s (s.wr f i v) := by cases c <;> rfl

/-! ### Closing the open record -/

theorem State.dbkClose_buffer (s : State) : s.dbkClose.dbk.buffer = s.dbk.buffer := by unfold State.dbkClose; split <;> rfl
theorem State.dbkClose_slot (s : State) : s.dbkClose.dbk.slot = s.dbk.slot := by unfold State.dbkClose; split <;> rfl
theorem State.dbkClose_clear (s : State) : s.dbkClose.dbk.clear = s.dbk.clear := by unfold State.dbkClose; split <;> rfl
theorem State.dbkClose_views (s : State) : s.dbkClose.dbk.views = s.dbk.views := by unfold State.dbkClose; split <;> rfl
theorem State.dbkClose_store {s : State} (h : s.dbk.last = none ∨ s.dbk.lastPos = none) : s.dbkClose.dbk.store = s.dbk.store := by
  unfold State.dbkClose
  split
  · rename_i h1 h2
    rcases h with h | h
    · rw [h] at h1; cases h1
    · rw [h] at h2; cases h2
  · rfl
theorem State.dbkClose_clk (s : State) : s.dbkClose.clk = s.clk := by unfold State.dbkClose; split <;> rfl
theorem State.dbkClose_regs (s : State) : s.dbkClose.regs = s.regs := by unfold State.dbkClose; split <;> rfl

/-! ### A record -/

theorem State.dbkEnter_slot (s : State) (r : DRec) : (s.dbkEnter r).dbk.slot = s.dbk.slot := by
  unfold State.dbkEnter
  split
  · rfl
  · exact s.dbkClose_slot

theorem State.dbkEnter_clear (s : State) (r : DRec) : (s.dbkEnter r).dbk.clear = s.dbk.clear := by
  unfold State.dbkEnter
  split
  · rfl
  · exact s.dbkClose_clear

theorem State.dbkEnter_store {s : State} (r : DRec) (h : s.dbk.last = none ∨ s.dbk.lastPos = none) :
    (s.dbkEnter r).dbk.store = s.dbk.store := by
  unfold State.dbkEnter
  split
  · rfl
  · exact State.dbkClose_store h

theorem State.dbkAs_slot (s : State) (ps : Bool) (code p a b c : Nat) : (s.dbkAs ps code p a b c).dbk.slot = s.dbk.slot := by
  unfold State.dbkAs
  dsimp only
  repeat' split
  · rfl
  all_goals exact State.dbkEnter_slot _ _

theorem State.day_slot (s : State) (code p a b c : Nat) : (s.day code p a b c).dbk.slot = s.dbk.slot := State.dbkAs_slot ..

theorem State.dbkAs_clear (s : State) (ps : Bool) (code p a b c : Nat) : (s.dbkAs ps code p a b c).dbk.clear = s.dbk.clear := by
  unfold State.dbkAs
  dsimp only
  repeat' split
  · rfl
  all_goals exact State.dbkEnter_clear _ _

theorem State.dbkAs_store {s : State} (ps : Bool) (code p a b c : Nat) (h : s.dbk.last = none ∨ s.dbk.lastPos = none) :
    (s.dbkAs ps code p a b c).dbk.store = s.dbk.store := by
  unfold State.dbkAs
  dsimp only
  repeat' split
  · rfl
  all_goals exact State.dbkEnter_store _ h

theorem State.day_store {s : State} (code p a b c : Nat) (h : s.dbk.last = none ∨ s.dbk.lastPos = none) :
    (s.day code p a b c).dbk.store = s.dbk.store := State.dbkAs_store _ _ _ _ _ _ h

/-- What a record may touch: the Daybook, what is sent to its device, and the dropped count. -/
theorem State.day_part (s : State) (code p a b c : Nat) (x : Part) (h : x ≠ .outbox) (h' : x ≠ .dbk) : x.same s (s.day code p a b c) := by
  refine (State.day_frame (m := 0x40000002) (r := 0x10000000000000000000000000000000000000000000000000) rfl rfl (State.Frame.refl s)).part x ?_
  cases x <;> first
    | rfl
    | exact absurd rfl h
    | exact absurd rfl h'

theorem State.dbkAs_part (s : State) (ps : Bool) (code p a b c : Nat) (x : Part) (h : x ≠ .outbox) (h' : x ≠ .dbk) :
    x.same s (s.dbkAs ps code p a b c) := by
  refine (State.dbkAs_frame (m := 0x40000002) (r := 0x10000000000000000000000000000000000000000000000000) rfl rfl (State.Frame.refl s)).part x ?_
  cases x <;> first
    | rfl
    | exact absurd rfl h
    | exact absurd rfl h'

theorem State.dbkAs_rd (s : State) (ps : Bool) (code p a b c : Nat) (f : Fld) (i : Nat) (h : f ≠ .dbkDroppedCount ∨ i ≠ 0) :
    (s.dbkAs ps code p a b c).rd f i = s.rd f i := by
  have e : ∀ r : DRec, (s.dbkEnter r).rd f i = s.rd f i := by
    intro r
    unfold State.dbkEnter
    split
    · refine State.rd_wr_other ?_
      rintro ⟨rfl, rfl⟩
      rcases h with h | h <;> exact h rfl
    · show (regGet s.dbkClose.regs f i).toNat = _
      rw [s.dbkClose_regs]
      rfl
  unfold State.dbkAs
  dsimp only
  repeat' split
  · rfl
  all_goals exact e _

theorem State.day_rd (s : State) (code p a b c : Nat) (f : Fld) (i : Nat) (h : f ≠ .dbkDroppedCount ∨ i ≠ 0) :
    (s.day code p a b c).rd f i = s.rd f i := State.dbkAs_rd _ _ _ _ _ _ _ _ _ h

/-- A record that is no repeat of the open one enters a buffer with room. -/
theorem State.dbkAs_enters {s : State} {ps : Bool} {code p a b c : Nat} (h : ∀ l, s.dbk.last = some l → l.code ≠ code)
    (hb : s.dbk.buffer.length < 256) :
    ∃ r, (s.dbkAs ps code p a b c).dbk.buffer = s.dbk.buffer ++ [r] ∧ r.code = code ∧ r.pscope = ps ∧ r.pitch = p
      ∧ r.p0 = a % 2 ^ 32 ∧ r.p1 = b % 2 ^ 32 ∧ r.p2 = c % 2 ^ 32 ∧ r.optime = s.clk.optime ∧ r.pcyc = s.rd .wchPcycCount
      ∧ (s.dbkAs ps code p a b c).dbk.last = some r := by
  have e : s.dbkAs ps code p a b c = s.dbkEnter { code, pscope := ps, pitch := p, p0 := a % 2 ^ 32, p1 := b % 2 ^ 32
                                                  p2 := c % 2 ^ 32, optime := s.clk.optime, pcyc := s.rd .wchPcycCount } := by
    unfold State.dbkAs
    split
    · rename_i l hl
      rw [if_neg]
      unfold DRec.same
      simp [h l hl]
    · rfl
  rw [e]
  unfold State.dbkEnter
  rw [if_neg (by omega)]
  refine ⟨_, by dsimp only; rw [s.dbkClose_buffer], rfl, rfl, rfl, rfl, rfl, rfl, rfl, rfl, rfl⟩

theorem State.day_enters {s : State} {code p a b c : Nat} (h : ∀ l, s.dbk.last = some l → l.code ≠ code)
    (hb : s.dbk.buffer.length < 256) :
    ∃ r, (s.day code p a b c).dbk.buffer = s.dbk.buffer ++ [r] ∧ r.code = code ∧ r.pscope = pitchScoped code
      ∧ r.pitch = (if pitchScoped code then p else 0)
      ∧ r.p0 = a % 2 ^ 32 ∧ r.p1 = b % 2 ^ 32 ∧ r.p2 = c % 2 ^ 32 ∧ r.optime = s.clk.optime ∧ r.pcyc = s.rd .wchPcycCount
      ∧ (s.day code p a b c).dbk.last = some r := State.dbkAs_enters h hb

end Sys2Proof.Machine
end

