-- ==== Sys2Proof/Tests/Slice0.lean ====
section
/-! SUPPORT. Tests of the model's own work: ill-formed commands refused, no word spells a command, a state and operands that
meet the hypotheses of every statement, and single steps held against the spec's own numbers. -/

namespace Sys2Proof.Tests

set_option Elab.async false

open Sys2Proof.Machine

/-! ### Well-formed commands (one ill-formed term per check) -/

theorem test_wf_flit : Instr.check (.flitReceive 0 false false []) = some .flitLength := by decide
theorem test_wf_frame : Instr.check (.hello 3 (List.replicate 31 0#8)) = some .frameLength := by decide
theorem test_wf_location : Instr.check (.startup 0#8 true true [] (List.replicate 64 0#8)) = some .locationLength := by decide
theorem test_wf_table : Instr.check (.tableReloadComplete 0 0x06#8 0#8 .error) = some .tableType := by decide
theorem test_wf_descriptor : Instr.check (.descriptorRead 0 (.ok (List.replicate 63 0#8))) = some .readLength := by decide
theorem test_wf_test_step : Instr.check (.stallTestComplete 0 9#4) = some .stallTestStep := by decide
theorem test_wf_good : Instr.wf (.stallTestComplete 0 8#4) = true ∧ Instr.wf (.tableReloadComplete 0 0x07#8 0#8 .error) = true := by decide

/-- The table gives no row bits, so no word spells a command and a placed word changes nothing. -/
theorem test_no_word : decodeTableWord 32 0xFFFFFFFF = none ∧ (State.reset.withFetchWord 32 1).pending = [] := by decide

/-! ### States the tests start from -/

/-- Register copies set one after another. -/
def put (l : List (Fld × Nat × Nat)) (s : State) : State := l.foldl (fun a x => a.wr x.1 x.2.1 x.2.2) s

/-- The state a command leaves. -/
def run (c : Instr) (s : State) : State :=
  match exec c s with
  | .next t => t
  | _ => State.reset

/-- A command leaves the state as it is. -/
def same (c : Instr) (s : State) : Bool := decide (run c s = s)

def shaped (s : State) : Bool :=
  regsWf s.regs && regsFit s.regs && s.pits.length == 64 && s.stalls.length == 64 && s.lanes.length == 16
    && s.dbk.views.length == 66 && decide (s.dbk.buffer.length ≤ 256) && decide (s.clk.optime < 2 ^ 40)
    && decide (s.clk.levelFrac < 8)

theorem inv_of {s : State} (h : shaped s = true) : s.Inv := by
  simp only [shaped, Bool.and_eq_true, beq_iff_eq, decide_eq_true_eq] at h
  obtain ⟨⟨⟨⟨⟨⟨⟨⟨a, b⟩, c⟩, d⟩, e⟩, f⟩, g⟩, i⟩, j⟩ := h
  exact ⟨a, b, c, d, e, f, g, i, j⟩

def serves (s : State) : Bool := s.pwr.hold == .none && s.pwr.phase == .done && s.rd .chrStatusState == 4

theorem running_of {s : State} (h : serves s = true) : s.Running := by
  simp only [serves, Bool.and_eq_true, beq_iff_eq] at h
  exact ⟨h.1.1, h.1.2, h.2⟩

/-- The block in service with nothing configured. -/
def up : State := put [(.chrStatusState, 0, 4)] { State.reset with pwr := { phase := .done } }

/-- The same, held. -/
def held : State := { up with pwr := { phase := .done, hold := .shared } }

/-- Pitch 0 enabled, with one Spread stall, rings of 16 and INTAKE model 5 of 100 nJ. -/
def toll : State := put [(.tollStatusReady, 0, 1), (.tollEnergyDepthUj, 0, 1), (.tollEnergyDrainMw, 0, 64), (.tollReviveMaxInflight, 0, 4),
  (.tollPitCfgIntakeDepth, 0, 8), (.tollPitCfg2ConMax, 0, 4), (.tollMdlLoModel, 0, 5), (.tollMdlLoValid, 0, 1), (.tollMdlHiEnergyNj, 0, 100),
  (.tollMdlLoFactor, 0, 256), (.pitStatusEnabled, 0, 1), (.pitSqSizeEntries, 0, 16), (.pitVqSizeEntries, 0, 16), (.stlRoleAlloc, 0, 1), (.stlRoleRole, 0, 1),
  (.tierRegionLedger, 0, 4), (.glbHpClkMhz, 0, 1000), (.pitAdmitTtlUsec, 0, 10)] up

/-- A live admission of INTAKE model 5 under pitch 0, session 9, tag 3, cost 2. -/
def adm : Admission := { pitch := 0, session := 9, tag := 3, kind := 0, model := 5, serving := 5, cost := 2, epoch := 0, chain := none, tick := 0 }

/-! ### Hypotheses that are met: the queue, the shape, the Toll -/

theorem witness_EmptyQueueRunsOneCycle : State.reset.pending = [] ∧ step State.reset ≠ .next State.reset :=
  ⟨rfl, fun h => by injection h with h; exact absurd (congrArg (fun s => s.clk.hp) h) (by decide)⟩

theorem witness_EveryStepKeepsTheShape : State.reset.Inv ∧ ∃ t, step { State.reset with pending := [.energyDrainTick] } = .next t :=
  ⟨inv_of (by decide +kernel), _, rfl⟩

theorem witness_NothingDoneIsUndone : exec .energyDrainTick up = .next (run .energyDrainTick up) := rfl

/-- An INTAKE of cost 2 is granted; of a pitch that is off it is not. -/
theorem witness_TollTakesOnlyOnAdmit : toll.tollLive = true ∧ (run (.tollQuery 0 9 3 0 5 2) toll).toll.ans = 0
    ∧ (run (.tollQuery 1 9 3 0 5 2) toll).toll.ans ≠ 0 := by decide +kernel

/-- Row 1, row 2 (its own answer among them) and row 3. -/
theorem witness_TollEarlyRowsDecide : toll.rd .pitStatusEnabled 1 = 0 ∧ toll.rd .pitStatusEnabled 0 ≠ 0
    ∧ (toll.pit 0).draining = false ∧ toll.fab.excluded.contains 0 = false
    ∧ (∃ a ∈ ({ toll with adms := [adm] } : State).adms, a.pitch = 0 ∧ a.session = 9 ∧ a.tag = 3)
    ∧ (run (.tollQuery 0 9 3 0 5 2) { toll with adms := [adm] }).toll = ⟨true, 2, 0⟩
    ∧ (put [(.tollQtabHiValid, 255, 1), (.tollQtabHiWhole, 255, 1)] toll).quarHit 0 9 = true := by decide +kernel

/-- 11 × 100 nJ exceed a depth of 1 µJ; 10 × 100 nJ do not. -/
theorem witness_QueryAboveTheDepthIsRefused : toll.tollLive = true ∧ toll.rd .pitStatusEnabled 0 ≠ 0 ∧ (toll.pit 0).draining = false
    ∧ toll.fab.excluded.contains 0 = false ∧ toll.adms = [] ∧ toll.quarHit 0 9 = false ∧ toll.serving? 0 5 = some 0
    ∧ toll.rd .tollEnergyDepthUj * 1000 < toll.rd .tollMdlHiEnergyNj 0 * max 11 1
    ∧ ¬ toll.rd .tollEnergyDepthUj * 1000 < toll.rd .tollMdlHiEnergyNj 0 * max 10 1
    ∧ (run (.tollQuery 0 9 3 0 5 11) toll).toll = ⟨true, 2, 9⟩ ∧ (run (.tollQuery 0 9 3 0 5 10) toll).toll = ⟨true, 0, 0⟩ := by
  decide +kernel

theorem witness_DrainAndFactorsFollowTime :
    (∃ c : Clocks, c.levelFrac < 8 ∧ c.frac < 15625 ∧ c.optime < 2 ^ 40 ∧ ({ toll with clk := c } : State).clk = c)
    ∧ toll.rd .tollMdlLoValid 0 = 1
    ∧ (let s : State := { toll with clk := { ticks := 8000 } }
       s.factorTick.find? (·.1 == 0) = none ∧ 8000 ≤ s.clk.ticks)
    ∧ (let s : State := { toll with clk := { ticks := 8000 }, factorTick := [(0, 0)] }
       s.factorTick.find? (·.1 == 0) = some (0, 0) ∧ 0 + 8000 ≤ s.clk.ticks)
    ∧ (let s : State := { toll with clk := { ticks := 7999 }, factorTick := [(0, 0)] }
       s.clk.ticks < 0 + 8000 ∧ same (.creditFactorRecover 0) s = true) ∧ toll.rd .tollMdlLoValid 1 ≠ 1 :=
  ⟨⟨{ levelFrac := 7, frac := 15624, optime := 2 ^ 40 - 1 }, by decide, by decide, by decide, rfl⟩, by decide +kernel⟩

/-- 10 µs of life: 80 ticks lapse, 79 do not. -/
theorem witness_LapseReturnsEveryCreditButEnergy :
    let s : State := { toll with adms := [adm], clk := { ticks := 80 } }
    s.adms = [] ++ adm :: [] ∧ adm.tick + 8 * s.rd .pitAdmitTtlUsec 0 ≤ s.clk.ticks
    ∧ (run (.admissionLapse 0 9 3) s).adms = [] ∧ (run (.admissionLapse 0 9 3) { s with clk := { ticks := 79 } }).adms = [adm] := by
  decide +kernel

theorem witness_QuarantineEntryGoesLiveWithItsSecondWord : up.Running ∧ (0x8001FF00 : Nat) / 2 ^ 31 % 2 = 1 ∧ (0x8001FF00 : Nat) / 2 ^ 16 % 2 = 1 :=
  ⟨running_of (by decide +kernel), by decide, by decide⟩

/-! ### Power, clocks, resets -/

def failing : State := { State.reset with pwr := { hold := .powerFail } }

/-- Hibernate: asked for, after a trip, after a droop. -/
def asleep (trip droop : Bool) : State :=
  put [(.wchWakeEnEvents, 0, 31), (.wchTempCfgCool, 0, 40), (.wchTempCfgHot, 0, 90)] { up with pwr := { phase := .done, hold := .hibernate trip droop } }

theorem witness_ResetsEndAllButWhatTheyKeep : up.pwr.hold ≠ .powerFail ∧ up.Running ∧ (0#32 : Word) ≠ 0x57525354#32
    ∧ up.pwr.hold = .none ∧ up.dbk.buffer.length < 256 ∧ up.dbk.last = none :=
  ⟨by decide, running_of (by decide +kernel), by decide, rfl, by decide, rfl⟩

theorem witness_PowerFailFlushesAndRises : up.pwr.hold ≠ .powerFail ∧ failing.pwr.hold = .powerFail ∧ failing.Inv :=
  ⟨by decide, rfl, inv_of (by decide +kernel)⟩

/-- Each of the five events, in a block in service where that can be, and in Hibernate with its enable set. -/
theorem witness_WakeEventsSetTheirCauseAndWake : up.Inv ∧ (asleep true true).Inv
    ∧ up.rd .wchTimerLoTime + 2 ^ 32 * up.rd .wchTimerHiTime ≤ up.clk.optime ∧ up.tollLive = false
    ∧ (∃ b, (asleep true true).pwr.hold = .hibernate true b) ∧ (∃ b, (asleep true true).pwr.hold = .hibernate b true)
    ∧ (39#8).toNat < (asleep true true).rd .wchTempCfgCool ∧ ¬(40#8).toNat < (asleep true true).rd .wchTempCfgCool
    ∧ (∀ a b, up.pwr.hold ≠ .hibernate a b) ∧ (asleep true true).parks = []
    ∧ (∀ k, k < 5 → (asleep true true).rd .wchWakeEnEvents / 2 ^ k % 2 = 1) ∧ up.dbk.buffer.length < 255 := by
  refine ⟨inv_of (by decide +kernel), inv_of (by decide +kernel), by decide +kernel, by decide +kernel, ⟨true, rfl⟩, ⟨true, rfl⟩,
    by decide +kernel, by decide +kernel, by decide, rfl, by decide +kernel, by decide⟩

theorem witness_HibernateIsEnteredAndLeftInOrder :
    (let s := put [(.wchWakeCauseEvents, 0, 1)] (asleep false false)
     (∃ a b, s.pwr.hold = .hibernate a b) ∧ s.parks = [] ∧ s.rd .wchWakeCauseEvents % 32 &&& s.rd .wchWakeEnEvents ≠ 0)
    ∧ (∀ a b, up.pwr.hold ≠ .hibernate a b)
    ∧ (asleep false false).rd .wchWakeCauseEvents % 32 &&& (asleep false false).rd .wchWakeEnEvents = 0
    ∧ up.Running ∧ (∀ p, up.rd .pitStatusEnabled p = 0) ∧ toll.Running ∧ toll.rd .pitStatusEnabled 0 = 1 ∧ (0#32 : Word) ≠ 0x48494245#32 :=
  ⟨⟨⟨false, false, rfl⟩, rfl, by decide +kernel⟩, by decide, by decide +kernel, running_of (by decide +kernel), fun _ => (State.rd_wr_other (by simp)).trans rfl, running_of (by decide +kernel), by decide +kernel, by decide⟩

/-- HOT 90: 90 is hot and 89 is not; 84 is cool and 85 is not; 115 trips. -/
theorem witness_TemperatureActsAtItsThresholds :
    let s := put [(.wchTempCfgHot, 0, 90)] up
    s.rd .wchTempCfgHot ≠ 0 ∧ s.rd .wchTempCfgHot ≤ (90#8).toNat ∧ (89#8).toNat < s.rd .wchTempCfgHot
    ∧ (84#8).toNat + 5 < s.rd .wchTempCfgHot ∧ s.rd .wchTempCfgHot ≤ (85#8).toNat + 5
    ∧ 115 ≤ (115#8).toNat ∧ (∀ a b, s.pwr.hold ≠ .hibernate a b) ∧ s.pwr.hold ≠ .powerFail := by decide +kernel

theorem witness_DroopAndPllLossHitTheirPart : 4 ≤ (4 : Fin 6).val ∧ (∀ a b, up.pwr.hold ≠ .hibernate a b) ∧ up.pwr.hold ≠ .powerFail
    ∧ up.Inv ∧ up.pwr.hold = .none ∧ ∀ i, (up.stl i).quadWait = false :=
  ⟨by decide, by decide, by decide, inv_of (by decide +kernel), rfl, fun i => by
    show ((List.replicate 64 ({} : StallSt)).getD i {}).quadWait = false
    rw [List.getD_eq_getElem?_getD, List.getElem?_replicate]; split <;> rfl⟩

theorem witness_TimeKeepsItsSources : up.clk.crystal = .starting ∧ ({ crystal := .running } : Clocks).crystal = .running
    ∧ ({ crystal := .failed } : Clocks).crystal ≠ .starting ∧ ({ crystal := .failed } : Clocks).crystal ≠ .running
    ∧ (let s : State := { up with clk := { optime := 2 ^ 20 }, dbk := { regionLen := 8192 } }
       s.clk.optime % 2 ^ 20 = 0 ∧ s.pwr.restore = false ∧ s.pwr.slotDue = false ∧ 8192 ≤ s.dbk.regionLen ∧ s.rd .chrXspiDbkFail ≠ 1) := by
  decide +kernel


/-! ### Rings, lists, payloads, intakes -/

theorem witness_DoorbellAndHeadMoveTheRings : up.Inv ∧ up.Running ∧ toll.Inv ∧ toll.Running ∧ (63#6).toNat = 63 ∧ (operatorId = operatorId)
    ∧ up.rd .pitStatusEnabled 0 = 0 ∧ toll.rd .pitStatusEnabled 0 = 1
    ∧ toll.rd .pitSqSizeEntries 0 < ((17#32 : Word).toNat + 2 ^ 32 - toll.rd .pitSqHeadCount 0) % 2 ^ 32
    ∧ ((16#32 : Word).toNat + 2 ^ 32 - toll.rd .pitSqHeadCount 0) % 2 ^ 32 ≤ toll.rd .pitSqSizeEntries 0
    ∧ (run (.doorbell (BitVec.ofNat _ 0) 0 16#32) toll).outbox.length = 16 ∧ (run (.doorbell (BitVec.ofNat _ 0) 0 17#32) toll).rd .pitSqTailCount 0 = 0 :=
  ⟨inv_of (by decide +kernel), running_of (by decide +kernel), inv_of (by decide +kernel), running_of (by decide +kernel), by decide, rfl, by decide +kernel⟩

/-- A descriptor of pitch 0, kind k, model 5, tag 3, session 9, cost 2, with further bytes from byte 16 on. -/
def mkDesc (k : Nat) (tail : List Byte) : List Byte :=
  [BitVec.ofNat 8 k, 0, 5, 0, 3, 0, 0, 0, 9, 0, 0, 0, 0, 0, 2, 0] ++ tail ++ List.replicate (48 - tail.length) 0

/-- A model of class c with nothing to compute. -/
def mdl (id c : Nat) : ModelObj :=
  { model := id, pitch := 0, cls := c, fallback := false, ensId := 255, ntap := 0, nlayer := 0, poolD := 0, tapW := 0, tailTok := 0, tokCyc := 0
    fixCyc := 0, inRows := 1, depth := 1, stopId := 255, banId := 255, forceId := 255, stateLen := 0, resBytes := 0, streamBytes := 0
    markT := 0#32, holdT := 0#32, blockT := 0#32, layers := [], tiles := [] }

/-- Pitch 0 with a text model 5, a vector model 7 and a stream model 6, and a resident entry of session 9. -/
def full : State := { toll with
  chr := { cfgs := [{ pitch := 0, inTable := 0, outTable := 0, modes := 7, wrapped := false, keyver := 0, keyverMin := 0, salt := [], wrap := [], feats := [] }] }
  gens := [⟨0, 0, { models := [mdl 5 0, mdl 7 1, mdl 6 2] }⟩]
  entries := [{ pitch := 0, session := 9 }] }

/-- A write-back of its session to T2, under epoch 0. -/
def wb0 : WriteBack := { pitch := 0, session := 9, tier := 2, image := { pitch := 0, session := 9, ckptSeq := 4 }, epoch := 0 }

def desc1 (k : Nat) (tail : List Byte) : BitVec 512 := BitVec.ofNat 512 (leNat (mkDesc k tail))

/-- A request of session 9 and tag 3, from a descriptor. -/
def mkReq (k model : Nat) (d : BitVec 512) : Req :=
  { pitch := 0, session := 9, tag := 3, kind := k, model, serving := model, cost := 2, epoch := 0, chain := none, desc := d, slot := 0, stall := some 0 }

/-- An enabled pitch with one descriptor outstanding. -/
def rung : State := put [(.pitSqTailCount, 0, 1)] full

/-- The same with an admission of a CONSTRAINT of model 6, and its descriptor. -/
def rungCon : State := { rung with adms := [{ adm with kind := 3, model := 6, serving := 6 }] }
def conDesc : List Byte := (mkDesc 3 [1]).set 2 6

/-- A table of the 256 bytes, an open stream, and an admission and a descriptor of it with n tokens. -/
def txt0 : TextTable := { id := 0, vocab := 256, digitRun := 3, spaceLead := true, classes := [], toks := [], results := [], hash := [] }
def rungTok : State := { rung with
  gens := [⟨0, 0, { models := [mdl 6 2], texts := [txt0] }⟩]
  chains := [{ pitch := 0, idx := 0, stalls := [0], active := true }]
  streams := [{ pitch := 0, session := 9, chain := 0, model := 6, serving := 6, epoch := 0, relAddr := 4096, relSize := 4096, opened := true }] }
def admTok (n : Nat) : Admission := { adm with kind := 2, model := 6, serving := 6, cost := n, chain := some 0 }
def tokDesc (n : Nat) : List Byte :=
  (((mkDesc 2 [0, 0, BitVec.ofNat 8 n]).set 2 6).set 14 (BitVec.ofNat 8 n)).set 25 (if 8 < n then 16 else 0)
def rungOpen : List Byte := (mkDesc 1 [0, 16, 0, 0, 0, 0, 0, 0, 0, 16]).set 2 6

/-- An admission for it, or none and no slot for its record; a read of no bytes; a descriptor without admission, one of a lost
entry and a STREAM_TOKEN behind another are errors; sound ones of each kind. -/
theorem witness_DescriptorsAreTakenInRingOrder : shaped rung = true ∧ rung.pwr.hold = .none ∧ rung.rd .pitStatusEnabled 0 = 1 ∧ (rung.pit 0).draining = false
    ∧ rung.rd .pitSqHeadCount 0 ≠ rung.rd .pitSqTailCount 0 ∧ (mkDesc 0 []).length = 64
    ∧ (put [(.pitVqSizeEntries, 0, 0)] rung).verdictFree 0 = 0 ∧ 0 < rung.verdictFree 0
    ∧ ((rung.bump .pitSqHeadCount 0).descErr 0 (desc1 0 []) none).isSome = true ∧ Desc.kind (desc1 0 []) ≠ 2
    ∧ (rungCon.bump .pitSqHeadCount 0).descErr 0 (BitVec.ofNat 512 (leNat conDesc)) rungCon.adms.head? = none
    ∧ rungCon.adms.find? (fun a => a.pitch == 0 && a.session == 9 && a.tag == 3) ≠ none
    ∧ (rungCon.entry? 0 9).all (fun e => !e.lost) = true ∧ (run (.descriptorRead 0 (.ok conDesc)) rungCon).arrivals = 1
    ∧ run (.descriptorRead 0 (.ok [])) rung = run (.descriptorRead 0 .error) rung
    ∧ (run (.descriptorRead 0 (.ok conDesc)) { rungCon with entries := [{ pitch := 0, session := 9, lost := true }] }).rd .pitVqTailCount 0 = 1
    ∧ (rung.bump .pitSqHeadCount 0).descErr 0 (BitVec.ofNat 512 (leNat (mkDesc 0 [128, 0, 0, 0, 1, 0]))) (some adm) = none
    ∧ (rung.bump .pitSqHeadCount 0).descErr 0 (BitVec.ofNat 512 (leNat rungOpen)) (some { adm with kind := 1, model := 6, serving := 6 }) = none
    ∧ shaped rungTok = true ∧ (rungTok.bump .pitSqHeadCount 0).descErr 0 (BitVec.ofNat 512 (leNat (tokDesc 8))) (some (admTok 8)) = none
    ∧ (rungTok.bump .pitSqHeadCount 0).descErr 0 (BitVec.ofNat 512 (leNat (tokDesc 9))) (some (admTok 9)) = none
    ∧ (run (.descriptorRead 0 (.ok (tokDesc 8))) { rungTok with adms := [admTok 8] }).arrivals = 1
    ∧ (run (.descriptorRead 0 (.ok (tokDesc 9))) { rungTok with adms := [admTok 9] }).arrivals = 0
    ∧ (let q : Req := { pitch := 0, session := 9, tag := 2, kind := 2, model := 6, serving := 6, cost := 1, epoch := 0, chain := some 0, desc := 0, slot := 0
                        seq := 1, arrival := some 0 }
       let s : State := { rungTok with reqs := [q] }
       s.arrived 0 9 ≠ [] ∧ (run (.descriptorRead 0 (.ok (tokDesc 8))) s).rd .pitVqTailCount 0 = 0) := by
  decide +kernel

/-- Waiting for a list of one segment of 128 bytes, and for a buffer of nine tokens. -/
def listReq : Req := { mkReq 0 5 (desc1 0 [128, 0, 0, 0, 1, 0]) with wantList := true }
def listReq2 : Req := { mkReq 2 6 (desc1 2 [0, 0, 9]) with wantList := true }

theorem witness_ListReadsFeedTheirRequest :
    let s : State := { full with reqs := [listReq] }
    let s2 : State := { full with reqs := [listReq2] }
    shaped s = true ∧ shaped s2 = true ∧ s.req? 0 9 3 = some listReq ∧ listReq.wantList = true ∧ listReq.kind = 0 ∧ Desc.nseg listReq.desc = 1
    ∧ s2.req? 0 9 3 = some listReq2 ∧ listReq2.wantList = true ∧ listReq2.kind = 2 ∧ Desc.ntok listReq2.desc = 9
    ∧ s.segErr 0 listReq.desc ([0, 16, 0, 0, 0, 0, 0, 0, 128] ++ List.replicate 7 0) = none
    ∧ (s.segErr 0 listReq.desc ([0, 16, 0, 0, 0, 0, 0, 0, 127] ++ List.replicate 7 0)).isSome = true
    ∧ run (.segmentListRead 0 9 3 (.ok [])) s = run (.segmentListRead 0 9 3 .error) s
    ∧ run (.tokenBufferRead 0 9 3 (.ok [])) s2 = run (.tokenBufferRead 0 9 3 .error) s2
    ∧ s2.arrived 0 9 = []
    ∧ bufErr 1 (tokWords (List.replicate 36 0)) = none ∧ bufErr 0 (tokWords (List.replicate 36 0)) ≠ none := by decide +kernel

/-- 128 bytes: the first 64 asked for; the same with nothing outstanding. -/
def payReq : Req := { mkReq 0 5 (desc1 0 [128, 0, 0, 0, 1, 0]) with plan := [(0, 64)], segs := [(4096, 128)] }
def payReq2 : Req := { payReq with plan := [] }

/-- A tile of 4,608 bytes, of one row and one column. -/
def tile0 : Tile := { model := 5, layer := 0, trow := 0, tcol := 0, wfmt := 0, afmt := 0, gsize := 0, final := false, kValid := 1, nValid := 1, qfrac := 0, ofmt := 0
                      zout := 0, bseq := 0, ascale := 0, len := 4608, data := [], scales := [], csums := [], out := [] }

/-- A VECTOR request of one row whose header has come. -/
def vecReq : Req := { mkReq 0 7 (desc1 0 [200, 0, 0, 0, 1, 0]) with got := [(0, [0, 0, 0, 0, 1] ++ List.replicate 11 0 ++ [32] ++ List.replicate 47 0)], segs := [(4096, 200)] }
def vecGens : List PitGen := [⟨0, 0, { models := [{ mdl 7 1 with tiles := [{ tile0 with model := 7 }] }], place := [⟨0, 7, 0, false, 0, 0⟩] }⟩]

/-- The last bytes of a final read; a VECTOR's bytes, and its last row block. -/
theorem witness_PayloadBytesComeBeforeTheLastRead :
    let s : State := { full with reqs := [payReq] }
    let s2 : State := { full with reqs := [payReq2] }
    shaped s = true ∧ shaped s2 = true ∧ s.req? 0 9 3 = some payReq ∧ payReq.kind = 0 ∧ payReq.plan = (0, 64) :: [] ∧ payReq.finalIssued = false
    ∧ s.isVector payReq = false ∧ 1 ≤ (List.replicate 1 (0#8)).length ∧ (List.replicate 64 (0#8)).length ≤ 64
    ∧ payReq.segs = [] ++ (4096, 128) :: [] ∧ 0 < 0 + 128 ∧ run (.payloadReadComplete 0 9 3 .error) s ≠ s
    ∧ (let z : State := { full with reqs := [{ payReq with finalIssued := true }] }
       shaped z = true ∧ z.isVector { payReq with finalIssued := true } = false ∧ (run (.payloadReadComplete 0 9 3 (.ok (List.replicate 64 0))) z).arrivals = 1)
    ∧ (let q : Req := { vecReq with plan := [(0, 64)], got := [] }
       let z : State := { full with gens := vecGens, reqs := [q] }
       let v : State := { full with gens := vecGens, reqs := [vecReq] }
       let m : ModelObj := { mdl 7 1 with tiles := [{ tile0 with model := 7 }] }
       shaped z = true ∧ z.req? 0 9 3 = some q ∧ z.isVector q = true ∧ z.modelOf q = some m
       ∧ earlyDefect m.splitSpec { q with plan := [(10, 54)], got := q.got ++ [(0, List.replicate 10 0)] } = none
       ∧ shaped v = true ∧ v.req? 0 9 3 = some vecReq ∧ v.isVector vecReq = true ∧ v.modelOf vecReq = some m ∧ v.encoderStuck vecReq = false
       ∧ v.finalMay 0 = true ∧ (run (.finalPayloadRead 0 9 3) v).reqs.map (·.finalIssued) = [true])
    ∧ s2.encoderStuck payReq2 = false ∧ s2.finalMay 0 = true ∧ (run (.finalPayloadRead 0 9 3) s2).reqs.map (·.plan) = [[(64, 64)]]
    ∧ s2.req? 0 9 3 = some payReq2 ∧ payReq2.arrival = none ∧ payReq2.finalIssued = false ∧ payReq2.wantList = false ∧ payReq2.plan = []
    ∧ Desc.totalLen payReq2.desc = 128 := by decide +kernel

/-- Arrived and not decided; decided with code 1 and due at cycle 500. -/
def arrReq : Req := { mkReq 0 5 (desc1 0 []) with arrival := some 10, seq := 1 }
def dueReq : Req := { arrReq with decided := true, due := some 500, code := 1 }

/-- Delivered with nothing left, with a write-back of its ORDERED session out, with a push out. -/
theorem witness_AnIntakeIsDecidedThenDelivered :
    let s : State := { full with reqs := [arrReq] }
    let s2 : State := { full with reqs := [dueReq] }
    let s3 : State := { s2 with entries := [{ pitch := 0, session := 9, ordered := true }], wbs := [wb0] }
    let s4 : State := { full with reqs := [{ dueReq with push := .sent 2 }] }
    shaped s = true ∧ shaped s3 = true ∧ s.req? 0 9 3 = some arrReq ∧ arrReq.kind = 0 ∧ s.modelOf arrReq = some (mdl 5 0) ∧ arrReq.arrival ≠ none
    ∧ arrReq.decided = false ∧ s.tailReady arrReq = true
    ∧ s.graderTurn arrReq = true ∧ Desc.totalLen arrReq.desc = 0 ∧ s.rd .pitOptsGradeEmpty 0 = 0 ∧ arrReq.due = none
    ∧ (run (.intakeVerdictDecided 0 9 3) s).reqs.map (·.decided) = [true]
    ∧ (let late : Req := { payReq with tag := 4, arrival := some 10, seq := 2, plan := [] }
       let z : State := { full with reqs := [{ arrReq with desc := payReq.desc }, late] }
       z.graderTurn late = false ∧ same (.intakeVerdictDecided 0 9 4) z = true)
    ∧ (let z : State := { s with entries := [] }
       z.tailReady arrReq = false ∧ same (.intakeVerdictDecided 0 9 3) z = true)
    ∧ s2.req? 0 9 3 = some dueReq ∧ dueReq.due = some 500 ∧ dueReq.decided = true ∧ dueReq.code < 16 ∧ s2.orderedWait 0 9 = none
    ∧ s3.orderedWait 0 9 = some 2 ∧ s4.req? 0 9 3 = some { dueReq with push := .sent 2 } ∧ payReq.arrival = none
    ∧ (run (.intakeDelivery 0 9 3) s2).clk.hp = 500 ∧ (run (.intakeDelivery 0 9 3) s2).rd .pitVqTailCount 0 = 1 := by decide +kernel

def counted : State := { put [(.pitIrqModCount, 0, 4), (.pitIrqModUsec, 0, 1)] up with pits := ({ irqCount := 1, irqSince := some 0 } : PitSt) :: List.replicate 63 {} }

/-- A microsecond is eight ticks. -/
theorem witness_TheInterruptTimerSendsWhatCounts :
    let s : State := { counted with clk := { ticks := 8 } }
    shaped s = true ∧ (s.pit 0).irqSince = some 0 ∧ s.rd .pitIrqModCount 0 ≠ 0 ∧ s.rd .pitIrqModUsec 0 ≠ 0 ∧ 0 + 8 * s.rd .pitIrqModUsec 0 ≤ s.clk.ticks
    ∧ (7 < 0 + 8 * counted.rd .pitIrqModUsec 0) ∧ same (.irqTimerExpiry 0) { counted with clk := { ticks := 7 } } = true
    ∧ up.pwr.hold = .none ∧ up.dbk.buffer.length < 256 ∧ up.dbk.last = none := by decide +kernel

/-! ### Streams, constraints, chains -/

/-- An open stream of session 9 on chain 0 of pitch 0 (stall 0 alone), its entry OPEN. -/
def strm : Stream := { pitch := 0, session := 9, chain := 0, model := 6, serving := 6, epoch := 0, relAddr := 4096, relSize := 4096, opened := true }
def flow : State := { put [(.stlRoleRole, 0, 2)] full with chains := [{ pitch := 0, idx := 0, stalls := [0], active := true }], streams := [strm] }

/-- A stream not open yet with its STREAM_OPEN; a CONSTRAINT alone, and one after a STREAM_TOKEN without a pass. -/
def openReq : Req := { mkReq 1 6 (desc1 1 []) with seq := 1, arrival := some 10 }
def conReq : Req := { mkReq 3 6 (BitVec.ofNat 512 (leNat conDesc)) with seq := 2, arrival := some 10, openAtArrival := true }
def tokReq : Req := { mkReq 2 6 (desc1 2 [0, 0, 1]) with tag := 2, seq := 1, arrival := some 9 }
def opening : State := { flow with streams := [{ strm with opened := false }], reqs := [openReq] }

theorem witness_StreamsOpenAndConstraintsAreAnswered :
    (let s := opening
     let s2 : State := { s with entries := [{ pitch := 0, session := 9, ordered := true }], wbs := [wb0] }
     shaped s = true ∧ s.stream? 0 9 = some { strm with opened := false }
     ∧ s.reqs.find? (fun r => r.pitch == 0 && r.session == 9 && r.kind == 1) = some openReq ∧ openReq.tag < 2 ^ 24
     ∧ ((s.chain? 0 0).map s.chainLoaded) = some true ∧ s.streamModel strm = some (mdl 6 2) ∧ openReq.wantEntry = false ∧ (s.entry? 0 9).isSome = true
     ∧ s.orderedWait 0 9 = none ∧ s2.orderedWait 0 9 ≠ none ∧ shaped s2 = true
     ∧ (run (.streamOpenComplete 0 9) s).rd .pitVqTailCount 0 = 1)
    ∧ (flow.stream? 0 9 = some strm ∧ strm.opened = true ∧ same (.streamOpenComplete 0 9) flow = true)
    ∧ (let s : State := { flow with reqs := [conReq] }
       let s2 : State := { flow with reqs := [tokReq, conReq] }
       shaped s = true ∧ s.req? 0 9 3 = some conReq ∧ conReq.kind = 3 ∧ conReq.seq ≠ 0 ∧ conReq.wantEntry = false ∧ s.tokTableWait conReq = false ∧ s.orderedWait 0 9 = none
       ∧ s.arrived 0 9 = [] ∧ (s.conAnswer conReq).forced = none ∧ (run (.constraintAnswer 0 9 3) s).reqs = []
       ∧ s2.req? 0 9 3 = some conReq ∧ conReq.con = none ∧ s2.arrived 0 9 = [tokReq] ∧ tokReq.before conReq = true ∧ tokReq.pass = none
       ∧ tokReq.failed = none ∧ same (.constraintAnswer 0 9 3) s2 = true)
    ∧ (let q : Req := { conReq with con := some ([], false, 6, 0) }
       let s : State := { flow with reqs := [tokReq, q] }
       s.req? 0 9 3 = some q ∧ (run (.constraintAnswer 0 9 3) s).reqs = [tokReq])
    ∧ (let o : List Entry := [{ pitch := 0, session := 9, ordered := true }]
       let s : State := { opening with entries := o, wbs := [wb0] }
       let z : State := { flow with reqs := [conReq], entries := o, wbs := [wb0], clk := { hp := 1210 } }
       s.req? 0 9 3 = some openReq ∧ openReq.waits = [] ∧ s.orderedWait 0 9 = some 2 ∧ (run (.slackExhausted 0 9 3) s).streams = []
       ∧ shaped z = true ∧ z.req? 0 9 3 = some conReq ∧ z.tokTableWait conReq = false ∧ conReq.counted ≤ 1210 ∧ 10 + conReq.waited + z.hpCycles 1200 ≤ 1210
       ∧ (run (.slackExhausted 0 9 3) z).reqs = [] ∧ same (.constraintAnswer 0 9 3) z = true) := by decide +kernel

def passedReq : Req := { tokReq with toks := [65], pass := some { examined := 1, ids := [65], bytes := [65] }, served := 1 }

/-- Waiting for its pass, and the token after it; waiting for its resolve, and the token after it. -/
theorem witness_PassesAndResolvesKeepTheirOrder :
    let later : Req := { tokReq with tag := 3, seq := 2, arrival := some 10 }
    let s : State := { flow with reqs := [tokReq, later] }
    let s2 : State := { flow with reqs := [passedReq, { later with pass := some {} }] }
    s.req? 0 9 2 = some tokReq ∧ tokReq.kind = 2 ∧ tokReq.seq ≠ 0 ∧ tokReq.failed = none ∧ tokReq.afterEnd = none ∧ s.stream? 0 9 = some strm
    ∧ strm.passEnd = .open ∧ strm.finEnd = .open ∧ tokReq.pass = none ∧ s.tokTableWait tokReq = false
    ∧ (s.arrived 0 9).all (fun q => !q.before tokReq) = true ∧ (run (.arrivalPassComplete 0 9 2) s).reqs.map (·.pass.isSome) = [true, false]
    ∧ s.req? 0 9 3 = some later ∧ later.seq ≠ 0 ∧ tokReq ∈ s.arrived 0 9 ∧ tokReq.before later = true ∧ same (.arrivalPassComplete 0 9 3) s = true
    ∧ s2.req? 0 9 2 = some passedReq ∧ passedReq.resolve = none ∧ s2.streamModel strm = some (mdl 6 2) ∧ 1 ≤ passedReq.served
    ∧ (s2.arrived 0 9).all (fun q => !q.before passedReq) = true ∧ s2.tokTableWait passedReq = false
    ∧ passedReq ∈ s2.arrived 0 9 ∧ same (.streamResolve 0 9 3) s2 = true
    ∧ (let z : State := { s with streams := [{ strm with passEnd := .stop }] }
       z.stream? 0 9 = some { strm with passEnd := .stop } ∧ (run (.arrivalPassComplete 0 9 2) z).reqs.map (·.pass) = [some {}, none])
    ∧ (let z (e : StreamEnd) : State := { flow with reqs := [passedReq], streams := [{ strm with passEnd := e, finEnd := e }] }
       (run (.streamResolve 0 9 2) (z .stop)).reqs.map (fun q => q.resolve.map (·.code)) = [some 4]
       ∧ (run (.streamResolve 0 9 2) (z .block)).reqs.map (fun q => q.resolve.map (·.code)) = [some 3])
    ∧ (let z : State := { s with tier := { reloads := [{ stall := 0, type := 7, id := 0, tier := 0, digest := [], since := 0 }] } }
       z.tokTableWait tokReq = true ∧ same (.arrivalPassComplete 0 9 2) z = true)
    ∧ (let q : Req := { passedReq with served := 0 }
       same (.streamResolve 0 9 2) { flow with reqs := [q] } = true ∧ same (.streamResolve 0 9 2) s = true) := by decide +kernel

/-- One token at stage 0 of a chain of two stalls and of one; the head of its stream due at cycle 700 with one byte. -/
def relReq : Req := { passedReq with resolve := some { code := 1, out := [65#8] }, due := some 700 }

theorem witness_StagesServeInTurnAndTokensRelease :
    (let s : State := { flow with reqs := [tokReq], toks := [⟨0, 0, 0, 9, 2, 0⟩] }
     let s2 : State := { put [(.stlRoleRole, 1, 2), (.stlRoleStage, 1, 1)] s with chains := [{ pitch := 0, idx := 0, stalls := [0, 1], active := true }] }
     shaped s = true ∧ shaped s2 = true ∧ s.stageOf 0 = some ({ pitch := 0, idx := 0, stalls := [0], active := true }, 0)
     ∧ nextSession (((s.rr.find? (·.1 == 0)).map (·.2)).getD 0) ((s.toks.filter (fun w => w.pitch == 0 && w.chain == 0 && w.stage == 0)).map (·.session)) = some 9
     ∧ (run (.chainStageServe 0) s).toks = [] ∧ (run (.chainStageServe 0) s2).toks.map (·.stage) = [1]
     ∧ s2.stageOf 0 = some ({ pitch := 0, idx := 0, stalls := [0, 1], active := true }, 0) ∧ up.stageOf 0 = none ∧ flow.toks = [])
    ∧ (let s : State := { flow with reqs := [relReq] }
       shaped s = true ∧ s.req? 0 9 2 = some relReq ∧ relReq.kind = 2 ∧ relReq.due = some 700 ∧ relReq.resolve = some { code := 1, out := [65#8] }
       ∧ relReq.failed = none ∧ relReq.afterEnd = none ∧ (1 : Nat) < 16 ∧ s.arrived 0 9 = [relReq] ∧ s.stream? 0 9 = some strm ∧ s.orderedWait 0 9 = none
       ∧ s.rd .glbGuildLoMap 0 = 0 ∧ (run (.tokenRelease 0 9 2) s).outbox.head?.map (·.what) = some (.t2Write 0 4096 [65#8])
       ∧ (let later : Req := { tokReq with tag := 3, seq := 2, arrival := some 10 }
          (later.before relReq = false) ∧ later.failed = none
          ∧ (run (.tokenRelease 0 9 2) { s with reqs := [relReq, later] }).reqs.map (·.tag) = [3])
       ∧ (let z (r : Resolve) : State := { flow with reqs := [{ relReq with resolve := some r }] }
          (run (.tokenRelease 0 9 2) (z { code := 1, limit := some 5 })).reqs = []
          ∧ (run (.tokenRelease 0 9 2) (z { code := 3, fin := .block })).streams = [])
       ∧ (let z : State := { s with entries := [{ pitch := 0, session := 9, ordered := true }], wbs := [wb0] }
          z.orderedWait 0 9 = some 2 ∧ (run (.tokenRelease 0 9 2) z).reqs = [])
       ∧ (let q : Req := { relReq with afterEnd := some 4 }
          (run (.tokenRelease 0 9 2) { s with reqs := [q] }).streams = [strm])) := by
  decide +kernel

/-- A pitch outside the guild has no direct pool address. -/
theorem witness_noGuildPool : ∀ a, (flow).guildPool 0 a = none := by
  intro a
  have h : flow.rd .glbGuildLoMap 0 = 0 := by decide +kernel
  simp [State.guildPool, h]

/-! ### Enabling and disabling a pitch, Bells, resets -/

/-- Pitch 0 as `toll`, its configuration locked, not enabled, with a charter configuration. -/
def ready0 : State := put [(.pitStatusEnabled, 0, 0), (.chrStatusLocked, 0, 1)] full

/-- A model of one tile that its placement homes in T2, and room for it. -/
def homed : State := { put [(.tierPitT2SizeMib, 0, 1)] ready0 with gens := [⟨0, 0, { models := [{ mdl 5 0 with tiles := [tile0] }], place := [⟨0, 5, 2, false, 0, 0⟩] }⟩] }

/-- The home areas of pitch 0 hold their copies. -/
def homesFit (s : State) : Bool :=
  [HomeSrc.t2, .t3, .mirror].all (fun h => decide ((s.homeGen 0).homeLen 0 h ≤ (s.homeArea 0 h).2 * 2 ^ 20))
  && !(s.rd .tierPitMrCfgMib 0 != 0 && s.rd .tierPitT3CfgMib 0 != 0 && s.rd .tierPitMrCfgPool 0 == s.rd .tierPitT3CfgPool 0)

theorem witness_EnablingNeedsRingsLockAndStalls :
    serves ready0 = true ∧ ready0.rd .pitStatusEnabled 0 ≠ 1 ∧ ready0.rd .tierPitStatusHomeBusy 0 ≠ 1 ∧ ready0.rd .pitSqSizeEntries 0 = 2 ^ 4
    ∧ ready0.rd .pitVqSizeEntries 0 = 2 ^ 4 ∧ ready0.rd .chrStatusLocked = 1 ∧ ready0.rd .stlRoleAlloc 0 = 1 ∧ ready0.rd .stlRolePitch 0 = 0
    ∧ (ready0.chr.cfgs.map (·.pitch)) = [0] ∧ ready0.rd .glbSecStatusZeroised = 0 ∧ ready0.pwr.zeroing = false ∧ homesFit ready0 = true
    ∧ ready0.homeBytes 0 = 0 ∧ (run (.pitchEnable operatorId 0) ready0).rd .pitStatusEnabled 0 = 1
    ∧ (run (.pitchEnable operatorId 1) ready0).rd .pitStatusCfgErr 1 = 1 ∧ toll.rd .pitStatusEnabled 0 = 1
    ∧ homesFit homed = true ∧ homesFit (put [(.tierPitT2SizeMib, 0, 0)] homed) = false
    ∧ (run (.pitchEnable operatorId 0) (put [(.tierPitT2SizeMib, 0, 0)] homed)).rd .tierPitStatusCfgErr 0 = 1
    ∧ homesFit (put [(.tierPitMrCfgMib, 0, 1), (.tierPitT3CfgMib, 0, 1)] ready0) = false ∧ (homed.homeBytes 0 ≠ 0) ∧ (put [(.tierPitStatusHomeBusy, 0, 1)] homed).rd .tierPitStatusHomeBusy 0 = 1
    ∧ (put [(.pitSqSizeEntries, 0, 8)] ready0).rd .pitSqSizeEntries 0 = 8 := by decide +kernel

/-- Draining, with a request left and with none. -/
def drained : State := { rung with pits := ({ draining := true } : PitSt) :: List.replicate 63 {} }

theorem witness_DisablingDrainsInGoodOrder : shaped rung = true ∧ serves rung = true ∧ rung.rd .pitStatusEnabled 0 = 1 ∧ (rung.pit 0).draining = false
    ∧ up.rd .pitStatusEnabled 0 = 0 ∧ (drained.pit 0).draining = true ∧ drained.reqsOf 0 = [] ∧ drained.dups = [] ∧ (drained.pit 0).bell = none
    ∧ drained.rd .chrAmdStatusState ≠ 4 ∧ ({ drained with reqs := [arrReq] } : State).reqsOf 0 ≠ []
    ∧ (run (.pitchDrainComplete 0) drained).rd .pitUnadmitCount 0 = 1 ∧ shaped drained = true := by decide +kernel

def belled : State := { toll with pits := ({ bell := some 1 } : PitSt) :: List.replicate 63 {} }

theorem witness_TheBellRaisesTheEpochAndWaits : shaped toll = true ∧ serves toll = true ∧ toll.rd .pitStatusEnabled 0 = 1 ∧ (toll.pit 0).bell = none
    ∧ (run (.bellRing operatorId 0) toll).rd .pitEpochEpoch 0 = 1 ∧ up.rd .pitStatusEnabled 0 = 0 ∧ shaped belled = true ∧ (belled.pit 0).bell = some 1
    ∧ belled.adms = [] ∧ belled.reqs = [] ∧ belled.wbs = [] ∧ belled.amd.bellWait = false
    ∧ same (.bellComplete 0) { belled with adms := [adm] } = true ∧ (run (.bellComplete 0) belled).rd .pitVqTailCount 0 = 1 ∧ belled.dups = []
    ∧ (let s : State := { put [(.chrAmdStatusState, 0, 4)] belled with amd := { bellWait := true } }
       s.stagedOn 0 = true ∧ (run (.bellComplete 0) s).amd.bellWait = false) := by decide +kernel

theorem witness_APitchResetEndsAllOfThePitch : shaped toll = true ∧ serves toll = true ∧ toll.dbk.buffer.length < 256 ∧ toll.dbk.last = none
    ∧ toll.amdBusy = false ∧ toll.asz = [] ∧ toll.parkTier 0 = none
    ∧ (Fld.desc .pitSqSizeEntries).kept = .t ∧ 0x80000 ≤ (Fld.desc .pitSqSizeEntries).base ∧ (Fld.desc .pitSqSizeEntries).base < 0x100000 ∧ toll.ownerOf .stlRoleRole 0 = some 0
    ∧ (run (.pitchReset operatorId 0) toll).rd .pitSqSizeEntries 0 = Fld.resetVal .pitSqSizeEntries := by decide +kernel

/-! ### The Ledger -/

/-- A revive of session 9 of pitch 0 from T2, a bucket whose way 1 holds it with a state, and the same without an area. -/
def rev : Revive := { pitch := 0, session := 9, prefetch := false, tier := 2, pool := 0, mirror := false, since := 0 }
def bucketOfState (st : Nat) : List Byte := List.replicate 16 0 ++ [9, 0, 0, 0, 0, BitVec.ofNat 8 st, 0, 0, 1] ++ List.replicate 103 0
def reviving (t : Nat) : State := { full with entries := [], revives := [{ rev with tier := t }] }

/-- No area; OUT without WT; PARKED with a slot of an older key version than the least. -/
theorem witness_RevivesEndWithAnEntryOrItsLoss :
    shaped (reviving 0) = true ∧ shaped (reviving 2) = true
    ∧ (reviving 0).revives.find? (fun r => r.pitch == 0 && r.session == 9) = some { rev with tier := 0 }
    ∧ (reviving 2).revives.find? (fun r => r.pitch == 0 && r.session == 9) = some rev ∧ (reviving 2).entry? 0 9 = none
    ∧ (reviving 2).fab.pushes = [] ∧ rev.prefetch = false ∧ rev.mirror = false ∧ rev.holder = none ∧ (bucketOfState 2).length = 128
    ∧ (List.replicate ((reviving 2).entrySize 0 + 64) 0#8).length = (reviving 2).entrySize 0 + 64
    ∧ wayOf (bucketOfState 2) 9 = some 1 ∧ (wayAt (bucketOfState 2) 1).state = 2 ∧ (wayAt (bucketOfState 2) 1).wt = false
    ∧ wayOf (bucketOfState 1) 9 = some 1 ∧ (wayAt (bucketOfState 1) 1).state ≠ 2 ∧ (wayAt (bucketOfState 1) 1).mirror = false
    ∧ (reviving 2).mirrorUsable rev = false ∧ wayOf (bucketOfState 0) 9 = none ∧ (reviving 2).dir? 0 = none ∧ (reviving 2).hasArea 0 3 = false
    ∧ run (.reviveComplete 0 9 (.ok []) .error) (reviving 2) = run (.reviveComplete 0 9 .error .error) (reviving 2)
    ∧ (let s := put [(.ldgPitMrCfgLog2b, 0, 1), (.ldgPitMrCfgPool, 0, 1)] (reviving 2)
       let b : List Byte := (bucketOfState 1).set 21 9
       s.mirrorUsable rev = true ∧ (wayAt b 1).mirror = true ∧ (run (.reviveComplete 0 9 (.ok b) .error) s).revives.map (·.mirror) = [true])
    ∧ (let r3 : Revive := { rev with tier := 3 }
       let s := reviving 3
       s.revives.find? (fun r => r.pitch == 0 && r.session == 9) = some r3 ∧ (run (.reviveComplete 0 9 (.ok (bucketOfState 2)) .error) s).rd .ldgLostCount = 1)
    ∧ (put [(.glbKeyCfgKeyverMin, 0, 1)] (reviving 2)).openCopy rev (wayAt (bucketOfState 1) 1)
        (List.replicate ((reviving 2).entrySize 0 + 64) 0#8) = none := by decide +kernel

/-- A slot of session 9 whose tag is that of its zero ciphertext under the pitch's key. -/
def copyKey : List Byte := ledgerKey ((reviving 2).secretOf 0) 0 0
def copyZero (n : Nat) : List Byte := List.replicate n 0#8
def copyHead : List Byte := [0, 0, BitVec.ofNat 8 ((reviving 2).rd .ldgPitCfgSize 0), 0, 9, 0, 0, 0, 0, 0, 0, 0, 1] ++ copyZero 19
def copyTag : List Byte :=
  gcmTag copyKey ((copyHead.drop 20).take 12) (copyHead ++ copyZero 16) (copyZero ((reviving 2).entrySize 0))
def copySlot : List Byte := copyHead ++ (copyTag ++ (copyZero 16 ++ copyZero ((reviving 2).entrySize 0)))

theorem aes_copyKey_length : (aes copyKey ((copyHead.drop 20).take 12 ++ beBytes 4 1)).length = 16 := by decide +kernel

theorem length_copyTag : copyTag.length = 16 := by
  have h : ∀ x : List Byte, (xorBytes (beBytes 16 0) x).length = min 16 x.length := fun x => by simp [xorBytes, beBytes, leBytes]
  have g : ∀ (y : Nat) (x : List Byte), (xorBytes (beBytes 16 y) x).length = min 16 x.length := fun y x => by
    simp [xorBytes, beBytes, leBytes]
  exact (g _ _).trans (by rw [aes_copyKey_length]; rfl)

/-- A slot's parts, where they lie. -/
theorem slot_parts (h t z c : List Byte) (hh : h.length = 32) (ht : t.length = 16) (hz : z.length = 16) :
    (h ++ (t ++ (z ++ c))).take 20 = h.take 20 ∧ ((h ++ (t ++ (z ++ c))).drop 20).take 12 = (h.drop 20).take 12
    ∧ (h ++ (t ++ (z ++ c))).take 32 = h ∧ ((h ++ (t ++ (z ++ c))).drop 32).take 16 = t
    ∧ ((h ++ (t ++ (z ++ c))).drop 48).take 16 = z ∧ (h ++ (t ++ (z ++ c))).drop 64 = c
    ∧ (h ++ (t ++ (z ++ c))).length = 64 + c.length := by
  have e : ∀ n, (h ++ (t ++ (z ++ c))).drop (32 + n) = (t ++ (z ++ c)).drop n := fun n => by
    rw [← hh, List.drop_append, List.drop_eq_nil_of_le (by omega), List.nil_append, Nat.add_sub_cancel_left]
  have e' : ∀ n, (t ++ (z ++ c)).drop (16 + n) = (z ++ c).drop n := fun n => by
    rw [← ht, List.drop_append, List.drop_eq_nil_of_le (by omega), List.nil_append, Nat.add_sub_cancel_left]
  refine ⟨List.take_append_of_le_length (by omega), ?_, ?_, ?_, ?_, ?_, ?_⟩
  · rw [List.drop_append_of_le_length (by omega), List.take_append_of_le_length (by simp [hh])]
  · rw [List.take_append_of_le_length (by omega), ← hh, List.take_length]
  · rw [show 32 = 32 + 0 from rfl, e 0, List.drop_zero, List.take_append_of_le_length (by omega), ← ht, List.take_length]
  · rw [show 48 = 32 + (16 + 0) from rfl, e, e', List.drop_zero, List.take_append_of_le_length (by omega), ← hz, List.take_length]
  · rw [show 64 = 32 + (16 + 16) from rfl, e, e', ← hz, List.drop_left]
  · simp only [List.length_append, hh, ht, hz]; omega

theorem getLe_take20 (z : List Byte) (o n : Nat) (hn : o + n ≤ 20) : getLe z o n = getLe (z.take 20) o n := by
  simp only [getLe, List.drop_take, List.take_take]
  congr 2
  omega

/-- The slot opens. -/
theorem witness_RevivesEndWithAnEntryOrItsLoss_opens :
    copySlot.length = (reviving 2).entrySize 0 + 64 ∧
    ∃ e, (reviving 2).openCopy rev (wayAt (bucketOfState 1) 1) copySlot = some e := by
  obtain ⟨hz0, h1, h2', h3', h4', h5', h6⟩ := slot_parts copyHead copyTag (copyZero 16) (copyZero ((reviving 2).entrySize 0))
    (by decide +kernel) length_copyTag List.length_replicate
  have hz : copySlot.take 20 = copyHead.take 20 := hz0
  refine ⟨h6.trans (by rw [copyZero, List.length_replicate, Nat.add_comm]), ?_⟩
  have h : gcmOpen copyKey ((copySlot.drop 20).take 12) (copySlot.take 32 ++ (copySlot.drop 48).take 16) (copySlot.drop 64)
      ((copySlot.drop 32).take 16)
      = some (gcmStream copyKey ((copyHead.drop 20).take 12) (copyZero ((reviving 2).entrySize 0))) := by
    unfold copySlot
    rw [h1, h2', h3', h4', h5']
    exact if_pos (beq_self_eq_true _)
  generalize copySlot = z at h hz ⊢
  have hg := fun o n hn => getLe_take20 z o n hn
  have h9 : getLe z 9 1 = 0 := by rw [hg 9 1 (by decide), hz]; decide +kernel
  have h3 : getLe z 3 1 = 0 := by rw [hg 3 1 (by decide), hz]; decide +kernel
  have h4 : getLe z 4 5 = 9 := by rw [hg 4 5 (by decide), hz]; decide +kernel
  have h2 : getLe z 2 1 = (reviving 2).rd .ldgPitCfgSize 0 := by rw [hg 2 1 (by decide), hz]; decide +kernel
  have h12 : getLe z 12 4 = (wayAt (bucketOfState 1) 1).ckpt := by rw [hg 12 4 (by decide), hz]; decide +kernel
  have hm : (reviving 2).rd .glbKeyCfgKeyverMin 0 = 0 ∧ (reviving 2).rd .glbKeyCfgKeyver 0 = 0 := by decide +kernel
  have hr : rev.pitch = 0 ∧ rev.session = 9 := by decide
  unfold copyKey at h
  simp [State.openCopy, h9, h3, h4, h2, h12, hm.1, hm.2, h, hr.1, hr.2]

/-- Pitch 0 with a T2 park area of two buckets and an entry that may go there. -/
def parkEnt : Entry := { pitch := 0, session := 9, hint := 2, ckptSeq := 4 }
def areas : State := { put [(.ldgPitT2CfgLog2b, 0, 1)] full with entries := [parkEnt] }
def park0 : Park := { pitch := 0, session := 9, tier := 2, image := parkEnt, keyver := 0 }

theorem witness_ParksFollowHintsAndEvictionItsOrder :
    (areas.pwr.hold = .none ∧ areas.move? 0 9 = none ∧ areas.entry? 0 9 = some parkEnt ∧ areas.busy 0 9 = false ∧ parkEnt.isOpen = false
      ∧ parkEnt.pfHold = none ∧ areas.hasArea 0 parkEnt.hint = true ∧ areas.parks = []
      ∧ ({ areas with adms := [adm] } : State).busy 0 9 = true ∧ same (.parkStart 0 9) { areas with adms := [adm] } = true)
    ∧ (areas.rd .tollReviveMaxInflight ≤ areas.freeEntries ∧ areas.evictable parkEnt = true ∧ areas.tierOf parkEnt = some 2
      ∧ (put [(.tierRegionLedger, 0, 0)] areas).freeEntries < (put [(.tierRegionLedger, 0, 0)] areas).rd .tollReviveMaxInflight
      ∧ (run .eviction (put [(.tierRegionLedger, 0, 0)] areas)).parks.length = 1)
    ∧ (let e : Entry := { parkEnt with hint := 1, copies := [⟨2, 0, 4⟩] }
       let s : State := { put [(.tierRegionLedger, 0, 0)] full with entries := [e] }
       s.freeEntries < s.rd .tollReviveMaxInflight ∧ s.evictable e = true ∧ s.tierOf e = none ∧ (run .eviction s).entries = [])
    ∧ (let s : State := { areas with parks := [park0] }
       shaped s = true ∧ s.rd .wchStatusCntLost = 0 ∧ s.parks.find? (fun k => k.pitch == 0 && k.session == 9) = some park0
       ∧ s.entry? 0 9 = some parkEnt ∧ s.mirrors parkEnt = false ∧ (List.replicate 128 0#8).length = 128 ∧ parkWay (List.replicate 128 0#8) 9 = some 0
       ∧ s.busy 0 9 = false ∧ park0.image = parkEnt ∧ park0.failed = false ∧ run (.parkComplete 0 9 (.ok []) .error) s = run (.parkComplete 0 9 .error .error) s
       ∧ (run (.parkComplete 0 9 .error .error) s).entries = [parkEnt] ∧ (run (.parkComplete 0 9 (.ok (List.replicate 128 0)) .error) s).entries = []
       ∧ (run (.parkComplete 0 9 (.ok (List.replicate 128 0)) .error) { s with adms := [adm] }).rd .ldgWbCount = 1
       ∧ parkWay (List.replicate 8 ([1, 0, 0, 0, 0, 1] ++ List.replicate 10 (0#8))).flatten 9 = none
       ∧ ({ s with entries := [{ parkEnt with ckptSeq := 5 }] } : State).entry? 0 9 = some { parkEnt with ckptSeq := 5 } ∧ park0.image.ckptSeq ≠ 5) := by
  decide +kernel

theorem witness_WriteBacksPrefetchesAndGranules :
    (let s : State := { areas with wbs := [wb0] }
     shaped s = true ∧ s.rd .wchStatusCntLost = 0 ∧ s.wbs.find? (fun w => w.pitch == 0 && w.session == 9) = some wb0
     ∧ s.entry? 0 9 = some parkEnt ∧ wb0.image.pitch = 0 ∧ wb0.image.session = 9 ∧ wb0.failed = false ∧ s.mirrors wb0.image = false
     ∧ parkWay (List.replicate 128 0#8) 9 = some 0 ∧ (run (.writeBackComplete 0 9 (.ok (List.replicate 128 0)) .error) s).rd .ldgWbCount = 1)
    ∧ (shaped full = true ∧ serves full = true ∧ (full.pit 0).pfQueue.length < 64
      ∧ 64 ≤ (({ full with pits := ({ pfQueue := List.replicate 64 7 } : PitSt) :: List.replicate 63 {} } : State).pit 0).pfQueue.length)
    ∧ (let s : State := { full with pits := ({ pfQueue := [9, 7] } : PitSt) :: List.replicate 63 {} }
       let s2 : State := { full with pits := ({ pfQueue := [7] } : PitSt) :: List.replicate 63 {} }
       shaped s = true ∧ (s.pit 0).pfQueue = 9 :: [7] ∧ (s.entry? 0 9).isSome = true ∧ (s2.pit 0).pfQueue = 7 :: [] ∧ s2.entry? 0 7 = none
       ∧ s2.reviving 0 7 = false ∧ s2.otherOwner 0 7 = none ∧ s2.ownDeferred 0 7 0 = false ∧ s2.reviveFree 0 = true
       ∧ (run (.prefetchStart 0) s2).revives.length = 1
       ∧ ({ s2 with revives := [{ rev with session := 7 }] } : State).reviving 0 7 = true
       ∧ ({ s2 with fab := { moves := [{ pitch := 0, session := 7, target := 2, since := 0 }] } } : State).ownDeferred 0 7 0 = true
       ∧ (let d : State := { put [(.fabPitCfgDomainEn, 0, 1)] s2 with fab := { shards := [⟨0, shardOf 7, 2, 2⟩] } }
          d.otherOwner 0 7 ≠ none) ∧ (put [(.tollReviveMaxInflight, 0, 0)] s2).reviveFree 0 = false)
    ∧ (let s : State := { full with entries := [{ parkEnt with pfHold := some 80 }], clk := { ticks := 80 } }
       s.entry? 0 9 = some { parkEnt with pfHold := some 80 } ∧ 80 ≤ s.clk.ticks ∧ same (.prefetchHoldExpiry 0 9) { s with clk := { ticks := 79 } } = true)
    ∧ (let s : State := { areas with parks := [{ park0 with tier := 3 }] }
       s.revives = [] ∧ s.tier.bad = [] ∧ s.mirrors park0.image = false ∧ s.areaPool 0 false = 0 ∧ (run (.poolTimeout 0) s).parks = [] ∧ (run (.poolTimeout 0) s).rd .ldgStatusPoolFail = 1) := by
  decide +kernel

/-! ### Tiles -/

/-- A model of one tile, streamed from T1 or pinned in T0, and a request on stall 0 that reads it. -/
def tiled (hint : Nat) (r : Req) : State :=
  { full with gens := [⟨0, 0, { models := [{ mdl 5 0 with tiles := [tile0] }], place := [⟨0, 5, hint, false, 0, 0⟩] }⟩], reqs := [r] }
def wait0 (u : Bool) : TileWait := { layer := 0, trow := 0, tcol := 0, tier := 1, uncorr := u, since := 100 }
def preReq (u : Bool) : Req := { mkReq 0 5 (desc1 0 []) with waits := [wait0 u] }

/-- PRETAIL_MAX 10 µs at 1,000 MHz: 10,000 cycles after the wait began, not 9,999. -/
def tid : TileId := ⟨0, 5, 0, 0, 0, 0⟩

/-- One whose last byte has come at cycle 10, waiting for the tile or for nothing. -/
def lateReq (u : Bool) : Req := { preReq u with arrival := some 10, seq := 1 }

/-- An image that looks up the row of the session in stock table 1, with its one bad line. -/
def stocked (s : State) : State := { s with
  gens := [⟨0, 0, { models := [{ mdl 5 0 with ensId := 0 }]
                    enss := [{ id := 0, nout := 1, link := 0, inputs := [⟨2, 0, 0⟩], binds := [some ⟨1, 0, 0⟩], measure := [], edges := [], trees := [], nodes := []
                               cat := [], base := [], rules := [], dflt := 0 }]
                    stocks := [(0, { id := 1, ncol := 1, buckets := [[]], rows := [], len := 4 })] }⟩]
  tier := { stockBad := [{ pitch := 0, id := 1, line := 0, crc := 0x48674BC7, since := 0 }] } }

/-- A text table of the pitch is being reloaded on stall 0. -/
def reloading (t : Nat) (dg : List Byte) : TierSt := { reloads := [{ stall := 0, type := 7, id := 0, tier := t, digest := dg, since := 0 }] }

/-- The next tile has not come, or its T0 copy is bad, with and without a source; it is there. -/
theorem witness_LateTilesWaitThenEndTheirRequest :
    let r : Req := { mkReq 0 5 (desc1 0 []) with fetch := [tid] }
    let s := tiled 1 r
    shaped s = true ∧ s.req? 0 9 3 = some r ∧ r.stall = some 0 ∧ r.decided = false ∧ s.tileOf r 0 0 0 = some tile0
    ∧ ({ tile0.name 0 with model := r.serving } : TileId) = tid ∧ r.waits = [] ∧ s.badTile? tid = none
    ∧ (run (.tileDeadline 0 0 9 3 0 0 0) s).reqs.map (·.waits.length) = [1]
    ∧ same (.tileDeadline 0 0 9 3 0 0 0) (tiled 1 (mkReq 0 5 (desc1 0 []))) = true
    ∧ (run (.tileDeadline 0 0 9 3 0 0 0) { tiled 0 (mkReq 0 5 (desc1 0 [])) with tier := { t0bad := [(0, tid)] } }).reqs.map (·.waits.length) = [1]
    ∧ (let bad (h : Option HomeSrc) : TierSt := { bad := [{ tile := tid, bank := 3, src := h }] }
       (run (.tileDeadline 0 0 9 3 0 0 0) { s with tier := bad none }).reqs = []
       ∧ (run (.tileDeadline 0 0 9 3 0 0 0) { s with tier := bad (some .t2) }).reqs.map (fun q => q.waits.map (·.uncorr)) = [[true]]) := by decide +kernel

/-- A slack of 900 cycles at 1,000 MHz, with the tile missing from cycle 100: none is left at 1,000. -/
theorem witness_LateTilesWaitThenEndTheirRequest_slack :
    let s (u : Bool) (n : Nat) : State := { tiled 1 (lateReq u) with clk := { hp := n } }
    shaped (s false 1000) = true ∧ (s false 1000).req? 0 9 3 = some (lateReq false) ∧ (lateReq false).waits = wait0 false :: [] ∧ (wait0 false).since ≤ 1000
    ∧ (lateReq false).counted ≤ 1000 ∧ 10 + (lateReq false).waited ≤ 1000 ∧ (s false 1000).slack (lateReq false) = 0
    ∧ (run (.slackExhausted 0 9 3) (s false 1000)).rd .tierLateCount = 1 ∧ (run (.slackExhausted 0 9 3) (s true 1000)).rd .tierLateCount = 0
    ∧ (s false 999).slack (lateReq false) ≠ 0 ∧ same (.slackExhausted 0 9 3) (s false 999) = true ∧ same (.pretailTimeout 0 9 3) (s false 1000) = true
    ∧ (let z (n : Nat) : State := { put [(.tierCfgPretailMax, 0, 10)] (tiled 1 (preReq false)) with clk := { hp := n } }
       (preReq false).arrival = none ∧ 100 + (z 0).hpCycles (1000 * (z 0).rd .tierCfgPretailMax) = 10100 ∧ same (.slackExhausted 0 9 3) (z 10100) = true
       ∧ same (.pretailTimeout 0 9 3) (z 10099) = true ∧ (run (.pretailTimeout 0 9 3) (z 10100)).reqs = []) := by decide +kernel

/-- A request that waits for its entry, for a table and for a stock line, and one that waits for nothing. -/
theorem witness_LateTilesWaitThenEndTheirRequest_tables :
    let q : Req := { payReq2 with arrival := some 10, seq := 1 }
    let e : State := { full with reqs := [{ q with wantEntry := true }], entries := [], clk := { hp := 11910 } }
    let t : State := { full with reqs := [q], tier := reloading 0 [], clk := { hp := 910 } }
    let k : State := stocked { full with reqs := [q], clk := { hp := 9610 } }
    let n : State := { full with reqs := [q] }
    q.waits = [] ∧ shaped e = true ∧ e.slackGone { q with wantEntry := true } = true ∧ (run (.slackExhausted 0 9 3) e).reqs = []
    ∧ t.slackGone q = true ∧ t.intakeTableWait q = true ∧ (run (.slackExhausted 0 9 3) t).reqs = []
    ∧ k.slackGone q = true ∧ k.intakeTableWait q = false ∧ k.stockWait q = true ∧ (run (.slackExhausted 0 9 3) k).reqs = []
    ∧ n.intakeTableWait q = false ∧ n.stockWait q = false ∧ n.entry? 0 9 ≠ none ∧ same (.slackExhausted 0 9 3) n = true
    ∧ dueReq.decided = true ∧ n.orderedWait 0 9 = none := by decide +kernel

/-- A tile of 4,608 bytes of weights 0, sound, and its header with a K_VALID of 0 under a sound HCRC. -/
def tileHead (k : Nat) (crc : List Nat) : List Byte :=
  ([5, 0, 0, 0, 0, 0, 0, 0, 0, 4, 1, k, 1, 0, 0, 0, 0, 0, 0, 0, 0, 16, 0, 0, 128, 1, 0, 0, 0, 0, 0, 0, 0, 18, 0, 0] ++ List.replicate 20 0
    ++ [203, 120, 208, 5] ++ crc).map (BitVec.ofNat 8)
def goodTile : List Byte :=
  tileHead 1 [120, 218, 49, 213] ++ List.replicate 4096 0#8 ++ (List.replicate 64 [0x80#8, 0x3F#8]).flatten ++ List.replicate 320 0#8
def badHead : List Byte := tileHead 0 ((leBytes 4 (crc32c ((tileHead 0 []).take 60))).map (·.toNat))

set_option maxRecDepth 1000000 in
theorem witness_goodTile : tileCheck goodTile 5 0 0 0 0 = .good := by decide +kernel

set_option maxRecDepth 1000000 in
theorem witness_badTile : tileCheck (badHead ++ goodTile.drop 64) 5 0 0 0 0 = .malformed := by decide +kernel

theorem witness_TileReadsAndT1ErrorsTakeEffect :
    up.pwr.hold = .none ∧ shaped up = true ∧ 63 ∉ up.banksOut ∧ 63 ∈ (put [(.tierBankOutHiMap, 0, 2 ^ 31)] up).banksOut
    ∧ (let s := tiled 1 { mkReq 0 5 (desc1 0 []) with fetch := [tid] }
       shaped s = true ∧ s.rd .stlRolePitch 0 = 0 ∧ s.reading 0 tid = true ∧ (tiled 1 (mkReq 0 5 (desc1 0 []))).reading 0 tid = false
       ∧ (run (.tileArrival 0 5 0 0 0 0 .error 3) s).tier.bankTest.length = 1
       ∧ s.stagedTile tid = false ∧ (s.gensOf 0).any (fun g => g.holds tid) = true
       ∧ (run (.t1UncorrError 63 (.tile ⟨0, 5, 0, 0, 0, 0⟩)) s).tier.bad.map (·.tile) = [tid])
    ∧ (let e : Entry := { parkEnt with copies := [⟨2, 0, 4⟩] }
       let s : State := { areas with entries := [e] }
       s.entry? 0 9 = some e ∧ e.current = true ∧ (run (.t1UncorrError 0 (.entry 0 9)) s).entries = []
       ∧ parkEnt.current = false ∧ (run (.t1UncorrError 0 (.entry 0 9)) areas).entries.map (·.cold) = [true])
    ∧ (let a : AszModel := { pitch := 0, model := 5, state := .train }
       let s : State := { full with asz := [a] }
       s.asz? 0 5 = some a ∧ a.state.cycling = true ∧ (run (.t1UncorrError 0 (.workingSet 0 5)) s).rd .aszStatusWsUncorr = 1)
    ∧ (run (.t1UncorrError 0 (.table 0 7 0)) full).tier.reloads.map (·.tier) = [1]
    ∧ (run (.t1UncorrError 0 (.stock 0 1 4096)) full).tier.stockBad.map (·.line) = [1] := by decide +kernel

def badOf (h : HomeSrc) : BadTile := { tile := tid, bank := 3, src := some h }

/-- A tile homed in T2 and in the mirror, its T1 copy poisoned: T2 is tried, then the mirror, then nothing. -/
def restoring (h : HomeSrc) : State :=
  { full with gens := [⟨0, 0, { models := [{ mdl 5 0 with tiles := [tile0] }], place := [⟨0, 5, 2, true, 0, 0⟩] }⟩], tier := { bad := [badOf h] } }

theorem witness_RestoresHealOrLoseTheirCopy :
    (restoring .t2).pwr.hold = .none ∧ (restoring .t2).badTile? tid = some (badOf .t2) ∧ (restoring .t2).srcsAfter (badOf .t2) ≠ []
    ∧ (restoring .device).srcsAfter (badOf .device) = [] ∧ ((restoring .device).genNow 0).holds tid = true ∧ (restoring .device).mdl? 0 5 = some 0
    ∧ (run (.tileRestoreComplete ⟨0, 5, 0, 0, 0, 0⟩ .error) (restoring .device)).rd .tollMdlLoDown 0 = 1 ∧ up.badTile? tid = none := by decide +kernel

/-- A sound image of no bytes, for a T0 and for a T1 copy, and a bad one; a stock line of zeros. -/
theorem witness_RestoresHealOrLoseTheirCopy_tables :
    let s (t : Nat) : State := { full with tier := reloading t ((sha384 []).take 16) }
    let k : State := stocked full
    up.tier.reloads = [] ∧ (s 0).tier.reloads.length = 1 ∧ (run (.tableReloadComplete 0 7 0 (.ok [])) (s 0)).tier.reloads = []
    ∧ (run (.tableReloadComplete 0 7 0 .error) (s 0)).tier.reloads.map (·.tier) = [1]
    ∧ (s 1).rd .stlRolePitch 0 = 0 ∧ (s 1).tableUsers 0 7 0 = [5, 6] ∧ (s 1).mdl? 0 5 = some 0 ∧ (run (.tableReloadComplete 0 7 0 .error) (s 1)).rd .tollMdlLoDown 0 = 1
    ∧ up.tier.stockBad = [] ∧ k.lineLen 0 1 0 = 4 ∧ (run (.stockRereadComplete 0 1 0 (.ok (List.replicate 4 0))) k).tier.stockBad = []
    ∧ k.stockUsers 0 1 = [5] ∧ (run (.stockRereadComplete 0 1 0 .error) k).rd .tollMdlLoDown 0 = 1 := by decide +kernel

/-! ### Stalls, quadrants, banks, shared units -/

/-- `full` with stall 0 in a state of its own. -/
def withStall (x : StallSt) (l : List (Fld × Nat × Nat)) : State := { put l full with stalls := x :: List.replicate 63 {} }

/-- DOZE_US 2, NAP_US 4: 16 and 32 ticks. -/
theorem witness_StallsDozeNapWakeAndLoad :
    (let l : List (Fld × Nat × Nat) := [(.wchSleepDozeUs, 0, 2), (.wchSleepNapUs, 0, 4)]
     let s : State := { withStall { power := .awake } l with clk := { ticks := 16 } }
     let d : State := { withStall { power := .doze } l with clk := { ticks := 32 } }
     shaped s = true ∧ shaped d = true ∧ s.inService 0 = true ∧ (s.stl 0).goal = none ∧ s.reqs = [] ∧ s.rd .stlRoleRole 0 ≤ 1 ∧ (s.stl 0).power = .awake
     ∧ (s.stl 0).idleSince + 8 * s.rd .wchSleepDozeUs ≤ s.clk.ticks ∧ s.chains = [] ∧ d.rd .stlRoleRole 0 ≤ 1 ∧ (d.stl 0).power = .doze ∧ (d.stl 0).idleSince + 8 * d.rd .wchSleepNapUs ≤ d.clk.ticks
     ∧ ((run (.dozeEntry 0) s).stl 0).power = .doze ∧ ((run (.napEntry 0) d).stl 0).power = .nap
     ∧ (let c : State := { put [(.stlRoleRole, 0, 2), (.pitDelayTokenDelay, 0, 20)] s with chr := { s.chr with roles := [⟨0, 1, 2, 0, 0, 0, 0, []⟩] } }
        c.rd .stlRoleRole 0 = 2 ∧ c.dozeMargin (c.rd .stlRolePitch 0) = true ∧ ((run (.dozeEntry 0) c).stl 0).power = .doze)
     ∧ ((run (.stallWakeComplete 0) d).stl 0).power = .awake
     ∧ same (.dozeEntry 0) { s with clk := { ticks := 15 } } = true ∧ same (.dozeEntry 0) { s with reqs := [arrReq] } = true)
    ∧ (let g : RoleGoal := ⟨3, 0, 0⟩
       let w := withStall { power := .waking, goal := some g } [(.stlStatusLoading, 0, 1)]
       let a := withStall { power := .awake, goal := some g } [(.stlStatusLoading, 0, 1)]
       ((withStall { power := .waking } []).stl 0).power = .waking ∧ ((withStall { power := .nap } []).stl 0).power = .nap
       ∧ (w.stl 0).goal = some g ∧ w.rd .stlStatusLoading 0 = 1 ∧ g.role < 4 ∧ g.chain < 16 ∧ g.stage < 8 ∧ (a.stl 0).power ≠ .waking ∧ a.inService 0 = true ∧ shaped w = true
       ∧ (run (.stallWakeComplete 0) w).rd .stlRoleRole 0 = 3 ∧ (run (.roleLoadComplete 0) a).rd .stlRoleChgCount 0 = 1)
    ∧ (let x : Stream := { strm with repin := true }
       let s : State := { flow with streams := [x] }
       let c : ChainSt := { pitch := 0, idx := 0, stalls := [0], active := true }
       s.stream? 0 9 = some x ∧ s.chain? 0 0 = some c ∧ s.chainLoaded c = true ∧ full.chainLoaded c = false ∧ strm.repin = false
       ∧ (run (.repinSlicesLoaded 0 9) s).streams.map (·.repin) = [false]) := by decide +kernel

/-- A pitch with an Idle stall that a deferral may bring in, and a request on stall 0 that its reset ends. -/
theorem witness_ReviewsAddSpreadAndResetsClearStalls :
    (let c : PitchCfg := { pitch := 0, inTable := 0, outTable := 0, modes := 7, wrapped := false, keyver := 0, keyverMin := 0, salt := [], wrap := [], feats := [] }
     let s : State := { put [(.stlRoleAlloc, 1, 1)] full with
       chr := { cfgs := [c], roles := [⟨0, 1, 2, 0, 0, 0, 0, []⟩] }, pits := ({ defIntake := true } : PitSt) :: List.replicate 63 {} }
     shaped s = true ∧ s.pwr.hold = .none ∧ s.chr.cfgs = [c] ∧ s.chains = [] ∧ s.asz = [] ∧ s.reqs = [] ∧ c.pitch < 64
     ∧ (∀ i ∈ List.range 64, (s.stl i).goal = none ∧ (s.stl i).giveBack = false ∧ s.rd .stlRoleRole i ≠ 3)
     ∧ (s.pit 0).defIntake = true ∧ (s.pit 0).lowUse < 99 ∧ s.spreadAll 0 < ((s.role? 0).map (·.maxSpread)).getD 0 ∧ s.idleStalls 0 false = [1])
    ∧ (let s : State := { full with reqs := [arrReq] }
       serves s = true ∧ (0x7FFFFFFF#32).toNat < 2 ^ 31 ∧ (2 ^ 31 ≤ (0x80000000#32).toNat ∧ s.inService ((0x80000000#32).toNat % 64) = true)
       ∧ (put [(.stlFaultRetired, 63, 1)] s).inService ((0x8000003F#32).toNat % 64) = false
       ∧ (run (.stallReset operatorId 0x80000000#32) s).reqs = []) := by decide +kernel

/-- TRANS_MAX 3: the third fault in the window is lasting. -/
theorem witness_StallFaultsStopTestAndRetire :
    (let s : State := { full with reqs := [arrReq] }
     let t := withStall { testing := true } []
     shaped s = true ∧ s.inService 0 = true ∧ (run (.stallFault 0 2 1 0) s).reqs = [] ∧ (run (.stallFault 0 2 1 0) s).rd .stlFaultUnit 0 = 2
     ∧ (put [(.stlFaultRetired, 0, 1)] full).rd .stlFaultRetired 0 = 1 ∧ shaped t = true ∧ t.rd .stlFaultRetired 0 = 0 ∧ (t.stl 0).testing = true
     ∧ (1#4) ≠ 5#4 ∧ ((run (.stallFault 0 2 1 0) t).stl 0).forceFail = true
     ∧ ((run (.stallFault 0 2 5 0) t).stl 0).forceFail = true)
    ∧ (let l : List (Fld × Nat × Nat) := [(.glbFaultCfgTransMax, 0, 3), (.stlTransCount, 0, 2)]
       let s := withStall { testing := true } l
       let s3 := put [(.stlTransCount, 0, 3)] s
       shaped s = true ∧ (full.stl 0).testing = false ∧ ((withStall { testing := true, quadWait := true } l).stl 0).quadWait = true
       ∧ (s.stl 0).testing = true ∧ (s.stl 0).quadWait = false ∧ (s.stl 0).forceFail = false ∧ s.rd .stlFaultRetired 0 = 0
       ∧ s.rd .stlTransCount 0 < s.rd .glbFaultCfgTransMax ∧ s3.rd .glbFaultCfgTransMax ≤ s3.rd .stlTransCount 0
       ∧ (run (.stallTestComplete 0 0#4) s).inService 0 = true ∧ (run (.stallTestComplete 0 0#4) s3).rd .stlFaultRetired 0 = 1
       ∧ (run (.stallTestComplete 0 8#4) s).rd .stlFaultRetired 0 = 1
       ∧ (let f := withStall { testing := true, forceFail := true } l
          (f.stl 0).forceFail = true ∧ (f.stl 0).testing = true ∧ (f.stl 0).quadWait = false ∧ f.rd .stlFaultRetired 0 = 0))
    ∧ ((withStall { testing := true } []).inService 0 = false ∧ T0Part.table 7 0 ≠ .word
       ∧ (run (.t0CorrectedFault 0 .word) full).rd .tierStlT0CorrCount 0 = 1
       ∧ (run (.t0CorrectedFault 0 (.table 7 0)) (put [(.glbFaultCfgTransMax, 0, 3)] full)).rd .stlFaultRetired 0 = 0
       ∧ (run (.t0CorrectedFault 0 (.table 7 0)) (put [(.glbFaultCfgTransMax, 0, 1)] full)).rd .stlFaultRetired 0 = 1) := by decide +kernel

/-- QWAIT_MS 1: 8,000 ticks after the loss, not 7,999. -/
theorem witness_QuadrantsBanksAndSharedUnitsFail :
    (let s : State := { withStall { testing := true, quadWait := true, quadCause := 2 } [(.glbFaultCfgQwaitMs, 0, 1)] with clk := { ticks := 8000 } }
     shaped full = true ∧ (∀ i ∈ List.range 64, i / 16 = 3 → (full.stl i).quadWait = false)
     ∧ shaped s = true ∧ 0 / 16 = (0 : Fin 4).val ∧ s.rd .stlFaultRetired 0 = 0 ∧ (s.stl 0).quadWait = true
     ∧ (∀ i ∈ List.range 16, s.rd .stlFaultRetired i = 0 → (s.stl i).quadWait = true → (s.stl i).stoppedAt + 8000 * s.rd .glbFaultCfgQwaitMs ≤ s.clk.ticks)
     ∧ same (.quadrantFault 0 false) s = true ∧ same (.quadrantRecovered 0) full = true
     ∧ same (.qwaitTimeout 0) { s with clk := { ticks := 7999 } } = true ∧ (run (.qwaitTimeout 0) s).rd .glbFaultStatusQuadOut = 1
     ∧ ((run (.quadrantRecovered 0) s).stl 0).quadWait = false ∧ ((run (.quadrantFault 3 true) full).stl 63).quadWait = true)
    ∧ (let s : State := { put [(.glbFaultCfgTransMax, 0, 3)] full with tier := { bankTest := [63, 5] } }
       s.tier.bankTest = 63 :: [5] ∧ (63 ≠ 5) ∧ ¬ s.rd .glbFaultCfgTransMax ≤ s.inWindow ((s.tier.bankFaults.filter (·.1 == 63)).map (·.2))
       ∧ (put [(.glbFaultCfgTransMax, 0, 0)] s).rd .glbFaultCfgTransMax ≤ 0 ∧ (run (.bankTestComplete 63 true) s).tier.bankTest = [5]
       ∧ s.tier.bankTest.head? ≠ some 5 ∧ same (.bankTestComplete 5 true) s = true ∧ s.banksOut = [])
    ∧ (held.pwr.hold ≠ .none ∧ up.pwr.hold = .none ∧ (run (.sharedFault 3 7) up).pwr.hold = .shared) := by decide +kernel

/-! ### The Assize -/

def aszModel (x : AszState) : AszModel := { pitch := 0, model := 5, state := x, cand := some {} }

/-- Bench steps of pitch 0 take at most 10 µs. -/
def role0 : RoleCfg := { pitch := 0, minSpread := 1, maxSpread := 2, minChain := 0, maxChain := 0, maxBench := 2, benchStep := 10, chains := [] }

/-- The Assize on for pitch 0, with a Bench group, model 5 in a state, and a step under way or none. -/
def assize (x : AszState) (step : Option (Nat × Bool) := none) : State :=
  { put [(.aszCtrlEnable, 0, 1), (.aszPitCfg2StepsMax, 0, 2), (.aszPitCfg2WindowMs, 0, 1), (.aszPitCfg2Holdoff, 0, 3), (.stlRoleAlloc, 1, 1),
      (.stlRoleAlloc, 2, 1), (.stlRoleRole, 1, 3), (.stlRoleRole, 2, 3), (.aszPitExpSizeBytes, 0, 64), (.aszPitCfg2Batch, 0, 1)] full with
    asz := [aszModel x], chr := { full.chr with roles := [role0] }, pits := { step } :: List.replicate 63 {} }

/-- Every bank of T1 is out. -/
def noBanks (s : State) : State := put [(.tierRegionLedger, 0, 0), (.tierBankOutLoMap, 0, 2 ^ 32 - 1), (.tierBankOutHiMap, 0, 2 ^ 32 - 1)] s

/-- A training sample of model 5. -/
def sample0 : Sample := { pitch := 0, model := 5, session := 9, train := true, input := [65] }

/-- A step of no sample and of one, whatever the free value the batch begins at. -/
theorem witness_CyclesTrainShadowAndStage_runs (n : Nat) :
    let s := assize .train (some (0, true))
    let runs (xs : List Sample) : List BenchAcc :=
      benchRuns (s.genNow 0) (candModel (s.slotsOf 0 5) (aszModel .train).params (aszModel .train).lower (mdl 5 0))
        ((rotate n xs).take (s.rd .aszPitCfg2Batch 0))
    s.samplesOf 0 5 true = [] ∧ runs [] = [] ∧ ({ s with samples := [sample0] } : State).samplesOf 0 5 true = [sample0] ∧ runs [sample0] ≠ [] := by
  have h0 : rotate n ([] : List Sample) = [] := by simp [rotate]
  have h1 : rotate n [sample0] = [sample0] := by simp [rotate, Nat.mod_one]
  refine ⟨by decide +kernel, ?_, by decide +kernel, ?_⟩
  · simp only [h0]; decide +kernel
  · simp only [h1]; decide +kernel

/-- A training step an evaluation, a step that lasts 80 ticks, and none. -/
theorem witness_CyclesTrainShadowAndStage :
    (let s := assize .train (some (0, true))
     shaped s = true ∧ s.asz? 0 5 = some (aszModel .train) ∧ (s.genNow 0).model? 0 5 = some (mdl 5 0) ∧ (s.pit 0).step = some (0, true)
     ∧ same (.trainStepComplete 0 5) (assize .train) = true ∧ same (.trainStepComplete 0 5) (assize .train (some (0, false))) = true
     ∧ s.role? 0 = some role0 ∧ same (.benchStepTimeout 0) { s with clk := { ticks := 79 } } = true
     ∧ ((run (.benchStepTimeout 0) { assize .idle (some (0, true)) with clk := { ticks := 80 } }).pit 0).step = none
     ∧ same (.benchStepTimeout 0) (assize .train) = true)
    ∧ (let s := assize .shadow (some (0, false))
       s.asz? 0 5 = some (aszModel .shadow) ∧ (s.pit 0).step ≠ none
       ∧ same (.shadowEvalComplete 0 5) (assize .shadow) = true ∧ same (.shadowEvalComplete 0 5) (assize .train (some (0, true))) = true) := by
  decide +kernel

theorem witness_CyclesTrainShadowAndStage_stage :
    (let s := assize .staging
     let f : State := { s with asz := [aszModel .frozen] }
     (aszModel .staging).cand = some {} ∧ (aszModel .staging).toStage = true ∧ s.candFits 0 5 [] = true
     ∧ (run (.calibStaged 0 5) s).asz.map (·.state) = [.ready] ∧ (aszModel .frozen).toStage = true
     ∧ (run (.calibStaged 0 5) f).asz.map (·.revertStaged) = [true] ∧ (aszModel .ready).toStage = false
     ∧ (noBanks s).candFits 0 5 [tile0] = false)
    ∧ (let s := assize .idle
       let z : State := { s with samples := [sample0] }
       serves s = true ∧ s.asz? 0 5 = some (aszModel .idle) ∧ s.rd .aszCtrlEnable = 1 ∧ s.rd .aszPitCtrlFreeze 0 = 0
       ∧ z.rd .aszPitCfg2Batch 0 ≤ (z.samplesOf 0 5 true).length ∧ (run (.assizeKick operatorId 0) z).asz.map (·.state) = [.train]
       ∧ (s.samplesOf 0 5 true).length < s.rd .aszPitCfg2Batch 0 ∧ (run (.assizeKick operatorId 0) s).asz = [aszModel .idle]
       ∧ (put [(.aszPitCtrlFreeze, 0, 1)] s).rd .aszPitCtrlFreeze 0 = 1 ∧ up.rd .aszCtrlEnable = 0) := by decide +kernel

/-- A window of 1 ms ends at 8,000 ticks, not at 7,999; the eighth in STAGING without room drops the candidate. -/
theorem witness_WindowsControlsAndExportOfTheAssize :
    (let s : State := { assize .staging with clk := { ticks := 8000 } }
     let l (n : Nat) : State := { noBanks s with asz := [{ aszModel .staging with waited := n, cand := some { tiles := [tile0] } }] }
     let i : State := { s with asz := [{ aszModel .idle with holdoff := 2 }] }
     shaped s = true ∧ s.rd .aszPitCfg2WindowMs 0 ≠ 0 ∧ (s.pit 0).winTick + 8000 * s.rd .aszPitCfg2WindowMs 0 ≤ s.clk.ticks
     ∧ s.asz = [aszModel .staging] ∧ (aszModel .staging).pitch = (0 : Fin 64).val ∧ s.candFits 0 5 [] = true ∧ (l 0).candFits 0 5 [tile0] = false
     ∧ same (.assizeWindowEnd 0) { s with clk := { ticks := 7999 } } = true ∧ (run (.assizeWindowEnd 0) s).asz.map (·.waited) = [0]
     ∧ (run (.assizeWindowEnd 0) (l 6)).asz.map (·.waited) = [7] ∧ (run (.assizeWindowEnd 0) (l 7)).asz.map (·.state) = [.idle]
     ∧ (run (.assizeWindowEnd 0) i).asz.map (·.holdoff) = [1] ∧ ((s.genNow 0).model? 0 5).isSome = true
     ∧ (run (.assizeWindowEnd 0) (put [(.aszCtrlEnable, 0, 0)] i)).asz.map (·.holdoff) = [2]) := by decide +kernel

theorem witness_WindowsControlsAndExportOfTheAssize_export :
    (let s := assize .train
       let b := put [(.aszPitExpStatBusy, 0, 1)] s
       shaped s = true ∧ serves s = true ∧ b.rd .aszPitExpStatBusy 0 = 1 ∧ s.rd .aszPitExpStatBusy 0 = 0 ∧ (s.exportBytes 0).length = 64
       ∧ (s.exportBytes 0).length ≤ s.rd .aszPitExpSizeBytes 0
       ∧ (put [(.aszPitExpSizeBytes, 0, 63)] s).rd .aszPitExpSizeBytes 0 < (s.exportBytes 0).length
       ∧ (run (.exportComplete 0) b).rd .aszPitExpStatDone 0 = 1 ∧ (run (.assizeFreeze operatorId 0) s).asz.map (·.state) = [.idle]
       ∧ (aszModel .watch).state.cycling = false ∧ (run (.assizeFreeze operatorId 0) (assize .watch)).asz = [aszModel .watch]
       ∧ (run (.assizeEnable operatorId false) s).asz.map (·.state) = [.idle]) := by
  decide +kernel

/-! ### Keys and registers -/

theorem witness_KeysRotateRiseAndAreErased : shaped up = true ∧ serves up = true
    ∧ (put [(.glbKeyCfgKeyver, 0, 7)] up).rd .glbKeyCfgKeyver 0 = 7 ∧ (run (.keyRotate operatorId 0) (put [(.glbKeyCfgKeyver, 0, 7)] up)).rd .glbKeyStatRotErr 0 = 1
    ∧ (run (.keyRotate operatorId 0) (put [(.glbKeyCfgKeyver, 0, 6)] up)).rd .glbKeyCfgKeyver 0 = 7
    ∧ (run (.keyRotate operatorId 0) (put [(.glbKeyCfgKeyver, 0, 255), (.glbKeyCfgKeyverMin, 0, 255)] up)).rd .glbKeyStatRotErr 0 = 1
    ∧ (run (.keyverMinRaise operatorId 0 6#8) (put [(.glbKeyCfgKeyver, 0, 6)] up)).rd .glbKeyCfgKeyverMin 0 = 6
    ∧ (run (.keyverMinRaise operatorId 0 7#8) (put [(.glbKeyCfgKeyver, 0, 6)] up)).rd .glbKeyStatMinErr 0 = 1
    ∧ (0#32 ≠ 0x2E701A5D#32) ∧ up.pwr.zeroing = false ∧ ({ up with pwr := { phase := .done, zeroing := true } } : State).pwr.zeroing = true := by
  decide +kernel

/-- Unaligned, reserved, refused to a pitch's host, and one word of each kind: W1C, RWL, RW; 0x1FFF is no ring size's word. -/
theorem witness_RegisterWritesAreCheckedAndGranted : shaped toll = true ∧ serves toll = true
    ∧ 2 % 4 ≠ 0 ∧ reservedRange 0x60000 = true ∧ reservedRange 0x7FFFC = true ∧ reservedRange 0x80000 = false ∧ State.reset.windowLive 0 true = false
    ∧ toll.windowLive (Fld.desc .tollReviveMaxInflight).base true = true ∧ toll.granted 5#7 (Fld.desc .tollReviveMaxInflight).base = false
    ∧ toll.granted operatorId (Fld.desc .tollReviveMaxInflight).base = true ∧ (0x40#7).toNat = 0x40 ∧ (0x41#7).toNat = 0x41 ∧ (63#7).toNat < 64
    ∧ (run (.optimeRead 63#7) toll).rd .glbDenyCount = 1 ∧ same (.registerWrite operatorId 0 (.half 1)) toll = true ∧ WriteData.half 1 ≠ .word 1
    ∧ (run (.registerWrite 5#7 (BitVec.ofNat 24 (Fld.desc .tollReviveMaxInflight).base) (.word 1)) toll).rd .glbDenyCount = 1 := by decide +kernel

theorem witness_RegisterWritesAreCheckedAndGranted_fields :
    (∃ f i, fieldsAt (f.desc.base) = [(f, i)] ∧ f.desc.acc = .w1c ∧ toll.writeActs operatorId f i 1 = none)
    ∧ (∃ f i, fieldsAt (f.desc.base) = [(f, i)] ∧ f.desc.acc = .rwl ∧ toll.writeActs operatorId f i 1 = none)
    ∧ ∃ f i, fieldsAt (f.desc.base) = [(f, i)] ∧ f.desc.acc = .rw ∧ toll.writeActs operatorId f i 1 = none :=
  ⟨⟨.pitUnadmitCount, 0, by decide +kernel⟩, ⟨.ldgCfgPoolTmo, 0, by decide +kernel⟩, ⟨.ldgPitT2CfgLog2b, 0, by decide +kernel⟩⟩

/-! ### The Carriage -/

/-- Device 1, native mode, pitch 0 in a domain; lane 0 up at version 3; this block owns every shard of it at epoch 2. -/
def laneUp : LaneSt := { up := true, training := false, ver := 3, peer := 2 }
def mesh : State :=
  { put [(.fabIdDevice, 0, 1), (.fabPitCfgDomainEn, 0, 1), (.fabTimingHbMs, 0, 1), (.fabTimingHbMiss, 0, 3), (.fabTimingRetryMax, 0, 2),
      (.fabTimingOwnTmo, 0, 1), (.glbFaultCfgTransMax, 0, 3), (.glbFaultCfgTransWinS, 0, 1)] full with
    lanes := laneUp :: List.replicate 15 {}, fab := { shards := [⟨0, shardOf 9, 1, 2⟩] } }

/-- A frame of pitch 0 and session 9 for device 1 from device `src` (kind `sk`). -/
def frm (kind src sk : Nat) (arg body : List Byte) (txn : Nat := 0) (sess : Nat := 9) : List Byte :=
  ({ kind, dkind := 0, dst := 1, txn, session := sess, arg, body } : Frame).bytes (src + 8192 * sk)

/-- The hypotheses of `Takes`, as one Bool. -/
def taken (s : State) (kind : Nat) (b : List Byte) : Bool :=
  s.pwr.hold == .none && (readFrame b).kind == kind && s.frameOk b && (s.laneExcluded 0 == false || kind == 1 || kind == 2)

theorem takes_of {s : State} {kind : Nat} {b : List Byte} (h : taken s kind b = true) : s.Takes 0 kind b := by
  simp only [taken, Bool.and_eq_true, Bool.or_eq_true, beq_iff_eq] at h
  exact ⟨h.1.1.1, h.1.1.2, h.1.2, or_assoc.mp h.2⟩

/-- A DATA flit of sequence 0 without frames. -/
def flitOf (type : Byte) : List Byte := let b := [0#8, 0#8, 255#8, 255#8, type] ++ List.replicate 631 0#8; b ++ leBytes 4 (crc32c b)
def flit0 : List Byte := flitOf 1

set_option maxRecDepth 100000 in
/-- An expected DATA flit, one that another was expected for, an IDLE flit, and no flit. -/
theorem witness_FlitsAreCountedReplayedOrFailTheirLane_flits :
    flitOk flit0 = true ∧ getLe flit0 4 1 = 1 ∧ getLe flit0 0 2 = (mesh.lane 0).fseqExp ∧ flitOk (flitOf 0) = true ∧ getLe (flitOf 0) 4 1 = 0
    ∧ flitOk [] = false ∧ (let s : State := { mesh with lanes := { laneUp with fseqExp := 5 } :: List.replicate 15 {} }
      getLe flit0 0 2 ≠ (s.lane 0).fseqExp ∧ (s.lane 0).retired = false) := by decide +kernel

set_option maxRecDepth 100000 in
theorem witness_FlitsAreCountedReplayedOrFailTheirLane :
    shaped mesh = true ∧ held.pwr.hold ≠ .none ∧ mesh.pwr.hold = .none ∧ (mesh.lane 0).retired = false
    ∧ ({ laneUp with retired := true } : LaneSt).retired = true
    ∧ (mesh.lane 0).up = true ∧ (if (mesh.lane 0).lastRetry = some (0xFFFF#16).toNat then (mesh.lane 0).replays else 0) < mesh.rd .fabTimingRetryMax
    ∧ (let s : State := { mesh with lanes := { laneUp with lastRetry := some 7, replays := 2 } :: List.replicate 15 {} }
       s.rd .fabTimingRetryMax ≤ 2 ∧ ((run (.retryFlit 0 7) s).lane 0).up = false ∧ same (.retryFlit 1 7) s = true)
    ∧ ((run (.equalisationConverged 1) mesh).lane 1).training = false
    ∧ (mesh.lane 1).training = true ∧ (mesh.lane 0).training = false ∧ (mesh.lane 0).testing = false
    ∧ (let s : State := { mesh with lanes := { laneUp with training := true, testing := true, faults := [0, 0, 0] } :: List.replicate 15 {} }
       (s.lane 0).testing = true
       ∧ s.rd .glbFaultCfgTransMax ≤ ((s.lane 0).faults.filter (fun x => decide (s.clk.optime ≤ x + s.rd .glbFaultCfgTransWinS * 1024))).length
       ∧ ¬ 4 ≤ ((s.lane 0).faults.filter (fun x => decide (s.clk.optime ≤ x + s.rd .glbFaultCfgTransWinS * 1024))).length
       ∧ ((run (.laneTestComplete 0 true) s).lane 0).retired = true ∧ ((run (.fecLockLoss 0) mesh).lane 0).testing = true) := by decide +kernel

/-- Version 3 of both; a partner that offers 2 only, below the least of a native domain. -/
theorem witness_HelloAndHeartbeatsKeepALink :
    taken mesh 1 (frm 1 2 0 [3, 2, 0] []) = true ∧ taken mesh 1 (frm 1 2 0 [2, 2, 0] []) = true ∧ taken mesh 2 (frm 2 2 0 [] []) = true
    ∧ min mesh.maxVer (getLe (readFrame (frm 1 2 0 [2, 2, 0] [])).arg 0 1) = 2 ∧ 2 < mesh.minVer
    ∧ (run (.hello 0 (frm 1 2 0 [2, 2, 0] [])) mesh).rd .fabStatusVerLow = 1
    ∧ mesh.clk.ticks < mesh.fab.hbTick + 8000 * mesh.rd .fabTimingHbMs
    ∧ ({ mesh with clk := { ticks := 8000 } } : State).fab.hbTick + 8000 * mesh.rd .fabTimingHbMs ≤ 8000
    ∧ (mesh.lane 0).missed + 1 < mesh.rd .fabTimingHbMiss
    ∧ (let s : State := { mesh with lanes := { laneUp with missed := 2 } :: List.replicate 15 {} }
       s.rd .fabTimingHbMiss ≤ (s.lane 0).missed + 1 ∧ (s.lane 0).up = true ∧ ((run (.heartbeatMiss 0) s).lane 0).up = false)
    ∧ (let s : State := { mesh with lanes := { laneUp with up := false, missed := 2 } :: List.replicate 15 {} }
       s.rd .fabTimingHbMiss ≤ (s.lane 0).missed + 1 ∧ (s.lane 0).up = false ∧ (run (.heartbeatMiss 0) s).rd .glbFaultsCount = 0) := by decide +kernel

theorem witness_HelloAndHeartbeatsKeepALink_takes : mesh.Takes 0 1 (frm 1 2 0 [3, 2, 0] []) := takes_of (by decide +kernel)

/-- A HELLO of another device is none for this block. -/
theorem witness_FramesThatBreakTheTablesDoNothing : ¬ mesh.Takes 0 1 ((frm 1 2 0 [3, 2, 0] []).set 6 2) := by
  rintro ⟨-, -, h, -⟩
  exact absurd h (by decide +kernel)

/-- The claim of another block: of a higher epoch, of the same epoch and a lower device, of a lower epoch. -/
def claim (dev epoch : Nat) : List Byte := leBytes 2 dev ++ [0, 0] ++ leBytes 4 epoch
def clash : State := { mesh with fab := { mesh.fab with conflicts := [⟨0, 9, 2, 0⟩] } }

theorem witness_MapsDigestsAndConflictsAreSettled : shaped mesh = true
    ∧ (let d := frm 3 0 2 [] (fill 16 (mesh.charterDigest 0) ++ List.replicate 16 0)
       taken mesh 3 d = true ∧ mesh.rd .fabPitCfgDomainEn 0 = 1 ∧ mesh.comparesWith 0 (readFrame d) = true
       ∧ (readFrame d).body.take 16 = fill 16 (mesh.charterDigest 0) ∧ (run (.digest 0 d) mesh).rd .fabPitStatusJoined 0 = 1
       ∧ taken mesh 3 (frm 3 0 2 [] (1 :: List.replicate 31 0)) = true
       ∧ (run (.digest 0 (frm 3 0 2 [] (1 :: List.replicate 31 0))) mesh).rd .fabPitStatusMismatch 0 = 1)
    ∧ (mesh.comparesWith 0 (readFrame (frm 3 2 0 [] (List.replicate 32 0))) = false ∧ taken mesh 3 (frm 3 2 0 [] (List.replicate 32 0)) = true)
    ∧ (let s : State := { mesh with fab := { mesh.fab with lost := [3] } }
       taken s 0x18 (frm 0x18 2 0 [3] []) = true ∧ 3 ∈ s.fab.lost)
    ∧ taken mesh 0x15 (frm 0x15 2 0 (claim 1 1) []) = true ∧ getLe (readFrame (frm 0x15 2 0 (claim 1 1) [])).arg 0 2 % 8192 = mesh.rd .fabIdDevice
    ∧ taken clash 0x15 (frm 0x15 2 0 (claim 2 1) []) = true ∧ taken clash 0x16 (frm 0x16 2 0 (claim 1 3) []) = true
    ∧ (let m := frm 0x10 0 2 [254, 3, 2, 0] (leBytes 4 1 ++ leBytes 4 5 ++ leBytes 4 2 ++ leBytes 4 6)
       taken mesh 0x10 m = true ∧ (run (.shardMap 0 m) mesh).rd .fabPitStatusJoined 0 = 1)
    ∧ taken mesh 0x11 (frm 0x11 0 2 [1, 4] (leBytes 8 4096)) = true
    ∧ taken mesh 0x15 (frm 0x15 2 0 (claim 2 1) []) = true ∧ full.entry? 0 9 ≠ none ∧ mesh.fab.conflicts = []
    ∧ ({ mesh with entries := [] } : State).entry? 0 9 = none ∧ getLe (readFrame (frm 0x15 2 0 (claim 2 1) [])).arg 0 2 % 8192 ≠ mesh.rd .fabIdDevice
    ∧ clash.myEpoch 0 9 = 2 ∧ taken clash 0x16 (frm 0x16 2 0 (claim 2 3) []) = true ∧ taken clash 0x16 (frm 0x16 0 0 (claim 0 2) []) = true
    ∧ taken clash 0x16 (frm 0x16 2 0 (claim 2 1) []) = true ∧ clash.fab.conflicts = [⟨0, 9, 2, 0⟩]
    ∧ taken mesh 0x18 (frm 0x18 2 0 [3] []) = true ∧ 3 ∈ (run (.peerLostFrame 0 (frm 0x18 2 0 [3] [])) mesh).fab.lost := by decide +kernel

/-- OWN_TMO 10 µs: 80 ticks after the move began, not 79. -/
theorem witness_OwnershipMovesByGrantAndEpoch :
    serves mesh = true ∧ mesh.rd .fabCfgMode = 0 ∧ mesh.owner? 0 9 = some (1, 2) ∧ mesh.rd .fabIdDevice = 1 ∧ mesh.move? 0 9 = none
    ∧ mesh.owner? 1 9 = none ∧ mesh.ownEpoch 0 9 = 2 ∧ mesh.fab.exc = []
    ∧ (let s : State := { mesh with fab := { mesh.fab with moveLo := [(0x40, 9)] } }
       (0x00020000#32).toNat / 256 % 64 = 0 ∧ ((s.fab.moveLo.find? (·.1 == 0x40)).map (·.2)).getD 0 + 2 ^ 32 * ((0x00020000#32).toNat % 256) = 9
       ∧ serves s = true)
    ∧ taken mesh 0x12 (frm 0x12 2 0 (claim 2 2) (leBytes 8 0)) = true ∧ getLe (readFrame (frm 0x12 2 0 (claim 2 3) (leBytes 8 0))).arg 4 4 ≠ 2
    ∧ taken mesh 0x13 (frm 0x13 0 2 (claim 1 2) (leBytes 8 0)) = true ∧ taken mesh 0x13 (frm 0x13 0 2 (claim 1 3) (leBytes 8 0)) = true
    ∧ (run (.ownGrant 0 (frm 0x13 0 2 (claim 1 3) (leBytes 8 0))) mesh).owner? 0 9 = some (1, 3)
    ∧ taken mesh 0x14 (frm 0x14 2 0 (claim 2 2) []) = true
    ∧ taken { put [(.fabCfgMode, 0, 1)] mesh with lanes := mesh.lanes } 0x17 (frm 0x17 2 0 (claim 2 1) (leBytes 8 0)) = true
    ∧ (let m : Move := { pitch := 0, session := 9, target := 2, asked := true, since := 0 }
       let s : State := { mesh with fab := { mesh.fab with moves := [m] }, clk := { ticks := 80 } }
       s.fab.conflicts = [] ∧ s.move? 0 9 = some m ∧ m.asked = true ∧ m.since + 80 * s.rd .fabTimingOwnTmo ≤ s.clk.ticks
       ∧ (run (.ownTimeout 0 9) s).rd .fabStatusMoveFail = 1 ∧ same (.ownTimeout 0 9) { s with clk := { ticks := 79 } } = true) := by decide +kernel

theorem witness_PushesAndPoolTransfersComplete :
    mesh.ownsSession 0 9 = true ∧ mesh.ownsSession 0 8 = false ∧ mesh.fab.pushes = []
    ∧ (let t := frm 0x20 2 0 [3, 0, 0, 0, 0, 0, 8, 0] (leBytes 8 7)
       taken mesh 0x20 t = true ∧ (run (.pushTap 0 t) mesh).fab.pushes.map (·.src) = [2])
    ∧ taken mesh 0x20 (frm 0x20 2 0 [3, 0, 0, 0, 0, 0, 8, 0] (leBytes 8 7) 0 8) = true
    ∧ taken mesh 0x21 (frm 0x21 2 0 [3, 0, 0] (List.replicate 64 0) 0 8) = true
    ∧ (let s : State := { mesh with reqs := [{ dueReq with push := .sent 2 }] }
       taken s 0x22 (frm 0x22 2 0 [3, 0, 0, 0] []) = true ∧ (s.req? 0 9 3).map (·.push) = some (.sent 2)
       ∧ (run (.pushAck 0 (frm 0x22 2 0 [3, 0, 0, 0] [])) s).reqs.map (·.push) = [.acked]
       ∧ taken s 0x22 (frm 0x22 2 0 [3, 0, 0, 5] []) = true)
    ∧ (let x : MemTxn := { id := 4, pool := 1, write := false, pitch := 0, session := 9, left := 8 }
       let y : MemTxn := { id := 5, pool := 1, write := true, pitch := 0, session := 9 }
       let s : State := { mesh with fab := { mesh.fab with txns := [x, y] } }
       taken s 0x32 (frm 0x32 1 1 [] (leBytes 8 0) 4) = true ∧ s.fab.txns.find? (fun x => x.id == 4 && !x.write) = some x
       ∧ s.fab.dirOps = [] ∧ taken s 0x32 (frm 0x32 1 1 [] (leBytes 8 0) 6) = true
       ∧ s.fab.txns.find? (fun x => x.id == 6 && !x.write) = none ∧ x.left ≤ 8 ∧ taken s 0x33 (frm 0x33 1 1 [] [] 5) = true ∧ s.fab.txns.find? (fun x => x.id == 5 && x.write) = some y
       ∧ (run (.memCpl 0 (frm 0x32 1 1 [] (leBytes 8 0) 4)) s).fab.txns = [y] ∧ (run (.memWrAck 0 (frm 0x33 1 1 [] [] 5)) s).fab.txns = [x])
    ∧ (let b : PushBuf := { pitch := 0, session := 9, tag := 3, src := 2, since := 0 }
       let s : State := { mesh with fab := { mesh.fab with pushes := [b] }, clk := { ticks := 80 } }
       (run (.pushBufferExpiry 0 9) s).fab.pushes = [] ∧ (run (.pushBufferExpiry 0 9) { s with clk := { ticks := 79 } }).fab.pushes = [b]) := by
  decide +kernel

/-! ### Start-up, amendments -/

/-- A location block with a Daybook region of 8 KiB and an alternate, and a state that reads an image. -/
def locBlock : List Byte :=
  let b := [0x42#8, 0x43#8, 0x4F#8, 0x4C#8, 1#8, 0#8, 0#8, 0#8] ++ leBytes 4 4096 ++ leBytes 4 8192 ++ leBytes 4 0 ++ leBytes 4 8192 ++ List.replicate 36 0#8
  b ++ leBytes 4 (crc32c b)
def readingImg (alt present : Bool) : State := { State.reset with pwr := { phase := .reading alt, altPresent := present } }

/-- Each way start-up can go, and an image of no bytes, which fails its header. -/
theorem witness_StartUpAndItsImages :
    up.pwr.phase ≠ .reset ∧ State.reset.pwr.phase = .reset ∧ State.reset.pwr.hold = .none ∧ (1#8 ≠ 0#8)
    ∧ ({ State.reset with pwr := { hold := .clkLoss } } : State).pwr.hold = .clkLoss
    ∧ readLoc [] = none ∧ (readLoc locBlock).isSome = true ∧ (readLoc locBlock).map (·.dbkLen) = some 8192
    ∧ (run (.startup 0 true true [] locBlock) State.reset).pwr.phase = .reading false
    ∧ (readingImg false true).pwr.phase = .reading false ∧ (readingImg false true).pwr.hold = .none ∧ (readingImg false true).pwr.altPresent = true
    ∧ (readingImg true false).pwr.altPresent = false ∧ (readingImg true true).pwr.phase = .reading true
    ∧ (match State.reset.verify [] with | .inl e => e.1 == 3 | .inr _ => false) = true := by decide +kernel

/-! ### A charter

One pitch with one Spread stall, a text table of the 256 bytes, no model; signed with the key of the part's slot 0. -/

def exRegs : List Byte :=
  ([(0x4008, 0x10), (0x4400, 0x100), (0x6008, 0x1), (0x600C, 0x10), (0x10004, 0x3E8)]
   ++ [(0x12000, 0x20010104), (0x41000, 0x0), (0x51000, 0x81100), (0x51004, 0x20401), (0x51008, 0x10), (0x80064, 0x0)] : List (Nat × Nat)).flatMap (fun x => leBytes 4 x.1 ++ leBytes 4 x.2)
def exCfg : List Byte := [0, 0, 7] ++ List.replicate 13 0#8 ++ (List.range 16).map (BitVec.ofNat 8) ++ List.replicate 288 0#8
def exAlloc : List Byte :=
  [0x80] ++ List.replicate 63 0#8 ++ [0, 0, 1, 1, 0, 0, 0, 0, 10] ++ List.replicate 23 0#8 ++ List.replicate 128 0xFF#8
def exText : List Byte :=
  leBytes 2 0 ++ leBytes 2 1 ++ leBytes 4 256 ++ leBytes 4 0 ++ leBytes 4 1 ++ leBytes 4 256 ++ leBytes 4 0 ++ leBytes 4 64
  ++ leBytes 4 128 ++ leBytes 4 1152 ++ List.replicate 92 0#8
  ++ (List.range 256).flatMap (fun i => leBytes 4 (2 ^ 24 + i)) ++ (List.range 256).map (BitVec.ofNat 8)
def exEntry (type scope off len digest : Nat) : List Byte :=
  [BitVec.ofNat 8 type, BitVec.ofNat 8 scope, 0, 0] ++ leBytes 4 off ++ leBytes 4 len ++ leBytes 16 digest ++ leBytes 4 0
def exImage : List Byte :=
  leBytes 4 0x4E474348 ++ leBytes 4 1 ++ leBytes 4 2688 ++ leBytes 4 5 ++ leBytes 4 64 ++ leBytes 4 0 ++ leBytes 2 800
  ++ List.replicate 38 0#8
  ++ exEntry 1 0x40 256 88 0xB4327C5FB294C2C9473E720306C4183D
  ++ exEntry 2 0 384 320 0xAD1414D408FA57C4B6C513D071622BEA
  ++ exEntry 3 0x40 704 224 0xE4E6515C2EF3235442EC7A2F436FA0D2
  ++ exEntry 4 0x40 960 64 0xD2C099709326686C637C453B8DAA16C5
  ++ exEntry 7 0x40 1024 1408 0xC09870D31BCD107842F1F11A3031150B ++ List.replicate 32 0#8
  ++ exRegs ++ List.replicate 40 0#8 ++ exCfg ++ exAlloc ++ List.replicate 32 0#8 ++ List.replicate 64 0#8 ++ exText
  ++ leBytes 48 p384Gx ++ leBytes 48 p384Gy
  ++ leBytes 48 0x121609CB61F030FB444327892A7200889D5F905D1DB53282A5F9ABA5AECBA4981192D827245A068392A6C36CAF6381A4
  ++ leBytes 48 0xD8CE79E2E8D1E0C770B9138B06BB2CDFC388643958BB7A982598302981FFC05CDF29E49249B801FA7E57CEFF2AE6738
  ++ List.replicate 64 0#8

/-- Checks 1 to 5 of R331. -/
theorem exImage_header : hdrChk exImage 0 = none := by decide +kernel
theorem exImage_key : State.reset.keyChk exImage = none := by decide +kernel
theorem exImage_directory : dirChk exImage false = none := by decide +kernel

/-- The sections read, and what the cross-checks of charterChk ask of them apart from R205's fit. -/
def exBuildOk (d : List DirEnt) (u : Build) : Bool :=
  u.gen.models.isEmpty && u.gen.sieves.isEmpty && u.gen.enss.isEmpty && u.gen.stocks.isEmpty && u.gen.calib.isEmpty && u.gen.place.isEmpty
  && ((u.gen.texts.filter (·.id == 0)).map (·.len)).sum ≤ 4096
  && ((u.gen.texts.filter (·.id == 0)).map TextTable.joiner).sum ≤ 4096 && u.gen.size ≤ 4096 && regValue u.regs .tierRegionLedger 0 == 1
  && (match u.cfgs with
    | [c] => c.pitch == 0 && c.inTable == 0 && c.outTable == 0 && !c.wrapped
    | _ => false)
  && (match u.roles with
    | [r] => r.pitch == 0 && r.chains.isEmpty
    | _ => false)
  && regValue u.regs .fabPitCfgDomainEn 0 == 0 && regValue u.regs .fabCfgMode 0 == 0
  && u.regs.all (fun r => regEntryOk none u.gen.mdlPitch r.1 r.2) && u.owned.isEmpty && namedOk u && (u.gen.text? 0).isSome
  && d.all (fun e => (!(e.type == 1 && !e.block) || [0].contains e.pitch) && (e.block || [0].contains e.pitch))
  && u.guild.all (fun x => !x.valid) && u.hasAlloc && u.hasFw && u.shards.isEmpty
  && u.alloc.all (fun a => !bit a 7 || [0].contains (bits a 0 6))
  && (List.range 4).all (fun p => regValue u.regs .fabPortCfgGuildEn p == 0)

def sectionsOk (p : Build → Bool) (x : Except (Nat × Nat) Build) : Bool :=
  match x with
  | .ok u => p u
  | .error _ => false
theorem exImage_sections : sectionsOk (exBuildOk (readDir exImage)) (takeAll exImage {}) = true := by decide +kernel

theorem build_of {x : Except (Nat × Nat) Build} {p : Build → Bool} (h : sectionsOk p x = true) : ∃ u, x = .ok u ∧ p u = true := by
  cases x with
  | ok u => exact ⟨u, rfl, h⟩
  | error e => exact absurd h (by simp [sectionsOk])

theorem verify_of {s : State} {b : List Byte} {u : Build} {ks : List PitKey} (h1 : hdrChk b 0 = none) (h2 : s.keyChk b = none)
    (h3 : dirChk b false = none) (h4 : takeAll b {} = .ok u) (h5 : charterChk u (readDir b) = none) (h6 : secretsOf u = some ks) :
    s.verify b = .inr ⟨u, ks⟩ := by
  simp only [State.verify, h1, h2, h3, h4, h5, h6, HOrElse.hOrElse, OrElse.orElse, Option.orElse]

/-- A build such as this passes the cross-checks while a request's working space leaves room in T0. -/
theorem exBuild_checks (d : List DirEnt) (u : Build) (h : exBuildOk d u = true) (hw : Config.workBytes ≤ 65536) :
    charterChk u d = none ∧ (secretsOf u).isSome = true := by
  simp only [exBuildOk, Bool.and_eq_true, List.isEmpty_iff, decide_eq_true_eq, beq_iff_eq] at h
  obtain ⟨⟨⟨⟨⟨⟨⟨⟨⟨⟨⟨⟨⟨⟨⟨⟨⟨⟨⟨⟨⟨⟨⟨⟨m, sv⟩, en⟩, st⟩, ca⟩, pl⟩, tx⟩, tj⟩, sz⟩, lg⟩, cf⟩, ro⟩, dm⟩, fm⟩, rg⟩, ow⟩, nm⟩, ts⟩, dr⟩, gu⟩, al⟩, fwo⟩, sh⟩, av⟩, pg⟩ := h
  obtain ⟨c, hc, c0, ci, co, cw⟩ : ∃ c, u.cfgs = [c] ∧ c.pitch = 0 ∧ c.inTable = 0 ∧ c.outTable = 0 ∧ c.wrapped = false := by
    split at cf
    · rename_i c hc
      simp only [Bool.and_eq_true, beq_iff_eq, Bool.not_eq_true'] at cf
      exact ⟨c, hc, cf.1.1.1, cf.1.1.2, cf.1.2, cf.2⟩
    · exact absurd cf (by decide)
  obtain ⟨r, hr, r0, rc⟩ : ∃ r, u.roles = [r] ∧ r.pitch = 0 ∧ r.chains = [] := by
    split at ro
    · rename_i r hr
      simp only [Bool.and_eq_true, beq_iff_eq, List.isEmpty_iff] at ro
      exact ⟨r, hr, ro.1, ro.2⟩
    · exact absurd ro (by decide)
  have hu : u.cfgs.map (·.pitch) = [0] := by simp [hc, c0]
  have hg : u.guild.filter (·.valid) = [] := by
    rw [List.filter_eq_nil_iff]
    intro x hx
    simpa using List.all_eq_true.mp gu x hx
  have hs : ∀ i, u.gen.sieve? i = none := fun i => by simp [Gen.sieve?, sv]
  have h1 : genChk u.gen = none := by simp [genChk, m, sv, en, st, ca, pl, chk]
  have h2 : fitOk u.gen (regValue u.regs) c r 0 0 = true := by
    have e1 : ((u.gen.spreadObjs c).map (fun x => match x with
        | .table _ _ _ n => n
        | .tile _ _ => 0)).sum ≤ 4096 := by
      simpa [Gen.spreadObjs, m, sv, en, ci, List.map_map, Function.comp_def] using tx
    have e2 : lastTables u.gen c ≤ 4096 := by
      simpa [lastTables, Gen.stageObjs, m, sv, co, List.map_map, Function.comp_def] using tj
    have e3 : t0Ok u.gen c (regValue u.regs .tollPitCfgChainSessions c.pitch) 0 0 = true := by
      have e4 : sliceBytes u.gen c.pitch (regValue u.regs .tollPitCfgChainSessions c.pitch) = 0 := by simp [sliceBytes, m]
      simp only [t0Ok, e4, Bool.and_eq_true, decide_eq_true_eq]
      refine ⟨?_, ?_⟩
      · simp only [m, List.filter_nil, List.map_nil, List.sum_nil, t0Space]
        exact Nat.le_trans (Nat.add_le_add_right (Nat.add_le_add_right (Nat.add_le_add_left e1 _) _) _) (by omega)
      · simp only [m, List.filter_nil, List.map_nil, List.sum_nil, t0Space]; omega
    simp [fitOk, e3, m, rc, tokenDelayMin]
  have dr1 : d.all (fun e => !(e.type == 1 && !e.block) || [0].contains e.pitch) = true := by
    rw [List.all_eq_true] at dr ⊢
    exact fun e he => ((Bool.and_eq_true _ _).mp (dr e he)).1
  have dr2 : d.all (fun e => e.block || [0].contains e.pitch) = true := by
    rw [List.all_eq_true] at dr ⊢
    exact fun e he => ((Bool.and_eq_true _ _).mp (dr e he)).2
  have pg' : (List.range 4).all (fun p => regValue u.regs .fabPortCfgGuildEn p == 0 || ([] : List Nat).contains (regValue u.regs .fabPortCfgGuildPitch p)) = true := by
    rw [List.all_eq_true] at pg ⊢
    exact fun e he => by rw [pg e he, Bool.true_or]
  refine ⟨?_, ?_⟩
  · simp only [charterChk, hg, h1, rg, ow, nm, lg, al, fwo, m, hc, hr, sh, fm, chk]
    simp only [List.map_cons, List.map_nil, c0, dr1, dr2, av, pg']
    simp [ci, co, ts, r0, rc, h2, c0, m, depthOk, sortBy, insertBy, show u.gen.size + 67108864 ≤ 1073741824 by omega]
  · simp [secretsOf, hc, c0, dm, pitchSecret, cw, allSome]

/-- The charter verifies, where the working space of a request leaves room for its tables (R205). -/
theorem witness_StartUpAndItsImages_verified (hw : Config.workBytes ≤ 65536) : ∃ v, State.reset.verify exImage = .inr v := by
  obtain ⟨u, ht, hb⟩ := build_of exImage_sections
  obtain ⟨hc, hs⟩ := exBuild_checks _ u hb hw
  obtain ⟨ks, hk⟩ := Option.isSome_iff_exists.mp hs
  exact ⟨_, verify_of exImage_header exImage_key exImage_directory ht hc hk⟩

/-- FIPS 180-4's example for SHA-384, the bytes of "abc". -/
theorem test_sha384_abc : beNat (sha384 [0x61#8, 0x62#8, 0x63#8])
    = 0xCB00753F45A35E8BB5A03D699AC65007272C32AB0EDED1631A8B605A43FF5BED8086072BA1E7CC2358BAECA134C825A7 := by decide +kernel

/-- 8,001 ticks after STARTUP are 2 ms. -/
theorem witness_ReadyAndTheLock :
    (let h : ImgHdr := readHdr (List.replicate 320 0#8)
     let s : State := { State.reset with pwr := { phase := .loading, build := some h }, clk := { ticks := 8001 } }
     up.pwr.phase ≠ .loading ∧ s.rd .fabCfgMode = 0 ∧ s.pwr.hold = .none ∧ s.pwr.phase = .loading ∧ s.pwr.build = some h ∧ s.pwr.startTick ≤ s.clk.ticks
     ∧ (2 - 1) * 8000 < s.clk.ticks - s.pwr.startTick ∧ s.clk.ticks - s.pwr.startTick ≤ 2 * 8000 ∧ (run .tollReady s).rd .chrStartMsMs = 2
     ∧ 65535 * 8000 < ({ s with clk := { ticks := 524280001 } } : State).clk.ticks)
    ∧ (serves up = true ∧ (1#32).getLsbD 0 = true ∧ (2#32).getLsbD 0 = false)
    ∧ (let h : ImgHdr := { readHdr (List.replicate 320 0#8) with lockMode := 1, lockTmo := 2 }
       let s : State := { up with chr := { hdr := some h }, pwr := { phase := .done, readyTick := some 0 }, clk := { ticks := 16000 } }
       s.chr.hdr = some h ∧ s.pwr.readyTick = some 0 ∧ h.lockMode = 1 ∧ 0 + 8000 * h.lockTmo ≤ s.clk.ticks
       ∧ (run .lockTimeout s).rd .chrStatusLocked = 1 ∧ same .lockTimeout { s with clk := { ticks := 15999 } } = true) := by decide +kernel

/-- The amendment in a state, of pitch 0. -/
def amending (n : Nat) : State := put [(.chrAmdStatusState, 0, n), (.chrAmdWaitMs, 0, 1)] { full with clk := { ticks := 8000 } }

/-- The base point's two coordinates: the public key of the private key 1. -/
def keyOne : List Byte := leBytes 48 p384Gx ++ leBytes 48 p384Gy

/-- A signature made with the private key 1 and the nonce 1. -/
def signedBy (s : Nat) : List Byte := leBytes 48 (p384Gx % p384N) ++ leBytes 48 s

/-- An amendment of pitch 0 with one REG_VALUES entry, TOKEN_DELAY 100 (R326 to R329), signed. -/
def amdImage : List Byte :=
  [0x48#8, 0x43#8, 0x47#8, 0x4E#8, 1, 0, 1, 0] ++ leBytes 4 448 ++ leBytes 4 1 ++ leBytes 4 64 ++ List.replicate 12 0#8 ++ leBytes 4 1 ++ List.replicate 28 0#8
  ++ [1, 0, 0, 0] ++ leBytes 4 128 ++ leBytes 4 8 ++ leBytes 16 0x7a25f9b3e97f8b009ad7c4f5923621bf ++ List.replicate 36 0#8
  ++ leBytes 4 0x80060 ++ leBytes 4 100 ++ List.replicate 56 0#8
  ++ keyOne ++ signedBy 0xbc2e9028adb8948c31a5d5aa24a94202d2fb3dd926b7cbe68e05db3448d8b1c7d48f8a60216d8dc75e122764f3d94c7d
  ++ List.replicate 64 0#8

/-- An amendment read and waiting for its checks, whose key the fuses hold. -/
def amdReady : State :=
  { put [(.chrAmdLenBytes, 0, 448)] (amending 1) with
    fuse := { (amending 1).fuse with programmed := 1, keyHash := [sha384 keyOne] }
    chr := { full.chr with hdr := some (readHdr (List.replicate 320 0#8)) }, gens := [⟨0, 0, { models := [mdl 6 2], texts := [txt0] }⟩] }

/-- Read and whole; and with 1,024 model-table rows of other pitches beside its own model (rows as cells, one of them repeated). -/
theorem witness_AmendmentsAreOneAtATime_checked :
    amdImage.length = amdReady.rd .chrAmdLenBytes ∧ amdReady.pwr.hold = .none ∧ amdReady.rd .chrAmdStatusState = 1
    ∧ (match amdReady.amdCheck amdImage with
       | .inr g => amdReady.mdlCount (readHdr amdImage).apitch g == 1
       | .inl _ => false) = true
    ∧ (let s : State := { amdReady with regs :=
         [⟨.chrAmdStatusState, 0, 1⟩, ⟨.chrAmdLenBytes, 0, 448⟩, ⟨.tollMdlLoPitch, 0, 1⟩] ++ List.replicate 1024 ⟨.tollMdlLoValid, 0, 1⟩ }
       s.rd .chrAmdStatusState = 1 ∧ amdImage.length = s.rd .chrAmdLenBytes
       ∧ (match s.amdCheck amdImage with
          | .inr g => s.mdlCount (readHdr amdImage).apitch g == 1025
          | .inl _ => false) = true) := by decide +kernel

/-- No amendment, READING, WAITING for 1 ms, and the ones beyond; an amendment of no bytes fails its header. -/
theorem witness_AmendmentsAreOneAtATime :
    shaped (amending 0) = true ∧ serves (amending 0) = true ∧ serves (amending 5) = true ∧ shaped (amending 5) = true
    ∧ (amending 0).rd .chrAmdStatusState = 0 ∧ (amending 1).rd .chrAmdStatusState = 1 ∧ (amending 5).rd .chrAmdStatusState = 5
    ∧ (amending 6).rd .chrAmdStatusState = 6
    ∧ (3#32).getLsbD 2 = false ∧ (3#32).getLsbD 0 = true ∧ (2#32).getLsbD 0 = false
    ∧ (run (.amendSubmit operatorId 3#32) (amending 6)).amd.apply = true ∧ (run (.amendSubmit operatorId 1#32) (amending 5)).rd .chrAmdStatusBusyErr = 1
    ∧ (run (.amendCancel operatorId) (amending 1)).rd .chrAmdErrCode = 0x25 ∧ same (.amendSubmit operatorId 2#32) (amending 1) = true
    ∧ (4#32).getLsbD 2 = true ∧ (4#32).getLsbD 0 = false ∧ (7#32).getLsbD 2 = true ∧ (7#32).getLsbD 0 = true
    ∧ (run (.amendSubmit operatorId 4#32) (amending 1)).rd .chrAmdStatusState = 7 ∧ (run (.amendSubmit operatorId 7#32) (amending 1)).rd .chrAmdStatusState = 1
    ∧ same (.amendCancel operatorId) (amending 6) = true ∧ fitRead ((amending 1).rd .chrAmdLenBytes) (.ok [0]) = .error
    ∧ (run (.amendReadComplete .error) (amending 1)).rd .chrAmdErrCode = 0x24 ∧ same (.amendReadComplete (.ok [])) (amending 5) = true
    ∧ ([] : List Byte).length = (amending 1).rd .chrAmdLenBytes ∧ (match (amending 1).amdCheck [] with | .inl c => c == 3 | .inr _ => false) = true
    ∧ (amending 5).amendInUse (readDir (amending 5).amd.image) ((amending 5).rd .chrAmdStatusPitch) = false
    ∧ 0 + 8000 * (amending 5).rd .chrAmdWaitMs ≤ (amending 5).clk.ticks ∧ same .amendWaitTimeout { amending 5 with clk := { ticks := 7999 } } = true
    ∧ (run .amendWaitEnd (amending 5)).rd .chrAmdStatusState = 3 := by decide +kernel

/-- An amendment that names model 5, in use and waiting. -/
def usedImage : List Byte :=
  List.replicate 12 0#8 ++ leBytes 4 1 ++ leBytes 4 64 ++ List.replicate 44 0#8 ++ [5#8, 0#8, 5#8, 0#8] ++ List.replicate 28 0#8

theorem witness_AmendmentsAreOneAtATime_inUse :
    let s : State := { amending 5 with adms := [adm], amd := { image := usedImage } }
    s.amendInUse (readDir s.amd.image) (s.rd .chrAmdStatusPitch) = true ∧ same .amendWaitEnd s = true := by decide +kernel

/-- A STALL_ALLOC section that gives stall 0 to pitch 0, in an amendment. -/
def allocImage : List Byte :=
  List.replicate 12 0#8 ++ leBytes 4 1 ++ leBytes 4 64 ++ List.replicate 44 0#8 ++ [3, 0, 0, 0] ++ leBytes 4 128 ++ leBytes 4 64
  ++ List.replicate 52 0#8 ++ (128 :: List.replicate 63 0#8)

theorem witness_AStagedAmendmentWaitsForItsEpoch :
    let s := amending 3
    let a : State := { s with amd := { apply := true } }
    shaped s = true ∧ up.rd .chrAmdStatusState ≠ 3 ∧ s.pwr.hold = .none ∧ s.rd .chrAmdStatusState = 3 ∧ s.rd .pitStatusEnabled 0 = 1
    ∧ s.amd.apply = false ∧ (run .amendStaged s).rd .chrAmdStatusState = 4
    ∧ a.amd.apply = true ∧ (({ a with pits := belled.pits } : State).pit 0).bell ≠ none ∧ (a.pit 0).bell = none
    ∧ a.stallMoves (a.amdAlloc a.amd.image) = [] ∧ (a.stallMoves (a.amdAlloc a.amd.image)).all a.canMove = true
    ∧ (let d := put [(.pitStatusEnabled, 0, 0)] s
       d.rd .pitStatusEnabled 0 = 0 ∧ d.rd .chrAmdStatusState = 3 ∧ (run .amendStaged d).rd .chrAmdStatusState = 6)
    ∧ (let m : State := { put [(.stlFaultRetired, 0, 1)] a with chr := { a.chr with alloc := [0] }, amd := { a.amd with image := allocImage } }
       (m.stallMoves (m.amdAlloc m.amd.image)).all m.canMove = false ∧ m.rd .pitStatusEnabled 0 = 1 ∧ m.amd.apply = true ∧ (m.pit 0).bell = none) := by
  decide +kernel

/-! ### The Daybook -/

/-- A record of pitch 63, and a store of 256 slots whose one live record it is, at slot 130, with another behind the base. -/
def drec : DRec := { code := 0x1201, pscope := true, pitch := 63, p0 := 1, p1 := 0, p2 := 0, optime := 5, pcyc := 1 }
def store : State :=
  { put [(.dbkNslotCount, 0, 256), (.dbkTopPos, 0, 131), (.dbkBasePos, 0, 130), (.dbkLiveCount, 0, 1), (.dbkStatusNvOff, 0, 0)] up with
    dbk := { store := [(5, some drec), (130, some drec)], buffer := [drec] } }

theorem witness_RecordsReachTheStoreInOrder :
    shaped store = true ∧ store.rd .dbkStatusNvOff = 0 ∧ store.rd .dbkNslotCount = 256 ∧ store.rd .dbkLiveCount < 65536
    ∧ store.dbk.buffer = drec :: [] ∧ 8 ≤ store.rd .dbkNslotCount ∧ store.rd .dbkTopPos < store.rd .dbkNslotCount ∧ (run .daybookProgramComplete store).rd .dbkTopPos = 132
    ∧ up.dbk.buffer = [] ∧ 5 / 128 = 0 ∧ store.slotLive 5 = false ∧ store.slotLive 130 = true
    ∧ (run .sectorEraseComplete store).dbk.store.map (·.1) = [130]
    ∧ ((run .sectorEraseComplete (run .sectorEraseComplete store)).dbk.store.map (·.1)) = [130] := by decide +kernel

/-- The view of pitch 63, of pitch 0 and of the AUDITOR. -/
def viewed (w : View) : State := { store with dbk := { store.dbk with views := (List.replicate 63 {}) ++ [w] ++ List.replicate 2 {} } }

theorem witness_ViewsReadForward :
    shaped store = true ∧ serves store = true ∧ viewOwner 63 63#7 = true ∧ viewOwner 0 0#7 = true ∧ viewOwner 65 0x41#7 = true
    ∧ (store.view 63).ready = none ∧ (store.view 63).fetching = none ∧ (store.fromCursor none).map (·.pos) = [130, 131]
    ∧ (store.fromCursor (store.view 0).cursor).all (fun x => !viewShows 0 x) = true
    ∧ ((store.fromCursor none).find? (viewShows 63)).map (fun x => (x.pos, x.buffered)) = some (130, false)
    ∧ (let s := viewed { cursor := some 131 }
       ((s.fromCursor (s.view 63).cursor).find? (viewShows 63)).map (fun x => (x.pos, x.buffered, x.what)) = some (131, true, some drec) ∧ shaped s = true)
    ∧ ((viewed { fetching := some 130 }).view 63).fetching = some 130
    ∧ (let s := viewed { ready := some 130 }
       (s.view 63).ready = some 130 ∧ ((s.fromCursor (s.view 63).cursor).find? (fun x => x.pos == 130)).map (·.what) = some (some drec)
       ∧ (run (.viewNext 63#7 63) s).rd .dbkVDataBytes (8 * 63) = 0x1201 % 65536 + getLe (drec.bytes 1) 2 2 * 65536) := by decide +kernel

/-- An order that clears one slot from base 130 (R392), signed. -/
def clearOrder : List Byte :=
  [0x43#8, 0x4B#8, 0x42#8, 0x44#8, 1] ++ List.replicate 31 0#8 ++ leBytes 4 130 ++ leBytes 4 1 ++ List.replicate 20 0#8 ++ keyOne
  ++ signedBy 0xe0fc19f9638886ad5d2ecad56a3ea0b120050f5a0ad1c52fe5052777a7cf9f5eb74b51d89fcc6a5aa3b2b8f34c270db6 ++ List.replicate 64 0#8

/-- An order submitted, with the key that signed it in the active slot. -/
def ordered : State :=
  { put [(.dbkClrStatState, 0, 1)] store with fuse := { store.fuse with programmed := 1, keyHash := [sha384 keyOne] } }

/-- An order of no bytes but zeros fails its first check; COUNT 1 moves BASE on by one. -/
theorem witness_ClearingOrdersMoveTheBase :
    serves store = true ∧ (1#32).getLsbD 0 = true ∧ (2#32).getLsbD 0 = false ∧ store.rd .dbkClrStatState ≠ 1 ∧ store.dbk.clear = none
    ∧ (put [(.dbkStatusNvOff, 0, 1)] store).rd .dbkStatusNvOff = 1 ∧ store.rd .dbkStatusNvOff = 0
    ∧ (put [(.dbkClrStatState, 0, 1)] store).rd .dbkClrStatState = 1 ∧ (List.replicate 320 0#8).length = 320
    ∧ (put [(.dbkClrStatState, 0, 1)] store).orderErr (List.replicate 320 0#8) = some 1
    ∧ clearOrder.length = 320 ∧ ordered.rd .dbkClrStatState = 1 ∧ ordered.orderErr clearOrder = none
    ∧ fitRead 320 (.ok []) = .error ∧ (run (.clearOrderChecked .error) ordered).rd .dbkClrStatErr = 8
    ∧ (let s : State := { store with dbk := { store.dbk with clear := some ⟨1, 131, 7⟩ } }
       s.dbk.clear ≠ none ∧ (run (.clearOrderSubmit operatorId 1#32) s).rd .dbkClrStatErr = 9)
    ∧ (let s : State := { store with dbk := { store.dbk with clear := some ⟨1, 131, 7⟩ } }
       shaped s = true ∧ s.dbk.clear = some ⟨1, 131, 7⟩ ∧ s.rd .dbkLiveCount ≤ 65536 ∧ 131 < 2 ^ 17
       ∧ (run .clearCommit s).rd .dbkBasePos = 131 ∧ (run .clearCommit s).rd .dbkLiveCount = 1) := by decide +kernel

/-! ### The spec's own numbers (each test names the worked example or rule it is taken from) -/

def ascii (s : String) : List Byte := s.toList.map (fun c => BitVec.ofNat 8 c.toNat)

/-- Chapter 3, three queries in a row: F 192, INTAKE_DEPTH 4, six Spread stalls awake and two in Nap; chain 0 of stall 8 with 40
tokens in flight. INTAKE_USED 17 is one request of cost 1 sixteen times and the first query's; the model counts requests. -/
def pt5 : State :=
  let s := put [(.tollEnergyDepthUj, 0, 4000), (.tollEnergyDrainMw, 0, 325000), (.tollEnergyLevelNj, 0, 2100000), (.tollPitCfgIntakeDepth, 0, 4),
    (.tollPitCfgChainTokens, 0, 48), (.tollPitCfgChainSessions, 0, 16), (.tollMdlLoFactor, 0, 192), (.tollMdlHiEnergyNj, 0, 65625), (.tollMdlLoModel, 1, 6), (.tollMdlLoValid, 1, 1),
    (.tollMdlLoStream, 1, 1), (.tollMdlHiEnergyNj, 1, 2000), (.tollMdlLoFactor, 1, 256), (.pitSqSizeEntries, 0, 64), (.pitVqSizeEntries, 0, 64)] toll
  let s := put ((List.range 8).flatMap (fun i => [(Fld.stlRoleAlloc, i, 1), (Fld.stlRoleRole, i, 1)])) s
  let s := put [(.stlRoleAlloc, 8, 1), (.stlRoleRole, 8, 2)] s
  { s with gens := full.gens, chr := full.chr
           stalls := List.replicate 6 {} ++ List.replicate 2 { power := .nap } ++ List.replicate 56 {}
           entries := [{ pitch := 0, session := 20 }, { pitch := 0, session := 21 }, { pitch := 0, session := 22 }]
           chains := [{ pitch := 0, idx := 0, stalls := [8], active := true }], streams := [{ strm with session := 22 }]
           adms := (List.range 17).map (fun k => { adm with tag := 100 + k }) ++ [{ adm with session := 22, tag := 200, kind := 2, model := 6, serving := 6, cost := 40, chain := some 0 }] }

/-- Cycle 1,000: ADMIT, L 3,543,750. -/
theorem test_tollQuery_admits : let t := run (.tollQuery 0 20 1 0 5 22) pt5
    t.toll = ⟨true, 0, 0⟩ ∧ t.rd .tollEnergyLevelNj = 3543750 := by decide +kernel

/-- Cycle 1,002: STREAM_TOKEN of cost 3 on the chain, 43 tokens; a cost of 9 would pass CHAIN_TOKENS 48. -/
theorem test_tollQuery_chain : (run (.tollQuery 0 22 1 2 6 3) (put [(.tollEnergyLevelNj, 0, 3543750)] pt5)).rd .tollEnergyLevelNj = 3549750
    ∧ (run (.tollQuery 0 22 1 2 6 8) pt5).toll.ans = 0 ∧ (run (.tollQuery 0 22 1 2 6 9) pt5).toll.ans = 1 := by decide +kernel

/-- The tick after: 325,000 mW take 40,625 nJ. -/
theorem test_energyDrainTick : (run .energyDrainTick (put [(.tollEnergyLevelNj, 0, 3549750)] pt5)).rd .tollEnergyLevelNj = 3509125 := by decide +kernel

/-- Chapter 4, " lantern": its merges, found by any probe order, cut it to 304 and 306. -/
def lantern : TextTable :=
  { id := 0, vocab := 307, digitRun := 3, spaceLead := true
    classes := [(0, 6), (0x0A, 4), (0x20, 3), (0x21, 5), (0x30, 2), (0x3A, 5), (0x61, 0), (0x7B, 6), (0xE9, 0)]
    toks := (List.range 256).map (fun k => ⟨[BitVec.ofNat 8 k], false⟩) ++ List.replicate 44 ⟨[], true⟩
      ++ ["an", "er", " l", "ter", " lan", "nter", "tern"].map (fun x => ⟨ascii x, false⟩)
    results := [300, 301, 302, 303, 304, 305, 306]
    hash := [] }

/-- The same with the merges in the place their hash gives, in 16 slots. -/
def lanternTable : TextTable :=
  let es : List (Nat × Nat) := [(0x61, 0x6E), (0x65, 0x72), (0x20, 0x6C), (0x74, 301), (302, 300), (0x6E, 303), (303, 0x6E)]
  { lantern with hash := (es.zipIdx).foldl (fun h e =>
      let at0 := (((e.1.1 * 0x9E3779B1) % 2 ^ 32) ^^^ ((e.1.2 * 0x85EBCA77) % 2 ^ 32)) / 2 ^ 28
      match (List.range 16).find? (fun k => !((h.getD ((at0 + k) % 16) ⟨0, 0, 0, true⟩).valid)) with
      | some k => h.set ((at0 + k) % 16) ⟨e.1.1, e.1.2, e.2, true⟩
      | none => h) (List.replicate 16 ⟨0, 0, 0, false⟩) }

theorem test_cut_lantern : lanternTable.cut (ascii " lantern") = [304, 306] := by decide +kernel

/-- Chapter 4, 19 bytes in two segments: the nine words. -/
theorem test_words_of_19_bytes :
    let b : List Byte := [0x63, 0x61, 0x66, 0xC3, 0xA9, 0x20, 0x32, 0x30, 0x32, 0x34, 0x21, 0x80, 0x0A, 0x20, 0x20, 0x6F, 0x6B, 0xE2, 0x82]
    ((CutCtx.finish lanternTable (CutCtx.feed lanternTable {} b)).words.map (fun w => w.toks)) =
      [[0x63, 0x61, 0x66, 0xC3, 0xA9], [0x20, 0x32, 0x30, 0x32], [0x34], [0x21], [128], [0x0A, 0x20], [0x20, 0x6F, 0x6B], [226], [130]] := by decide +kernel

/-- Chapter 5: the stop string over three tokens completes in the third; 5 bytes are released, STOP_TOKEN 2, STOP_BYTE 0. -/
theorem test_pass_stop :
    let stops : List SieveEnt := [{ syms := toNats (ascii "\n\nUser:") }, { syms := toNats (ascii "</s>") }]
    let a := runPass stops [] [] (fun k => ascii (["Done.", "\n\nUser", ": next"].getD k "")) strm [0, 1, 2] false
    a.res.fin = some (.stop 2 0 5) := by decide +kernel

/-- Chapter 6: 6 / 1,200, and the logistic of −0.5. -/
theorem test_grader_numbers : f32Div (f32OfInt 6) (f32OfInt 1200) = 0x3BA3D70A#32 ∧ f32Logistic 0xBF000000#32 = 0x3EC14D03#32 := by decide +kernel

/-- Chapter 7: rne(14,167,296, 9) = 27,670, a tie kept at the even quotient; the BF16 words split. -/
theorem test_group_numbers : rneInt 14167296 9 = 27670 ∧ splitBf16 0x3C84 = (132, -6) ∧ splitBf16 0x3D01 = (129, -5)
    ∧ shiftContribution (832 * (129 * 132)) (14 - (-5) - (-6) - 16) = (27670, false) := by decide +kernel

/-- Chapter 9: the output of Q-acc 23,296 under the committed fields. -/
theorem test_requant : (requant 23296 ⟨0xF4898D60, 41, 0, 0⟩ 3 10).1 = 53 := by decide +kernel

/-- Chapter 10: the bucket of session 0x100 with LOG2B 18. -/
theorem test_bucket : bucketOf 0x100 18 = 56806 := by decide +kernel

/-- Chapter 17: GLB_ID and GLB_HP_CLK at 1,555 MHz; 11,100 ns count 17,261 cycles. -/
theorem test_identity : let s := put [(.glbHpClkMhz, 0, 1555), (.glbHpClkTailCyc, 0, 12 * 1555)] up
    s.wordAt operatorId 0 = 0x02B00064 ∧ s.wordAt operatorId 4 = 0x48E40613 ∧ s.hpCycles 10000 = 15550 ∧ s.hpCycles 11100 = 17261 := by decide +kernel

/-- Chapter 17: ST26 retired by unit 2, cause 1 reads 0x0002_0102 and bit 26 of GLB_STL_OUT_LO. -/
theorem test_retired_stall : let s := put [(.stlFaultUnit, 26, 2), (.stlFaultCause, 26, 1), (.stlFaultRetired, 26, 1)] up
    s.wordAt operatorId 0x2A0040 = 0x00020102 ∧ s.wordAt operatorId 0x8004 = 0x04000000 := by decide +kernel

/-- Chapter 15: the slot that a power failure writes has SEQ one higher, CLEAN 1, and the counters as they stand. -/
theorem test_powerFail_slot : let s : State := { put [(.wchPcycCount, 0, 0x419), (.wchSlotSeqSeq, 0, 0x2A0F)] up with
      clk := { optime := 0x1234567890 }, dbk := { regionLen := 8192, slot := some ⟨0, 0, false, 0x2A0F⟩ }, pwr := { phase := .done } }
    (run .powerFail s).dbk.slot = some ⟨0x1234567890, 0x419, true, 0x2A10⟩ := by decide +kernel

end Sys2Proof.Tests
end

section
/-! The Toll port and the empty queue: what an answer on the port leaves, when row 4 of Table 3-3 decides a query, and
what a step does with nothing commanded. -/

namespace Sys2Proof.Machine

/-! ### A step on an empty queue -/

theorem step_of_pending_nil {s : State} (h : s.pending = []) : step s = .next s.idle := by
  unfold step
  rw [h]

/-! ### An answer on the port (R65, Table 3-5) -/

@[simp] theorem State.answer_toll (s : State) (p ans reason : Nat) :
    (s.answer p ans reason).toll = { av := true, ans, reason } := by
  unfold State.answer
  split <;> rfl

/-- An answer writes the port's outputs and the pitch's Toll counts, and nothing else. -/
theorem State.frame_answer (s : State) (p ans reason : Nat) :
    s.Frame 0x4 0x1f8000000000000000000000000000000000000 (s.answer p ans reason) :=
  State.answer_frame rfl rfl (State.Frame.refl s)

@[simp] theorem State.answer_adms (s : State) (p ans reason : Nat) : (s.answer p ans reason).adms = s.adms :=
  (s.frame_answer p ans reason).part .adms rfl

@[simp] theorem State.answer_revives (s : State) (p ans reason : Nat) : (s.answer p ans reason).revives = s.revives :=
  (s.frame_answer p ans reason).part .revives rfl

@[simp] theorem State.answer_clk (s : State) (p ans reason : Nat) : (s.answer p ans reason).clk = s.clk :=
  (s.frame_answer p ans reason).part .clk rfl

@[simp] theorem State.answer_rd_level (s : State) (p ans reason : Nat) :
    (s.answer p ans reason).rd .tollEnergyLevelNj = s.rd .tollEnergyLevelNj :=
  (s.frame_answer p ans reason).reg .tollEnergyLevelNj rfl 0

/-- The level L is the register's nJ and what the clocks keep beside it, so an answer leaves it. -/
@[simp] theorem State.answer_level8 (s : State) (p ans reason : Nat) : (s.answer p ans reason).level8 = s.level8 := by
  simp [State.level8]

/-! ### Rows 1 to 4 of Table 3-3 (R69) -/

/-- Rows 1 to 3 of Table 3-3 let a query pass: its pitch is on, its pitch, session and tag hold no live admission, and it
hits no quarantine entry. -/
structure State.PassesEarlyRows (s : State) (q : Query) : Prop where
  enabled : s.rd .pitStatusEnabled q.pitch ≠ 0
  notDraining : (s.pit q.pitch).draining = false
  notExcluded : s.fab.excluded.contains q.pitch = false
  noAdmission : ∀ a ∈ s.adms, ¬(a.pitch = q.pitch ∧ a.session = q.session ∧ a.tag = q.tag)
  notQuarantined : s.quarHit q.pitch q.session = false

theorem State.PassesEarlyRows.any_adms {s : State} {q : Query} (h : s.PassesEarlyRows q) :
    s.adms.any (fun a => a.pitch == q.pitch && a.session == q.session && a.tag == q.tag) = false := by
  rw [List.any_eq_false]
  intro a ha hit
  simp only [Bool.and_eq_true, beq_iff_eq] at hit
  obtain ⟨⟨hpitch, hsession⟩, htag⟩ := hit
  exact h.noAdmission a ha ⟨hpitch, hsession, htag⟩

/-- Row 4: a query that rows 1 to 3 pass and that its pitch has no capacity for is refused with CAPACITY (9). -/
theorem State.decideQuery_of_noCapacity {s : State} {q : Query} (h : s.PassesEarlyRows q) (hc : s.noCapacity q = true) :
    s.decideQuery q = .refuse 9 := by
  have row1 : (s.rd .pitStatusEnabled q.pitch == 0 || (s.pit q.pitch).draining || s.fab.excluded.contains q.pitch) = false := by
    rw [beq_eq_false_iff_ne.2 h.enabled, h.notDraining, h.notExcluded]
    rfl
  simp only [State.decideQuery, row1, h.any_adms, h.notQuarantined, hc, Bool.false_eq_true, if_false, if_true]

theorem State.charge_eq (s : State) (i : Nat) (q : Query) :
    s.charge i q = s.rd .tollMdlHiEnergyNj i * (if q.kind = 0 ∨ q.kind = 2 then max q.cost 1 else 1) := by
  simp [State.charge]

/-- A charge above the depth is beyond the pitch's capacity (R74). -/
theorem State.noCapacity_of_charge {s : State} {q : Query} {i : Nat} (hs : s.serving? q.pitch q.model = some i)
    (hd : s.rd .tollEnergyDepthUj * 1000 < s.charge i q) : s.noCapacity q = true := by
  simp [State.noCapacity, hs, hd]

/-! ### The query -/

theorem exec_tollQuery (pitch : Fin 64) (session : Session) (tag : Tag) (kind : BitVec 2) (model : BitVec 12) (cost : BitVec 16)
    (s : State) : exec (.tollQuery pitch session tag kind model cost) s
      = .next (tollQueryStep ⟨pitch, session.toNat, tag.toNat, kind.toNat, model.toNat, cost.toNat⟩ s) := rfl

theorem tollQueryStep_of_live {s : State} (h : s.tollLive = true) (q : Query) :
    tollQueryStep q s = s.applyDecision q (s.decideQuery q) := if_pos h

/-- A refusal is the answer alone. -/
theorem tollQueryStep_of_refuse {s : State} {q : Query} {r : Nat} (h : s.tollLive = true) (hd : s.decideQuery q = .refuse r) :
    tollQueryStep q s = s.answer q.pitch 2 r := by
  rw [tollQueryStep_of_live h, hd]
  rfl

end Sys2Proof.Machine

namespace Sys2Proof.Settled

open Sys2Proof Sys2Proof.Machine

/-- Settles O2: with no command at the front, the step is the model's idle cycle. -/
theorem emptyQueueRunsOneCycle : Obligations.EmptyQueueRunsOneCycle :=
  fun _ h => step_of_pending_nil h

/-- Settles O9: row 4 of Table 3-3 decides such a query, and a refusal only writes the answer and its counts. -/
theorem queryAboveTheDepthIsRefused : Obligations.QueryAboveTheDepthIsRefused := by
  intro s pitch session tag kind model cost i hlive hon hdrain hexcl hadms hquar hserving hdepth
  let q : Query := ⟨pitch, session.toNat, tag.toNat, kind.toNat, model.toNat, cost.toNat⟩
  have hpass : s.PassesEarlyRows q := ⟨hon, hdrain, hexcl, hadms, hquar⟩
  have hcharge : s.rd .tollEnergyDepthUj * 1000 < s.charge i q := by
    rw [State.charge_eq]
    exact hdepth
  have hrefuse : s.decideQuery q = .refuse 9 :=
    State.decideQuery_of_noCapacity hpass (State.noCapacity_of_charge hserving hcharge)
  refine ⟨s.answer q.pitch 2 9, ?_, by simp⟩
  rw [exec_tollQuery, tollQueryStep_of_refuse hlive hrefuse]

end Sys2Proof.Settled
end

section
/-! Passes and resolves of STREAM_TOKENs: what a lookup finds after an update, when it is a descriptor's turn, and what
its arrival pass and its resolve then leave (R58, R115, R116). -/

namespace Sys2Proof.Machine

variable {s t : State} {p se tg : Nat} {r : Req} {x : Stream}

/-! ### Lookups of requests and streams -/

theorem State.isOf_of_req? (h : s.req? p se tg = some r) : r.pitch = p ∧ r.session = se ∧ r.tag = tg := by
  have hof : r.isOf p se tg = true := List.find?_some (p := fun q : Req => q.isOf p se tg) h
  simpa [Req.isOf, and_assoc] using hof

theorem State.key_of_stream? (h : s.stream? p se = some x) : x.pitch = p ∧ x.session = se := by
  simpa using List.find?_some h

/-- A request found is found again, as the map left it, after a map that keeps pitch, session and tag. -/
theorem State.req?_of_map {g : Req → Req} (ht : t.reqs = s.reqs.map g) (hg : ∀ q, (g q).isOf p se tg = q.isOf p se tg)
    (h : s.req? p se tg = some r) : t.req? p se tg = some (g r) := by
  have hkey : (fun q : Req => q.isOf p se tg) ∘ g = fun q => q.isOf p se tg := funext hg
  rw [State.req?, ht, List.find?_map, hkey, show s.reqs.find? (fun q => q.isOf p se tg) = some r from h, Option.map_some]

theorem State.req?_updReq {f : Req → Req} (hf : ∀ q, (f q).isOf p se tg = q.isOf p se tg) (h : s.req? p se tg = some r) :
    (s.updReq p se tg f).req? p se tg = some (f r) := by
  obtain ⟨hpitch, hsession, htag⟩ := State.isOf_of_req? h
  have hof : r.isOf p se tg = true := by simp [Req.isOf, hpitch, hsession, htag]
  refine (State.req?_of_map (s.updReq_reqs p se tg f) (fun q => ?_) h).trans (by rw [if_pos hof])
  split
  · exact hf q
  · rfl

/-- What CONSTRAINTs are answered against is no matter of another request. -/
theorem State.req?_snapCons {before : Req → Bool} (hk : r.kind ≠ 3) (h : s.req? p se tg = some r) :
    (s.snapCons x before).req? p se tg = some r := by
  refine (State.req?_of_map (t := s.snapCons x before) rfl (fun q => ?_) h).trans ?_
  · split <;> rfl
  · simp [hk]

theorem State.stream?_updStream {f : Stream → Stream} (hf : ∀ y, (f y).pitch = y.pitch ∧ (f y).session = y.session)
    (h : s.stream? p se = some x) : (s.updStream p se f).stream? p se = some (f x) := by
  have hkey : (fun y : Stream => y.pitch == p && y.session == se) ∘ (fun y => if y.pitch == p && y.session == se then f y else y)
      = fun y => y.pitch == p && y.session == se := by
    funext y
    dsimp only [Function.comp_apply]
    split
    · rw [(hf y).1, (hf y).2]
    · rfl
  obtain ⟨hpitch, hsession⟩ := State.key_of_stream? h
  have hx : (x.pitch == p && x.session == se) = true := by simp [hpitch, hsession]
  rw [State.stream?, State.updStream_streams, List.find?_map, hkey,
    show s.streams.find? (fun y => y.pitch == p && y.session == se) = some x from h, Option.map_some, if_pos hx]

/-! ### Counters of a stall that may be missing -/

@[simp] theorem State.bumpAt_reqs (s : State) (f : Fld) (o : Option Nat) (n : Nat) : (s.bumpAt f o n).reqs = s.reqs := by
  cases o <;> rfl

@[simp] theorem State.bumpAt_streams (s : State) (f : Fld) (o : Option Nat) (n : Nat) : (s.bumpAt f o n).streams = s.streams := by
  cases o <;> rfl

@[simp] theorem State.bumpAt_toks (s : State) (f : Fld) (o : Option Nat) (n : Nat) : (s.bumpAt f o n).toks = s.toks := by
  cases o <;> rfl

theorem State.bumpAt_rd_other {f g : Fld} {o : Option Nat} {n j : Nat} (h : ¬(f = g ∧ o = some j)) :
    (s.bumpAt f o n).rd g j = s.rd g j := by
  cases o with
  | none => rfl
  | some i => exact State.rd_wr_other fun ⟨hf, hi⟩ => h ⟨hf, congrArg some hi⟩

/-! ### What an update leaves -/

/-- A frame says what is left of the parts it does not name. -/
theorem State.Leaves.of_frame {m n : Nat} {parts : List Part} {c : Fld → Nat → Prop} (h : s.Frame m n t)
    (hparts : ∀ a : Part, m.testBit a.ctorIdx = true → a ∈ parts) (hreg : ∀ f i, ¬c f i → t.rd f i = s.rd f i) :
    s.Leaves t parts c where
  part a ha := h.part a (Bool.eq_false_iff.2 fun hb => ha (hparts a hb))
  reg := hreg

theorem State.updReq_leaves (s : State) (p se tg : Nat) (f : Req → Req) (c : Fld → Nat → Prop) :
    s.Leaves (s.updReq p se tg f) [.reqs] c :=
  .of_frame (State.updReq_frame (m := 0x200) (r := 0) rfl rfl (.refl s)) (by rintro ⟨⟩ <;> decide) (fun _ _ _ => rfl)

theorem State.updStream_updReq_leaves (s : State) (p se tg : Nat) (f : Stream → Stream) (g : Req → Req) (c : Fld → Nat → Prop) :
    s.Leaves ((s.updStream p se f).updReq p se tg g) [.reqs, .streams] c :=
  .of_frame (State.updReq_frame (m := 0xa00) (r := 0) rfl rfl (State.updStream_frame rfl rfl (.refl s))) (by rintro ⟨⟩ <;> decide)
    (fun _ _ _ => rfl)

/-! ### The turn of a descriptor (R58) -/

/-- A STREAM_TOKEN that has arrived in an open stream and that nothing has ended. -/
structure State.TokenInStream (s : State) (p se tg : Nat) (r : Req) (x : Stream) : Prop where
  req : s.req? p se tg = some r
  kind : r.kind = 2
  arrived : r.seq ≠ 0
  sound : r.failed = none
  live : r.afterEnd = none
  stream : s.stream? p se = some x

/-- Every earlier descriptor of the stream has what `done` asks of it, or an error of its own. -/
theorem State.earlierAll_iff {α : Type} (done : Req → Option α) (h : s.TokenInStream p se tg r x) :
    s.earlierAll r (fun q => (done q).isSome || q.failed.isSome) = true
      ↔ ∀ q ∈ s.arrived p se, q.before r = true → done q ≠ none ∨ q.failed ≠ none := by
  obtain ⟨hpitch, hsession, -⟩ := State.isOf_of_req? h.req
  rw [State.earlierAll, List.all_eq_true, hpitch, hsession]
  refine forall₂_congr fun q _ => ?_
  cases q.before r <;> simp [Option.isSome_iff_ne_none]

theorem State.earlierAll_eq_false {α : Type} {done : Req → Option α} (h : s.TokenInStream p se tg r x)
    (hq : ∃ q ∈ s.arrived p se, q.before r = true ∧ done q = none ∧ q.failed = none) :
    s.earlierAll r (fun q => (done q).isSome || q.failed.isSome) = false := by
  obtain ⟨q, hmem, hbefore, hdone, hsound⟩ := hq
  refine Bool.eq_false_iff.2 fun hall => ?_
  rcases (State.earlierAll_iff done h).1 hall q hmem hbefore with hn | hn
  · exact hn hdone
  · exact hn hsound

/-! ### The arrival pass (R115, R116) -/

theorem exec_arrivalPassComplete_of_passStep {pitch : Fin 64} {session : Session} {tag : Tag}
    (h : passStep pitch session.toNat tag.toNat s = t) : exec (.arrivalPassComplete pitch session tag) s = .next t := by
  rw [← h]
  rfl

/-- The Sieve's run over a descriptor's tokens, from where the passes of its stream stand. -/
def State.passRun (s : State) (r : Req) (x : Stream) : PassAcc :=
  runPass (s.streamEnts x.pitch x.serving x.epoch 2) (s.streamEnts x.pitch x.serving x.epoch 3)
    (s.streamEnts x.pitch x.serving x.epoch 4) (fun k => ((s.outTable x.pitch x.epoch).map (·.tokBytes k)).getD []) x r.toks
    (Desc.endBit r.desc)

theorem passStep_of_turn (h : s.TokenInStream p se tg r x) (hpass : r.pass = none) (hwait : s.tokTableWait r = false)
    (hturn : ∀ q ∈ s.arrived p se, q.before r = true → q.pass ≠ none ∨ q.failed ≠ none) :
    passStep p se tg s = if x.passEnd == .open && x.finEnd == .open then s.passOpen r x
      else s.updReq p se tg (fun q => { q with pass := some x.noPass }) := by
  have hearlier := (State.earlierAll_iff (·.pass) h).2 hturn
  simp [passStep, h.req, h.kind, h.arrived, h.sound, h.live, h.stream, hpass, hwait, hearlier]

theorem passStep_of_notTurn (h : s.TokenInStream p se tg r x)
    (hout : r.pass ≠ none ∨ s.tokTableWait r = true
      ∨ ∃ q ∈ s.arrived p se, q.before r = true ∧ q.pass = none ∧ q.failed = none) :
    passStep p se tg s = s := by
  rcases hout with hpass | hwait | hearlier
  · simp [passStep, h.req, Option.isSome_iff_ne_none, hpass]
  · simp [passStep, h.req, h.live, hwait]
  · simp [passStep, h.req, State.earlierAll_eq_false h hearlier]

theorem State.passOpen_reqs (s : State) (r : Req) (x : Stream) :
    (s.passOpen r x).reqs = ((s.snapCons x (fun q => q.before r)).updReq r.pitch r.session r.tag
      (fun q => { q with pass := some (s.passRun r x).res })).reqs := by
  simp [State.passOpen, State.passRun]

theorem State.passOpen_req? (h : s.TokenInStream p se tg r x) :
    (s.passOpen r x).req? p se tg = some { r with pass := some (s.passRun r x).res } := by
  obtain ⟨rfl, rfl, rfl⟩ := State.isOf_of_req? h.req
  have hsnap : (s.snapCons x (fun q => q.before r)).req? r.pitch r.session r.tag = some r :=
    State.req?_snapCons (by simp [h.kind]) h.req
  rw [State.req?, State.passOpen_reqs]
  exact State.req?_updReq (fun _ => rfl) hsnap

/-- How a descriptor's pass leaves its stream: ended by its STOP or BLOCK, closed by its END bit, or open. -/
def passEndOf (a : PassAcc) (endBit : Bool) : StreamEnd :=
  match a.res.fin with
  | some (.stop _ _ _) => .stop
  | some (.block _) => .block
  | none => if endBit then .closed else .open

theorem passEndOf_eq_open {a : PassAcc} {endBit : Bool} : passEndOf a endBit = .open ↔ a.res.fin = none ∧ endBit = false := by
  unfold passEndOf
  split <;> simp_all

/-- The stream stands where its descriptor's pass ends. -/
def State.passedStream (s : State) (r : Req) (x y : Stream) : Stream :=
  let a := s.passRun r x
  { y with ids := a.res.ids, bytes := a.res.bytes, passBack := lastN a.res.hold a.res.pend, passEnd := passEndOf a (Desc.endBit r.desc) }

theorem State.passOpen_streams (s : State) (r : Req) (x : Stream) :
    (s.passOpen r x).streams = (s.updStream x.pitch x.session (s.passedStream r x)).streams := by
  simp only [State.passOpen, State.bumpAt_streams, State.updReq_streams]
  rfl

theorem State.passOpen_stream? (h : s.TokenInStream p se tg r x) :
    (s.passOpen r x).stream? p se = some (s.passedStream r x x) := by
  obtain ⟨rfl, rfl⟩ := State.key_of_stream? h.stream
  rw [State.stream?, State.passOpen_streams]
  exact State.stream?_updStream (fun _ => ⟨rfl, rfl⟩) h.stream

theorem State.passOpen_toks_length (s : State) (r : Req) (x : Stream) :
    (s.passOpen r x).toks.length = s.toks.length + (s.passRun r x).res.examined := by
  simp [State.passOpen, State.passRun, State.snapCons]

/-- Beside the requests, the streams and the tokens at the stages, a pass writes the Sieve's counts of the chain's last
stall. -/
theorem State.passOpen_leaves (s : State) (r : Req) (x : Stream) :
    s.Leaves (s.passOpen r x) [.reqs, .streams, .toks] (fun f i => f ∈ [.svePassesCount, .sveStopsCount, .sveBannedCount, .sveForceDevCount]
      ∧ s.lastStage x.pitch x.chain = some i) := by
  refine .of_frame (State.passOpen_frame rfl rfl (.refl s) (m := 0x1a00)
      (r := 0x1700000000000000000000000000000000000000000000000000000000000000000000000000000000000000000000000000))
    (by rintro ⟨⟩ <;> decide) (fun f i hfi => ?_)
  have hother : ∀ g ∈ [Fld.svePassesCount, .sveStopsCount, .sveBannedCount, .sveForceDevCount],
      ¬(g = f ∧ s.lastStage x.pitch x.chain = some i) := fun g hg ⟨hgf, hi⟩ => hfi ⟨hgf ▸ hg, hi⟩
  simp only [List.forall_mem_cons] at hother
  obtain ⟨hpasses, hstops, hbanned, hdev, -⟩ := hother
  exact (State.bumpAt_rd_other hdev).trans <| (State.bumpAt_rd_other hbanned).trans <|
    (State.bumpAt_rd_other hstops).trans <| (State.bumpAt_rd_other hpasses).trans rfl

/-! ### The resolve (R116, Table 4-6) -/

theorem exec_streamResolve_of_resolveStep {pitch : Fin 64} {session : Session} {tag : Tag}
    (h : resolveStep pitch session.toNat tag.toNat s = t) : exec (.streamResolve pitch session tag) s = .next t := by
  rw [← h]
  rfl

/-- Scores of a descriptor's examined tokens, after those the stream has scored. -/
def State.resolveScores (s : State) (r : Req) (x : Stream) (ps : PassRes) (m : ModelObj) : List F32 :=
  scoresOf (s.genAt x.pitch x.epoch) m x.summary x.scored (r.toks.take ps.examined)

/-- What a descriptor of an open stream releases, by its tokens' highest score code and the entry's hold area. -/
def State.resolveResult (s : State) (p : Nat) (r : Req) (x : Stream) (ps : PassRes) (m : ModelObj) : Resolve :=
  holdLimit (holdArea (s.rd .ldgPitCfgSize p))
    (resolveLive x.join r.desc ps (((s.resolveScores r x ps m).map (scoreCode m)).foldl max 0))

/-- The resolve of an open stream's descriptor writes its stream and its request. -/
theorem State.resolveOpen_eq {ps : PassRes} {m : ModelObj} (h : s.TokenInStream p se tg r x) (hm : s.streamModel x = some m) :
    ∃ z : Resolve, s.resolveOpen r x ps
        = (s.updStream p se (fun y => { y with
            join := (s.resolveResult p r x ps m).join, finEnd := (s.resolveResult p r x ps m).fin
            scored := x.scored ++ r.toks.take ps.examined })).updReq p se tg (fun q => { q with resolve := some z })
      ∧ z.code = (s.resolveResult p r x ps m).code ∧ z.out = (s.resolveResult p r x ps m).out
      ∧ z.fin = (s.resolveResult p r x ps m).fin
      ∧ z.scored = (r.toks.take ps.examined).length ∧ z.score = (s.resolveScores r x ps m).getLastD 0#32 := by
  obtain ⟨rfl, rfl, rfl⟩ := State.isOf_of_req? h.req
  obtain ⟨hpitch, hsession⟩ := State.key_of_stream? h.stream
  unfold State.resolveOpen
  rw [hm, ← hpitch, ← hsession]
  exact ⟨_, rfl, rfl, rfl, rfl, rfl, rfl⟩

theorem resolveStep_of_open {ps : PassRes} (h : s.TokenInStream p se tg r x) (hpass : r.pass = some ps) (hres : r.resolve = none)
    (hturn : ∀ q ∈ s.arrived p se, q.before r = true → q.resolve ≠ none ∨ q.failed ≠ none)
    (hfin : x.finEnd = .open) (hserved : ps.examined ≤ r.served) (hwait : s.tokTableWait r = false) :
    resolveStep p se tg s = s.resolveOpen r x ps := by
  have hearlier := (State.earlierAll_iff (·.resolve) h).2 hturn
  simp [resolveStep, h.req, h.kind, h.sound, h.live, h.stream, hpass, hres, hearlier, hfin, hwait, Nat.not_lt.2 hserved]

/-- After STOP or BLOCK a descriptor resolves to that end's code, served or not. -/
theorem resolveStep_of_ended {ps : PassRes} {c : Nat} (h : s.TokenInStream p se tg r x) (hpass : r.pass = some ps)
    (hres : r.resolve = none) (hturn : ∀ q ∈ s.arrived p se, q.before r = true → q.resolve ≠ none ∨ q.failed ≠ none)
    (hc : x.finEnd.lateCode = some c) :
    resolveStep p se tg s = s.updReq p se tg (fun q => { q with resolve := some (resolveEnded c), afterEnd := some c }) := by
  have hearlier := (State.earlierAll_iff (·.resolve) h).2 hturn
  cases hfin : x.finEnd with
  | stop | block =>
    rw [hfin] at hc
    obtain rfl := Option.some.inj hc
    simp [resolveStep, h.req, h.kind, h.sound, h.live, h.stream, hpass, hres, hearlier, hfin]
  | _ =>
    rw [hfin] at hc
    cases hc

theorem resolveStep_of_notTurn (h : s.TokenInStream p se tg r x)
    (hout : r.pass = none ∨ r.resolve ≠ none ∨ (∃ ps, r.pass = some ps ∧ x.finEnd = .open ∧ r.served < ps.examined)
      ∨ ∃ q ∈ s.arrived p se, q.before r = true ∧ q.resolve = none ∧ q.failed = none) :
    resolveStep p se tg s = s := by
  cases hpass : r.pass with
  | none => simp [resolveStep, h.req, hpass]
  | some ps =>
    rcases hout with hnone | hres | ⟨ps', hps, hfin, hserved⟩ | hearlier
    · simp [hpass] at hnone
    · obtain ⟨z, hz⟩ := Option.ne_none_iff_exists'.1 hres
      simp [resolveStep, h.req, hpass, hz]
    · obtain rfl : ps = ps' := Option.some.inj (hpass.symm.trans hps)
      simp [resolveStep, h.req, hpass, h.live, h.stream, hfin, hserved]
    · simp [resolveStep, h.req, hpass, State.earlierAll_eq_false h hearlier]

end Sys2Proof.Machine

namespace Sys2Proof.Settled

open Sys2Proof Sys2Proof.Machine

/-- Settles O27: each step is its turn's work or nothing, and its turn's work is the Sieve's run or the live resolve. -/
theorem passesAndResolvesKeepTheirOrder : Obligations.PassesAndResolvesKeepTheirOrder := by
  intro s p se tg r x hreq hkind harr hsound hlive hstream
  have h : s.TokenInStream p.val se.toNat tg.toNat r x := ⟨hreq, hkind, harr, hsound, hlive, hstream⟩
  obtain ⟨hpitch, -⟩ := State.key_of_stream? hstream
  refine ⟨fun hpass hwait hturn => ?_, fun hout => exec_arrivalPassComplete_of_passStep (passStep_of_notTurn h hout),
    fun ps hpass hres hturn => ?_, fun hout => exec_streamResolve_of_resolveStep (resolveStep_of_notTurn h hout)⟩
  · refine ⟨_, exec_arrivalPassComplete_of_passStep (passStep_of_turn h hpass hwait hturn), fun hpe hfe => ?_, fun hend => ?_⟩
    · have hrun : (x.passEnd == .open && x.finEnd == .open) = true := by simp [hpe, hfe]
      rw [if_pos hrun, ← hpitch]
      rw [← hpitch] at h
      exact ⟨⟨_, State.passOpen_req? h, rfl⟩, ⟨_, State.passOpen_stream? h, rfl, rfl, rfl, passEndOf_eq_open⟩,
        s.passOpen_toks_length r x, s.passOpen_leaves r x⟩
    · have hskip : ¬(x.passEnd == .open && x.finEnd == .open) = true := by
        rw [Bool.and_eq_true, beq_iff_eq, beq_iff_eq]
        rintro ⟨hpe, hfe⟩
        rcases hend with hn | hn
        · exact hn hpe
        · exact hn hfe
      rw [if_neg hskip]
      exact ⟨s.updReq_leaves .., _, _, State.req?_updReq (fun _ => rfl) hreq, rfl, rfl⟩
  · refine ⟨fun m hfin hm hserved hwait => ?_, fun hend => ?_⟩
    · obtain ⟨z, heq, hcode, hout, hzfin, hscored, hscore⟩ := State.resolveOpen_eq (ps := ps) h hm
      have hstep := (resolveStep_of_open h hpass hres hturn hfin hserved hwait).trans heq
      refine ⟨_, exec_streamResolve_of_resolveStep hstep, ?_, ?_, s.updStream_updReq_leaves ..⟩
      · exact ⟨_, z, State.req?_updReq (fun _ => rfl) hreq, rfl, hcode, hout, hzfin, hscored, hscore⟩
      · exact ⟨_, State.stream?_updStream (fun _ => ⟨rfl, rfl⟩) hstream, rfl, rfl, rfl⟩
    · have hlate : x.finEnd.lateCode = some (if x.finEnd = .stop then 4 else 3) := by
        rcases hend with hend | hend <;> rw [hend] <;> rfl
      have hstep := resolveStep_of_ended h hpass hres hturn hlate
      exact ⟨_, _, _, exec_streamResolve_of_resolveStep hstep, State.req?_updReq (fun _ => rfl) hreq, rfl, rfl, rfl, s.updReq_leaves ..⟩

end Sys2Proof.Settled
end
